-- ==== Sys2Proof/Word.lean ====
section
/-!
DEFINITION. The word types of Elern and the sparse map that every indexed collection of the model uses.
Elern is little-endian throughout (00 R2); a register image is a bit vector, an index a natural number.
-/

namespace Sys2Proof

/-- A byte. -/
abbrev Byte := BitVec 8

/-- A 64-bit scalar, address or system word (01 R31). -/
abbrev W64 := BitVec 64

/-- A 1,024-bit vector register (01 R31). -/
abbrev VReg := BitVec 1024

/-- A 128-bit byte-lane mask (01 R31). -/
abbrev MaskReg := BitVec 128

/-- A sparse map: pairs of index and value, indexes strictly rising.  An index that is not listed reads as the
default its owner names. -/
abbrev SMap (β : Type) := List (Nat × β)

end Sys2Proof
end

