-- ==== Sys2Proof/Machine/Map.lean ====
section
/-!
DEFINITION. Operations on sparse maps.  `mput` keeps the indexes strictly rising; `mset` also removes an entry whose
value is the one an unlisted index reads as, so that equal contents are equal lists.
-/

namespace Sys2Proof.Machine

/-- The listed value at an index. -/
def mfind {β : Type} : SMap β → Nat → Option β
  | [], _ => none
  | (k, v) :: t, i => if k = i then some v else mfind t i

/-- The value at an index, with the default of an unlisted one. -/
def mget {β : Type} (d : β) (m : SMap β) (i : Nat) : β := (mfind m i).getD d

/-- Lists a value at an index. -/
def mput {β : Type} : SMap β → Nat → β → SMap β
  | [], i, x => [(i, x)]
  | (k, v) :: t, i, x =>
    if i < k then (i, x) :: (k, v) :: t else if i = k then (i, x) :: t else (k, v) :: mput t i x

/-- Removes every entry of an index. -/
def mdel {β : Type} : SMap β → Nat → SMap β
  | [], _ => []
  | (k, v) :: t, i => if k = i then mdel t i else (k, v) :: mdel t i

/-- Sets an index, keeping the map without entries equal to the default. -/
def mset {β : Type} [DecidableEq β] (d : β) (m : SMap β) (i : Nat) (x : β) : SMap β :=
  if x = d then mdel m i else mput m i x

/-- Changes the value at an index. -/
def mmod {β : Type} (d : β) (m : SMap β) (i : Nat) (f : β → β) : SMap β := mput m i (f (mget d m i))

/-- The indexes of a map rise strictly, and none lies at or below `lo`. -/
def msorted {β : Type} : Option Nat → SMap β → Bool
  | _, [] => true
  | lo, (k, _) :: t => (match lo with | none => true | some l => decide (l < k)) && msorted (some k) t

/-- The canonical form: indexes rise strictly and no entry equals the default. -/
def mwf {β : Type} [DecidableEq β] (d : β) (m : SMap β) : Bool :=
  msorted none m && m.all (fun p => decide (p.2 ≠ d))

/-- The `n` bytes from an index up, lowest first. -/
def mbytes (d : Byte) (m : SMap Byte) (a : Nat) : Nat → List Byte
  | 0 => []
  | n + 1 => mget d m a :: mbytes d m (a + 1) n

/-- Writes bytes from an index up. -/
def mwrite (d : Byte) (m : SMap Byte) (a : Nat) : List Byte → SMap Byte
  | [] => m
  | b :: bs => mwrite d (mset d m a b) (a + 1) bs

/-- Bytes to a number, byte 0 least significant (00 R2). -/
def leNat : List Byte → Nat
  | [] => 0
  | b :: bs => b.toNat + 256 * leNat bs

/-- The low `n` bytes of a number (00 R2). -/
def leBytes : Nat → Nat → List Byte
  | 0, _ => []
  | n + 1, x => BitVec.ofNat 8 (x % 256) :: leBytes n (x / 256)

/-- A field of a number: `w` bits from bit `lo` (00 R2). -/
def fld (x lo w : Nat) : Nat := x / 2 ^ lo % 2 ^ w

/-- A field of a bit vector as a number. -/
def bf {n : Nat} (x : BitVec n) (lo w : Nat) : Nat := fld x.toNat lo w

/-- One bit of a bit vector. -/
def bit {n : Nat} (x : BitVec n) (i : Nat) : Bool := x.getLsbD i

/-- Replaces `w` bits from bit `lo`. -/
def setf {n : Nat} (x : BitVec n) (lo w v : Nat) : BitVec n :=
  BitVec.ofNat n (x.toNat - fld x.toNat lo w * 2 ^ lo + (v % 2 ^ w) * 2 ^ lo)

/-- Sign extension of a field to 64 bits (00 R4). -/
def sx {n : Nat} (x : BitVec n) : W64 := x.signExtend 64

/-- A natural number as a 64-bit word, modulo 2^64. -/
def w64 (n : Nat) : W64 := BitVec.ofNat 64 n

/-- The numbers below `n` in ascending order. -/
def upto (n : Nat) : List Nat := List.range n

/-- ceil(a / b). -/
def cdiv (a b : Nat) : Nat := (a + b - 1) / b

/-- The next multiple of `m` at or above `a`. -/
def alignUp (a m : Nat) : Nat := cdiv a m * m

/-- The first `n` elements of `b` bits. -/
def elems (b : Nat) : Nat → Nat → List Nat
  | 0, _ => []
  | n + 1, x => x % 2 ^ b :: elems b n (x / 2 ^ b)

/-- Elements packed from bit 0 up. -/
def packEl (b : Nat) : List Nat → Nat
  | [] => 0
  | x :: t => x % 2 ^ b + 2 ^ b * packEl b t

/-- One bit as a number. -/
def b2n (b : Bool) : Nat := if b then 1 else 0

end Sys2Proof.Machine
end

