-- ==== Sys2Proof/Syntax.lean ====
section
/-!
DEFINITION. The instructions of Elern: one constructor of `Instr` for each row of the table of operations and
events.  A slot operation carries the raw fields of its slot form (04 R116 to R123), so that the encoding of a slot
is a bijection; a step of an engine, of the dispatcher or of the platform carries the choices that step makes.
-/

namespace Sys2Proof

/-- S slot, form SR (04 R116). -/
structure SR where
  g : BitVec 4
  sd : BitVec 6
  sa : BitVec 6
  sb : BitVec 6
  fn : BitVec 4
  deriving DecidableEq, Repr

/-- S slot, form SI (04 R116). -/
structure SI where
  g : BitVec 4
  sd : BitVec 6
  sa : BitVec 6
  imm : BitVec 10
  deriving DecidableEq, Repr

/-- S slot, form SU (04 R116). -/
structure SU where
  g : BitVec 4
  sd : BitVec 6
  imm : BitVec 16
  deriving DecidableEq, Repr

/-- V slot, form VR (04 R117). -/
structure VR where
  mrg : BitVec 1
  w : BitVec 2
  et : BitVec 4
  vd : BitVec 11
  va : BitVec 11
  vb : BitVec 11
  dc : BitVec 1
  ac : BitVec 2
  bc : BitVec 2
  rm : BitVec 3
  mask : BitVec 4
  g : BitVec 4
  deriving DecidableEq, Repr

/-- V slot, form VQ (04 R120); `op0` is bit 55 and `rsv` bit 4. -/
structure VQ where
  op0 : BitVec 1
  w : BitVec 2
  fmt : BitVec 5
  vd : BitVec 11
  va : BitVec 11
  dc : BitVec 1
  ac : BitVec 1
  blk : BitVec 3
  rm : BitVec 3
  ce : BitVec 1
  cal : BitVec 12
  rsv : BitVec 1
  g : BitVec 4
  deriving DecidableEq, Repr

/-- M slot, form MX (04 R121). -/
structure MX where
  g : BitVec 4
  acc : BitVec 5
  src : BitVec 11
  scl : BitVec 2
  fa : BitVec 5
  ba : BitVec 3
  qs : BitVec 3
  ca : BitVec 1
  cb : BitVec 1
  ce : BitVec 1
  cal : BitVec 12
  rm : BitVec 3
  rsv : BitVec 7
  deriving DecidableEq, Repr

/-- M slot, form MC (04 R121). -/
structure MC where
  g : BitVec 4
  acc : BitVec 5
  acb : BitVec 5
  af : BitVec 3
  rm : BitVec 3
  ss : BitVec 6
  imm : BitVec 16
  rsv : BitVec 16
  deriving DecidableEq, Repr

/-- L slot, form LM (04 R122). -/
structure LM where
  g : BitVec 4
  data : BitVec 11
  dcl : BitVec 2
  base : BitVec 6
  qs : BitVec 3
  se : BitVec 1
  sbs : BitVec 4
  we : BitVec 1
  sbw : BitVec 4
  ord : BitVec 2
  sz : BitVec 3
  imm : BitVec 16
  deriving DecidableEq, Repr

/-- L slot, form LC (04 R122). -/
structure LC where
  g : BitVec 4
  sdst : BitVec 6
  ssrc : BitVec 6
  sdsc : BitVec 6
  tag : BitVec 4
  qs : BitVec 3
  md : BitVec 4
  fmt : BitVec 5
  we : BitVec 1
  sbw : BitVec 4
  rsv : BitVec 14
  deriving DecidableEq, Repr

/-- B slot, form BJ (04 R123). -/
structure BJ where
  g : BitVec 4
  sd : BitVec 6
  sa : BitVec 6
  rsv : BitVec 10
  off : BitVec 32
  deriving DecidableEq, Repr

/-- B slot, form BL (04 R123). -/
structure BL where
  g : BitVec 4
  lc : BitVec 2
  sa : BitVec 6
  max : BitVec 24
  last : BitVec 16
  neg : BitVec 1
  cc : BitVec 3
  rsv : BitVec 2
  deriving DecidableEq, Repr

/-- B slot, form BG (04 R123). -/
structure BG where
  g : BitVec 4
  sd : BitVec 6
  sa : BitVec 6
  sb : BitVec 6
  fn : BitVec 4
  imm : BitVec 32
  deriving DecidableEq, Repr

/-- B slot, form BT (04 R123): up to four tests and leaf targets. -/
structure BT where
  nt : BitVec 2
  t0 : BitVec 4
  t1 : BitVec 4
  t2 : BitVec 4
  t3 : BitVec 4
  l0 : BitVec 10
  l1 : BitVec 10
  l2 : BitVec 10
  l3 : BitVec 10
  deriving DecidableEq, Repr

/-- A command-port frame as the port receives it (18 R432).  `fcs` says whether its frame check holds. -/
structure Frame where
  fcs : Bool
  op : BitVec 8
  status : BitVec 8
  session : BitVec 8
  zero3 : BitVec 8
  seq : BitVec 32
  addr : BitVec 64
  len : BitVec 32
  keyid : BitVec 16
  zero22 : BitVec 80
  data : List Byte
  deriving DecidableEq, Repr

/-- What an Ultra Ethernet packet of a gang carries (18 R435): a remote member's arrival at a level-6 barrier
generation, or a remote member's part of a level-6 collective. -/
inductive UePacket where
  | barrier (gangid part : Nat) (gen : BitVec 64)
  | coll (gangid part : Nat) (k : Nat) (args : List Nat) (data : List Byte)
  deriving DecidableEq, Repr

/-- The comparisons of RISC-V branches. -/
inductive RvBr where
  | beq | bne | blt | bge | bltu | bgeu
  deriving DecidableEq, Repr

/-- The register and immediate operations of RV64IM; `w` forms act on the low 32 bits. -/
inductive RvAlu where
  | add | sub | sll | slt | sltu | xor | srl | sra | or | and
  | mul | mulh | mulhsu | mulhu | div | divu | rem | remu
  deriving DecidableEq, Repr

/-- The CSR operations of Zicsr. -/
inductive RvCsr where
  | rw | rs | rc
  deriving DecidableEq, Repr

/-- One ordinary RISC-V instruction of a sidecar image (01 R30): RV64IM, Zicsr, Zifencei and `wfi`; a compressed
instruction stands for the instruction it expands to. -/
inductive RvInstr where
  | lui (rd : BitVec 5) (imm : BitVec 20)
  | auipc (rd : BitVec 5) (imm : BitVec 20)
  | jal (rd : BitVec 5) (off : BitVec 20)
  | jalr (rd rs1 : BitVec 5) (imm : BitVec 12)
  | branch (op : RvBr) (rs1 rs2 : BitVec 5) (off : BitVec 12)
  | load (size : BitVec 2) (uns : Bool) (rd rs1 : BitVec 5) (imm : BitVec 12)
  | store (size : BitVec 2) (rs1 rs2 : BitVec 5) (imm : BitVec 12)
  | aluImm (op : RvAlu) (word : Bool) (rd rs1 : BitVec 5) (imm : BitVec 12)
  | alu (op : RvAlu) (word : Bool) (rd rs1 rs2 : BitVec 5)
  | fence
  | fenceI
  | ecall
  | ebreak
  | wfi
  | mret
  | csr (op : RvCsr) (useImm : Bool) (rd rs1 : BitVec 5) (num : BitVec 12)
  | illegal (w : BitVec 32)
  deriving DecidableEq, Repr

/-- The instructions: one constructor for each row of the table of operations and events. -/
inductive Instr where
  /-- S slot: sd := sa + sb, modulo 2^64 (R138). -/
  | add (f : SR)
  /-- S slot: sd := sa - sb, modulo 2^64 (R138). -/
  | sub (f : SR)
  /-- S slot: sd := sa + sign-extended 10-bit immediate (R138). -/
  | addi (f : SI)
  /-- S slot: low 64 bits of sa × sb (R138). -/
  | mul (f : SR)
  /-- S slot: high 64 bits of the signed product (R138). -/
  | mulh (f : SR)
  /-- S slot: high 64 bits of the unsigned product (R138). -/
  | mulhu (f : SR)
  /-- S slot: signed quotient rounded toward zero; never faults (R139). -/
  | div (f : SR)
  /-- S slot: unsigned quotient; never faults (R139). -/
  | divu (f : SR)
  /-- S slot: signed remainder, with the sign of sa (R139). -/
  | rem (f : SR)
  /-- S slot: unsigned remainder (R139). -/
  | remu (f : SR)
  /-- S slot: bitwise AND (R138). -/
  | and (f : SR)
  /-- S slot: bitwise OR (R138). -/
  | or (f : SR)
  /-- S slot: bitwise XOR (R138). -/
  | xor (f : SR)
  /-- S slot: sa AND NOT sb (R138). -/
  | andn (f : SR)
  /-- S slot: shift left by sb[5:0] (R138). -/
  | shl (f : SR)
  /-- S slot: logical shift right by sb[5:0] (R138). -/
  | shr (f : SR)
  /-- S slot: arithmetic shift right by sb[5:0] (R138). -/
  | sra (f : SR)
  /-- S slot: shift left by an immediate amount (R138). -/
  | shli (f : SI)
  /-- S slot: logical shift right by an immediate amount (R138). -/
  | shri (f : SI)
  /-- S slot: arithmetic shift right by an immediate amount (R138). -/
  | srai (f : SI)
  /-- S slot: count of leading zero bits (R138). -/
  | clz (f : SR)
  /-- S slot: count of trailing zero bits (R138). -/
  | ctz (f : SR)
  /-- S slot: count of set bits (R138). -/
  | popc (f : SR)
  /-- S slot: signed minimum (R138). -/
  | min (f : SR)
  /-- S slot: signed maximum (R138). -/
  | max (f : SR)
  /-- S slot: unsigned minimum (R138). -/
  | minu (f : SR)
  /-- S slot: unsigned maximum (R138). -/
  | maxu (f : SR)
  /-- S slot: selects sa or sb by a condition bit, optionally inverted (R143). -/
  | sel (f : SR)
  /-- S slot: integer compare that writes a condition bit (R142). -/
  | cmp (f : SR)
  /-- S slot: loads a sign-extended 16-bit immediate (R141). -/
  | li (f : SU)
  /-- S slot: shifts sd left 16 bits and ORs in a 16-bit immediate (R141). -/
  | lui (f : SU)
  /-- S slot: register copy (R138). -/
  | mov (f : SR)
  /-- S slot: sign-extends the low n bits (R138). -/
  | sext (f : SI)
  /-- S slot: zero-extends the low n bits (R138). -/
  | zext (f : SI)
  /-- S slot: extracts a bit field, zero- or sign-extended (.s) (R140). -/
  | bfx (f : SR)
  /-- S slot: inserts a bit field into sd (R140). -/
  | bfi (f : SR)
  /-- S slot: pc-relative address of a label (R141). -/
  | addr (f : SU)
  /-- S slot: floating-point add with one rounding (R145). -/
  | fadd (f : SR)
  /-- S slot: floating-point subtract (R145). -/
  | fsub (f : SR)
  /-- S slot: floating-point multiply (R145). -/
  | fmul (f : SR)
  /-- S slot: fused multiply-add into sd, rounded once (R145). -/
  | fmadd (f : SR)
  /-- S slot: floating-point divide (R145). -/
  | fdiv (f : SR)
  /-- S slot: floating-point square root (R145). -/
  | fsqrt (f : SR)
  /-- S slot: floating-point minimum under the NaN rules (R146). -/
  | fmin (f : SR)
  /-- S slot: floating-point maximum under the NaN rules (R146). -/
  | fmax (f : SR)
  /-- S slot: floating-point compare that writes a condition bit (R147). -/
  | fcmp (f : SR)
  /-- S slot: converts between scalar float and integer types (R148). -/
  | fcvt (f : SR)
  /-- S slot: sign-bit operations (copy, negate, abs, xor) (R149). -/
  | fmvx (f : SR)
  /-- S slot: reads a dispatch register (R150). -/
  | rdd (f : SI)
  /-- S slot: reads identity, cycle count, repetition count, clock, mode or loop state (R151). -/
  | rdsys (f : SI)
  /-- S slot: reads the package time base (R152). -/
  | rdtime (f : SR)
  /-- S slot: reads a mailbox register in the H-die (R153). -/
  | mbrd (f : SI)
  /-- S slot: writes a mailbox register in the H-die (R153). -/
  | mbwr (f : SI)
  /-- V slot: integer add, modulo the element width (R182). -/
  | vadd (f : VR)
  /-- V slot: integer subtract (R182). -/
  | vsub (f : VR)
  /-- V slot: integer multiply, low half of the product (R182). -/
  | vmul (f : VR)
  /-- V slot: integer multiply, high half of the product (R182). -/
  | vmulh (f : VR)
  /-- V slot: destructive integer multiply-add (R182). -/
  | vmadd (f : VR)
  /-- V slot: integer absolute value (R182). -/
  | vabs (f : VR)
  /-- V slot: integer negate (R182). -/
  | vneg (f : VR)
  /-- V slot: integer minimum (R182). -/
  | vmin (f : VR)
  /-- V slot: integer maximum (R182). -/
  | vmax (f : VR)
  /-- V slot: saturating integer add (R182). -/
  | vsadd (f : VR)
  /-- V slot: saturating integer subtract (R182). -/
  | vssub (f : VR)
  /-- V slot: shift left (R182). -/
  | vshl (f : VR)
  /-- V slot: logical shift right (R182). -/
  | vshr (f : VR)
  /-- V slot: arithmetic shift right (R182). -/
  | vsra (f : VR)
  /-- V slot: bitwise AND (R182). -/
  | vand (f : VR)
  /-- V slot: bitwise OR (R182). -/
  | vor (f : VR)
  /-- V slot: bitwise XOR (R182). -/
  | vxor (f : VR)
  /-- V slot: bitwise NOT (R182). -/
  | vnot (f : VR)
  /-- V slot: leading zeros per element (R182). -/
  | vclz (f : VR)
  /-- V slot: set bits per element (R182). -/
  | vpopc (f : VR)
  /-- V slot: floating-point add, complex types by parts (R183). -/
  | vfadd (f : VR)
  /-- V slot: floating-point subtract (R183). -/
  | vfsub (f : VR)
  /-- V slot: floating-point multiply (R183). -/
  | vfmul (f : VR)
  /-- V slot: destructive fused multiply-add (R183). -/
  | vfma (f : VR)
  /-- V slot: destructive fused multiply-subtract (R183). -/
  | vfms (f : VR)
  /-- V slot: floating-point minimum (R184). -/
  | vfmin (f : VR)
  /-- V slot: floating-point maximum (R184). -/
  | vfmax (f : VR)
  /-- V slot: clears the sign bit (R183). -/
  | vfabs (f : VR)
  /-- V slot: inverts the sign bit(s) (R183). -/
  | vfneg (f : VR)
  /-- V slot: reciprocal, correctly rounded (R183). -/
  | vfrcp (f : VR)
  /-- V slot: reciprocal square root (R185). -/
  | vfrsqrt (f : VR)
  /-- V slot: square root (R183). -/
  | vfsqrt (f : VR)
  /-- V slot: 2^x (R185). -/
  | vfexp2 (f : VR)
  /-- V slot: log2 x (R185). -/
  | vflog2 (f : VR)
  /-- V slot: tanh x (R185). -/
  | vftanh (f : VR)
  /-- V slot: erf x (R185). -/
  | vferf (f : VR)
  /-- V slot: sin x (R185). -/
  | vfsin (f : VR)
  /-- V slot: cos x (R185). -/
  | vfcos (f : VR)
  /-- V slot: complex multiply (R187). -/
  | vcmul (f : VR)
  /-- V slot: destructive complex multiply-accumulate (R187). -/
  | vcmla (f : VR)
  /-- V slot: integer compare that writes a mask (R188). -/
  | vcmp (f : VR)
  /-- V slot: floating-point compare that writes a mask (R188). -/
  | vfcmp (f : VR)
  /-- V slot: mask AND (R189). -/
  | mand (f : VR)
  /-- V slot: mask OR (R189). -/
  | mor (f : VR)
  /-- V slot: mask XOR (R189). -/
  | mxor (f : VR)
  /-- V slot: mask NOT (R189). -/
  | mnot (f : VR)
  /-- V slot: counts enabled mask elements into a scalar (R190). -/
  | mpopc (f : VR)
  /-- V slot: finds the first counted mask element (R190). -/
  | mffs (f : VR)
  /-- V slot: selects elements of va or vb by mask (R191). -/
  | vsel (f : VR)
  /-- V slot: converts elements between types (R192). -/
  | vcvt (f : VR)
  /-- V slot: quantises FP32 elements into a block-scaled format (R193). -/
  | vqnt (f : VQ)
  /-- V slot: dequantises block-scaled elements to FP32 (R194). -/
  | vdq (f : VQ)
  /-- V slot: quantises FP32 elements to one QC4 group (R195). -/
  | vqc4 (f : VQ)
  /-- V slot: dequantises QC4 codes to FP32 (R196). -/
  | vdqc4 (f : VQ)
  /-- V slot: seeds the 32 stochastic-rounding generators (R198). -/
  | vsrseed (f : VR)
  /-- V slot: move or broadcast a scalar (R199). -/
  | vmov (f : VR)
  /-- V slot: broadcasts one element of va (R199). -/
  | vbcast (f : VR)
  /-- V slot: permutes va by an index vector (R200). -/
  | vperm (f : VR)
  /-- V slot: permutes a two-register table (R200). -/
  | vshuf (f : VR)
  /-- V slot: slides elements by a signed scalar count (R201). -/
  | vslide (f : VR)
  /-- V slot: packs enabled elements and zeroes the rest (R202). -/
  | vcompress (f : VR)
  /-- V slot: packs enabled elements and keeps the rest (R202). -/
  | vcompressKeep (f : VR)
  /-- V slot: spreads va into the enabled positions (R203). -/
  | vexpand (f : VR)
  /-- V slot: interleaves two sources (R204). -/
  | vzip (f : VR)
  /-- V slot: splits even or odd elements (R204). -/
  | vunzip (f : VR)
  /-- V slot: extracts one element to a scalar (R205). -/
  | vext (f : VR)
  /-- V slot: inserts a scalar into one element (R205). -/
  | vins (f : VR)
  /-- V slot: integer reduction to a scalar (R206). -/
  | vred (f : VR)
  /-- V slot: floating-point reduction over a fixed pairwise tree (R207). -/
  | vfred (f : VR)
  /-- V slot: inclusive or exclusive prefix sum (R208). -/
  | vscan (f : VR)
  /-- V slot: counts index values into UI32 counters (R209). -/
  | vhist (f : VR)
  /-- V slot: reads an accumulator tile row into registers (R210). -/
  | arow (f : VR)
  /-- V slot: reads an accumulator tile column into registers (R210). -/
  | acol (f : VR)
  /-- V slot: writes an accumulator tile row once the tile is not busy (R211). -/
  | awrow (f : VR)
  /-- V slot: writes an accumulator tile column (R211). -/
  | awcol (f : VR)
  /-- M slot: loads the back stationary buffer as stored (R216). -/
  | mld (f : MX)
  /-- M slot: loads the back stationary buffer transposed (R216). -/
  | mldw (f : MX)
  /-- M slot: exchanges the front and back stationary buffers (R217). -/
  | mswap (f : MC)
  /-- M slot: streams A through the array, T := T + A × B (R219). -/
  | mma (f : MX)
  /-- M slot: matrix product with 2:4 sparse A, using a metadata word (R220). -/
  | mmas (f : MX)
  /-- M slot: matrix product whose A is converted from a tile (R224). -/
  | mmac (f : MX)
  /-- M slot: complex matrix product (R223). -/
  | mmaC (f : MX)
  /-- M slot: zeroes a configured tile (R233). -/
  | azero (f : MC)
  /-- M slot: converts one tile into another format (R234). -/
  | acvt (f : MC)
  /-- M slot: adds one tile into another (R235). -/
  | aadd (f : MC)
  /-- M slot: configures a tile format and zeroes it (R233). -/
  | acfg (f : MC)
  /-- M slot: stalls until a tile is not busy (R229). -/
  | await (f : MC)
  /-- M slot: stalls until the M-slot queue is empty and nothing is in flight (R229). -/
  | awaitAll (f : MC)
  /-- M slot: sets the sparsity-metadata pc (R222). -/
  | mpcset (f : MC)
  /-- M slot: reads the engine status word or mpc (R230). -/
  | mstat (f : MC)
  /-- M slot: unconfigures a tile or breaks a CF64 pair (R233). -/
  | aclr (f : MC)
  /-- M slot: configures a tile and fills it from a scratchpad image (R233). -/
  | aload (f : MC)
  /-- L slot: scalar load (R245). -/
  | ld (f : LM)
  /-- L slot: scalar store (R245). -/
  | st (f : LM)
  /-- L slot: vector load of 32, 64 or 128 bytes (R245). -/
  | ldv (f : LM)
  /-- L slot: vector store (R245). -/
  | stv (f : LM)
  /-- L slot: strided vector load (R246). -/
  | ldvs (f : LM)
  /-- L slot: strided vector store (R246). -/
  | stvs (f : LM)
  /-- L slot: gathered vector load (R247). -/
  | ldvg (f : LM)
  /-- L slot: scattered vector store (R247). -/
  | stvg (f : LM)
  /-- L slot: waits for a full word and loads it, leaving it full (R248). -/
  | ldf (f : LM)
  /-- L slot: waits for a full word, loads it and empties it (R248). -/
  | ldfe (f : LM)
  /-- L slot: waits for an empty word, stores it and fills it (R248). -/
  | ste (f : LM)
  /-- L slot: stores a word and marks it full (R248). -/
  | stf (f : LM)
  /-- L slot: sets the full/empty tags of a range (R249). -/
  | tagset (f : LM)
  /-- L slot: clears the full/empty tags of a range (R249). -/
  | tagclr (f : LM)
  /-- L slot: issues a tile-load copy into a scratchpad image (R261). -/
  | tld (f : LC)
  /-- L slot: issues a tile-store copy from a scratchpad image (R262). -/
  | tst (f : LC)
  /-- L slot: issues a plain row copy (R264). -/
  | cpy (f : LC)
  /-- L slot: issues a row gather through an index list (R265). -/
  | rgather (f : LC)
  /-- L slot: issues a row scatter through an index list (R265). -/
  | rscatter (f : LC)
  /-- L slot: atomic read-modify-write that returns the old value (R298). -/
  | amo (f : LM)
  /-- L slot: fire-and-forget reduction into memory (R301). -/
  | red (f : LM)
  /-- L slot: loads version v of a ream line, blocking until it exists (R280). -/
  | verld (f : LM)
  /-- L slot: loads the highest version at or below v (R280). -/
  | verle (f : LM)
  /-- L slot: creates version v of a ream line (R280). -/
  | verst (f : LM)
  /-- L slot: raises the floor of a ream (R280). -/
  | verfl (f : LM)
  /-- L slot: reads the newest version number of a line (R280). -/
  | vernew (f : LM)
  /-- L slot: selects the k highest logits of a scratchpad row (R278). -/
  | stopk (f : LM)
  /-- L slot: configures a circular-buffer handle (R251). -/
  | cbcfg (f : LM)
  /-- L slot: blocks until n ring slots are filled (R252). -/
  | cbwait (f : LM)
  /-- L slot: frees n ring slots and advances the consumer pointer (R252). -/
  | cbpop (f : LM)
  /-- L slot: blocks until n ring slots are free (R252). -/
  | cbresv (f : LM)
  /-- L slot: fills n ring slots, possibly deferred on a copy tag (R253). -/
  | cbpush (f : LM)
  /-- L slot: takes part in a collective of the group at a level (R274). -/
  | coll (f : LC)
  /-- L slot: prefetch hint to the L1 or the home slice (R277). -/
  | pf (f : LM)
  /-- B slot: pc-relative branch (R155). -/
  | br (f : BJ)
  /-- B slot: branch tree of up to four tests (R157). -/
  | bt (f : BT)
  /-- B slot: branch and link (R155). -/
  | call (f : BJ)
  /-- B slot: return to an address held in a register (R155). -/
  | ret (f : BJ)
  /-- B slot: register-indirect jump with link (R155). -/
  | jr (f : BJ)
  /-- B slot: starts a counted hardware loop (R159). -/
  | loop (f : BL)
  /-- B slot: starts a while hardware loop (R160). -/
  | loopw (f : BL)
  /-- B slot: raises the breakpoint fault (R164). -/
  | brk (f : BG)
  /-- B slot: raises the software trap after the packet (R165). -/
  | trap (f : BG)
  /-- B slot: gives up one issue opportunity (R163). -/
  | yield (f : BG)
  /-- B slot: retires the context once its accesses have performed (R166). -/
  | exit (f : BG)
  /-- B slot: starts a reserved-idle slot of the same task (R167). -/
  | spawn (f : BG)
  /-- B slot: takes a new chunk from the task's range pool (R168). -/
  | nextr (f : BG)
  /-- B slot: blocks until the named scoreboard slots read zero (R296). -/
  | waitsb (f : BG)
  /-- B slot: orders earlier accesses other than reductions before later ones (R297). -/
  | fence (f : BG)
  /-- B slot: fence that also drains reductions and reports lost ones (R297). -/
  | fenceS (f : BG)
  /-- B slot: arrives at a barrier and blocks until its generation completes (R310). -/
  | bar (f : BG)
  /-- B slot: arrives at a barrier without blocking (R310). -/
  | barArv (f : BG)
  /-- B slot: waits for a barrier token's generation (R311). -/
  | barwait (f : BG)
  /-- B slot: blocks until any copy tag in the mask is set (R306). -/
  | tagwaitany (f : BG)
  /-- B slot: blocks until every copy tag in the mask is set (R306). -/
  | tagwaitall (f : BG)
  /-- B slot: waits for a tag, returns the lowest set and clears it (R306). -/
  | tagffr (f : BG)
  /-- B slot: blocks until a bound timeline reaches a count (R309). -/
  | tlwait (f : BG)
  /-- B slot: binds a timeline handle to a selector (R309). -/
  | tlwaitBind (f : BG)
  /-- B slot: reads a timeline counter (R309). -/
  | tlwaitRead (f : BG)
  /-- B slot: asks to hold n hands in total (R169). -/
  | handreq (f : BG)
  /-- B slot: releases hands down to n (R169). -/
  | handrel (f : BG)
  /-- B slot: moves a bank to the matrix class (R172). -/
  | blend (f : BG)
  /-- B slot: moves a bank back to the vector class (R172). -/
  | bret (f : BG)
  /-- B slot: evaluates a range of Calender entries and raises the step count (R322). -/
  | cstep (f : BG)
  /-- B slot: writes a Calender entry word (R323). -/
  | cset (f : BG)
  /-- B slot: pins or unpins a Calender entry's rung (R323). -/
  | cpin (f : BG)
  /-- B slot: reads a Calender entry word (R323). -/
  | cread (f : BG)
  /-- B slot: reads a Dealer counter or the status word of a queue (R353). -/
  | dstat (f : BG)
  /-- B slot: sets a queue's guessing hint or drops its guess (R354). -/
  | dhint (f : BG)
  /-- B slot, privileged: writes a system register (R387). -/
  | mtsy (f : BG)
  /-- B slot, privileged: reads a system register (R387). -/
  | mfsy (f : BG)
  /-- B slot, privileged: returns to user mode, replaying or reissuing at SEPC (R386). -/
  | eret (f : BG)
  /-- B slot, privileged: issues the end-task request (R386). -/
  | eretEnd (f : BG)
  /-- B slot, privileged: removes translations package-wide and waits for them (R388). -/
  | tlbinv (f : BG)
  /-- B slot, privileged: writes a parked slot's context image (R392). -/
  | ctxsave (f : BG)
  /-- B slot, privileged: loads a slot from a context image (R393). -/
  | ctxrestore (f : BG)
  /-- B slot, privileged: stops the whole core (R389). -/
  | halt (f : BG)
  /-- Idle-run bundle: issues nothing for the stated number of cycles (R111). -/
  | idleRun (n : BitVec 24)
  /-- The idle-run cycle count expires and issue resumes (R111). -/
  | idleRunEnd
  /-- A later repetition of a packet re-issues sticky slots from their stepped latches (R106). -/
  | stickyReissue
  /-- Sidecar: loads an 8-byte share word (R285). -/
  | xSpld (rd rs1 : BitVec 5)
  /-- Sidecar: stores an 8-byte share word (R285). -/
  | xSpst (rs2 rs1 : BitVec 5)
  /-- Sidecar: full/empty load that empties the word (R285). -/
  | xSpldfe (rd rs1 : BitVec 5)
  /-- Sidecar: full/empty store that fills the word (R285). -/
  | xSpste (rs2 rs1 : BitVec 5)
  /-- Sidecar: loads 8 bytes from a global address (R285). -/
  | xGld (rd rs1 : BitVec 5)
  /-- Sidecar: stores 8 bytes to a global address (R285). -/
  | xGst (rs2 rs1 : BitVec 5)
  /-- Sidecar: waits until the masked copy tags are set (R285). -/
  | xTagwait (rs1 : BitVec 5)
  /-- Sidecar: reads a dispatch register of its context (R285). -/
  | xRdd (rd rs1 : BitVec 5)
  /-- Sidecar: issues a copy from a 32-byte command in the share (R285). -/
  | xCopy (rs1 : BitVec 5)
  /-- Sidecar: configures a sidecar ring handle (R285). -/
  | xCbcfg (rs2 rs1 : BitVec 5)
  /-- Sidecar: waits for filled ring slots (R285). -/
  | xCbwait (rs2 rs1 : BitVec 5)
  /-- Sidecar: waits for free ring slots (R285). -/
  | xCbresv (rs2 rs1 : BitVec 5)
  /-- Sidecar: frees ring slots (R285). -/
  | xCbpop (rs2 rs1 : BitVec 5)
  /-- Sidecar: fills ring slots (R285). -/
  | xCbpush (rs2 rs1 : BitVec 5)
  /-- A loader or storer sidecar executes one ordinary RV64IMC, Zicsr or Zifencei instruction of its image, wfi included (R30). -/
  | sidecarRiscvInstruction (i : RvInstr) (short : Bool)
  /-- A sidecar raises a RISC-V exception, stops, and posts an asynchronous trap to its context (R286). -/
  | sidecarFault (mcause mtval : BitVec 64)
  /-- A load's or amo's value is fixed and delivered to its destination, or an uncorrectable error is found (R287). -/
  | loadReturn (c id : Nat)
  /-- A store is taken by its home slice or bank; scoreboard counts fall (R287). -/
  | storePerformed (c id : Nat)
  /-- A reduction combines at its home, or is dropped and sets the reduction-lost flag (R302). -/
  | redCombine (c id elem : Nat)
  /-- A queued M-slot operation starts once its condition holds and frees its queue entry (R226). -/
  | mOpStart (c : Nat)
  /-- An M-slot operation's last write lands and its busy bits clear (R227). -/
  | mOpComplete (c id : Nat)
  /-- The device fetches a sparsity-metadata word for a later mmas (R221). -/
  | metadataFetch (c : Nat)
  /-- The H-die adds an arriving statistics record into an entry (R320). -/
  | statsRecordAdd (i : Nat)
  /-- Freed hands go to the head blocked handreq once it can be met in full (R171). -/
  | handGrant (core : Nat)
  /-- A handreq or handrel takes effect after earlier M-slot work; buffers empty and d4 rewritten (R170). -/
  | handChangeEffect (c : Nat)
  /-- The copy engine reads an issued copy's descriptor and checks it (R255). -/
  | copyStart (core id : Nat)
  /-- A copy performs every access; its tag count falls and the bit may set (R257). -/
  | copyComplete (core id : Nat)
  /-- A copy stops on a fault, leaving its tag clear for a later wait to report (R259). -/
  | copyFault (core id : Nat)
  /-- A deferred cbpush sets its slot tags once its copy tag is set (R253). -/
  | deferredPush (c h : Nat)
  /-- A collective completes after every member has issued and all data has moved, or fails (R276). -/
  | collectiveComplete (task level unit : Nat)
  /-- A barrier generation completes once every member has arrived and lower generations are done (R311). -/
  | barrierGenerationComplete (task level unit : Nat)
  /-- A home slice discards a reclaimable version of its own accord (R281). -/
  | versionReclaim (line : Nat) (ver : BitVec 32)
  /-- A Couch engine starts a queued re-encoding job (R328). -/
  | couchJobStart (eng : Nat)
  /-- A re-encoding job completes; the tag settles and held requests are re-examined (R327). -/
  | couchJobComplete (eng : Nat)
  /-- A re-encoding job fails; held requests end in copy faults (R327). -/
  | couchJobFail (eng : Nat)
  /-- A context blocked 2^WLOG cycles on one packet takes the wait-limit trap (R51). -/
  | waitLimitTrap (c : Nat)
  /-- A trap is entered after M-slot work drains; in-flight results go to shadow latches (R382). -/
  | trapEntry (c : Nat)
  /-- A shadow latch delivers its result when its cycle offset is reached (R382). -/
  | shadowLatchDeliver (c i : Nat)
  /-- A pre-empted context stops at a bundle boundary once M-slot work completes (R390). -/
  | contextPark (c : Nat)
  /-- The time base reaches GANG and the gang's contexts begin to issue (R39). -/
  | gangStart (task : Nat)
  /-- Command: launches a range task after the checks of R38 (R401). -/
  | launch (q : Nat)
  /-- Command: starts a resident-graph walk (R402). -/
  | graph (q : Nat)
  /-- A task enters the dependence table once it has enough free entries (R403). -/
  | taskAdmit (die : Nat)
  /-- The dispatcher places a whole group once resources and ordering allow (R43). -/
  | groupPlace (task : Nat) (cores : List Nat)
  /-- A ready unplaced task's effective priority rises each 2^20 cycles (R65). -/
  | priorityAge (task : Nat)
  /-- After 2^20 cycles at priority 3, new placements in fitting units are held for the task (R66). -/
  | starvationHold (task : Nat)
  /-- A task with an empty pool and no live context completes (R55). -/
  | taskComplete (task : Nat)
  /-- The dispatcher ends a task: stops contexts, drains copies, releases and writes a record (R62). -/
  | taskEnd (task : Nat)
  /-- A queue record is written to the record ring once it has room (R400). -/
  | recordWrite (q : Nat)
  /-- The walker launches a TASK node's task (R57). -/
  | nodeTask (q : Nat)
  /-- The walker reads a condition word and branches (R60). -/
  | nodeCond (q : Nat)
  /-- The walker tests a WHILE condition and counts iterations (R58). -/
  | nodeWhile (q : Nat)
  /-- After earlier tasks complete, the walker evaluates entries and raises the step count (R322). -/
  | nodeCalstep (q : Nat)
  /-- After earlier tasks complete, a set RERUN flag widens the entry and re-walks FIRST to LAST (R331). -/
  | nodeRerun (q : Nat)
  /-- The Dealer starts a guess of the queue's next launch on idle resources (R339). -/
  | guessStart (q : Nat) (cores : List Nat)
  /-- When the matched launch is ready, the guess is drained, locked, revalidated and committed (R346). -/
  | guessClaim (q : Nat)
  /-- An event ends a guess with a cause code, leaving no visible trace (R344). -/
  | guessDrop (q cause : Nat)
  /-- A slice walker completes a five-level walk and checks the result (R418). -/
  | pageWalk (slice part asid : Nat) (va : BitVec 64)
  /-- A translation fault is posted to the fault queue, or joins an entry, once there is room (R423). -/
  | faultPost (c : Nat)
  /-- Fault-queue verdict 1: every held requester of the entry replays or reissues (R423). -/
  | verdictResolve (part die : Nat) (id : BitVec 32)
  /-- Fault-queue verdict 2: every held requester takes its fault (R423). -/
  | verdictRefuse (part die : Nat) (id : BitVec 32)
  /-- Writing EN to 1 enables a queue after its checks (R397). -/
  | qcfgEnSet (q : Nat) (val : BitVec 64)
  /-- Clearing EN resets the queue and disables it (R397). -/
  | qcfgEnClear (q : Nat) (val : BitVec 64)
  /-- Restarts a stopped queue, discarding dependent tasks (R399). -/
  | qctlRestart (q : Nat)
  /-- Resets a queue, stopping all its tasks and clearing its Dealer state (R399). -/
  | qctlReset (q : Nat)
  /-- Writes a queue's speculation settings; clearing SPECEN drops its guess (R412). -/
  | qspecWrite (q : Nat) (val : BitVec 64)
  /-- Writes a die's Dealer settings; lowering limits drops guesses (R412). -/
  | dlrcfgWrite (die : Nat) (val : BitVec 64)
  /-- Pre-emption request: park every live context of a task (R407). -/
  | prctlPark
  /-- Pre-emption request: save and release a parked task's reservations (R407). -/
  | prctlEvict
  /-- Pre-emption request: resume a parked or evicted task (R407). -/
  | prctlResume
  /-- Once the task's copies and jobs finish, reservations are saved and released (R409). -/
  | evictSave
  /-- An evicted task is placed again, restored and started once every group fits (R407). -/
  | resumeRestore (cores : List Nat)
  /-- Setting VALID creates a ream after its checks, or sets ERR (R424). -/
  | reamValidSet (part n : Nat) (val : BitVec 64)
  /-- The home slices finish initialising the ream and set READY (R424). -/
  | reamReady (part n : Nat)
  /-- Clearing VALID keeps only newest versions and frees the pool (R424). -/
  | reamValidClear (part n : Nat) (val : BitVec 64)
  /-- Writes an XTS key slot through the key window (R419). -/
  | keySlotWrite (addr : Nat) (val : BitVec 64)
  /-- A write of k to word 30 installs preset k in an entry (R324). -/
  | calenderPreset (entry : Nat) (k : BitVec 64)
  /-- A write to word 31 clears an entry's statistics and CNT (R317). -/
  | calenderClr (entry : Nat)
  /-- A management write to a Calender entry word, checked by R318 (R429). -/
  | calenderWindowWrite (entry word : Nat) (val : BitVec 64)
  /-- A write to any register with no behaviour of its own, field by field by access code (R5). -/
  | registerWrite (addr : Nat) (val : BitVec 64)
  /-- A write of RESET resets the package, stopping every context (R443). -/
  | packageResetWrite
  /-- Power-on reset input starts bring-up (R443). -/
  | powerOn
  /-- Link and HBM training and zeroing complete; HBMOK and READY rise (R443). -/
  | bringupDone
  /-- A write of ATTGO starts building the attestation report (R445). -/
  | attgo
  /-- The signed attestation report is complete and ATTGO reads zero (R445). -/
  | attestDone
  /-- Debug control write that halts a core as halt does (R440). -/
  | haltreq (core : Nat)
  /-- Debug control write that ends a core halt (R440). -/
  | release (core : Nat)
  /-- Command-port frame OP 1: reads management window registers (R432). -/
  | windowRead (f : Frame)
  /-- Command-port frame OP 2: writes management window registers (R432). -/
  | windowWrite (f : Frame)
  /-- Command-port frame OP 3: reads physical memory as master 8 (R432). -/
  | memoryRead (f : Frame)
  /-- Command-port frame OP 4: writes physical memory as master 8 (R432). -/
  | memoryWrite (f : Frame)
  /-- Recovery frame with data: writes into the staging buffer (R442). -/
  | recoveryStage (f : Frame)
  /-- Recovery frame with LEN 0: checks, writes and boots the staged image (R442). -/
  | recoveryCommit (f : Frame)
  /-- A frame with a bad OP, field or sequence number is answered with an error status (R433). -/
  | malformedFrame (f : Frame)
  /-- A frame whose FCS fails is dropped with no reply (R433). -/
  | fcsDrop (f : Frame)
  /-- An IEEE 1588 message adjusts the time base and TBLOCK (R434). -/
  | ptpMessage (offset : Int)
  /-- A gang part's announcement arrives over the scale-out ports (R435). -/
  | gangAnnounce (pkg gangid gpart gpkgs : Nat)
  /-- An Ultra Ethernet packet for a level-6 collective or barrier arrives (R435). -/
  | uePacket (p : UePacket)
  /-- A level-6 transfer cannot be delivered over any up port (R276). -/
  | linkLost (task unit : Nat)
  /-- A scale-out port trains, comes up or goes down (R435). -/
  | portStateChange (port : Nat) (st : BitVec 2)
  /-- A die-link flit fails its CRC and is replayed (R436). -/
  | flitReplay (link : Nat)
  /-- A NoC flit fails parity and is resent once from the sending router (R438). -/
  | nocParityResend (router : Nat) (second : Bool)
  /-- A die reaches 115 °C (R446). -/
  | dieOvertemp (die : Nat)
  /-- Every 10 µs the governor lowers or raises the arithmetic clock (R446). -/
  | governorTick (power : BitVec 32) (hot cool : Bool)
  /-- The dispatcher takes a command slot whose CMD is unassigned, or that has a nonzero reserved field or cannot be read, and stops the queue with ERR 2 or 4 (R398). -/
  | unassignedCmd (q : Nat)
  /-- Every die's read copy holds the results of a cstep or CALSTEP, so sd is written and the walker moves to NEXT (R322). -/
  | calenderReadCopyUpdate
  /-- Every TLB of the package holds no translation in the tlbinv's scope, and the blocked tlbinv packet issues (R388). -/
  | tlbInvalidationComplete (c : Nat)
  deriving DecidableEq, Repr

end Sys2Proof
end

