-- ==== Sys2Proof/Machine/Legal.lean ====
section
/-!
DEFINITION. The static checks of a slot (04 R129, reasons 9, 10, 11 and 14): for each instruction, the reasons that
hold for its fields.  The trap reports the lowest.  The entry of each instruction says which fields it uses; a field
it does not use must be zero (04 R115).
-/

namespace Sys2Proof.Machine

/-- A reason when its condition holds. -/
def viol (c : Bool) (r : Nat) : List Nat := if c then [r] else []

/-- A bit vector is not zero. -/
def nz {n : Nat} (x : BitVec n) : Bool := x != 0

/-- A rounding field with a reserved code (03 R91). -/
def badRnd (c : Nat) : List Nat := viol (decide (4 < c)) 10

/-- Formats an S9 scale may accompany (02 R41). -/
def s9Fmt (f : Nat) : Bool := (decide (6 ≤ f) && decide (f ≤ 10)) || (decide (12 ≤ f) && decide (f ≤ 17))

/-- The block length a code names (02 R41); 0 for none. -/
def blkLen (c : Nat) : Nat := if c = 0 then 0 else 8 * 2 ^ c

/-- A format code with its block code that 02 R41 does not allow: a block code exactly with an S9 scale, 3 with QC4. -/
def badBlk (f b : Nat) : Bool :=
  if f = 18 then b != 3 else b != 0 && !s9Fmt f

/-- SR-form integer operation: FN zero, and SB zero for a unary one (05 R138). -/
def srInt (unary : Bool) (f : SR) : List Nat := viol (nz f.fn || (unary && nz f.sb)) 9

/-- SR-form float operation with a rounding mode in FN[3:1] (05 R144). -/
def srFloat (unary : Bool) (f : SR) : List Nat := viol (unary && nz f.sb) 9 ++ badRnd (bf f.fn 1 3)

/-- SI-form operation whose immediate uses only its low `w` bits. -/
def siImm (w : Nat) (f : SI) : List Nat := viol (decide (2 ^ w ≤ f.imm.toNat)) 9

/-- `rdsys` selectors (05 R151). -/
def rdsysSel (n : Nat) : Bool := decide (n ≤ 4) || (decide (8 ≤ n) && decide (n ≤ 11))

/-- System register selectors (15 R376). -/
def sysSel (n : Nat) : Bool := decide (n ≤ 11) || n == 16

/-- How a V-slot entry uses its destination field (06 R175). -/
inductive VdUse where
  | ringReg | reg | mask | scalar | tile | none
  deriving DecidableEq, Repr

/-- How a V-slot entry uses a source field (06 R175). -/
inductive VsUse where
  | any | ringReg | reg | mask | tile | bcast | none
  /-- a selector of so many bits, class zero -/
  | sel (bits : Nat)
  deriving DecidableEq, Repr

/-- How a V-slot entry uses RM. -/
inductive RmUse where
  | zero | round | noSr
  /-- a relation or operation code up to a limit -/
  | rel (top : Nat)
  /-- the low bit selects a half or parity -/
  | low
  deriving DecidableEq, Repr

/-- What a V-slot entry accepts (06). -/
structure VEntry where
  types : Nat → Bool
  vd : VdUse := .ringReg
  va : VsUse := .any
  vb : VsUse := .any
  rm : RmUse := .zero
  mrg : Bool := true
  maskZero : Bool := false

/-- Element-type sets (03 R81). -/
def tInt (t : Nat) : Bool := decide (t ≤ 7)
@[inherit_doc tInt]
def tSigned (t : Nat) : Bool := t == 0 || t == 2 || t == 4 || t == 6
@[inherit_doc tInt]
def tFloat (t : Nat) : Bool := decide (8 ≤ t) && decide (t ≤ 11)
@[inherit_doc tInt]
def tFloatC (t : Nat) : Bool := decide (8 ≤ t) && decide (t ≤ 13)
@[inherit_doc tInt]
def tCplx (t : Nat) : Bool := t == 12 || t == 13
@[inherit_doc tInt]
def tAll (t : Nat) : Bool := decide (t ≤ 13)
@[inherit_doc tInt]
def tReal (t : Nat) : Bool := decide (t ≤ 11)
@[inherit_doc tInt]
def tZero (t : Nat) : Bool := t == 0
@[inherit_doc tInt]
def tTile (t : Nat) : Bool := t == 4 || (decide (10 ≤ t) && decide (t ≤ 13))

/-- Violations of a VR destination operand. -/
def vdViol (u : VdUse) (x : BitVec 11) (dc : BitVec 1) : List Nat :=
  match u with
  | .ringReg => []
  | .reg => viol (nz dc) 14
  | .mask => viol (decide (16 ≤ x.toNat)) 9 ++ viol (nz dc) 14
  | .scalar => viol (decide (64 ≤ x.toNat)) 9 ++ viol (nz dc) 14
  | .tile => viol (decide (32 ≤ x.toNat)) 9 ++ viol (nz dc) 14
  | .none => viol (nz x || nz dc) 9

/-- Violations of a VR source operand; `wide` is a 128-bit element type (04 R118). -/
def vsViol (u : VsUse) (wide : Bool) (x : BitVec 11) (c : BitVec 2) : List Nat :=
  let bc := viol (c == 2 && decide (64 ≤ x.toNat)) 9
  match u with
  | .any => bc ++ viol (c == 3) 10 ++ viol (c == 2 && wide) 14
  | .ringReg => bc ++ viol (c == 3) 10 ++ viol (c == 2) 14
  | .reg => viol (c == 3) 10 ++ viol (nz c) 14
  | .mask => viol (decide (16 ≤ x.toNat)) 9 ++ viol (c == 3) 10 ++ viol (nz c) 14
  | .tile => viol (decide (32 ≤ x.toNat)) 9 ++ viol (c == 3) 10 ++ viol (nz c) 14
  | .bcast => viol (decide (64 ≤ x.toNat)) 9 ++ viol (c == 3) 10 ++ viol (c != 2) 14
  | .none => viol (nz x || nz c) 9
  | .sel b => viol (decide (2 ^ b ≤ x.toNat) || nz c) 9

/-- Violations of a VR rounding field. -/
def rmViol (u : RmUse) (rm : BitVec 3) : List Nat :=
  match u with
  | .zero => viol (nz rm) 9
  | .round => badRnd rm.toNat
  | .noSr => badRnd rm.toNat ++ viol (rm == 4) 14
  | .rel top => viol (decide (top < rm.toNat)) 14
  | .low => viol (decide (1 < rm.toNat)) 9

/-- Violations of a VR slot against an entry. -/
def vrViol (e : VEntry) (f : VR) : List Nat :=
  viol (f.w == 3) 10 ++ viol (f.et == 15) 10 ++ viol (!e.types f.et.toNat) 14 ++
  vdViol e.vd f.vd f.dc ++ vsViol e.va (f.et == 13) f.va f.ac ++ vsViol e.vb (f.et == 13) f.vb f.bc ++
  rmViol e.rm f.rm ++ viol (!e.mrg && nz f.mrg) 14 ++ viol (e.maskZero && nz f.mask) 14

/-- `vcvt` (06 R192): types, packed format and the pairs 03 R98 forbids. -/
def vcvtViol (f : VR) : List Nat :=
  let src := bf f.vb 0 4
  let pf := bf f.vb 4 5
  let dst := f.et.toNat
  let pk := src == 14 || dst == 14
  vrViol { types := fun t => decide (t ≤ 14), vb := .sel 9, rm := .round } { f with ac := if f.ac == 2 then 0 else f.ac, va := if f.ac == 2 then f.va &&& 0x7C0 else f.va } ++
  viol (f.ac == 2 && decide (64 ≤ f.va.toNat)) 9 ++
  viol (!pk && pf != 0) 9 ++ viol (src == 15) 10 ++ viol (pk && decide (20 ≤ pf)) 10 ++
  viol (src == 14 && dst == 14) 14 ++
  viol (pk && !((decide (6 ≤ pf) && decide (pf ≤ 10)) || (decide (14 ≤ pf) && decide (pf ≤ 17)))) 14 ++
  viol (tCplx src != tCplx dst) 14 ++ viol (pk && nz f.mask) 14 ++ viol (f.ac == 2 && src == 13) 14

/-- Violations of a VQ slot (06 R193 to R196): `rmU` and `calU` say whether RM and the Calender tap are used. -/
def vqViol (qc4 rmU calU : Bool) (f : VQ) : List Nat :=
  viol (nz f.rsv || (!rmU && nz f.rm) || (!calU && (nz f.ce || nz f.cal))) 9 ++
  viol (f.w == 3) 10 ++ viol (decide (20 ≤ f.fmt.toNat)) 10 ++ viol (decide (5 ≤ f.blk.toNat)) 10 ++
  (if rmU then badRnd f.rm.toNat else []) ++ viol (nz f.op0) 14 ++
  (if qc4 then viol (f.fmt != 18 || f.blk != 3) 14
   else viol (!s9Fmt f.fmt.toNat || f.blk == 0 || decide (32 * 2 ^ f.w.toNat < blkLen f.blk.toNat)) 14)

/-- The operand field of an MX slot (04 R121). -/
def mxSrc (f : MX) : List Nat := viol (f.scl == 2 && decide (64 ≤ f.src.toNat)) 9 ++ viol (f.scl == 3) 14

/-- Format and block codes of an MX slot (03 R67, 02 R41). -/
def mxFmt (f : MX) : List Nat :=
  viol (decide (20 ≤ f.fa.toNat)) 10 ++ viol (decide (5 ≤ f.ba.toNat)) 10 ++ viol (badBlk f.fa.toNat f.ba.toNat) 14

/-- Violations of an MC slot whose used fields are named (04 R121, R115). -/
def mcViol (acc acb af rm ss imm : Bool) (f : MC) : List Nat :=
  viol ((!acc && nz f.acc) || (!acb && nz f.acb) || (!af && nz f.af) || (!rm && nz f.rm) || (!ss && nz f.ss) ||
    (!imm && nz f.imm) || nz f.rsv) 9 ++
  viol (af && decide (5 ≤ f.af.toNat)) 10 ++ (if rm then badRnd f.rm.toNat else [])

/-- Violations of an LM slot's data class, size and ordering (08 R242, R243). -/
def lmViol (dcl sz ord : Nat → Bool) (f : LM) : List Nat :=
  viol (f.dcl == 3) 10 ++ viol (f.sz == 7) 10 ++
  viol (!dcl f.dcl.toNat || !sz f.sz.toNat || !ord f.ord.toNat) 14

/-- DATA bits above the scalar name, `.s` allowed or not (08 R242, R245). -/
def lmScalar (sext : Bool) (f : LM) : List Nat :=
  viol (f.dcl == 0 && decide ((if sext then 128 else 64) ≤ f.data.toNat)) 9

/-- Sets of small codes. -/
def isOf (l : List Nat) (x : Nat) : Bool := l.contains x
@[inherit_doc isOf]
def anyCode (_ : Nat) : Bool := true

/-- Violations of the address-less LM operations: BASE, SZ, ORD and QS zero, since no address steps, and DCL zero
(08 R251, R252, 04 R108, R115). -/
def cbViol (data : Bool) (f : LM) : List Nat :=
  viol (nz f.base || nz f.sz || nz f.ord || nz f.qs || (!data && nz f.data)) 9 ++ viol (f.dcl == 3) 10 ++ viol (nz f.dcl) 14

/-- A pointer operation's handle and count (08 R252). -/
def cbN (f : LM) : List Nat := viol (decide (4096 ≤ f.imm.toNat)) 9 ++ viol (bf f.imm 4 8 == 0) 14

/-- Version operand (08 R279). -/
def verViol (store : Bool) (f : LM) : List Nat :=
  lmViol (isOf [0, 1, 2]) (isOf [0, 1, 2, 3, 4, 5]) (isOf (if store then [0, 2] else [0, 1])) f ++
  lmScalar (!store) f ++ viol (decide (64 ≤ f.imm.toNat)) 9 ++
  viol ((f.dcl == 0) != decide (f.sz.toNat < 4)) 14

/-- Violations of an LC slot (04 R122). -/
def lcViol (md fmt qs : Bool) (f : LC) : List Nat :=
  viol (nz f.rsv || (!md && nz f.md) || (!fmt && nz f.fmt) || (!qs && nz f.qs)) 9 ++
  viol (decide (20 ≤ f.fmt.toNat)) 10

/-- Violations of a BG slot whose used fields are named (04 R123, R115). -/
def bgViol (sd sa sb fn imm : Bool) (f : BG) : List Nat :=
  viol ((!sd && nz f.sd) || (!sa && nz f.sa) || (!sb && nz f.sb) || (!fn && nz f.fn) || (!imm && nz f.imm)) 9

/-- An immediate beyond its low `w` bits. -/
def bgImm (w : Nat) (f : BG) : List Nat := viol (decide (2 ^ w ≤ f.imm.toNat)) 9

/-- A group level of 0 or 7 (01 R17). -/
def bgLevel (f : BG) : List Nat := viol (bf f.imm 0 3 == 0 || bf f.imm 0 3 == 7) 10

/-- Bit width of a `red` element type, 0 for one it does not accept (09 R301). -/
def redWidth (et : Nat) : Nat := if et == 4 || et == 5 || et == 10 then 32 else if et == 6 || et == 7 || et == 11 then 64 else 0

/-- The reasons of 04 R129 that the fields of a slot operation meet, guards apart. -/
def slotViol : Instr → List Nat
  | .add f => srInt false f
  | .sub f => srInt false f
  | .addi _ => []
  | .mul f => srInt false f
  | .mulh f => srInt false f
  | .mulhu f => srInt false f
  | .div f => srInt false f
  | .divu f => srInt false f
  | .rem f => srInt false f
  | .remu f => srInt false f
  | .and f => srInt false f
  | .or f => srInt false f
  | .xor f => srInt false f
  | .andn f => srInt false f
  | .shl f => srInt false f
  | .shr f => srInt false f
  | .sra f => srInt false f
  | .shli f => siImm 6 f
  | .shri f => siImm 6 f
  | .srai f => siImm 6 f
  | .clz f => srInt true f
  | .ctz f => srInt true f
  | .popc f => srInt true f
  | .min f => srInt false f
  | .max f => srInt false f
  | .minu f => srInt false f
  | .maxu f => srInt false f
  | .sel _ => []
  | .cmp f => viol (decide (8 ≤ f.sd.toNat)) 9 ++ viol (decide (6 ≤ f.fn.toNat)) 14
  | .li _ => []
  | .lui _ => []
  | .mov f => srInt true f
  | .sext f => siImm 6 f
  | .zext f => siImm 6 f
  | .bfx f => viol (decide (2 ≤ f.fn.toNat)) 9
  | .bfi f => srInt false f
  | .addr _ => []
  | .fadd f => srFloat false f
  | .fsub f => srFloat false f
  | .fmul f => srFloat false f
  | .fmadd f => srFloat false f
  | .fdiv f => srFloat false f
  | .fsqrt f => srFloat true f
  | .fmin f => viol (decide (2 ≤ f.fn.toNat)) 9
  | .fmax f => viol (decide (2 ≤ f.fn.toNat)) 9
  | .fcmp f => viol (decide (16 ≤ f.sd.toNat)) 9 ++ viol (decide (5 ≤ f.fn.toNat)) 14
  | .fcvt f => viol (bit f.fn 0) 9 ++ badRnd (bf f.fn 1 3)
  | .fmvx f => viol ((bf f.fn 1 3 == 3 || bf f.fn 1 3 == 4) && nz f.sb) 9 ++ viol (decide (5 ≤ bf f.fn 1 3)) 14
  | .rdd f => siImm 4 f ++ viol (nz f.sa) 9
  | .rdsys f => viol (nz f.sa) 9 ++ viol (!rdsysSel f.imm.toNat) 14
  | .rdtime f => viol (nz f.sa || nz f.sb || nz f.fn) 9
  | .mbrd f => siImm 6 f ++ viol (nz f.sa) 9
  | .mbwr f => siImm 6 f ++ viol (nz f.sd) 9
  | .vadd f => vrViol { types := tInt } f
  | .vsub f => vrViol { types := tInt } f
  | .vmul f => vrViol { types := tInt } f
  | .vmulh f => vrViol { types := tInt } f
  | .vmadd f => vrViol { types := tInt, vd := .reg } f
  | .vabs f => vrViol { types := tSigned, vb := .none } f
  | .vneg f => vrViol { types := tSigned, vb := .none } f
  | .vmin f => vrViol { types := tInt } f
  | .vmax f => vrViol { types := tInt } f
  | .vsadd f => vrViol { types := tInt } f
  | .vssub f => vrViol { types := tInt } f
  | .vshl f => vrViol { types := tInt } f
  | .vshr f => vrViol { types := tInt } f
  | .vsra f => vrViol { types := tInt } f
  | .vand f => vrViol { types := tAll } f
  | .vor f => vrViol { types := tAll } f
  | .vxor f => vrViol { types := tAll } f
  | .vnot f => vrViol { types := tAll, vb := .none } f
  | .vclz f => vrViol { types := tInt, vb := .none } f
  | .vpopc f => vrViol { types := tInt, vb := .none } f
  | .vfadd f => vrViol { types := tFloatC, rm := .round } f
  | .vfsub f => vrViol { types := tFloatC, rm := .round } f
  | .vfmul f => vrViol { types := tFloat, rm := .round } f
  | .vfma f => vrViol { types := tFloat, rm := .round, vd := .reg } f
  | .vfms f => vrViol { types := tFloat, rm := .round, vd := .reg } f
  | .vfmin f => vrViol { types := tFloat } f
  | .vfmax f => vrViol { types := tFloat } f
  | .vfabs f => vrViol { types := tFloat, vb := .none } f
  | .vfneg f => vrViol { types := tFloatC, vb := .none } f
  | .vfrcp f => vrViol { types := tFloat, vb := .none, rm := .round } f
  | .vfrsqrt f => vrViol { types := tFloat, vb := .none } f
  | .vfsqrt f => vrViol { types := tFloat, vb := .none, rm := .round } f
  | .vfexp2 f => vrViol { types := tFloat, vb := .none } f
  | .vflog2 f => vrViol { types := tFloat, vb := .none } f
  | .vftanh f => vrViol { types := tFloat, vb := .none } f
  | .vferf f => vrViol { types := tFloat, vb := .none } f
  | .vfsin f => vrViol { types := tFloat, vb := .none } f
  | .vfcos f => vrViol { types := tFloat, vb := .none } f
  | .vcmul f => vrViol { types := tCplx, rm := .round } f
  | .vcmla f => vrViol { types := tCplx, rm := .round, vd := .reg } f
  | .vcmp f => vrViol { types := tInt, vd := .mask, rm := .rel 5, mrg := false } f
  | .vfcmp f => vrViol { types := tFloat, vd := .mask, rm := .rel 6, mrg := false } f
  | .mand f => viol (nz f.et) 9 ++ vrViol { types := tAll, vd := .mask, va := .mask, vb := .mask, mrg := false } f
  | .mor f => viol (nz f.et) 9 ++ vrViol { types := tAll, vd := .mask, va := .mask, vb := .mask, mrg := false } f
  | .mxor f => viol (nz f.et) 9 ++ vrViol { types := tAll, vd := .mask, va := .mask, vb := .mask, mrg := false } f
  | .mnot f => viol (nz f.et) 9 ++ vrViol { types := tAll, vd := .mask, va := .mask, vb := .none, mrg := false } f
  | .mpopc f => vrViol { types := tAll, vd := .scalar, va := .mask, vb := .none, mrg := false } f
  | .mffs f => vrViol { types := tAll, vd := .scalar, va := .mask, vb := .none, mrg := false } f
  | .vsel f => vrViol { types := tAll, mrg := false } f
  | .vcvt f => vcvtViol f
  | .vqnt f => vqViol false true true f
  | .vdq f => vqViol false false false f
  | .vqc4 f => vqViol true true true f
  | .vdqc4 f => vqViol true true false f
  | .vsrseed f => viol (nz f.mrg || nz f.w || nz f.et || nz f.rm) 9 ++ vdViol .none f.vd f.dc ++ vsViol .bcast false f.va f.ac ++ vsViol .none false f.vb f.bc ++ viol (nz f.mask) 14
  | .vmov f => vrViol { types := tAll, vb := .none } f
  | .vbcast f => vrViol { types := tAll, vb := .bcast } f
  | .vperm f => vrViol { types := tAll, mrg := false } f
  | .vshuf f => vrViol { types := tAll, va := .reg, mrg := false } f
  | .vslide f => vrViol { types := tAll, vb := .bcast, mrg := false } f
  | .vcompress f => vrViol { types := tAll, vb := .sel 6, mrg := false } f
  | .vcompressKeep f => vrViol { types := tAll, vb := .sel 6, mrg := false } f
  | .vexpand f => vrViol { types := tAll, vb := .none, mrg := false } f
  | .vzip f => vrViol { types := tAll, rm := .low, mrg := false } f
  | .vunzip f => vrViol { types := tAll, rm := .low, mrg := false } f
  | .vext f => vrViol { types := tReal, vd := .scalar, vb := .bcast, mrg := false, maskZero := true } f
  | .vins f => vrViol { types := tReal, va := .bcast, vb := .bcast, mrg := false, maskZero := true } f
  | .vred f => vrViol { types := tInt, vd := .scalar, vb := .none, rm := .rel 5, mrg := false } f
  | .vfred f => vrViol { types := tFloat, vd := .scalar, vb := .sel 2, rm := .noSr, mrg := false } f ++ viol (bf f.vb 0 2 == 3) 14
  | .vscan f => vrViol { types := tReal, vb := .sel 1, rm := .noSr, mrg := false } f ++ viol (tInt f.et.toNat && nz f.rm) 9
  | .vhist f => vrViol { types := tInt, vd := .reg, vb := .none, mrg := false } f
  | .arow f => vrViol { types := tTile, va := .tile, vb := .bcast, mrg := false } f ++ viol (f.w != 2) 14
  | .acol f => vrViol { types := tTile, va := .tile, vb := .bcast, mrg := false } f ++ viol (f.w != 2) 14
  | .awrow f => vrViol { types := tTile, vd := .tile, vb := .bcast, mrg := false } f ++ viol (f.w != 2) 14
  | .awcol f => vrViol { types := tTile, vd := .tile, vb := .bcast, mrg := false } f ++ viol (f.w != 2) 14
  | .mld f => viol (nz f.acc || nz f.cb || nz f.ce || nz f.cal || nz f.rm || nz f.rsv) 9 ++ mxSrc f ++ mxFmt f
  | .mldw f => viol (nz f.acc || nz f.cb || nz f.ce || nz f.cal || nz f.rm || nz f.rsv) 9 ++ mxSrc f ++ mxFmt f
  | .mswap f => mcViol false false false false false false f
  | .mma f => viol (nz f.ca || nz f.cb || nz f.rm || nz f.rsv) 9 ++ mxSrc f ++ mxFmt f ++ viol (f.fa == 1 || f.fa == 3) 14
  | .mmas f => viol (nz f.ca || nz f.cb || nz f.rm || nz f.rsv) 9 ++ mxSrc f ++ mxFmt f ++ viol (decide (f.fa.toNat ≤ 3)) 14
  | .mmac f => viol (nz f.qs || nz f.ca || nz f.cb || nz f.rsv || decide (1024 ≤ f.src.toNat)) 9 ++ mxFmt f ++ badRnd f.rm.toNat ++ viol (f.scl != 3 || nz f.ba || f.fa == 1 || f.fa == 3 || f.fa == 18) 14
  | .mmaC f => viol (nz f.ba || nz f.rm || nz f.rsv) 9 ++ mxSrc f ++ mxFmt f ++ viol (f.fa != 1 && f.fa != 3) 14
  | .azero f => mcViol true false false false false false f
  | .acvt f => mcViol true true true true false false f
  | .aadd f => mcViol true true false true false false f
  | .acfg f => mcViol true false true false false false f
  | .await f => mcViol true false false false false true f ++ viol (nz f.imm) 9
  | .awaitAll f => mcViol false false false false false true f ++ viol (f.imm != 1) 9
  | .mpcset f => mcViol false false false false true false f
  | .mstat f => mcViol false false false false true true f ++ viol (decide (2 ≤ f.imm.toNat)) 14
  | .aclr f => mcViol true false false false false false f
  | .aload f => mcViol true false true false true false f
  | .ld f => lmViol (isOf [0]) (isOf [0, 1, 2, 3]) (isOf [0, 1, 2, 3]) f ++ lmScalar true f
  | .st f => lmViol (isOf [0]) (isOf [0, 1, 2, 3]) (isOf [0, 2]) f ++ lmScalar false f
  | .ldv f => lmViol (isOf [1, 2]) (isOf [4, 5, 6]) (isOf [0, 1, 2, 3]) f
  | .stv f => lmViol (isOf [1, 2]) (isOf [4, 5, 6]) (isOf [0, 2]) f
  | .ldvs f => lmViol (isOf [1, 2]) (isOf [0, 1, 2, 3]) (isOf [0]) f
  | .stvs f => lmViol (isOf [1, 2]) (isOf [0, 1, 2, 3]) (isOf [0]) f
  | .ldvg f => lmViol (isOf [1, 2]) (isOf [2, 3]) (isOf [0]) f ++ viol (decide (2048 ≤ f.imm.toNat)) 9
  | .stvg f => lmViol (isOf [1, 2]) (isOf [2, 3]) (isOf [0]) f ++ viol (decide (2048 ≤ f.imm.toNat)) 9
  | .ldf f => lmViol (isOf [0]) (isOf [3]) (isOf [0]) f ++ lmScalar false f
  | .ldfe f => lmViol (isOf [0]) (isOf [3]) (isOf [0]) f ++ lmScalar false f
  | .ste f => lmViol (isOf [0]) (isOf [3]) (isOf [0]) f ++ lmScalar false f
  | .stf f => lmViol (isOf [0]) (isOf [3]) (isOf [0]) f ++ lmScalar false f
  | .tagset f => lmViol (isOf [0]) anyCode anyCode f ++ lmScalar false f ++ viol (nz f.sz || nz f.ord) 9
  | .tagclr f => lmViol (isOf [0]) anyCode anyCode f ++ lmScalar false f ++ viol (nz f.sz || nz f.ord) 9
  | .tld f => lcViol true true true f ++ viol ((bit f.md 2 && f.fmt != 1 && f.fmt != 3) || (bit f.md 1 && f.fmt != 14 && f.fmt != 18) || (bit f.md 1 && bit f.md 0)) 14
  | .tst f => lcViol true true true f ++ viol ((bit f.md 2 && f.fmt != 1 && f.fmt != 3) || bit f.md 1) 14
  | .cpy f => lcViol false false true f
  | .rgather f => lcViol false false true f
  | .rscatter f => lcViol false false true f
  | .amo f => lmViol (isOf [0]) (isOf [2, 3]) (isOf [0, 1, 2, 3]) f ++ lmScalar false f ++ viol (decide (12 < bf f.imm 12 4) || (bf f.imm 12 4 != 9 && bf f.imm 6 6 != 0)) 14
  | .red f => lmViol (isOf [0, 1, 2]) (isOf [2, 3, 4, 5, 6]) (isOf [0, 2]) f ++ lmScalar false f ++ viol (bf f.imm 0 8 != 0 || nz f.sbs) 9 ++ viol (bf f.imm 8 4 == 15) 10 ++ viol (nz f.se || decide (5 < bf f.imm 12 4) || redWidth (bf f.imm 8 4) == 0 || (decide (1 ≤ bf f.imm 12 4) && decide (bf f.imm 12 4 ≤ 3) && decide (10 ≤ bf f.imm 8 4)) || (f.dcl == 0 && redWidth (bf f.imm 8 4) != 8 * 2 ^ f.sz.toNat) || (f.dcl != 0 && decide (f.sz.toNat < 4))) 14
  | .verld f => verViol false f
  | .verle f => verViol false f
  | .verst f => verViol true f
  | .verfl f => lmViol (isOf [0]) anyCode (isOf [0]) f ++ viol (nz f.data || nz f.sz || decide (64 ≤ f.imm.toNat)) 9
  | .vernew f => lmViol (isOf [0]) anyCode (isOf [0]) f ++ lmScalar false f ++ viol (nz f.sz || nz f.imm) 9
  | .stopk f => lmViol (isOf [1, 2]) (isOf [1, 2]) (isOf [0]) f ++ viol (decide (2048 ≤ f.imm.toNat)) 9 ++ viol (decide (bf f.imm 0 8 < bf f.imm 8 3)) 14
  | .cbcfg f => cbViol true f ++ lmScalar false f ++ viol (decide (16 ≤ f.imm.toNat) || nz f.se || nz f.sbs || nz f.we || nz f.sbw) 9
  | .cbwait f => cbViol false f ++ cbN f
  | .cbpop f => cbViol false f ++ cbN f
  | .cbresv f => cbViol false f ++ cbN f
  | .cbpush f => cbViol true f ++ cbN f ++ viol (decide (32 ≤ f.data.toNat) || (!bit f.data 4 && nz f.data)) 9
  | .coll f => lcViol false true false f
  | .pf f => lmViol (isOf [0]) anyCode anyCode f ++ viol (decide (4 ≤ f.data.toNat) || nz f.sz || nz f.ord) 9 ++ viol (decide (2 ≤ bf f.data 0 2)) 14
  | .br f => viol (nz f.sd || nz f.sa || nz f.rsv) 9
  | .bt f => viol ((f.nt == 0 && (nz f.t1 || nz f.l1)) || (decide (f.nt.toNat ≤ 1) && (nz f.t2 || nz f.l2)) || (decide (f.nt.toNat ≤ 2) && (nz f.t3 || nz f.l3))) 9
  | .call f => viol (nz f.sa || nz f.rsv) 9
  | .ret f => viol (nz f.sd || nz f.off || nz f.rsv) 9
  | .jr f => viol (nz f.rsv) 9
  | .loop f => viol (nz f.neg || nz f.cc || nz f.rsv) 9
  | .loopw f => viol (nz f.sa || nz f.rsv) 9 ++ viol (f.max == 0) 14
  | .brk f => bgViol false false false false true f
  | .trap f => bgViol false false false false true f
  | .yield f => bgViol false false false false false f
  | .exit f => bgViol false false false false false f
  | .spawn f => bgImm 2 f ++ viol (nz f.sd || nz f.fn || decide (56 < f.sb.toNat)) 14
  | .nextr f => bgViol true false false false false f ++ viol (decide (8 ≤ f.sd.toNat)) 9
  | .waitsb f => bgViol false false false false true f ++ bgImm 16 f
  | .fence f => bgViol false false false false false f
  | .fenceS f => bgViol false false false false false f
  | .bar f => bgViol true false false true true f ++ bgImm 3 f ++ bgLevel f ++ viol (nz f.fn) 14
  | .barArv f => bgViol true false false true true f ++ bgImm 3 f ++ bgLevel f ++ viol (f.fn != 1) 14
  | .barwait f => bgViol false true false false true f ++ bgImm 3 f ++ bgLevel f
  | .tagwaitany f => bgViol false true false false true f ++ bgImm 16 f
  | .tagwaitall f => bgViol false true false false true f ++ bgImm 16 f
  | .tagffr f => bgViol true true false false true f ++ bgImm 16 f
  | .tlwait f => bgViol false true false true true f ++ bgImm 3 f ++ viol (nz f.fn) 14
  | .tlwaitBind f => bgViol false true false true true f ++ bgImm 3 f ++ viol (f.fn != 1) 14
  | .tlwaitRead f => bgViol true false false true true f ++ bgImm 3 f ++ viol (f.fn != 2) 14
  | .handreq f => bgViol false false false false true f ++ bgImm 4 f ++ viol (decide (8 < f.imm.toNat)) 14
  | .handrel f => bgViol false false false false true f ++ bgImm 4 f ++ viol (decide (8 < f.imm.toNat)) 14
  | .blend f => bgViol false false false false true f ++ bgImm 3 f
  | .bret f => bgViol false false false false true f ++ bgImm 3 f
  | .cstep f => bgViol true false false false true f ++ viol (nz (f.imm &&& 0xF000F000)) 9 ++ viol (decide (4096 < bf f.imm 0 12 + bf f.imm 16 12 + 1)) 14
  | .cset f => bgViol false true true false false f
  | .cpin f => bgViol false true true false false f
  | .cread f => bgViol true true false false false f
  | .dstat f => bgViol true true false false true f ++ viol (decide (7 < f.imm.toNat)) 14
  | .dhint f => bgViol false true false false true f ++ viol (decide (3 < f.imm.toNat)) 14
  | .mtsy f => bgViol false true false false true f ++ bgImm 12 f ++ viol (!sysSel f.imm.toNat) 14
  | .mfsy f => bgViol true false false false true f ++ bgImm 12 f ++ viol (!sysSel f.imm.toNat) 14
  | .eret f => bgViol false false false true false f ++ viol (nz f.fn) 14
  | .eretEnd f => bgViol false false false true false f ++ viol (f.fn != 1) 14
  | .tlbinv f => bgViol false true false true false f ++ viol (decide (2 < f.fn.toNat)) 14
  | .ctxsave f => bgViol false true false false true f ++ bgImm 2 f
  | .ctxrestore f => bgViol false true false false true f ++ bgImm 2 f
  | .halt f => bgViol false false false false true f
  | .idleRun _ => []
  | .idleRunEnd => []
  | .stickyReissue => []
  | .xSpld _ _ => []
  | .xSpst _ _ => []
  | .xSpldfe _ _ => []
  | .xSpste _ _ => []
  | .xGld _ _ => []
  | .xGst _ _ => []
  | .xTagwait _ => []
  | .xRdd _ _ => []
  | .xCopy _ => []
  | .xCbcfg _ _ => []
  | .xCbwait _ _ => []
  | .xCbresv _ _ => []
  | .xCbpop _ _ => []
  | .xCbpush _ _ => []
  | .sidecarRiscvInstruction _ _ => []
  | .sidecarFault _ _ => []
  | .loadReturn _ _ => []
  | .storePerformed _ _ => []
  | .redCombine _ _ _ => []
  | .mOpStart _ => []
  | .mOpComplete _ _ => []
  | .metadataFetch _ => []
  | .statsRecordAdd _ => []
  | .handGrant _ => []
  | .handChangeEffect _ => []
  | .copyStart _ _ => []
  | .copyComplete _ _ => []
  | .copyFault _ _ => []
  | .deferredPush _ _ => []
  | .collectiveComplete _ _ _ => []
  | .barrierGenerationComplete _ _ _ => []
  | .versionReclaim _ _ => []
  | .couchJobStart _ => []
  | .couchJobComplete _ => []
  | .couchJobFail _ => []
  | .waitLimitTrap _ => []
  | .trapEntry _ => []
  | .shadowLatchDeliver _ _ => []
  | .contextPark _ => []
  | .gangStart _ => []
  | .launch _ => []
  | .graph _ => []
  | .taskAdmit _ => []
  | .groupPlace _ _ => []
  | .priorityAge _ => []
  | .starvationHold _ => []
  | .taskComplete _ => []
  | .taskEnd _ => []
  | .recordWrite _ => []
  | .nodeTask _ => []
  | .nodeCond _ => []
  | .nodeWhile _ => []
  | .nodeCalstep _ => []
  | .nodeRerun _ => []
  | .guessStart _ _ => []
  | .guessClaim _ => []
  | .guessDrop _ _ => []
  | .pageWalk _ _ _ _ => []
  | .faultPost _ => []
  | .verdictResolve _ _ _ => []
  | .verdictRefuse _ _ _ => []
  | .qcfgEnSet _ _ => []
  | .qcfgEnClear _ _ => []
  | .qctlRestart _ => []
  | .qctlReset _ => []
  | .qspecWrite _ _ => []
  | .dlrcfgWrite _ _ => []
  | .prctlPark => []
  | .prctlEvict => []
  | .prctlResume => []
  | .evictSave => []
  | .resumeRestore _ => []
  | .reamValidSet _ _ _ => []
  | .reamReady _ _ => []
  | .reamValidClear _ _ _ => []
  | .keySlotWrite _ _ => []
  | .calenderPreset _ _ => []
  | .calenderClr _ => []
  | .calenderWindowWrite _ _ _ => []
  | .registerWrite _ _ => []
  | .packageResetWrite => []
  | .powerOn => []
  | .bringupDone => []
  | .attgo => []
  | .attestDone => []
  | .haltreq _ => []
  | .release _ => []
  | .windowRead _ => []
  | .windowWrite _ => []
  | .memoryRead _ => []
  | .memoryWrite _ => []
  | .recoveryStage _ => []
  | .recoveryCommit _ => []
  | .malformedFrame _ => []
  | .fcsDrop _ => []
  | .ptpMessage _ => []
  | .gangAnnounce _ _ _ _ => []
  | .uePacket _ => []
  | .linkLost _ _ => []
  | .portStateChange _ _ => []
  | .flitReplay _ => []
  | .nocParityResend _ _ => []
  | .dieOvertemp _ => []
  | .governorTick _ _ _ => []
  | .unassignedCmd _ => []
  | .calenderReadCopyUpdate => []
  | .tlbInvalidationComplete _ => []

/-- The guard field of a slot; `bt` and the steps have none. -/
def guardOf : Instr → Nat
  | .add f => f.g.toNat
  | .sub f => f.g.toNat
  | .addi f => f.g.toNat
  | .mul f => f.g.toNat
  | .mulh f => f.g.toNat
  | .mulhu f => f.g.toNat
  | .div f => f.g.toNat
  | .divu f => f.g.toNat
  | .rem f => f.g.toNat
  | .remu f => f.g.toNat
  | .and f => f.g.toNat
  | .or f => f.g.toNat
  | .xor f => f.g.toNat
  | .andn f => f.g.toNat
  | .shl f => f.g.toNat
  | .shr f => f.g.toNat
  | .sra f => f.g.toNat
  | .shli f => f.g.toNat
  | .shri f => f.g.toNat
  | .srai f => f.g.toNat
  | .clz f => f.g.toNat
  | .ctz f => f.g.toNat
  | .popc f => f.g.toNat
  | .min f => f.g.toNat
  | .max f => f.g.toNat
  | .minu f => f.g.toNat
  | .maxu f => f.g.toNat
  | .sel f => f.g.toNat
  | .cmp f => f.g.toNat
  | .li f => f.g.toNat
  | .lui f => f.g.toNat
  | .mov f => f.g.toNat
  | .sext f => f.g.toNat
  | .zext f => f.g.toNat
  | .bfx f => f.g.toNat
  | .bfi f => f.g.toNat
  | .addr f => f.g.toNat
  | .fadd f => f.g.toNat
  | .fsub f => f.g.toNat
  | .fmul f => f.g.toNat
  | .fmadd f => f.g.toNat
  | .fdiv f => f.g.toNat
  | .fsqrt f => f.g.toNat
  | .fmin f => f.g.toNat
  | .fmax f => f.g.toNat
  | .fcmp f => f.g.toNat
  | .fcvt f => f.g.toNat
  | .fmvx f => f.g.toNat
  | .rdd f => f.g.toNat
  | .rdsys f => f.g.toNat
  | .rdtime f => f.g.toNat
  | .mbrd f => f.g.toNat
  | .mbwr f => f.g.toNat
  | .vadd f => f.g.toNat
  | .vsub f => f.g.toNat
  | .vmul f => f.g.toNat
  | .vmulh f => f.g.toNat
  | .vmadd f => f.g.toNat
  | .vabs f => f.g.toNat
  | .vneg f => f.g.toNat
  | .vmin f => f.g.toNat
  | .vmax f => f.g.toNat
  | .vsadd f => f.g.toNat
  | .vssub f => f.g.toNat
  | .vshl f => f.g.toNat
  | .vshr f => f.g.toNat
  | .vsra f => f.g.toNat
  | .vand f => f.g.toNat
  | .vor f => f.g.toNat
  | .vxor f => f.g.toNat
  | .vnot f => f.g.toNat
  | .vclz f => f.g.toNat
  | .vpopc f => f.g.toNat
  | .vfadd f => f.g.toNat
  | .vfsub f => f.g.toNat
  | .vfmul f => f.g.toNat
  | .vfma f => f.g.toNat
  | .vfms f => f.g.toNat
  | .vfmin f => f.g.toNat
  | .vfmax f => f.g.toNat
  | .vfabs f => f.g.toNat
  | .vfneg f => f.g.toNat
  | .vfrcp f => f.g.toNat
  | .vfrsqrt f => f.g.toNat
  | .vfsqrt f => f.g.toNat
  | .vfexp2 f => f.g.toNat
  | .vflog2 f => f.g.toNat
  | .vftanh f => f.g.toNat
  | .vferf f => f.g.toNat
  | .vfsin f => f.g.toNat
  | .vfcos f => f.g.toNat
  | .vcmul f => f.g.toNat
  | .vcmla f => f.g.toNat
  | .vcmp f => f.g.toNat
  | .vfcmp f => f.g.toNat
  | .mand f => f.g.toNat
  | .mor f => f.g.toNat
  | .mxor f => f.g.toNat
  | .mnot f => f.g.toNat
  | .mpopc f => f.g.toNat
  | .mffs f => f.g.toNat
  | .vsel f => f.g.toNat
  | .vcvt f => f.g.toNat
  | .vqnt f => f.g.toNat
  | .vdq f => f.g.toNat
  | .vqc4 f => f.g.toNat
  | .vdqc4 f => f.g.toNat
  | .vsrseed f => f.g.toNat
  | .vmov f => f.g.toNat
  | .vbcast f => f.g.toNat
  | .vperm f => f.g.toNat
  | .vshuf f => f.g.toNat
  | .vslide f => f.g.toNat
  | .vcompress f => f.g.toNat
  | .vcompressKeep f => f.g.toNat
  | .vexpand f => f.g.toNat
  | .vzip f => f.g.toNat
  | .vunzip f => f.g.toNat
  | .vext f => f.g.toNat
  | .vins f => f.g.toNat
  | .vred f => f.g.toNat
  | .vfred f => f.g.toNat
  | .vscan f => f.g.toNat
  | .vhist f => f.g.toNat
  | .arow f => f.g.toNat
  | .acol f => f.g.toNat
  | .awrow f => f.g.toNat
  | .awcol f => f.g.toNat
  | .mld f => f.g.toNat
  | .mldw f => f.g.toNat
  | .mswap f => f.g.toNat
  | .mma f => f.g.toNat
  | .mmas f => f.g.toNat
  | .mmac f => f.g.toNat
  | .mmaC f => f.g.toNat
  | .azero f => f.g.toNat
  | .acvt f => f.g.toNat
  | .aadd f => f.g.toNat
  | .acfg f => f.g.toNat
  | .await f => f.g.toNat
  | .awaitAll f => f.g.toNat
  | .mpcset f => f.g.toNat
  | .mstat f => f.g.toNat
  | .aclr f => f.g.toNat
  | .aload f => f.g.toNat
  | .ld f => f.g.toNat
  | .st f => f.g.toNat
  | .ldv f => f.g.toNat
  | .stv f => f.g.toNat
  | .ldvs f => f.g.toNat
  | .stvs f => f.g.toNat
  | .ldvg f => f.g.toNat
  | .stvg f => f.g.toNat
  | .ldf f => f.g.toNat
  | .ldfe f => f.g.toNat
  | .ste f => f.g.toNat
  | .stf f => f.g.toNat
  | .tagset f => f.g.toNat
  | .tagclr f => f.g.toNat
  | .tld f => f.g.toNat
  | .tst f => f.g.toNat
  | .cpy f => f.g.toNat
  | .rgather f => f.g.toNat
  | .rscatter f => f.g.toNat
  | .amo f => f.g.toNat
  | .red f => f.g.toNat
  | .verld f => f.g.toNat
  | .verle f => f.g.toNat
  | .verst f => f.g.toNat
  | .verfl f => f.g.toNat
  | .vernew f => f.g.toNat
  | .stopk f => f.g.toNat
  | .cbcfg f => f.g.toNat
  | .cbwait f => f.g.toNat
  | .cbpop f => f.g.toNat
  | .cbresv f => f.g.toNat
  | .cbpush f => f.g.toNat
  | .coll f => f.g.toNat
  | .pf f => f.g.toNat
  | .br f => f.g.toNat
  | .call f => f.g.toNat
  | .ret f => f.g.toNat
  | .jr f => f.g.toNat
  | .loop f => f.g.toNat
  | .loopw f => f.g.toNat
  | .brk f => f.g.toNat
  | .trap f => f.g.toNat
  | .yield f => f.g.toNat
  | .exit f => f.g.toNat
  | .spawn f => f.g.toNat
  | .nextr f => f.g.toNat
  | .waitsb f => f.g.toNat
  | .fence f => f.g.toNat
  | .fenceS f => f.g.toNat
  | .bar f => f.g.toNat
  | .barArv f => f.g.toNat
  | .barwait f => f.g.toNat
  | .tagwaitany f => f.g.toNat
  | .tagwaitall f => f.g.toNat
  | .tagffr f => f.g.toNat
  | .tlwait f => f.g.toNat
  | .tlwaitBind f => f.g.toNat
  | .tlwaitRead f => f.g.toNat
  | .handreq f => f.g.toNat
  | .handrel f => f.g.toNat
  | .blend f => f.g.toNat
  | .bret f => f.g.toNat
  | .cstep f => f.g.toNat
  | .cset f => f.g.toNat
  | .cpin f => f.g.toNat
  | .cread f => f.g.toNat
  | .dstat f => f.g.toNat
  | .dhint f => f.g.toNat
  | .mtsy f => f.g.toNat
  | .mfsy f => f.g.toNat
  | .eret f => f.g.toNat
  | .eretEnd f => f.g.toNat
  | .tlbinv f => f.g.toNat
  | .ctxsave f => f.g.toNat
  | .ctxrestore f => f.g.toNat
  | .halt f => f.g.toNat
  | _ => 0

/-- A reserved guard code, or a leaf beyond the tree's last (04 R113). -/
def guardViol (bt : Option BT) (g : Nat) : Bool :=
  match bt with
  | none => g == 8
  | some t => decide (6 ≤ g) || (decide (1 ≤ g) && decide (t.nt.toNat + 2 < g))

/-- Control transfers (04 R128). -/
def isTransfer : Instr → Bool
  | .br _ | .bt _ | .call _ | .ret _ | .jr _ | .loop _ | .loopw _ | .brk _ | .trap _ | .exit _ | .eret _ | .eretEnd _
  | .halt _ => true
  | _ => false

/-- The end bundle of a loop stands at or after its body (05 R162); `len` is the packet's length in bytes. -/
def loopEndViol (len : Nat) : Instr → Bool
  | .loop f | .loopw f => decide (f.last.toInt * 4 < (len : Int))
  | _ => false

/-- The least of a list of reasons. -/
def leastReason : List Nat → Option Nat
  | [] => none
  | r :: rs => match leastReason rs with | none => some r | some q => some (min r q)

/-- The reason a slot is illegal in its packet, if any (04 R129). -/
def slotIllegal (bt : Option BT) (rep : Bool) (len : Nat) (i : Instr) : Option Nat :=
  leastReason (slotViol i ++ viol (guardViol bt (guardOf i)) 11 ++ viol (isTransfer i && rep) 12 ++
    viol (loopEndViol len i) 14)

/-- The well-formedness that the encoding alone decides: no reason of R129 holds in a packet of its own. -/
def instrLegal (i : Instr) : Bool := (leastReason (slotViol i)).isNone

end Sys2Proof.Machine
end

