-- ==== Sys2Proof/Config.lean ====
section
/-!
DEFINITION. What an implementation fixes and the manual leaves open.  Each constant here is opaque: it has no body,
so no proof can rest on a value of it (00 R6, log entries 2, 6, 7 and 29).
-/

namespace Sys2Proof.Config

/-- A free value of `w` bits for the `n`-th unpredictable value of the run (00 R6); log entry 2. -/
opaque freeBits (w n : Nat) : BitVec w

/-- The SHA-384 digest that the attestation report holds (18 R445); log entry 6. -/
opaque sha384 (bytes : List Byte) : BitVec 384

/-- The attestation signature r, s over a digest, made with the derived key (18 R444, R445); log entry 6. -/
opaque attestSign (digest : BitVec 384) : BitVec 768

/-- Whether the fused key digest, the signature and the body digest of a firmware image all hold (18 R441);
log entry 6. -/
opaque imageSigned (image : List Byte) : Bool

/-- The firmware image that the flash holds when the package is made (18 R441); log entry 6. -/
opaque madeImage : List Byte

/-- Odolmesk's device certificate byte at offset `i` (18 R444); log entry 6. -/
opaque certByte (i : Nat) : Byte

/-- The fused minimum firmware version (18 R441); log entry 6. -/
opaque minVersion : BitVec 32

/-- The group scale of a QC4 group that a collective gathers from elements with the group scales given (08 R274);
log entry 29. -/
opaque mixedGroup (scales : List Nat) : BitVec 32

/-- The fused table of special-function values that the model's own bound on precision does not reach
(06 R185); log entry 7. -/
opaque specialTail (op bits code : Nat) : Nat

end Sys2Proof.Config
end

