-- ==== Sys2Proof/Machine/Num.lean ====
section
/-!
DEFINITION. Exact numbers and rounding (03 R67 to R98): the value of every code of every float format, the one
rounding step of R91 and R92, exact sums and products, division and square root, minimum, maximum and comparison.
An exact finite value is a sign, a natural number and a power of two; a quotient is rounded from its two naturals.
-/

namespace Sys2Proof.Machine

/-- Rounding modes (03 R91). -/
inductive Rnd where
  | rne | rtz | rup | rdn | sr
  deriving DecidableEq, Repr

/-- The mode a 3-bit field names; codes 5 to 7 are reserved (03 R91). -/
def Rnd.ofCode (c : Nat) : Option Rnd :=
  match c with
  | 0 => some .rne
  | 1 => some .rtz
  | 2 => some .rup
  | 3 => some .rdn
  | 4 => some .sr
  | _ => none

/-- The mode of a field that R129 has already checked. -/
def Rnd.get (c : Nat) : Rnd := (Rnd.ofCode c).getD .rne

/-- The real float formats (03 R67, R79). -/
inductive Fl where
  | fp64 | fp32 | fp16 | bf16 | f8e5 | f8e4 | f6e3 | f6e2 | f4
  deriving DecidableEq, Repr

/-- Significant bits, the leading one included (03 R79). -/
def Fl.prec : Fl → Nat
  | .fp64 => 53 | .fp32 => 24 | .fp16 => 11 | .bf16 => 8 | .f8e5 => 3 | .f8e4 => 4 | .f6e3 => 3 | .f6e2 => 4 | .f4 => 2

/-- Exponent of the smallest subnormal (03 R79). -/
def Fl.emin : Fl → Int
  | .fp64 => -1074 | .fp32 => -149 | .fp16 => -24 | .bf16 => -133 | .f8e5 => -16 | .f8e4 => -9
  | .f6e3 => -4 | .f6e2 => -3 | .f4 => -1

/-- Width of the code in bits (03 R67). -/
def Fl.width : Fl → Nat
  | .fp64 => 64 | .fp32 => 32 | .fp16 => 16 | .bf16 => 16 | .f8e5 => 8 | .f8e4 => 8 | .f6e3 => 6 | .f6e2 => 6 | .f4 => 4

/-- IEEE floats have infinities and NaNs; the others saturate (03 R67). -/
def Fl.ieee : Fl → Bool
  | .fp64 | .fp32 | .fp16 | .bf16 | .f8e5 => true
  | _ => false

/-- The magnitude code of the largest finite value (03 R79). -/
def Fl.maxCode : Fl → Nat
  | .fp64 => 0x7FEFFFFFFFFFFFFF | .fp32 => 0x7F7FFFFF | .fp16 => 0x7BFF | .bf16 => 0x7F7F | .f8e5 => 0x7B
  | .f8e4 => 0x7E | .f6e3 => 0x1F | .f6e2 => 0x1F | .f4 => 0x7

/-- The code of +∞ of an IEEE float. -/
def Fl.infCode (t : Fl) : Nat := t.maxCode + 1

/-- The canonical NaN (03 R71); the formats without a NaN take +0 (03 R96). -/
def Fl.nanCode : Fl → Nat
  | .fp64 => 0x7FF8000000000000 | .fp32 => 0x7FC00000 | .fp16 => 0x7E00 | .bf16 => 0x7FC0 | .f8e5 => 0x7E
  | .f8e4 => 0x7F | .f6e3 => 0 | .f6e2 => 0 | .f4 => 0

/-- The sign bit of a code, as a number to add. -/
def Fl.signBit (t : Fl) : Nat := 2 ^ (t.width - 1)

/-- An exact value: NaN, an infinity, or a sign and a magnitude n × 2^e (n = 0 is a signed zero). -/
inductive Num where
  | nan
  | inf (neg : Bool)
  | fin (neg : Bool) (n : Nat) (e : Int)
  deriving DecidableEq, Repr

/-- A positive or negative power-of-two multiple as a pair of naturals: n × 2^e = fst / snd. -/
def dyadic (n : Nat) (e : Int) : Nat × Nat :=
  if e ≥ 0 then (n * 2 ^ e.toNat, 1) else (n, 2 ^ (-e).toNat)

/-- An integer as an exact value; zero is +0 (03 R97). -/
def Num.ofInt (i : Int) : Num := .fin (decide (i < 0)) i.natAbs 0

/-- The value of a code (03 R70, R73 to R77). -/
def Fl.decode (t : Fl) (code : Nat) : Num :=
  let neg := decide (t.signBit ≤ code % 2 ^ t.width)
  let mag := code % t.signBit
  let h := 2 ^ (t.prec - 1)
  if t.ieee ∧ mag = t.infCode then .inf neg
  else if (t.ieee ∧ mag > t.infCode) ∨ (t = .f8e4 ∧ mag = 0x7F) then .nan
  else if mag < h then .fin neg mag t.emin
  else .fin neg (h + mag % h) (t.emin + (mag / h : Nat) - 1)

/-- Is the code a NaN? -/
def Fl.isNan (t : Fl) (code : Nat) : Bool := decide (t.decode code = .nan)

/-- floor(log2 (num / den)) for positive num and den. -/
def floorLog2 (num den : Nat) : Int :=
  let k : Int := (Nat.log2 num : Int) - (Nat.log2 den : Int)
  let ge := if k ≥ 0 then decide (den * 2 ^ k.toNat ≤ num) else decide (den ≤ num * 2 ^ (-k).toNat)
  if ge then k else k - 1

/-- Which neighbour a value between the grid points m and m + 1 (of magnitude) takes: true for m + 1.
`rem / den` is the fraction above m, neither 0 nor 1 (03 R91, R94). -/
def roundUpMag (rm : Rnd) (draw : BitVec 32) (neg : Bool) (m rem den : Nat) : Bool :=
  match rm with
  | .rne => decide (den < 2 * rem) || (decide (2 * rem = den) && decide (m % 2 = 1))
  | .rtz => false
  | .rup => !neg
  | .rdn => neg
  | .sr =>
    if neg then !decide (draw.toNat < 2 ^ 32 * (den - rem) / den)
    else decide (draw.toNat < 2 ^ 32 * rem / den)

/-- Rounds num / den (not zero) to the grid of precision `prec` whose least step is 2^emin (03 R91): the result is
the pair m, e of m × 2^e. -/
def roundGrid (prec : Nat) (emin : Int) (rm : Rnd) (draw : BitVec 32) (neg : Bool) (num den : Nat) : Nat × Int :=
  let e := max emin (floorLog2 num den - (prec - 1 : Nat))
  let (a, b) := if e ≥ 0 then (num, den * 2 ^ e.toNat) else (num * 2 ^ (-e).toNat, den)
  let m := a / b
  let r := a % b
  if r = 0 then (m, e) else (if roundUpMag rm draw neg m r b then m + 1 else m, e)

/-- The magnitude code of m × 2^e on the unbounded grid of a format. -/
def Fl.gridCode (t : Fl) (m : Nat) (e : Int) : Nat := (e - t.emin).toNat * 2 ^ (t.prec - 1) + m

/-- The magnitude code that stands for an overflow (03 R92). -/
def Fl.overflow (t : Fl) (rm : Rnd) (neg : Bool) : Nat :=
  if !t.ieee then t.maxCode
  else match rm with
    | .rne | .sr => t.infCode
    | .rtz => t.maxCode
    | .rup => if neg then t.maxCode else t.infCode
    | .rdn => if neg then t.infCode else t.maxCode

/-- Puts a sign on a magnitude code. -/
def Fl.withSign (t : Fl) (neg : Bool) (mag : Nat) : Nat := if neg then t.signBit + mag else mag

/-- Rounds the exact magnitude num / den with a sign into a format, once (03 R91, R92). -/
def Fl.roundFrac (t : Fl) (rm : Rnd) (draw : BitVec 32) (neg : Bool) (num den : Nat) : Nat :=
  if num = 0 then t.withSign neg 0
  else
    let (m, e) := roundGrid t.prec t.emin rm draw neg num den
    let c := t.gridCode m e
    t.withSign neg (if c > t.maxCode then t.overflow rm neg else c)

/-- `convert` into a float format (03 R96). -/
def Fl.round (t : Fl) (rm : Rnd) (draw : BitVec 32) (x : Num) : Nat :=
  match x with
  | .nan => t.nanCode
  | .inf neg => t.withSign neg (if t.ieee then t.infCode else t.maxCode)
  | .fin neg n e => let (a, b) := dyadic n e; t.roundFrac rm draw neg a b

/-- Rounds to nearest even; no draw is used. -/
def Fl.rne (t : Fl) (x : Num) : Nat := t.round .rne 0 x

/-- An integer format: width and signedness (03 R78). -/
structure IFmt where
  bits : Nat
  signed : Bool
  deriving DecidableEq, Repr

/-- Least and largest values of an integer format (03 R78). -/
def IFmt.lo (t : IFmt) : Int := if t.signed then -(2 ^ (t.bits - 1) : Nat) else 0
@[inherit_doc IFmt.lo]
def IFmt.hi (t : IFmt) : Int := if t.signed then (2 ^ (t.bits - 1) : Nat) - 1 else (2 ^ t.bits : Nat) - 1

/-- The value of an integer code. -/
def IFmt.decode (t : IFmt) (code : Nat) : Int :=
  let c := code % 2 ^ t.bits
  if t.signed ∧ 2 ^ (t.bits - 1) ≤ c then (c : Int) - (2 ^ t.bits : Nat) else c

/-- The code of an integer, modulo 2^bits. -/
def IFmt.wrap (t : IFmt) (i : Int) : Nat := (i % (2 ^ t.bits : Nat)).toNat

/-- The code of an integer after saturation to the format's range (03 R92, R97). -/
def IFmt.sat (t : IFmt) (i : Int) : Nat := t.wrap (max t.lo (min t.hi i))

/-- Rounds an exact magnitude with a sign to an integer (03 R91). -/
def roundInt (rm : Rnd) (draw : BitVec 32) (neg : Bool) (num den : Nat) : Int :=
  let m := num / den
  let r := num % den
  let m' := if r = 0 then m else if roundUpMag rm draw neg m r den then m + 1 else m
  if neg then -(m' : Int) else m'

/-- `convert` into an integer format (03 R96, R97). -/
def IFmt.round (t : IFmt) (rm : Rnd) (draw : BitVec 32) (x : Num) : Nat :=
  match x with
  | .nan => 0
  | .inf neg => t.sat (if neg then t.lo else t.hi)
  | .fin neg n e => let (a, b) := dyadic n e; t.sat (roundInt rm draw neg a b)

/-- Negation of an exact value. -/
def Num.neg : Num → Num
  | .nan => .nan
  | .inf s => .inf (!s)
  | .fin s n e => .fin (!s) n e

/-- Absolute value. -/
def Num.abs : Num → Num
  | .nan => .nan
  | .inf _ => .inf false
  | .fin _ n e => .fin false n e

/-- Exact product; 0 × ∞ is a NaN (IEEE 754, 03 R71). -/
def Num.mul : Num → Num → Num
  | .nan, _ => .nan
  | _, .nan => .nan
  | .inf a, .inf b => .inf (a != b)
  | .inf a, .fin b n _ => if n = 0 then .nan else .inf (a != b)
  | .fin a n _, .inf b => if n = 0 then .nan else .inf (a != b)
  | .fin a n e, .fin b m f => .fin (a != b) (n * m) (e + f)

/-- Is the value finite? -/
def Num.isFin : Num → Bool
  | .fin .. => true
  | _ => false

/-- Is it a zero of either sign? -/
def Num.isZero : Num → Bool
  | .fin _ n _ => n = 0
  | _ => false

/-- The sign of the value (of a zero too). -/
def Num.isNeg : Num → Bool
  | .nan => false
  | .inf s => s
  | .fin s _ _ => s

/-- The value as an integer multiple of 2^e0, for e0 at or below its exponent. -/
def Num.scaled (e0 : Int) : Num → Int
  | .fin s n e => let v : Int := n * 2 ^ (e - e0).toNat; if s then -v else v
  | _ => 0

/-- The least exponent of a list of exact values. -/
def minExp (xs : List Num) : Int :=
  xs.foldl (fun acc x => match x with | .fin _ _ e => min acc e | _ => acc) 0

/-- Exact sum of a list (03 R71, R72, 07 R219): a NaN or infinities of both signs give NaN; an exact zero keeps
the common sign of zeros of one sign, and otherwise is +0, or −0 in round toward −∞. -/
def sumExact (rdn : Bool) (xs : List Num) : Num :=
  let pinf := xs.any (fun x => decide (x = .inf false))
  let ninf := xs.any (fun x => decide (x = .inf true))
  if xs.any (fun x => decide (x = .nan)) || (pinf && ninf) then .nan
  else if pinf then .inf false
  else if ninf then .inf true
  else
    let e0 := minExp xs
    let t := xs.foldl (fun acc x => acc + x.scaled e0) (0 : Int)
    if t = 0 then
      if xs.all (fun x => x.isZero && x.isNeg) then .fin true 0 0
      else if xs.all (fun x => x.isZero && !x.isNeg) then .fin false 0 0
      else .fin rdn 0 0
    else .fin (decide (t < 0)) t.natAbs e0

/-- round(x + y), rounding once (03 R72). -/
def Fl.addr (t : Fl) (rm : Rnd) (draw : BitVec 32) (xs : List Num) : Nat :=
  t.round rm draw (sumExact (decide (rm = .rdn)) xs)

/-- Quotient rounded once (05 R145). -/
def Fl.div (t : Fl) (rm : Rnd) (draw : BitVec 32) (x y : Num) : Nat :=
  match x, y with
  | .nan, _ => t.nanCode
  | _, .nan => t.nanCode
  | .inf _, .inf _ => t.nanCode
  | .inf a, .fin b _ _ => t.withSign (a != b) t.infCode
  | .fin a _ _, .inf b => t.withSign (a != b) 0
  | .fin a n e, .fin b m f =>
    if m = 0 then (if n = 0 then t.nanCode else t.withSign (a != b) t.infCode)
    else
      let (p, q) := dyadic n e
      let (r, s) := dyadic m f
      t.roundFrac rm draw (a != b) (p * s) (q * r)

/-- Integer square root by bits: the largest r below 2^k with r × r ≤ n. -/
def isqrtBits (n : Nat) : Nat → Nat → Nat
  | 0, r => r
  | k + 1, r => let r' := r + 2 ^ k; isqrtBits n k (if r' * r' ≤ n then r' else r)

/-- Floor of the square root. -/
def isqrt (n : Nat) : Nat := isqrtBits n (Nat.log2 n / 2 + 1) 0

/-- Square root rounded once (05 R145).  The root is taken to 100 bits past the format's precision with its last
bit set when it is inexact, which leaves every rounding decision as the exact root decides it. -/
def Fl.sqrt (t : Fl) (rm : Rnd) (draw : BitVec 32) (x : Num) : Nat :=
  match x with
  | .nan => t.nanCode
  | .inf s => if s then t.nanCode else t.infCode
  | .fin s n e =>
    if n = 0 then t.withSign s 0
    else if s then t.nanCode
    else
      let e' := if e % 2 = 0 then e else e - 1
      let n' := if e % 2 = 0 then n else 2 * n
      let k := t.prec + 100
      let w := n' * 2 ^ (2 * k)
      let r := isqrt w
      let r' := if r * r = w then 2 * r else 2 * r + 1
      let (a, b) := dyadic r' (e' / 2 - k - 1)
      t.roundFrac rm draw false a b

/-- The ordering of two values that are not NaNs, with +0 equal to −0. -/
def Num.lt (x y : Num) : Bool :=
  match x, y with
  | .nan, _ => false
  | _, .nan => false
  | .inf a, .inf b => a && !b
  | .inf a, .fin .. => a
  | .fin .., .inf b => !b
  | .fin a n e, .fin b m f =>
    let e0 := min e f
    decide (Num.scaled e0 (.fin a n e) < Num.scaled e0 (.fin b m f))

@[inherit_doc Num.lt]
def Num.eqv (x y : Num) : Bool :=
  match x, y with
  | .nan, _ => false
  | _, .nan => false
  | _, _ => !Num.lt x y && !Num.lt y x

/-- `fmin` and `fmax` on codes (05 R146): −0 below +0, one NaN gives the other operand, two the canonical NaN. -/
def Fl.minmax (t : Fl) (wantMax : Bool) (a b : Nat) : Nat :=
  let x := t.decode a
  let y := t.decode b
  match decide (x = .nan), decide (y = .nan) with
  | true, true => t.nanCode
  | true, false => b
  | false, true => a
  | false, false =>
    let aLess := Num.lt x y || (Num.eqv x y && x.isZero && x.isNeg)
    if aLess != wantMax then a else b

/-- The largest of a list of magnitudes; NaN-free. -/
def Num.maxAbs (xs : List Num) : Num :=
  xs.foldl (fun acc x => if Num.lt acc x.abs then x.abs else acc) (.fin false 0 0)

end Sys2Proof.Machine
end

