-- ==== Sys2Proof/Machine/Formats.lean ====
section
/-!
DEFINITION. Operand formats (03 R67 to R69), block scales (R82 to R85), the QC4 codebook (R86 to R89), format words
(02 R41), and the records a quantising or multiplying operation makes (06 R197).
-/

namespace Sys2Proof.Machine

/-! ### Real element types -/

/-- A real element type: a float format or an integer format. -/
inductive CvtTy where
  | fl (t : Fl)
  | int (t : IFmt)
  deriving DecidableEq, Repr

/-- Width in bits. -/
def CvtTy.bits : CvtTy → Nat
  | .fl t => t.width
  | .int t => t.bits

/-- The exact value of a code. -/
def CvtTy.dec (t : CvtTy) (x : Nat) : Num :=
  match t with
  | .fl t => t.decode x
  | .int t => Num.ofInt (t.decode x)

/-- `convert` into the type (03 R96, R97). -/
def CvtTy.enc (t : CvtTy) (rm : Rnd) (d : BitVec 32) (x : Num) : Nat :=
  match t with
  | .fl t => t.round rm d x
  | .int t => t.round rm d x

/-- The largest finite value (03 R79). -/
def CvtTy.max (t : CvtTy) : Num :=
  match t with
  | .fl t => t.decode t.maxCode
  | .int t => Num.ofInt t.hi

/-- A zero with a sign, where the type has one. -/
def CvtTy.zero (t : CvtTy) (neg : Bool) : Nat :=
  match t with
  | .fl t => t.withSign neg 0
  | .int _ => 0

/-- `convert` of the exact quotient x / s of finite values, s positive (03 R85). -/
def CvtTy.encDiv (t : CvtTy) (rm : Rnd) (d : BitVec 32) (x s : Num) : Nat :=
  match t with
  | .fl t => t.div rm d x s
  | .int t =>
    match x, s with
    | .fin a n e, .fin _ m f =>
      let (p, q) := dyadic n e
      let (r, u) := dyadic m f
      t.sat (roundInt rm d a (p * u) (q * r))
    | _, _ => 0

/-- The real type of an operand format code; a complex format gives that of a part (03 R67). -/
def fmtTy (fmt : Nat) : CvtTy :=
  match fmt with
  | 0 | 1 => .fl .fp64
  | 2 | 3 => .fl .fp32
  | 4 => .fl .fp16
  | 5 => .fl .bf16
  | 6 => .fl .f8e4
  | 7 => .fl .f8e5
  | 8 => .fl .f6e3
  | 9 => .fl .f6e2
  | 10 => .fl .f4
  | 11 => .int ⟨16, true⟩
  | 12 => .int ⟨8, true⟩
  | 13 => .int ⟨8, false⟩
  | 14 => .int ⟨4, true⟩
  | 15 => .int ⟨4, false⟩
  | 16 => .int ⟨2, true⟩
  | 17 => .int ⟨2, false⟩
  | 18 => .int ⟨4, false⟩
  | _ => .int ⟨16, false⟩

/-- Is the operand format complex? -/
def fmtCplx (fmt : Nat) : Bool := fmt == 1 || fmt == 3

/-- Bits of an element (03 R67). -/
def fmtBits (fmt : Nat) : Nat := (if fmtCplx fmt then 2 else 1) * (fmtTy fmt).bits

/-- The real type of a vector element type; a complex type gives that of a part (03 R81). -/
def etTy (et : Nat) : CvtTy :=
  if et ≤ 7 then .int ⟨if et ≤ 1 then 8 else if et ≤ 3 then 16 else if et ≤ 5 then 32 else 64, et % 2 == 0⟩
  else if et = 8 then .fl .fp16 else if et = 9 then .fl .bf16
  else if et = 10 ∨ et = 12 then .fl .fp32 else .fl .fp64

/-- Pip widths (01 R27). -/
def pipWidth (fmt : Nat) : Nat :=
  match fmt with
  | 0 | 1 => 32
  | 2 | 3 => 16
  | 4 | 11 | 19 => 8
  | 5 | 12 | 13 | 18 => 4
  | 6 | 7 | 8 | 9 | 14 | 15 => 2
  | _ => 1

/-! ### Packing -/

/-- Bytes of a packed run of `n` elements of `w` bits (03 R68). -/
def runBytes (w n : Nat) : Nat := if w = 6 then 3 * cdiv n 4 else cdiv (w * n) 8

/-- Bit of element `i` of a packed type in a vector register (03 R69). -/
def pkOff (w i : Nat) : Nat := if w = 6 then 256 * (i / 40) + 6 * (i % 40) else w * i

/-- Elements of a packed type that `b` bits of register hold (03 R69). -/
def pkCap (w b : Nat) : Nat := if w = 6 then 40 * (b / 256) else b / w

/-- Codes placed in a register by R69, padding zero. -/
def pkPlace (w : Nat) (cs : List Nat) : Nat := cs.zipIdx.foldl (fun a e => a + (e.1 % 2 ^ w) * 2 ^ pkOff w e.2) 0

/-- Codes read from a register by R69. -/
def pkRead (w n x : Nat) : List Nat := (upto n).map (fun i => x / 2 ^ pkOff w i % 2 ^ w)

/-! ### Format words (02 R41) -/

/-- The fields of bits [12:0] of a format word: rounding, scheme, block code and format. -/
structure FmtWord where
  rnd : Nat
  sch : Nat
  blk : Nat
  fmt : Nat
  deriving DecidableEq, Repr

/-- The fields of a format word. -/
def FmtWord.of (x : Nat) : FmtWord := ⟨fld x 10 3, fld x 8 2, fld x 5 3, fld x 0 5⟩

/-- A format word is valid (02 R41). -/
def FmtWord.valid (f : FmtWord) : Bool :=
  decide (f.fmt < 20) && decide (f.rnd ≤ 4) && decide (f.sch ≤ 2) && decide (f.blk ≤ 4) &&
    (f.sch != 1 || s9Fmt f.fmt) && ((f.sch == 2) == (f.fmt == 18)) && (f.sch != 2 || f.blk == 3) &&
    ((f.blk != 0) == (f.sch != 0))

/-- The scheme that a format and a block code imply. -/
def schOf (fmt blk : Nat) : Nat := if fmt = 18 then 2 else if blk = 0 then 0 else 1

/-- Classes of the array: FP64, FP32, narrow real, integer, CF64, CF32 (07 R212). -/
def fmtClass (fmt blk : Nat) : Nat :=
  if fmt = 0 then 0 else if fmt = 2 then 1 else if fmt = 1 then 4 else if fmt = 3 then 5
  else if fmt = 11 ∨ fmt = 19 then 3
  else if 12 ≤ fmt ∧ fmt ≤ 17 then (if blk = 0 then 3 else 2)
  else 2

/-! ### S9 block scales (03 R82 to R85) -/

/-- The value of an S9 code (03 R82). -/
def s9Val (c : Nat) : Num :=
  let c := c % 512
  let e := c / 4
  if e = 127 then .nan
  else if e = 0 then .fin false (c % 4) (-64)
  else .fin false (4 + c % 4) ((e : Int) - 65)

/-- The value of an element under a scale (03 R84). -/
def scaled (t : CvtTy) (code scale : Nat) : Num := (t.dec code).mul (s9Val scale)

/-- The scale of a block whose largest magnitude is `a` > 0 (03 R85). -/
def s9Scale (t : CvtTy) (a : Num) : Nat :=
  (((upto 0x1FC).drop 1).find? (fun c => !Num.lt ((s9Val c).mul t.max) a)).getD 0x1FB

/-- Encodes one block: its scale and its element codes (03 R85). -/
def s9Encode (t : CvtTy) (rm : Rnd) (ds : List (BitVec 32)) (xs : List Num) : Nat × List Nat :=
  if xs.any (fun x => !x.isFin) then (0x1FC, xs.map (fun _ => 0))
  else
    let a := Num.maxAbs xs
    if a.isZero then (0, xs.map (fun x => t.zero x.isNeg))
    else
      let c := s9Scale t a
      (c, List.zipWith (fun d x => t.encDiv rm d x (s9Val c)) ds xs)

/-- A list cut into blocks of `l`; `fuel` bounds their number. -/
def blocksOf {α : Type} (l : Nat) : Nat → List α → List (List α)
  | 0, _ => []
  | f + 1, xs => if xs.isEmpty then [] else xs.take l :: blocksOf l f (xs.drop l)

/-- Encodes a run block by block. -/
def s9Run (t : CvtTy) (l : Nat) (rm : Rnd) (ds : List (BitVec 32)) (xs : List Num) : List (Nat × List Nat) :=
  List.zipWith (fun d x => s9Encode t rm d x) (blocksOf l xs.length ds) (blocksOf l xs.length xs)

/-! ### QC4 (03 R86 to R89) -/

/-- Magnitudes of the codebook's upper half, in units of 1/128 (03 R86). -/
def qcMags : List Nat := [5, 16, 28, 40, 53, 69, 91, 128]

/-- w(c) (03 R86). -/
def qcW (c : Nat) : Int :=
  if 8 ≤ c then ((qcMags.getD (c - 8) 0 : Nat) : Int) else -((qcMags.getD (7 - c) 0 : Nat) : Int)

/-- The value of an element with block code `b` and group scale code `g` (03 R88). -/
def qcVal (c b g : Nat) : Num :=
  let w := qcW (c % 16)
  ((Num.fin (decide (w < 0)) w.natAbs (-7)).mul (Fl.fp32.decode g)).mul (.fin false (b % 256 + 1) (-8))

/-- The nearest codebook code of a sign and a magnitude num / den; a tie goes to the smaller magnitude (03 R89). -/
def qcNearest (neg : Bool) (num den : Nat) : Nat :=
  let dist (w : Nat) : Nat := if w * den ≤ 128 * num then 128 * num - w * den else w * den - 128 * num
  let j := (qcMags.zipIdx.foldl (fun (best : Nat × Nat) (e : Nat × Nat) =>
    if dist e.1 < best.1 then (dist e.1, e.2) else best) (dist 5, 0)).2
  if neg then 7 - j else 8 + j

/-- Stochastic selection between adjacent codebook values (03 R89, R94). -/
def qcStochastic (d : BitVec 32) (neg : Bool) (num den : Nat) : Nat :=
  let y : Int := if neg then -((128 * num : Nat) : Int) else ((128 * num : Nat) : Int)
  let below := (upto 16).filter (fun c => decide (qcW c * (den : Int) ≤ y))
  match below.getLast? with
  | none => 0
  | some c =>
    if c = 15 ∨ qcW c * (den : Int) = y then c
    else
      let r := (y - qcW c * (den : Int)).toNat
      if d.toNat < 2 ^ 32 * r / ((qcW (c + 1) - qcW c).toNat * den) then c + 1 else c

/-- The code of an element x of a block whose scale is t (03 R89). -/
def qcCode (rm : Rnd) (d : BitVec 32) (x t : Num) : Nat :=
  let sel (neg : Bool) (p q : Nat) : Nat := if rm = .sr then qcStochastic d neg p q else qcNearest neg p q
  match x, t with
  | .fin a n e, .fin _ m f =>
    let (p, q) := dyadic n e
    let (r, u) := dyadic m f
    if m = 0 then sel a p q else sel a (p * u) (q * r)
  | _, _ => 8

/-- The scale t of a block with code `b` in a group of scale code `g` (03 R89). -/
def qcScale (g b : Nat) : Num := (Fl.fp32.decode g).mul (.fin false (b + 1) (-8))

/-- Block code of a largest magnitude under a nonzero group scale (03 R89). -/
def qcBlock (g : Nat) (a : Num) : Nat :=
  match a, Fl.fp32.decode g with
  | .fin _ n e, .fin _ m f =>
    if m = 0 then 0
    else
      let (p, q) := dyadic n e
      let (r, u) := dyadic m f
      min 255 (cdiv (256 * p * u) (q * r) - 1)
  | _, _ => 0

/-- Encodes one group: its scale code, block codes and element codes (03 R89). -/
def qcEncode (rm : Rnd) (ds : List (BitVec 32)) (xs : List Num) : Nat × List Nat × List Nat :=
  let bl := blocksOf 64 xs.length xs
  if xs.any (fun x => !x.isFin) then (Fl.fp32.nanCode, bl.map (fun _ => 0), xs.map (fun _ => 8))
  else
    let up := Fl.fp32.round .rup 0 (Num.maxAbs xs)
    let g := if up = Fl.fp32.infCode then Fl.fp32.maxCode else up
    let bs := bl.map (fun b => qcBlock g (Num.maxAbs b))
    let ts := (List.zipWith (fun b x => x.map (fun _ => qcScale g b)) bs bl).flatten
    (g, bs, List.zipWith (fun d p => qcCode rm d p.1 p.2) ds (xs.zip ts))

/-! ### Statistics records (06 R197) -/

/-- A sum of finite terms in order, each addition rounded to FP64. -/
def fpSum (xs : List Num) : Nat := xs.foldl (fun a x => Fl.fp64.addr .rne 0 [Fl.fp64.decode a, x]) 0

/-- A square rounded once to FP64. -/
def sqr64 (x : Num) : Num := Fl.fp64.decode (Fl.fp64.rne (x.mul x))

/-- x − q, exactly. -/
def exactDiff (x q : Num) : Num := sumExact false [x, q.neg]

/-- The record over source values, the values they read back as, and the number of finite values clipped: count, sum,
sum of squares, error, absmax, clips. -/
def recordOf (xs : List (Num × Num)) (clipped : Nat) : List W64 :=
  let fin := xs.filter (fun p => p.1.isFin)
  let am := if xs.all (fun p => p.1.isFin) then Fl.fp32.round .rup 0 (Num.maxAbs (xs.map (fun p => p.1))) else Fl.fp32.infCode
  [w64 xs.length, w64 (fpSum (fin.map (fun p => p.1))), w64 (fpSum (fin.map (fun p => sqr64 p.1))),
   w64 (fpSum ((fin.filter (fun p => p.2.isFin)).map (fun p => sqr64 (exactDiff p.1 p.2)))),
   w64 am, w64 (clipped + (xs.length - fin.length))]

end Sys2Proof.Machine
end

