-- ==== Sys2Proof/Machine/Ecw.lean ====
section
/-!
DEFINITION. Compressed weight streams: one 160-byte slot decodes to 256 bytes, or to an error with its reason
(08 R266 to R270).
-/

namespace Sys2Proof.Machine

/-- CRC-16 of one more byte, most significant bit first (08 R269). -/
def crcBits : Nat → Nat → Nat
  | 0, c => c
  | k + 1, c => crcBits k (if 0x8000 ≤ c then (2 * c % 0x10000) ^^^ 0x1021 else 2 * c)

/-- CRC-16 of a run of bytes (08 R269). -/
def crc16 (bs : List Byte) : Nat := bs.foldl (fun c b => crcBits 8 (c ^^^ (b.toNat * 256))) 0xFFFF

/-- Code length of a symbol (08 R266). -/
def ecwLen (raw : List Byte) (sym : Nat) : Nat := fld (raw.getD (2 + sym / 2) 0).toNat (4 * (sym % 2)) 4

/-- Symbols of nonzero length by length, then by value (08 R267). -/
def ecwOrder (raw : List Byte) : List (Nat × Nat) :=
  (upto 15).flatMap (fun l => ((upto 16).filter (fun s => ecwLen raw s = l + 1)).map (fun s => (l + 1, s)))

/-- Canonical codes: length, code and symbol (08 R267). -/
def ecwCodes : Nat → Nat → List (Nat × Nat) → List (Nat × Nat × Nat)
  | _, _, [] => []
  | len, next, (l, s) :: t =>
    let c := next * 2 ^ (l - len)
    (l, c, s) :: ecwCodes l (c + 1) t

/-- The lengths are valid (08 R267). -/
def ecwLensOk (raw : List Byte) : Bool :=
  let o := ecwOrder raw
  (!o.isEmpty && o.foldl (fun a e => a + 2 ^ (15 - e.1)) 0 == 2 ^ 15) || (o.length == 1 && o.all (fun e => e.1 == 1))

/-- Bit `i` of the payload (08 R268). -/
def ecwBit (raw : List Byte) (i : Nat) : Nat := (raw.getD (12 + i / 8) 0).toNat / 2 ^ (i % 8) % 2

/-- Matches codes until `left` symbols are read: `pos` is the next bit, `len` and `acc` the code so far. -/
def ecwSyms (raw : List Byte) (codes : List (Nat × Nat × Nat)) (lim : Nat) : Nat → Nat → Nat → Nat → Nat → List Nat → Option (List Nat)
  | 0, _, _, _, left, out => if left = 0 then some out.reverse else none
  | f + 1, pos, len, acc, left, out =>
    if left = 0 then some out.reverse
    else if lim ≤ pos ∨ 15 ≤ len then none
    else
      let a := 2 * acc + ecwBit raw pos
      match codes.find? (fun e => decide (e.1 = len + 1) && decide (e.2.1 = a)) with
      | some e => ecwSyms raw codes lim f (pos + 1) 0 0 (left - 1) (e.2.2 :: out)
      | none => ecwSyms raw codes lim f (pos + 1) (len + 1) a left out

/-- Two symbols a byte, the first in the low nibble (08 R266). -/
def packNibbles : List Nat → List Byte
  | a :: b :: t => BitVec.ofNat 8 (a + 16 * b) :: packNibbles t
  | _ => []

/-- The result of decoding a slot: 256 bytes, or the reason of 08 R270. -/
inductive EcwRes where
  | ok (bytes : List Byte)
  | err (reason : Nat)
  deriving DecidableEq, Repr

/-- Decodes a slot of 160 bytes; of several conditions the lowest reason is reported (08 R268, R270). -/
def ecwSlot (raw : List Byte) : EcwRes :=
  let flags := (raw.getD 0 0).toNat
  let plen := (raw.getD 1 0).toNat
  let const := flags % 2 == 1
  let crc := leNat ((raw.drop 10).take 2)
  let reserved := fld flags 1 3 != 0 || (!const && fld flags 4 4 != 0)
  if 148 < plen then .err 1
  else if (if const then !(ecwOrder raw).isEmpty else !ecwLensOk raw) then .err 2
  else
    let syms := if const then some (List.replicate 512 (fld flags 4 4))
      else ecwSyms raw (ecwCodes 0 0 (ecwOrder raw)) (8 * plen) (8 * plen + 1) 0 0 0 512 []
    match syms with
    | none => .err 3
    | some ss =>
      let bs := packNibbles ss
      if crc16 bs ≠ crc then .err 4 else if reserved then .err 5 else .ok bs

end Sys2Proof.Machine
end

