-- ==== Sys2Proof/Machine/Aes.lean ====
section
/-!
DEFINITION. The encryption of memory lines (17 R419): AES-256 in XTS mode, as IEEE 1619 and FIPS 197 give them (log
entry 5).
-/

namespace Sys2Proof.Machine

/-! ### AES-256 -/

/-- A table of 256 bytes as eight words of 32 bytes. -/
def tableByte (t : List Nat) (b : Nat) : Nat := fld (t.getD (b / 32) 0) (8 * (b % 32)) 8

/-- The S-box. -/
def sbox : Nat → Nat := tableByte
  [0xC072A49CAFA2D4ADF04759FA7DC982CA76ABD7FE2B670130C56F6BF27B777C63,
   0x75B227EBE28012079A059618C323C7041531D871F1E5A534CCF73F362693FDB7,
   0xCF584C4A39BECB6A5BB1FC20ED00D153842FE329B3D63B52A05A6E1B1A2C8309,
   0xD2F3FF1021DAB6BCF5389D928F40A351A89F3C507F02F94585334D43FBAAEFD0,
   0xDB0B5EDE14B8EE4688902A22DC4F816073195D643D7EA7C41744975FEC130CCD,
   0x08AE7A65EAF4566CA94ED58D6D37C8E779E4959162ACD3C25C2406490A3A32E0,
   0x9E1DC186B95735610EF6034866B53E708A8BBD4B1F74DDE8C6B4A61C2E2578BA,
   0x16BB54B00F2D99416842E6BF0D89A18CDF2855CEE9871E9B948ED9691198F8E1]

/-- The inverse S-box. -/
def sboxInv : Nat → Nat := tableByte
  [0xCBE9DEC444438E3487FF2F9B8239E37CFBD7F3819EA340BF38A53630D56A0952,
   0x25D18B6D49A25B76B224D92866A12E084EC3FA420B954CEE3D23C2A632947B54,
   0x849D8DA75746155EDAB9EDFD5048706C92B6655DCC5CA4D41698688664F6F872,
   0x6B8A130103BDAFC1020F3FCA8F1E2CD00645B3B80558E4F70AD3BC8C00ABD890,
   0x6EDF751CE837F9E28535ADE72274AC9673E6B4F0CECFF297EADC674F4111913A,
   0xF45ACD78FEC0DB9A2079D2C64B3E56FC1BBE18AA0E62B76F89C5291D711AF147,
   0xEF9CC9939F7AE52D0D4AB519A97F51605FEC8027591012B131C7078833A8DD1F,
   0x7D0C2155631469E126D677BA7E042B17619953833CBBEBC8B0F52AAE4D3BE0A0]

/-- Multiplication by x in GF(2^8). -/
def xtime (b : Nat) : Nat := if b < 128 then 2 * b else (2 * b) ^^^ 0x11B

/-- Multiplication of a byte by a constant below 16 in GF(2^8). -/
def gfMul (c b : Nat) : Nat :=
  let t (i v : Nat) : Nat := if c.testBit i then v else 0
  t 0 b ^^^ t 1 (xtime b) ^^^ t 2 (xtime (xtime b)) ^^^ t 3 (xtime (xtime (xtime b)))

/-- The exclusive or of two byte lists. -/
def xorL (a b : List Nat) : List Nat := List.zipWith (fun x y => x ^^^ y) a b

/-- One column times the matrix whose first row is given; each row is the one above, rotated. -/
def mixCol (row col : List Nat) : List Nat :=
  (upto 4).map (fun i => ((upto 4).map (fun j => gfMul (row.getD ((j + 4 - i) % 4) 0) (col.getD j 0))).foldl (fun x y => x ^^^ y) 0)

/-- A state's columns times the matrix whose first row is given. -/
def mixCols (row st : List Nat) : List Nat := (upto 4).flatMap (fun c => mixCol row ((st.drop (4 * c)).take 4))

/-- Rows of the state rotate, row r by r times `n` columns. -/
def shiftRows (n : Nat) (st : List Nat) : List Nat := (upto 16).map (fun i => st.getD ((i + 4 * n * (i % 4)) % 16) 0)

/-- The round constants. -/
def rcon (i : Nat) : Nat := [0x01, 0x02, 0x04, 0x08, 0x10, 0x20, 0x40].getD i 0

/-- The word of the key schedule after the words given. -/
def nextWord (ws : List (List Nat)) : List Nat :=
  let i := ws.length
  let t := ws.getD (i - 1) []
  let u := if i % 8 = 0 then xorL ((t.drop 1 ++ t.take 1).map sbox) [rcon (i / 8 - 1), 0, 0, 0]
    else if i % 8 = 4 then t.map sbox else t
  xorL (ws.getD (i - 8) []) u

/-- The sixty words of the key schedule, as fifteen round keys. -/
def roundKeys (key : List Nat) : List (List Nat) :=
  let ws := (upto 52).foldl (fun ws _ => ws ++ [nextWord ws]) ((upto 8).map (fun i => (key.drop (4 * i)).take 4))
  (upto 15).map (fun r => ((ws.drop (4 * r)).take 4).flatten)

/-- Encrypts a block of sixteen bytes. -/
def aesEnc (rk : List (List Nat)) (x : List Nat) : List Nat :=
  let mid := (upto 13).foldl (fun st r => xorL (mixCols [2, 3, 1, 1] (shiftRows 1 (st.map sbox))) (rk.getD (r + 1) [])) (xorL x (rk.getD 0 []))
  xorL (shiftRows 1 (mid.map sbox)) (rk.getD 14 [])

/-- Decrypts a block of sixteen bytes. -/
def aesDec (rk : List (List Nat)) (x : List Nat) : List Nat :=
  let back (st : List Nat) : List Nat := (shiftRows 3 st).map sboxInv
  let mid := (upto 13).foldl (fun st r => back (mixCols [14, 11, 13, 9] (xorL st (rk.getD (13 - r) [])))) (back (xorL x (rk.getD 14 [])))
  xorL mid (rk.getD 0 [])

/-! ### XTS -/

/-- The `n` tweaks of a data unit, each the one before times the primitive element of GF(2^128). -/
def tweaks : Nat → Nat → List (List Nat)
  | 0, _ => []
  | n + 1, t =>
    (upto 16).map (fun i => fld t (8 * i) 8) ::
      tweaks n (if t < 2 ^ 127 then 2 * t else (2 * t % 2 ^ 128) ^^^ 0x87)

/-- A line as one XTS data unit under a key slot: the data key in bytes 0 to 31, the tweak key in bytes 32 to 63, and the
line's number PA[47:6] as the tweak (17 R419, 18 R429). -/
def xtsLine (dec : Bool) (keys : List Nat) (line : Nat) (bytes : List Byte) : List Byte :=
  let data := roundKeys (keys.take 32)
  let tweak := aesEnc (roundKeys (keys.drop 32)) ((upto 16).map (fun i => fld line (8 * i) 8))
  let t0 := leNat (tweak.map (BitVec.ofNat 8))
  ((tweaks 4 t0).zipIdx.flatMap (fun (t, j) =>
    let x := xorL (((bytes.drop (16 * j)).take 16).map (fun b => b.toNat)) t
    xorL (if dec then aesDec data x else aesEnc data x) t)).map (BitVec.ofNat 8)

end Sys2Proof.Machine
end

