-- ==== Sys2Proof/Machine/Arith.lean ====
section
/-!
DEFINITION. Read-modify-write arithmetic at a home or a scratchpad bank: the new value of an atomic (09 R299) and of
one element of a reduction (09 R302).
-/

namespace Sys2Proof.Machine

/-- The float format of a size of 4 or 8 bytes. -/
def flOfSize (z : Nat) : Fl := if z = 4 then .fp32 else .fp64

/-- The lesser or greater of two codes of `w` bits, signed or not. -/
def minMaxInt (w : Nat) (signed wantMax : Bool) (a b : Nat) : Nat :=
  let f : IFmt := ⟨w, signed⟩
  if (decide (f.decode a < f.decode b)) != wantMax then a else b

/-- The value an atomic writes (09 R299); `none` when a failed compare writes nothing. -/
def amoNew (op z old x c : Nat) : Option Nat :=
  let w := 8 * z
  let m := 2 ^ w
  let t := flOfSize z
  match op with
  | 0 => some (x % m)
  | 1 => some ((old + x) % m)
  | 2 => some (old &&& x % m)
  | 3 => some (old ||| x % m)
  | 4 => some (old ^^^ x % m)
  | 5 => some (minMaxInt w true false old (x % m))
  | 6 => some (minMaxInt w true true old (x % m))
  | 7 => some (minMaxInt w false false old (x % m))
  | 8 => some (minMaxInt w false true old (x % m))
  | 9 => if old = c % m then some (x % m) else none
  | 10 => some (t.addr .rne 0 [t.decode old, t.decode (x % m)])
  | 11 => some (t.minmax false old (x % m))
  | _ => some (t.minmax true old (x % m))

/-- Bytes of an element type of `red` (09 R301). -/
def redBytes (et : Nat) : Nat := if et = 4 ∨ et = 5 ∨ et = 10 then 4 else 8

/-- One element of a reduction: the combined value (09 R302). -/
def redNew (op et old x : Nat) : Nat :=
  let z := redBytes et
  let w := 8 * z
  let m := 2 ^ w
  let fl := decide (10 ≤ et)
  let t := flOfSize z
  match op with
  | 0 => if fl then t.addr .rne 0 [t.decode old, t.decode x] else (old + x) % m
  | 1 => old &&& x
  | 2 => old ||| x
  | 3 => old ^^^ x
  | 4 => if fl then t.minmax false old x else minMaxInt w (et == 4 || et == 6) false old x
  | _ => if fl then t.minmax true old x else minMaxInt w (et == 4 || et == 6) true old x

end Sys2Proof.Machine
end

