-- ==== Sys2Proof/Machine/State.lean ====
section
/-!
DEFINITION. The state of an Elern package: every piece of state that 01 to 18 give the machine, as plain data.
A name with many numbered members is a sparse map; what an unlisted member reads as is said beside the field.
Fields of the model itself (`seq`, `free`, `agenda`, `issue`) are marked so (log entries 2 and 3).
-/

namespace Sys2Proof.Machine

/-- Why a step stops with a fault.  -/
inductive Fault where
  /-- A bundle fetch reads a line with an uncorrectable error; 09 R305 gives no effect for a fetch.  Raised by the
  packet fetch; safe, since the model stops where the part would go on. -/
  | poisonedFetch
  deriving DecidableEq, Repr

/-- Why a step has no next state. -/
inductive Refusal where
  /-- No meaning yet for the instruction; raised by a dispatch arm only; safe. -/
  | notModelled (mnemonic : String)
  /-- A slot instruction was run where no live context is current; the spec gives it no effect there; safe. -/
  | noContext
  /-- A step of an engine, a queue, a walker or the platform was asked for in a state in which the spec does not let
  it happen; raised by the event meanings; safe. -/
  | notEnabled
  /-- A sidecar instruction was run where no running sidecar is selected; safe. -/
  | noSidecar
  deriving DecidableEq, Repr

/-- The outcome of a step. -/
abbrev Out (σ : Type) := Host.Outcome σ Fault Refusal

/-- Trap classes (15 R379). -/
inductive TrapClass where
  | issue | slot | after | async
  deriving DecidableEq, Repr

/-- A trap: class, cause, DETAIL and extra words (15 R381), with the slot position and bundle it reports. -/
structure Trap where
  cls : TrapClass
  code : Nat
  detail : W64
  x0 : W64 := 0
  x1 : W64 := 0
  x2 : W64 := 0
  pos : Nat := 15
  bund : Nat := 0
  /-- the model's own: the number of the access that met an error, and for a translation fault its level, its access
  code and its agent at the fault queue (17 R422) -/
  num : Nat := 0
  level : Nat := 0
  fq : Nat := 0
  agent : Nat := 0
  deriving DecidableEq, Repr

/-- A latched operation with the operands that step (04 R106 to R108, 15 R448). -/
structure Latch where
  instr : Instr
  addrA : W64 := 0
  addrB : W64 := 0
  ringD : Nat := 0
  ringA : Nat := 0
  ringB : Nat := 0
  acc : Nat := 0
  acb : Nat := 0
  deriving DecidableEq, Repr

/-- A ring handle (08 R250, R251); `slot` = 0 is unconfigured. -/
structure Handle where
  base : Nat := 0
  slot : Nat := 0
  depth : Nat := 1
  cp : Nat := 0
  pp : Nat := 0
  deriving DecidableEq, Repr

/-- Operand values of an operation for which the image's replay buffer has no place: condition bits, masks, the vector
registers it names, and the ring handles (15 R383; log entry 28). -/
structure Reads where
  c : BitVec 8
  m : SMap MaskReg
  v : SMap VReg
  hs : SMap Handle
  deriving DecidableEq, Repr

/-- An operation to replay with the operand values it read (15 R383, R448); `reads` is absent after a restore from an
image. -/
structure Replay where
  lat : Latch
  mpc : W64 := 0
  scal : List W64 := []
  vec : VReg := 0
  idx : VReg := 0
  reads : Option Reads := none
  deriving DecidableEq, Repr

/-- The name a result in flight is bound for. -/
inductive Dest where
  | none
  /-- s register; `sup` names the supervisor copy of s56 to s63 (15 R375). -/
  | s (sup : Bool) (n : Nat)
  /-- bits [lo + w - 1 : lo] of a vector register (04 R119). -/
  | v (n lo w : Nat)
  | m (n w : Nat)
  | c (n : Nat)
  /-- loop counters and address steps, which only a restored image names (15 R449) -/
  | lc (n : Nat)
  | q (n : Nat)
  /-- bytes of a share, for a ring slot destination. -/
  | ring (off : Nat)
  deriving DecidableEq, Repr

/-- A trap that waits for M-slot work before it is entered (15 R382): the trap, SEPC, SREPL and the replay buffer. -/
structure PendTrap where
  trap : Trap
  sepc : W64
  srepl : W64
  replay : SMap Replay
  deriving DecidableEq, Repr

/-- A shadow latch (15 R382, R449). -/
structure Shadow where
  dest : Dest
  value : VReg
  offset : Nat
  deriving DecidableEq, Repr

/-- A place an access touches. -/
inductive Loc where
  /-- a byte offset in the scratchpad share of a reservation -/
  | share (off : Nat)
  /-- a physical address under a key id -/
  | phys (pa key : Nat)
  /-- a mailbox register -/
  | mail (k : Nat)
  /-- an offset in the context's accumulator window (01 R34) -/
  | acc (off : Nat)
  deriving DecidableEq, Repr

/-- What an access does (09 R287). -/
inductive AccKind where
  | ld | st
  | amo (op : Nat) (x c : W64)
  | red (op et : Nat)
  /-- the slot tags that `cbpop`, `cbpush` change: handle, first slot, count and the tag written (08 R252, R253) -/
  | ringTags (slots : List Nat) (size : Nat) (full : Bool) (tag : Option Nat)
  /-- one word tag of `tagset` or `tagclr` (08 R249) -/
  | tag (full : Bool)
  | verld (v : Nat) | verle (v : Nat) | verst (v : Nat) | verfl (v : Nat) | vernew
  deriving DecidableEq, Repr

/-- An access in flight (09 R287, R289). -/
structure Access where
  id : Nat
  kind : AccKind
  va : W64
  loc : Loc
  size : Nat
  dest : Dest := .none
  signed : Bool := false
  data : VReg := 0
  acq : Bool := false
  rel : Bool := false
  sbSet : Option Nat := none
  sbWait : Option Nat := none
  pkt : W64 := 0
  pos : Nat := 0
  /-- decoded offset in an ECW page whose frame `loc` names (08 R272) -/
  ecw : Option Nat := none
  /-- the operation whose element it is; a scoreboard slot counts operations (09 R295) -/
  grp : Nat := 0
  deriving DecidableEq, Repr

/-- A hardware loop record (05 R158). -/
structure LoopRec where
  k : Nat
  while_ : Bool
  cc : Nat
  neg : Bool
  max : Nat
  start : W64
  last : W64
  deriving DecidableEq, Repr

/-- The states of an accumulator tile (07 R232). -/
inductive TileSt where
  | u | z | d | c
  deriving DecidableEq, Repr

/-- An accumulator tile: state, format, place in a CF64 pair, elements 32 i + j of 64 bits (unlisted 0), and the
number of operations in flight that write it (07 R227, R232). -/
structure Tile where
  st : TileSt := .u
  fmt : Nat := 0
  /-- 0 single, 1 first slot of a CF64 pair, 2 second slot -/
  pair : Nat := 0
  el : SMap W64 := []
  /-- elements whose parity is wrong (18 R438) -/
  bad : SMap Bool := []
  deriving DecidableEq, Repr

/-- A stationary buffer: shape and operand image (07 R215). -/
structure Buf where
  empty : Bool := true
  fb : Nat := 0
  blk : Nat := 0
  wa : Nat := 0
  sparse : Bool := false
  kb : Nat := 0
  /-- `mldw` images are kept transposed into the `mld` order, so that the image is that of S as `mld` holds it -/
  data : List Byte := []
  deriving DecidableEq, Repr

/-- An M-slot operation queued or in flight (07 R226). -/
structure MOp where
  id : Nat
  lat : Latch
  started : Bool := false
  img : List Byte := []
  draws : List (BitVec 32) := []
  meta_ : W64 := 0
  h : Nat := 0
  k : Nat := 0
  tiles : List Nat := []
  reads : List Nat := []
  buf : Buf := {}
  poison : Option W64 := none
  pkt : W64 := 0
  pos : Nat := 5
  /-- formats of the destination and source tiles as of issue, and which buffer a product reads -/
  af : Nat := 0
  sf : Nat := 0
  par : Bool := false
  /-- the record of an `mmac`, made when it starts -/
  stat : List W64 := []
  /-- the source tile and its pair of an `acvt` or `aadd`, as they stood when it started (03 R95, 07 R226) -/
  src : List Tile := []
  deriving DecidableEq, Repr

/-- A requester held for a translation fault at the fault queue: a packet, a copy or a sidecar (17 R423). -/
structure Held where
  trap : Trap
  part : Nat
  die : Nat
  asid : Nat
  va : W64
  level : Nat
  access : Nat
  /-- the posted entry this requester has joined -/
  id : Option Nat := none
  replay : SMap Replay := []
  srepl : W64 := 0
  /-- agent: 0 context, 1 copy, 2 sidecar, 3 metadata fetch (17 R422) -/
  agent : Nat := 0
  deriving DecidableEq, Repr

/-- A copy issued to a core's copy engine (08 R255 to R259). -/
structure CopyOp where
  id : Nat
  instr : Instr
  /-- context that issued it; `side` = 0 context, 1 loader, 2 storer -/
  ctx : Nat
  side : Nat := 0
  dst : W64
  src : W64
  desc : Nat
  tag : Nat
  /-- mode of the packet that issued it -/
  sup : Bool := false
  /-- access number of its issue, and the scoreboard slot it waits on (09 R307) -/
  seq : Nat
  sbWait : Option Nat := none
  started : Bool := false
  /-- held at the fault queue (17 R423) -/
  hold : Option Held := none
  /-- the words of the descriptor, read at issue, and of an index list, read at the start; none where that read met an
  uncorrectable error -/
  words : List W64 := []
  /-- rows written so far; of the row or list at work, the accesses performed and the bytes they read (09 R287) -/
  done : Nat := 0
  acc : Nat := 0
  got : List Byte := []
  /-- the tile whose re-encoding the copy waits for (10 R327) -/
  waitTile : Option Nat := none
  deriving DecidableEq, Repr

/-- A failed copy whose fault is not yet raised (08 R259). -/
structure CFail where
  id : Nat
  tag : Nat
  cause : Nat
  row : Nat
  detail : W64
  deriving DecidableEq, Repr

/-- The state of a context slot (15 R390); a halted slot is a live or parked slot of a halted core. -/
inductive SlotSt where
  | free | idle | live | parked
  deriving DecidableEq, Repr

/-- A pending hand change (05 R169): the count asked for and the hands set aside. -/
structure HandCh where
  n : Nat
  add : List Nat
  /-- the change takes effect after the M-slot operations up to this number -/
  after : Nat
  deriving DecidableEq, Repr

/-- Registers of a context (01 R31, 15 R375, 05 R158). -/
structure Regs where
  pc : W64 := 0
  sup : Bool := false
  s : SMap W64 := []
  ss : SMap W64 := []
  v : SMap VReg := []
  m : SMap MaskReg := []
  c : BitVec 8 := 0
  q : SMap W64 := []
  d : SMap W64 := []
  lc : SMap W64 := []
  loops : List LoopRec := []
  mpc : W64 := 0
  gens : SMap W64 := []
  hs : SMap Handle := []
  deriving DecidableEq, Repr

/-- System registers of a context (15 R376 to R378), the replay buffer and the shadow latches. -/
structure Sys where
  sstep : Bool := false
  stvec : W64 := 0
  sepc : W64 := 0
  scause : W64 := 0
  sdetail : W64 := 0
  x0 : W64 := 0
  x1 : W64 := 0
  x2 : W64 := 0
  srepl : W64 := 0
  swlog : W64 := 0
  sctxp : W64 := 0
  rlost : Bool := false
  rlostAddr : W64 := 0
  replay : SMap Replay := []
  shadow : List Shadow := []
  /-- issue cycles since the shadow latches began to count (15 R386) -/
  ticks : Nat := 0
  /-- the latches count and deliver in supervisor mode too, after a resume or a restore (15 R390, R393; log entry 28) -/
  shRun : Bool := false
  asyncs : List Trap := []
  trapPend : Option PendTrap := none
  deriving DecidableEq, Repr

/-- Accesses, tags, scoreboard, timelines, barriers and engine requests of a context (08, 09). -/
structure Mems where
  pend : List Access := []
  tagBits : BitVec 16 := 0
  tagCnt : SMap Nat := []
  sb : SMap Nat := []
  tl : SMap Nat := []
  arr : SMap W64 := []
  /-- the arrival that a blocked packet has already made, by mode: level, generation and the packet (09 R310) -/
  barHere : SMap (Nat × W64 × W64) := []
  cfails : List CFail := []
  /-- statistics records on their way from this context (10 R320) -/
  recs : Nat := 0
  stepWait : List (Dest × W64) := []
  /-- how many collectives the context has issued at each level (08 R276) -/
  collNo : SMap Nat := []
  lastTime : W64 := 0
  /-- a `tlbinv` that waits: scope and address; scope 3 once it is complete (15 R388) -/
  inv : Option (Nat × W64) := none
  deriving DecidableEq, Repr

/-- The matrix engine's share of a context (07). -/
structure Mx where
  tiles : SMap Tile := []
  nTiles : Nat := 0
  nBanks : Nat := 0
  bankMat : BitVec 8 := 0
  hands : List Nat := []
  hmax : Nat := 0
  heven : Bool := false
  ktgt : Nat := 0
  front : Buf := {}
  back : Buf := {}
  /-- data as of the loads and swaps that have taken effect, and shapes as of issue (07 R215) -/
  frontD : List Byte := []
  backD : List Byte := []
  ops : List MOp := []
  chg : Option HandCh := none
  /-- which of the two buffers is the front, by swaps started -/
  par : Bool := false
  /-- the metadata word at mpc, where it has been fetched already (07 R221) -/
  metaW : Option W64 := none
  deriving DecidableEq, Repr

/-- A `verld` that blocks: its slot, the ream, line and version it waits on, the key it reads under, and the version's
bytes once a `verst` has made it (08 R280, 09 R314). -/
structure VerAsk where
  pos : Nat
  ream : Nat
  line : Nat
  key : Nat
  ver : Nat
  got : Option (List Byte) := none
  deriving DecidableEq, Repr

/-- Sequencing of a context: latches, repetition, waits (04 R106 to R111, 02 R50, R51). -/
structure Seq where
  latU : SMap Latch := []
  latS : SMap Latch := []
  rep : Nat := 1
  repcnt : W64 := 0
  idle : Nat := 0
  blocked : Nat := 0
  /-- why the packet that would issue next is blocked: the cause and DETAIL its wait limit names, and the slot that
  waits, position + 16 × bundle (02 R51) -/
  wait : Option (Nat × W64 × Nat) := none
  /-- operations still to replay before the packet goes on (15 R383) -/
  replay : SMap Replay := []
  /-- performed bits of the packet being replayed -/
  perf : Nat := 0
  /-- repetition that a packet interrupted by a trap resumes at, and that packet (04 R110) -/
  urep : Nat := 1
  upc : W64 := 0
  /-- the context retires once its accesses have performed (02 R54) -/
  exiting : Bool := false
  /-- the bundle of that `exit` in its packet (15 R380) -/
  exitBund : Nat := 0
  /-- a class-P trap that an earlier repetition of a packet met: the packet, its mode and the trap (15 R379) -/
  after : Option (W64 × Bool × Trap) := none
  /-- `yield` has had its missed opportunity (05 R163) -/
  yielded : Bool := false
  held : Option Held := none
  /-- position in the queue of blocked `handreq` requests is in the core; the request here (05 R171) -/
  handAsk : Option Nat := none
  /-- hands granted to the blocked packet, before it issues -/
  handGot : List Nat := []
  /-- park requested (16 R406) -/
  parkReq : Bool := false
  /-- vector registers toward which a V-slot result is still in flight (04 R105, 05 R172): a reader stalls until it has
  arrived, so the register holds the result already -/
  late : List Nat := []
  /-- the `verld`s that the blocked packet waits on (09 R314) -/
  verAsks : List VerAsk := []
  deriving DecidableEq, Repr

/-- A context slot: its state, whose it is and what it holds. -/
structure Ctx where
  st : SlotSt := .free
  task : Nat := 0
  group : Nat := 0
  /-- key of its reservation -/
  resv : Nat := 0
  part : Nat := 0
  asid : Nat := 0
  key : Nat := 0
  loader : Bool := false
  storer : Bool := false
  r : Regs := {}
  sys : Sys := {}
  mem : Mems := {}
  mx : Mx := {}
  sq : Seq := {}
  deriving DecidableEq, Repr

/-- A sidecar (08 R283 to R286): registers, pc, stores, handles, CSRs. -/
structure Side where
  present : Bool := false
  running : Bool := false
  x : SMap W64 := []
  pc : W64 := 0
  imem : SMap Byte := []
  dmem : SMap Byte := []
  /-- words of the instruction store and of the data store with an uncorrectable error (18 R438) -/
  ibad : SMap Bool := []
  dbad : SMap Bool := []
  hs : SMap Handle := []
  csr : SMap W64 := []
  hold : Option Held := none
  deriving DecidableEq, Repr

/-- A reservation on a core (02 R42): its share with bytes and full/empty tags (01 R23, R24). -/
structure Resv where
  core : Nat := 0
  task : Nat := 0
  group : Nat := 0
  slots : List Nat := []
  spad : Nat := 0
  bytes : SMap Byte := []
  full : SMap Bool := []
  poison : SMap Bool := []
  deriving DecidableEq, Repr

/-- A translation held by a TLB (17 R421). -/
structure Tlb where
  part : Nat
  asid : Nat
  vbase : Nat
  bits : Nat
  pa : Nat
  key : Nat
  flags : Nat
  deriving DecidableEq, Repr

/-- A core site: halt state, current slot, cycle count, TLB, copies, hand requests (02 R49, 15 R389). -/
structure Core where
  halted : Bool := false
  haltSlot : Nat := 0
  haltN : BitVec 32 := 0
  cur : Nat := 0
  cycles : W64 := 0
  tlb : List Tlb := []
  /-- lines of which the L1 holds a copy with an uncorrectable error (09 R305, 18 R438) -/
  l1bad : SMap Bool := []
  copies : List CopyOp := []
  handQ : List Nat := []
  deriving DecidableEq, Repr

/-- The parameters of a launch (02 R37, 16 R401) and its compared ranges. -/
structure Launch where
  desc : W64 := 0
  args : W64 := 0
  lo : W64 := 0
  hi : W64 := 0
  grain : BitVec 32 := 0
  glev : BitVec 3 := 0
  gcores : BitVec 16 := 0
  prio : BitVec 2 := 0
  gang : W64 := 0
  gangid : BitVec 16 := 0
  gpart : BitVec 16 := 0
  gpkgs : BitVec 16 := 0
  reads : List (W64 × W64) := []
  writes : List (W64 × W64) := []
  argw : List W64 := []
  deriving DecidableEq, Repr

/-- A group placed by the dispatcher (02 R43). -/
structure Group where
  num : Nat
  level : Nat
  /-- context keys, in member order -/
  members : List Nat
  deriving DecidableEq, Repr

/-- The phase of a task (02 R55, R62, 16 R407). -/
inductive TaskSt where
  /-- accepted, waiting for entries in the dependence table -/
  | waiting
  /-- in the table -/
  | live
  | parked | evicted
  deriving DecidableEq, Repr

/-- A reservation that an evict saved (16 R409): its core, group, slots in order, and the hands and group number of each. -/
structure Saved where
  core : Nat
  group : Nat
  slots : List Nat
  hands : List Nat
  nums : List Nat
  deriving DecidableEq, Repr

/-- A task or, while `guess` is set, a run that predicts one (02, 11). -/
structure Task where
  id : Nat := 0
  q : Nat := 0
  l : Launch := {}
  /-- the eight words of the kernel descriptor -/
  desc : List W64 := []
  /-- words of the sidecar image header -/
  side : List W64 := []
  st : TaskSt := .waiting
  /-- submission order within the package -/
  order : Nat := 0
  entries : Nat := 1
  pieces : List (Nat × Nat × Nat) := []
  placed : Bool := false
  groups : List Group := []
  fmtA : W64 := 0
  fmtB : W64 := 0
  cstep : W64 := 0
  late : Bool := false
  started : Bool := false
  ended : Option (List W64) := none
  stopped : Bool := false
  /-- cycles ready without a placement, the steps of priority they have given, and whether room is held (02 R65, R66) -/
  age : Nat := 0
  up : Nat := 0
  hold : Nat := 0
  guess : Bool := false
  saveAt : W64 := 0
  images : List Saved := []
  /-- the walk that launched it, 0 for a LAUNCH command (02 R60) -/
  walk : Nat := 0
  deriving DecidableEq, Repr

/-- A record waiting to be written to a queue's record ring (02 R63, 16 R400). -/
structure QRec where
  words : List W64
  deriving DecidableEq, Repr

/-- A graph walk in progress (02 R57, R58, 10 R331). -/
structure Walk where
  id : Nat
  base : W64
  count : Nat
  node : Nat
  /-- the successor to take once the node's task is admitted -/
  next : Nat := 0
  loops : SMap Nat := []
  /-- the successor that follows a re-walk, and the LAST node of the re-walk (10 R331) -/
  rerun : Option (Nat × Nat) := none
  /-- set when the current node has been acted on and waits for its task to be admitted -/
  task : Option Nat := none
  /-- the successor of a CALSTEP node whose results the read copies do not yet hold (10 R322), and the same wait after a
  RERUN node has widened its entry (10 R331) -/
  calNext : Option Nat := none
  calWait : Bool := false
  deriving DecidableEq, Repr

/-- A statistics record on its way to a Calender entry (06 R197, 10 R320): context it comes from, entry, and count, sum,
sumsq, err, absmax, clips. -/
structure Rec where
  ctx : Nat
  entry : Nat
  words : List W64
  deriving DecidableEq, Repr

/-- The Dealer's state for a queue (11 R336, R353 to R355). -/
structure Dealer where
  hist : List Launch := []
  histSpec : List Bool := []
  hint : Nat := 0
  started : W64 := 0
  claimed : W64 := 0
  mism : W64 := 0
  reval : W64 := 0
  dropped : W64 := 0
  commitL : W64 := 0
  revalL : W64 := 0
  last : Nat := 0
  /-- task number of the guess, and the accepted launch that matches it -/
  guess : Option Nat := none
  /-- the task that was the last guess claimed (11 R346) -/
  promo : Option Nat := none
  matched : Option Launch := none
  /-- the descriptor and sidecar header read when that launch was accepted (11 R346) -/
  fresh : List W64 × List W64 := ([], [])
  complete : Bool := false
  claiming : Bool := false
  /-- Kitty: line number to byte offset to byte (11 R342) -/
  kitty : SMap (SMap Byte) := []
  /-- lines of the Kitty with an uncorrectable error (18 R438) -/
  kbad : SMap Bool := []
  /-- key id of each Kitty line -/
  kkeys : SMap Nat := []
  /-- read set: line to read timestamp (11 R343) -/
  reads : SMap Nat := []
  /-- speculative versions: line, version, bytes, and held floors, in program order (11 R349) -/
  vers : List (Nat × Nat × List Byte) := []
  floors : List (Nat × Nat × Nat) := []
  recs : List Rec := []
  kbud : Nat := 0
  gens : List (Nat × Nat) := []
  deriving DecidableEq, Repr

/-- The dispatcher's state for a queue, beside its registers (16 R396 to R402). -/
structure Queue where
  recs : List QRec := []
  walk : Option Walk := none
  dealer : Dealer := {}
  /-- a launch accepted but not yet in the dependence table -/
  wait : Option Nat := none
  deriving DecidableEq, Repr

/-- A Couch engine: timeline, jobs queued as tile addresses, and the running job with its target (10 R328, R329). -/
structure Couch where
  count : W64 := 0
  started : W64 := 0
  queue : List Nat := []
  /-- tile, target format word, GEN at the start, number on the timeline -/
  job : Option (Nat × Nat × Nat × Nat) := none
  deriving DecidableEq, Repr

/-- One collective of a group (08 R276): task, level, unit, number, members and what each has issued. -/
structure Coll where
  task : Nat
  level : Nat
  unit_ : Nat
  k : Nat
  members : List Nat
  /-- member context, copy number -/
  issued : List (Nat × Nat) := []
  /-- parts of remote packages (18 R435) -/
  remote : List (Nat × List Nat × List Byte) := []
  /-- it has failed, with this cause for a member that issues it later -/
  ended : Bool := false
  cause : Nat := 0
  deriving DecidableEq, Repr

/-- A fault-queue entry that is posted and unanswered (17 R422). -/
structure FqEnt where
  part : Nat
  die : Nat
  id : Nat
  asid : Nat
  page : Nat
  slot : Nat
  joined : Nat
  deriving DecidableEq, Repr

/-- The dynamic state of a ream (08 R279 to R281, 17 R424): READY, ERR, floor, and the quires that differ from {0}:
line number to versions, newest first, each with its bytes. -/
structure Ream where
  ready : Bool := false
  err : Bool := false
  floor : Nat := 0
  quires : SMap (List (Nat × List Byte)) := []
  deriving DecidableEq, Repr

/-- A session of the command port (18 R433): expected number and the replies cached for the last 64 requests. -/
structure Session where
  exp : BitVec 32 := 0
  cache : List (BitVec 32 × Frame) := []
  deriving DecidableEq, Repr

/-- A gang announcement received (18 R435). -/
structure Announce where
  pkg : Nat
  gangid : Nat
  gpart : Nat
  gpkgs : Nat
  deriving DecidableEq, Repr

/-- An entry of the error log (18 R438). -/
structure LogEnt where
  place : Nat
  unit_ : Nat
  addr : W64
  time : W64
  deriving DecidableEq, Repr

/-- A pre-emption request in progress (16 R406). -/
structure PreReq where
  op : Nat
  task : Nat
  save : W64
  deriving DecidableEq, Repr

/-- A soft error that a check finds (18 R438): a correctable one, counted for a unit of a place, or an uncorrectable one
in a line of the L2, in an L1's copy of a line (or that copy leaves), in a line of a Kitty, in an element of an accumulator
tile, in a word of a sidecar's instruction or data store, in a word of a context's or a sidecar's register file, or in the
full/empty tag of a share word. -/
inductive Flaw where
  | counted (place unit_ : Nat)
  | l2 (line : Nat)
  | l1 (core line : Nat) (bad : Bool)
  | kitty (queue line : Nat)
  | acc (ctx tile el : Nat)
  | side (n : Nat) (data : Bool) (word : Nat)
  | reg (ctx : Nat) (name : Dest)
  | sreg (n reg : Nat)
  | tag (resv word : Nat)
  deriving DecidableEq, Repr

/-- A message of the H-die not yet delivered, or a move of an agent: what happens next (log entry 3). -/
inductive Move where
  /-- a step of an engine, queue, walker or of the platform -/
  | event (i : Instr)
  /-- a core issues from its current context (02 R49) -/
  | issue (core : Nat)
  /-- a sidecar executes its next instruction: core, 1 loader or 2 storer -/
  | side (core which : Nat)
  /-- a started copy or collective performs its next access (08 R258, 09 R287) -/
  | row (core id : Nat)
  /-- the V-slot results in flight of a context arrive (04 R105) -/
  | land (ctx : Nat)
  /-- `n` cycles and `t` ticks of the time base pass (02 R51, 18 R434) -/
  | tick (n t : Nat)
  /-- an uncorrectable error strikes a line of memory or a share word (09 R305) -/
  | poison (line : Nat)
  | poisonShare (resv word : Nat)
  /-- a soft error elsewhere (18 R438) -/
  | flaw (f : Flaw)
  /-- an L2 line leaves its slice (17 R420) -/
  | evictLine (line : Nat)
  /-- a slice forgets the non-leaf entries it holds (17 R421) -/
  | forgetWalks (slice : Nat)
  deriving DecidableEq, Repr

/-- The packet being issued (04 R103, R104); the model's own record. -/
structure Issue where
  /-- position of a slot run on its own -/
  pos : Nat := 0
  /-- address of the packet's first bundle and of the next packet -/
  pc : W64 := 0
  next : W64 := 0
  /-- starts of the packet's bundles -/
  starts : List W64 := []
  /-- positions present in the second bundle -/
  second : List Nat := []
  /-- the `bt` of the packet, if any -/
  bt : Option BT := none
  rep : Nat := 1
  reps : Nat := 1
  /-- sticky positions due in this repetition -/
  sticky : List Nat := []
  /-- results of the slots so far: class-S faults, the class-P trap, the transfer taken, exit -/
  faults : List (Nat × Trap) := []
  after : Option Trap := none
  target : Option W64 := none
  /-- slots that performed, for PERF (15 R380) -/
  perf : List Nat := []
  /-- requests of the packet's slots for room in engine queues, and the event of 11 R344 that a slot met -/
  asks : List Nat := []
  /-- tags that earlier slots of the packet leave on share words, by word (08 R248, R252) -/
  tags : SMap Bool := []
  drop : Option Nat := none
  /-- the packet retires its context, returns to user mode, or ends the task -/
  retire : Bool := false
  ret : Bool := false
  stop : Bool := false
  deriving DecidableEq, Repr

/-- The management side of the package: windows, ports, root of trust (18). -/
structure Mgmt where
  /-- registers of the management window by address; an unlisted one reads as its reset value -/
  win : SMap W64 := []
  keys : SMap Byte := []
  sessions : SMap Session := []
  replies : List Frame := []
  log : List LogEnt := []
  logHead : W64 := 0
  logTail : W64 := 0
  logOver : W64 := 0
  errs : SMap W64 := []
  /-- replays in a row of the flit each die link is sending (18 R437) -/
  replays : SMap Nat := []
  staging : SMap Byte := []
  stagedLen : Nat := 0
  /-- the image in flash; none is the one the package was made with (18 R441) -/
  flash : Option (List Byte) := none
  fwver : BitVec 32 := 0
  pfe : Bool := false
  recov : Bool := false
  tblock : Bool := false
  tbSet : Bool := false
  hbmok : Bool := true
  ready : Bool := true
  /-- bring-up still to do after power-on or reset -/
  booting : Bool := false
  attBusy : Bool := false
  attrep : SMap Byte := []
  enmap : SMap (BitVec 144) := []
  anns : List Announce := []
  pre : Option PreReq := none
  deriving DecidableEq, Repr

/-- Memory homes: bytes, keys, poison, timestamps, versions (01 R13, 09, 17). -/
structure Mem where
  /-- HBM bytes by physical address; an unlisted byte reads zero (18 R443) -/
  bytes : SMap Byte := []
  /-- key a line was last written under in HBM, and of its L2 copy while resident (17 R419, R420); unlisted 0 -/
  wkey : SMap Nat := []
  res : SMap Nat := []
  /-- lines with an uncorrectable error: true in HBM, false in the L2 (09 R305, 18 R438) -/
  poison : SMap Bool := []
  /-- order position of the last store to a line, and the order's length (09 R291) -/
  wts : SMap Nat := []
  now : Nat := 0
  reams : SMap Ream := []
  deriving DecidableEq, Repr

/-- The H-die: time, Calender, mailboxes, engines, collectives, barriers. -/
structure Hub where
  time : W64 := 0
  /-- the latest value that `rdtime` has given any context (01 R36) -/
  lastRead : W64 := 0
  mail : SMap W64 := []
  cal : SMap W64 := []
  /-- the dies' read copy of each entry's CTRL word and rung words (10 R322) -/
  copy : SMap W64 := []
  stepCount : W64 := 0
  recs : List Rec := []
  couch : SMap Couch := []
  colls : List Coll := []
  /-- timelines of collective sequences, keyed by task, level and unit -/
  collTl : SMap W64 := []
  /-- completed barrier generations and remote arrivals, keyed by task, level and unit -/
  barGen : SMap W64 := []
  barRemote : List (Nat × Nat × W64) := []
  deriving DecidableEq, Repr

/-- The dispatcher (02, 16). -/
structure Disp where
  queues : SMap Queue := []
  tasks : SMap Task := []
  nextTask : Nat := 1
  nextWalk : Nat := 1
  order : Nat := 0
  resvs : SMap Resv := []
  /-- one more than the queue last admitted to each die's dependence table (16 R403) -/
  rr : SMap Nat := []
  deriving DecidableEq, Repr

/-- The package. -/
structure State where
  ctxs : SMap Ctx := []
  cores : SMap Core := []
  sides : SMap Side := []
  mem : Mem := {}
  hub : Hub := {}
  disp : Disp := {}
  mgmt : Mgmt := {}
  /-- slice TLBs, keyed 18 d + slice (17 R421) -/
  slices : SMap (List Tlb) := []
  /-- non-leaf entries that the slices' walkers hold (17 R421) -/
  walks : SMap (List Tlb) := []
  fq : List FqEnt := []
  fqIds : SMap Nat := []
  /-- core whose turn it is, the schedule, the next access number and the free-value counter: the model's own -/
  core : Nat := 0
  side : Nat := 0
  agenda : List Move := []
  /-- whose turn comes next when the agenda is empty: cores from 0, sidecars from 576 (log entry 3) -/
  turn : Nat := 0
  issue : Issue := {}
  seq : Nat := 0
  free : Nat := 0
  deriving DecidableEq, Repr

/-- The fused enable map: sites 0 to 135 of each die (01 R10; DESIGN CHOICE, log entry 8). -/
def enabledSites : BitVec 144 := BitVec.ofNat 144 (2 ^ 136 - 1)

/-- The package right after reset (18 R443): no context placed, memory zero, every register at its reset value. -/
def State.reset : State :=
  { mgmt := { enmap := [(0, enabledSites), (1, enabledSites), (2, enabledSites), (3, enabledSites)] } }

end Sys2Proof.Machine
end

