-- ==== Sys2Proof/Machine/Memory.lean ====
section
/-!
DEFINITION. The memories: contexts, cores and reservations by number, management registers, physical memory with keys
and poison (01 R13, 09 R305, 17 R419, R420), scratchpad shares (01 R23, R24), reams (08 R278 to R281) and the shadow
store of a guess (11 R341 to R343).
-/

namespace Sys2Proof.Machine

/-! ### Places -/

/-- Context `k` = 4 × core + slot. -/
def State.ctxAt (s : State) (k : Nat) : Ctx := mget {} s.ctxs k

/-- Puts a context. -/
def State.putCtx (s : State) (k : Nat) (c : Ctx) : State := { s with ctxs := mput s.ctxs k c }

/-- Changes a context. -/
def State.onCtx (s : State) (k : Nat) (f : Ctx → Ctx) : State := s.putCtx k (f (s.ctxAt k))

/-- Core site `n` = 144 × die + site index (01 R10). -/
def State.coreAt (s : State) (n : Nat) : Core := mget {} s.cores n

/-- Changes a core. -/
def State.onCore (s : State) (n : Nat) (f : Core → Core) : State := { s with cores := mput s.cores n (f (s.coreAt n)) }

/-- The key of the current context of the core whose turn it is (02 R49). -/
def State.ck (s : State) : Nat := 4 * s.core + (s.coreAt s.core).cur % 4

/-- The current context. -/
def State.me (s : State) : Ctx := s.ctxAt s.ck

/-- Changes the current context. -/
def State.onMe (s : State) (f : Ctx → Ctx) : State := s.onCtx s.ck f

/-- A reservation. -/
def State.resvAt (s : State) (r : Nat) : Resv := mget {} s.disp.resvs r

/-- Changes a reservation. -/
def State.onResv (s : State) (r : Nat) (f : Resv → Resv) : State :=
  { s with disp := { s.disp with resvs := mput s.disp.resvs r (f (s.resvAt r)) } }

/-- A task. -/
def State.taskAt (s : State) (t : Nat) : Task := mget {} s.disp.tasks t

/-- Changes a task. -/
def State.onTask (s : State) (t : Nat) (f : Task → Task) : State :=
  { s with disp := { s.disp with tasks := mput s.disp.tasks t (f (s.taskAt t)) } }

/-- A queue's dispatcher state. -/
def State.queueAt (s : State) (q : Nat) : Queue := mget {} s.disp.queues q

/-- Changes a queue. -/
def State.onQueue (s : State) (q : Nat) (f : Queue → Queue) : State :=
  { s with disp := { s.disp with queues := mput s.disp.queues q (f (s.queueAt q)) } }

/-- Changes a queue's Dealer. -/
def State.onDealer (s : State) (q : Nat) (f : Dealer → Dealer) : State :=
  s.onQueue q (fun u => { u with dealer := f u.dealer })

/-- A sidecar: 2 × context, the loader first. -/
def State.sideAt (s : State) (n : Nat) : Side := mget {} s.sides n

/-- Changes a sidecar. -/
def State.onSide (s : State) (n : Nat) (f : Side → Side) : State := { s with sides := mput s.sides n (f (s.sideAt n)) }

/-- The die of a core. -/
def dieOf (core : Nat) : Nat := core / 144

/-- The site index of a core (01 R10). -/
def siteOf (core : Nat) : Nat := core % 144

/-- The package-wide number of the slice that serves a core: 18 × die + slice (01 R11). -/
def sliceOf (core : Nat) : Nat := 18 * dieOf core + 6 * (siteOf core / 12 / 4) + siteOf core % 12 / 2

/-- The stack a core's slice belongs to (01 R11). -/
def stackOf (core : Nat) : Nat := 2 * dieOf core + siteOf core % 12 / 6

/-- The unit of a group level that holds a core: core, slice, stack or package (01 R15). -/
def unitOf (level ctx : Nat) : Nat :=
  match level with
  | 1 => ctx
  | 2 => ctx / 4
  | 3 => sliceOf (ctx / 4)
  | 4 => stackOf (ctx / 4)
  | _ => 0

/-- A free value (00 R6, log entry 2). -/
def State.takeFree (w : Nat) (s : State) : BitVec w × State := (Config.freeBits w s.free, { s with free := s.free + 1 })

/-! ### Management registers -/

/-- Reset value of a management register by window address (16 R396, R412, 17 R428, 18 R431). -/
def winReset (a : Nat) : W64 :=
  if 0x1000 ≤ a ∧ a < 0x9000 then
    (if a % 0x80 = 0 then 0x0C000000 else if a % 0x80 = 0x40 then 0x00101000 else 0)
  else if 0x20 ≤ a ∧ a < 0x40 then 0x18
  else if 0x30000 ≤ a ∧ a < 0x304C0 then 0x00060000
  else if a = 0x40080 then 3600
  else if a = 0x40088 then 30
  else if a = 0x40090 then 30
  else 0

/-- A management register. -/
def State.win (s : State) (a : Nat) : W64 := mget (winReset a) s.mgmt.win a

/-- Sets a management register. -/
def State.setWin (s : State) (a : Nat) (v : W64) : State :=
  { s with mgmt := { s.mgmt with win := mset (winReset a) s.mgmt.win a v } }

/-- Partition register (17 R414). -/
def State.part (s : State) (p off : Nat) : W64 := s.win (0x10000 + 0x1000 * p + off)

/-- Queue register (16 R396). -/
def State.qreg (s : State) (q off : Nat) : W64 := s.win (0x1000 + 0x80 * q + off)

/-- Sets a queue register. -/
def State.setQreg (s : State) (q off : Nat) (v : W64) : State := s.setWin (0x1000 + 0x80 * q + off) v

/-- A bit of an access mask (17 R428, 18 R430). -/
def State.admits (s : State) (a m : Nat) : Bool := bit (s.win (0x30000 + a)) m

/-- The home slice of a line: 18 × die + slice (01 R13). -/
def homeOf (pa : Nat) : Nat :=
  let st := pa / 0x1000000000
  let l := pa % 0x1000000000 / 64
  let n := l % 9
  18 * (st / 2) + 6 * (n / 3) + n % 3 + 3 * (st % 2)

/-- Master `m` may reach the home slice and the memory controller of a physical address in HBM (17 R413, R428). -/
def State.reaches (s : State) (m pa : Nat) : Bool :=
  decide (pa < 0x8000000000) && s.admits (8 * (pa / 0x1000000000)) m && s.admits (0x40 + 8 * homeOf pa) m

/-! ### Physical memory -/

/-- The two keys of a key slot (17 R419). -/
def State.keyMat (s : State) (k : Nat) : List Nat := (mbytes 0 s.mgmt.keys (64 * k) 64).map (fun b => b.toNat)

/-- A line as it crosses the HBM interface under a key id, or back; key id 0 is plaintext (17 R419). -/
def State.crypt (s : State) (dec : Bool) (key line : Nat) (bs : List Byte) : List Byte :=
  if key = 0 then bs else xtsLine dec (s.keyMat key) line bs

/-- The 64 bytes of a line as a request under a key reads them: what is stored is what the key it was written under makes
of the ciphertext, and another key makes its own (17 R419, R420); after a package fatal error HBM contents
are unpredictable (18 R437). -/
def State.lineBytes (s : State) (line key : Nat) : List Byte :=
  if s.mgmt.pfe then (upto 64).map (fun i => Config.freeBits 8 (s.free + 64 * line + i)) else
  let raw := mbytes 0 s.mem.bytes (64 * line) 64
  let w := mget 0 s.mem.wkey line
  if w = key then raw else s.crypt true key line (s.crypt false w line raw)

/-- A line is resident under another key (17 R420); `res` holds key + 1. -/
def State.keyClash (s : State) (pa key : Nat) : Bool :=
  let r := mget 0 s.mem.res (pa / 64)
  r != 0 && r != key + 1

/-- The lines of `n` bytes from an address. -/
def linesOf (pa n : Nat) : List Nat := (upto ((pa + n - 1) / 64 - pa / 64 + 1)).map (fun i => pa / 64 + i)

/-- A request of master `m` under a key reaches every line of a range, and meets none that is resident under another key
(17 R420, R428). -/
def State.open_ (s : State) (m key pa n : Nat) : Bool :=
  (linesOf pa n).all (fun l => s.reaches m (64 * l) && !s.keyClash (64 * l) key)

/-- A line has an uncorrectable error (09 R305). -/
def State.bad (s : State) (pa : Nat) : Bool := (mfind s.mem.poison (pa / 64)).isSome

/-- One byte under a key. -/
def State.byteAt (s : State) (pa key : Nat) : Byte :=
  if mget 0 s.mem.wkey (pa / 64) = key && !s.mgmt.pfe then mget 0 s.mem.bytes pa
  else (s.lineBytes (pa / 64) key).getD (pa % 64) 0

/-- `n` bytes under a key. -/
def State.phys (s : State) (pa key n : Nat) : List Byte := (upto n).map (fun i => s.byteAt (pa + i) key)

/-- Eight bytes as a word. -/
def State.phys8 (s : State) (pa key : Nat) : W64 := w64 (leNat (s.phys pa key 8))

/-- A line becomes resident under a key. -/
def State.fill (s : State) (pa key : Nat) : State :=
  { s with mem := { s.mem with res := mset 0 s.mem.res (pa / 64) (key + 1) } }

/-- Rewrites a line that was last written under another key with what the request's key makes of it. -/
def State.rekey (s : State) (line key : Nat) : State :=
  if mget 0 s.mem.wkey line = key then s
  else { s with mem := { s.mem with
    bytes := mwrite 0 s.mem.bytes (64 * line) (s.lineBytes line key), wkey := mset 0 s.mem.wkey line key } }

/-- One store of bytes within a line: the bytes, their key, the line's timestamp, and poison cleared by a whole
line (09 R291, R305). -/
def State.storeLine (s : State) (pa key : Nat) (bs : List Byte) : State :=
  let line := pa / 64
  let s1 := s.rekey line key
  let now := s1.mem.now + 1
  { s1 with mem := { s1.mem with
    bytes := mwrite 0 s1.mem.bytes pa bs
    res := mset 0 s1.mem.res line (key + 1)
    now := now
    wts := mput s1.mem.wts line now
    poison := if bs.length = 64 then mdel s1.mem.poison line else s1.mem.poison } }

/-- A store of bytes anywhere, line by line; `fuel` bounds the lines. -/
def State.storeBytes (s : State) (key : Nat) : Nat → Nat → List Byte → State
  | 0, _, _ => s
  | f + 1, pa, bs =>
    if bs.isEmpty then s
    else
      let n := 64 - pa % 64
      (s.storeLine pa key (bs.take n)).storeBytes key f (pa + n) (bs.drop n)

/-- A store of bytes at a physical address. -/
def State.physStore (s : State) (pa key : Nat) (bs : List Byte) : State :=
  s.storeBytes key (bs.length / 64 + 2) pa bs

/-! ### Error log (18 R438) -/

/-- Logs an uncorrectable error: place, unit and address; a full log counts an overflow. -/
def State.logError (s : State) (place unit_ : Nat) (addr : W64) : State :=
  if (s.mgmt.logTail - s.mgmt.logHead).toNat ≥ 256 then { s with mgmt := { s.mgmt with logOver := s.mgmt.logOver + 1 } }
  else { s with mgmt := { s.mgmt with
    logTail := s.mgmt.logTail + 1
    log := ((s.mgmt.log ++ [({ place := place, unit_ := unit_, addr := addr, time := s.hub.time } : LogEnt)]).reverse.take 256).reverse } }

/-- Logs an uncorrectable error in a line of memory: in HBM at its stack, and in the L2 at its home slice (18 R438). -/
def State.logLine (s : State) (pa : Nat) : State :=
  let line := w64 (pa / 64 * 64)
  if mfind s.mem.poison (pa / 64) = some false then s.logError 1 (576 + homeOf pa) line else s.logError 0 (pa / 0x1000000000) line

/-- The first address of a core's debug window (18 R440). -/
def debugBase (core : Nat) : Nat := 0x100000000 + 0x120000000 * dieOf core + 0x2000000 * siteOf core

/-- Counts a correctable error, saturating (18 R438). -/
def State.countError (s : State) (place unit_ : Nat) : State :=
  let a := 0x2000 * place + 8 * unit_
  let v := mget 0 s.mgmt.errs a
  { s with mgmt := { s.mgmt with errs := mput s.mgmt.errs a (if v = BitVec.allOnes 64 then v else v + 1) } }

/-! ### Scratchpad shares -/

/-- Bytes of a share. -/
def Resv.read (r : Resv) (off n : Nat) : List Byte := mbytes 0 r.bytes off n

/-- Writes bytes of a share; a store of a whole 64-byte line clears its error (09 R305). -/
def Resv.write (r : Resv) (off : Nat) (bs : List Byte) : Resv :=
  { r with
    bytes := mwrite 0 r.bytes off bs
    poison := if r.poison.isEmpty then [] else
      r.poison.filter (fun p => !(decide (off ≤ 64 * p.1) && decide (64 * p.1 + 64 ≤ off + bs.length))) }

/-- The tag of a word is full (08 R248). -/
def Resv.tag (r : Resv) (word : Nat) : Bool := mget false r.full word

/-- Sets a word's tag. -/
def Resv.setTag (r : Resv) (word : Nat) (full : Bool) : Resv := { r with full := mset false r.full word full }

/-- The offset of the first byte of a range that lies in a 64-byte line with an uncorrectable error (09 R305). -/
def Resv.badIn (r : Resv) (off n : Nat) : Option Nat :=
  if r.poison.isEmpty then none
  else (upto n).find? (fun i => (i == 0 || (off + i) % 64 == 0) && mget false r.poison ((off + i) / 64))

/-- The share's size in bytes (01 R23). -/
def Resv.size (r : Resv) : Nat := 16384 * r.spad

/-! ### Reams (08 R278 to R282, 17 R424) -/

/-- Fields of ream entry `n` of partition `p`: base, size, key, pool, pool size. -/
structure ReamReg where
  valid : Bool
  base : Nat
  size : Nat
  key : Nat
  pool : Nat
  poolSize : Nat
  deriving DecidableEq, Repr

/-- The registers of a ream entry. -/
def State.reamReg (s : State) (p n : Nat) : ReamReg :=
  let w0 := s.part p (0x800 + 0x20 * n)
  let w1 := s.part p (0x808 + 0x20 * n)
  { valid := bit w0 63, base := bf w0 21 27 * 0x200000, size := bf w1 0 16 * 0x200000, key := bf w1 16 10,
    pool := (s.part p (0x810 + 0x20 * n)).toNat / 4096 * 4096, poolSize := bf (s.part p (0x818 + 0x20 * n)) 0 32 * 4096 }

/-- The ready ream of a partition that holds a physical address: its number 64 p + n. -/
def State.reamOf (s : State) (p pa : Nat) : Option Nat :=
  (s.mem.reams.find? (fun e => decide (e.1 / 64 = p) && e.2.ready &&
    (let g := s.reamReg p (e.1 % 64); decide (g.base ≤ pa) && decide (pa < g.base + g.size)))).map (fun e => e.1)

/-- The dynamic state of a ream. -/
def State.reamAt (s : State) (r : Nat) : Ream := mget {} s.mem.reams r

/-- Changes a ream. -/
def State.onReam (s : State) (r : Nat) (f : Ream → Ream) : State :=
  { s with mem := { s.mem with reams := mput s.mem.reams r (f (s.reamAt r)) } }

/-- A quire: resident versions, newest first; the newest version's bytes are the line's own. -/
def State.quire (s : State) (r line : Nat) : List (Nat × List Byte) := mget [(0, [])] (s.reamAt r).quires line

/-- The newest version of a quire. -/
def newestOf (q : List (Nat × List Byte)) : Nat := match q with | [] => 0 | (v, _) :: _ => v

/-- Bytes of a resident version of a line. -/
def State.verBytes (s : State) (r line key v : Nat) : Option (List Byte) :=
  match s.quire r line with
  | [] => none
  | (u, _) :: old =>
    if u = v then some (s.lineBytes line key) else (old.find? (fun e => e.1 = v)).map (fun e => e.2)

/-- A version that may be discarded: some resident version lies above it at or below the floor (08 R281). -/
def reclaimable (floor : Nat) (q : List (Nat × List Byte)) (u : Nat) : Bool :=
  decide (u < floor) && q.any (fun e => decide (u < e.1) && decide (e.1 ≤ floor))

/-- The lowest reclaimable version of a quire. -/
def lowestReclaimable (floor : Nat) (q : List (Nat × List Byte)) : Option Nat :=
  (q.reverse.find? (fun e => reclaimable floor q e.1)).map (fun e => e.1)

/-- Older versions a ream's pool still has room for: 64-byte slots beyond the quire records (17 R424). -/
def State.poolFree (s : State) (r : Nat) : Bool :=
  let g := s.reamReg (r / 64) (r % 64)
  let used := (s.reamAt r).quires.foldl (fun a e => a + (e.2.length - 1)) 0
  decide (used < (g.poolSize - g.size) / 64)

/-- Discards a version of a line. -/
def State.dropVersion (s : State) (r line v : Nat) : State :=
  s.onReam r (fun m => { m with quires := mput m.quires line ((mget [(0, [])] m.quires line).filter (fun e => e.1 ≠ v)) })

/-- A full quire, or a pool without a free slot, is first made room in (08 R281, 17 R424); `none` when a `verst` waits. -/
def State.makeRoom (s : State) (r line : Nat) : Option State :=
  let q := s.quire r line
  if q.length < 8 ∧ s.poolFree r then some s
  else (lowestReclaimable (s.reamAt r).floor q).map (fun v => s.dropVersion r line v)

/-- The `verld`s that wait on a version perform where its `verst` does (08 R280, 09 R314). -/
def State.wakeVer (s : State) (r line v : Nat) : State :=
  let mine (a : VerAsk) : Bool := a.ream == r && a.line == line && a.ver == v && a.got.isNone
  if s.ctxs.any (fun e => e.2.sq.verAsks.any mine) && !s.bad (64 * line) then
    { s with ctxs := s.ctxs.map (fun (e : Nat × Ctx) => (e.1, { e.2 with sq := { e.2.sq with
        verAsks := e.2.sq.verAsks.map (fun a => if mine a then { a with got := some (s.lineBytes line a.key) } else a) } })) }
  else s

/-- Makes a version from the newest, with bytes replaced at an offset (08 R280). -/
def State.makeVersion (s : State) (r line key v off : Nat) (bs : List Byte) : State :=
  let old := s.lineBytes line key
  let q := match s.quire r line with | [] => [(v, [])] | (u, _) :: t => (v, []) :: (u, old) :: t
  let s1 := s.onReam r (fun m => { m with quires := mput m.quires line q })
  (s1.storeLine (64 * line + off) key bs).wakeVer r line v

/-! ### Guesses (11 R341 to R343) -/

/-- The queue of the guess that a context runs in, if any. -/
def State.guessOf (s : State) (c : Ctx) : Option Nat :=
  let t := s.taskAt c.task
  if t.guess then some t.q else none

/-- Kitty bytes over memory bytes: what an agent of a guess reads. -/
def overlay (kit : SMap Byte) (off : Nat) (bs : List Byte) : List Byte :=
  bs.zipIdx.map (fun p => (mfind kit (off + p.2)).getD p.1)

/-- A byte of the argument block of a guess, as predicted (11 R341). -/
def State.argByte (s : State) (c : Ctx) (va : Nat) : Option Byte :=
  let t := s.taskAt c.task
  let a := t.l.args.toNat
  if t.guess && decide (a ≤ va) && decide (va < a + 8 * t.l.argw.length) then
    some (BitVec.ofNat 8 ((t.l.argw.getD ((va - a) / 8) 0).toNat / 2 ^ (8 * ((va - a) % 8)) % 256))
  else none

/-- `n` bytes as an agent of context `c` reads them at a virtual address, within one line (11 R341, R342). -/
def State.agentLine (s : State) (c : Ctx) (va pa key n : Nat) : List Byte :=
  let bs := s.phys pa key n
  match s.guessOf c with
  | none => bs
  | some q =>
    (overlay (mget [] (s.queueAt q).dealer.kitty (pa / 64)) (pa % 64) bs).zipIdx.map
      (fun p => (s.argByte c (va + p.2)).getD p.1)

/-- Bytes read at a virtual address, with the predicted argument words of a guess in their places (11 R341). -/
def State.withArgs (s : State) (c : Ctx) (va : Nat) (bs : List Byte) : List Byte :=
  if (s.guessOf c).isNone then bs else bs.zipIdx.map (fun p => (s.argByte c (va + p.2)).getD p.1)

/-- Records a line in the read set when the guess reads a byte of it that it has not written, argument words apart
(11 R341, R343). -/
def State.noteRead (s : State) (c : Ctx) (va pa n : Nat) : State :=
  match s.guessOf c with
  | none => s
  | some q =>
    let d := (s.queueAt q).dealer
    let line := pa / 64
    let kit := mget [] d.kitty line
    let own := (upto n).all (fun i => (mfind kit (pa % 64 + i)).isSome || (s.argByte c (va + i)).isSome)
    if own || (mfind d.reads line).isSome then s
    else s.onDealer q (fun d => { d with reads := mput d.reads line s.mem.now })

/-- Any number of bytes as an agent of `c` reads them; `d` is the distance from physical to virtual address. -/
def State.agentBytes (s : State) (c : Ctx) (key d : Nat) : Nat → Nat → Nat → List Byte
  | 0, _, _ => []
  | f + 1, pa, n =>
    if n = 0 then [] else
      let m := min n (64 - pa % 64)
      s.agentLine c (pa + d) pa key m ++ s.agentBytes c key d f (pa + m) (n - m)

/-- The read-set entries of a read of any length, and the lines filled. -/
def State.agentNote (s : State) (c : Ctx) (key d : Nat) : Nat → Nat → Nat → State
  | 0, _, _ => s
  | f + 1, pa, n =>
    if n = 0 then s else
      let m := min n (64 - pa % 64)
      ((s.noteRead c (pa + d) pa m).fill pa key).agentNote c key d f (pa + m) (n - m)

/-- A store by an agent of `c`: to the Kitty for a guess, and to memory otherwise (11 R342). -/
def State.agentStore (s : State) (c : Ctx) (pa key : Nat) (bs : List Byte) : State :=
  match s.guessOf c with
  | none => s.physStore pa key bs
  | some q =>
    let put (d : Dealer) (p : Nat) (b : Byte) : Dealer :=
      { d with kitty := mput d.kitty (p / 64) (mput (mget [] d.kitty (p / 64)) (p % 64) b), kkeys := mput d.kkeys (p / 64) key }
    s.onDealer q (fun d => (bs.zipIdx).foldl (fun d e => put d (pa + e.2) e.1) d)

/-- Where the share of a reservation stands in its core's scratchpad (log entry 20). -/
def State.shareBase (s : State) (core r : Nat) : Nat :=
  ((s.disp.resvs.filter (fun e => e.2.core == core && decide (e.1 < r))).map (fun e => e.2.size)).sum

/-- An uncorrectable error that an agent of a context meets in memory, or in the share of a core, is logged (18 R438);
a guess leaves no entry (11 R352). -/
def State.logPhys (s : State) (c : Ctx) (p : Nat) : State :=
  if (s.guessOf c).isSome then s else s.logLine p
@[inherit_doc State.logPhys]
def State.logShare (s : State) (c : Ctx) (core o : Nat) : State :=
  if (s.guessOf c).isSome then s else s.logError 1 core (w64 (debugBase core + 0x400000 + s.shareBase core c.resv + o / 8 * 8))
@[inherit_doc State.logPhys]
def State.logAcc (s : State) (k a : Nat) : State :=
  if (s.guessOf (s.ctxAt k)).isSome then s
  else s.logError 2 (k / 4) (w64 (debugBase (k / 4) + 0xD4000 * (k % 4) + 0x94000 + a / 8 * 8))

end Sys2Proof.Machine
end

