-- ==== Sys2Proof/Machine/Engine.lean ====
section
/-!
DEFINITION. The matrix engine (07): accumulator tiles, operand images, the sums of a product, and the start and the
completion of a queued operation.
-/

namespace Sys2Proof.Machine

/-! ### Accumulator window (01 R34) -/

/-- The 64 bits of an element; the formats of 32 bits read zero above (03 R90). -/
def Tile.get (t : Tile) (i : Nat) : W64 := mget 0 t.el i

/-- Sets an element; the formats of 32 bits ignore the upper half (03 R90). -/
def Tile.set (t : Tile) (i : Nat) (v : W64) : Tile :=
  { t with el := mset 0 t.el i (if t.fmt = 0 ∨ t.fmt = 2 then v &&& 0xFFFFFFFF else v), bad := mdel t.bad i }

/-- A tile of a context. -/
def Ctx.tile (c : Ctx) (n : Nat) : Tile := mget {} c.mx.tiles n

/-- Changes a tile. -/
def Ctx.onTile (c : Ctx) (n : Nat) (f : Tile → Tile) : Ctx :=
  { c with mx := { c.mx with tiles := mput c.mx.tiles n (f (c.tile n)) } }

/-- A byte of the accumulator window. -/
def Ctx.accByte (c : Ctx) (off : Nat) : Byte :=
  BitVec.ofNat 8 (((c.tile (off / 0x2000)).get (off % 0x2000 / 8)).toNat / 2 ^ (8 * (off % 8)) % 256)

/-- The offset of the first byte of a range of the accumulator window in an element with a parity error (18 R438). -/
def Ctx.accBad (c : Ctx) (off n : Nat) : Option Nat :=
  (upto n).find? (fun i => (mfind (c.tile ((off + i) / 0x2000)).bad ((off + i) % 0x2000 / 8)).isSome)

/-- The accumulator window address of the first of a tile's elements that a read of them finds with a parity error
(01 R34, 18 R438). -/
def Ctx.parity (c : Ctx) (n : Nat) (reads : Nat → Bool) : Option W64 :=
  ((c.tile n).bad.find? (fun e => reads e.1)).map (fun e => w64 (0x1000000 + 0x2000 * n + 8 * e.1))

/-- Writes a byte of the accumulator window; the tile becomes dirty (01 R34). -/
def Ctx.accStore (c : Ctx) (off : Nat) (b : Byte) : Ctx :=
  c.onTile (off / 0x2000) (fun t =>
    { t.set (off % 0x2000 / 8) (setf (t.get (off % 0x2000 / 8)) (8 * (off % 8)) 8 b.toNat) with st := .d })

/-- An M-slot operation that writes a tile is queued or in flight (07 R227). -/
def Ctx.busy (c : Ctx) (n : Nat) : Bool := c.mx.ops.any (fun o => o.tiles.contains n)

/-- A statistics record leaves a context: to the H-die, or held by the guess it runs in (10 R320, 11 R344). -/
def State.sendRecord (s : State) (k entry : Nat) (ws : List W64) : State :=
  match s.guessOf (s.ctxAt k) with
  | some q => s.onDealer q (fun d => { d with recs := d.recs ++ [{ ctx := k, entry := entry, words := ws }] })
  | none =>
    { s with hub := { s.hub with recs := s.hub.recs ++ [({ ctx := k, entry := entry, words := ws } : Rec)] } }.onCtx k
      (fun c => { c with mem := { c.mem with recs := c.mem.recs + 1 } })

/-! ### Operand images (07 R213) -/

/-- Bytes of an image of 32 × K elements. -/
def imgSize (fmt blk k : Nat) : Nat :=
  let eb := runBytes (fmtBits fmt) (32 * k)
  match schOf fmt blk with
  | 0 => eb
  | 1 => alignUp eb 64 + 2 * (32 * k / blkLen blk)
  | _ => alignUp (alignUp eb 64 + 32 * (k / 64)) 64 + 4 * (32 * cdiv k 256)

/-- The parts of an image: element codes, S9 containers or QC4 block codes, and QC4 group scales. -/
structure Img where
  codes : Array Nat
  p1 : Array Nat
  p2 : Array Nat

/-- Reads the parts of an image of 32 × K elements. -/
def Img.parse (fmt blk k : Nat) (bs : List Byte) : Img :=
  let w := fmtBits fmt
  let eb := runBytes w (32 * k)
  let o1 := alignUp eb 64
  let run (w n o bytes : Nat) : Array Nat := (elems w n (leNat ((bs.drop o).take bytes))).toArray
  let codes := run w (32 * k) 0 eb
  match schOf fmt blk with
  | 0 => ⟨codes, #[], #[]⟩
  | 1 => let n := 32 * k / blkLen blk; ⟨codes, run 16 n o1 (2 * n), #[]⟩
  | _ =>
    let n := 32 * (k / 64)
    let g := 32 * cdiv k 256
    ⟨codes, run 8 n o1 n, run 32 g (alignUp (o1 + n) 64) (4 * g)⟩

/-- Bytes padded with zeros to a multiple of 64. -/
def pad64 (bs : List Byte) : List Byte := bs ++ List.replicate (alignUp bs.length 64 - bs.length) 0

/-- The bytes of an image from its parts. -/
def Img.build (fmt blk k : Nat) (i : Img) : List Byte :=
  let w := fmtBits fmt
  let run (w bytes : Nat) (a : Array Nat) : List Byte := leBytes bytes (packEl w a.toList)
  let eb := run w (runBytes w (32 * k)) i.codes
  match schOf fmt blk with
  | 0 => eb
  | 1 => pad64 eb ++ run 16 (2 * i.p1.size) i.p1
  | _ => pad64 (pad64 eb ++ run 8 i.p1.size i.p1) ++ run 32 (4 * i.p2.size) i.p2

/-- A plane of 32 lines of `n` entries as `n` rows of 32. -/
def crossed (n : Nat) (a : Array Nat) : Array Nat :=
  ((upto n).flatMap (fun j => (upto 32).map (fun x => a.getD (x * n + j) 0))).toArray

/-- The image of `mldw` in the order of `mld`: S transposed (07 R213, R216). -/
def Img.transposed (fmt blk k : Nat) (i : Img) : Img :=
  let l := if schOf fmt blk = 2 then 64 else blkLen blk
  ⟨crossed k i.codes, if l = 0 then #[] else crossed (k / l) i.p1, if schOf fmt blk = 2 then crossed (cdiv k 256) i.p2 else #[]⟩

/-- The value of an element with its block and group entries; `im` picks the imaginary part of a complex one. -/
def Img.val (fmt blk : Nat) (i : Img) (idx e g : Nat) (im : Bool) : Num :=
  let c := i.codes.getD idx 0
  let t := fmtTy fmt
  match schOf fmt blk with
  | 0 => t.dec (if im then c / 2 ^ t.bits else c % 2 ^ t.bits)
  | 1 => scaled t c (i.p1.getD e 0)
  | _ => qcVal c (i.p1.getD e 0) (i.p2.getD g 0)

/-- Block length of a plane's entries, 1 where there is none. -/
def planeLen (fmt blk : Nat) : Nat := if schOf fmt blk = 2 then 64 else if blk = 0 then 1 else blkLen blk

/-- A(i, k) of an image of 32 × K (07 R213). -/
def Img.a (fmt blk kk : Nat) (img : Img) (im : Bool) (i k : Nat) : Num :=
  let l := planeLen fmt blk
  img.val fmt blk (i * kk + k) (i * (kk / l) + k / l) (i * cdiv kk 256 + k / 256) im

/-- B(k, n) of an image in the order of `mld` (07 R213). -/
def Img.b (fmt blk : Nat) (img : Img) (im : Bool) (k n : Nat) : Num :=
  let l := planeLen fmt blk
  img.val fmt blk (k * 32 + n) (k / l * 32 + n) (k / 256 * 32 + n) im

/-! ### The array (01 R28, 07 R219 to R223) -/

/-- K for a pip cost and a number of hands, where it is whole (01 R28). -/
def passK (p h : Nat) : Option Nat := if 512 * h % p = 0 then some (512 * h / p) else none

/-- The groups of reduction positions that are summed exactly (07 R219, R220). -/
def kGroups (p h k : Nat) (sparse : Bool) : List (List Nat) :=
  if 128 < p then (upto k).map (fun i => [i])
  else
    let kc := (if sparse then 2 else 1) * (128 / p)
    (upto (4 * h)).map (fun g => (upto kc).map (fun j => g * kc + j))

/-- Positions kept within four by a metadata code (07 R220). -/
def keptPair (code : Nat) : Nat × Nat :=
  match code with
  | 0 => (0, 1) | 1 => (0, 2) | 2 => (0, 3) | 3 => (1, 2) | 4 => (1, 3) | _ => (2, 3)

/-- The stored index of dense position `k` under a metadata word, where it is kept (07 R220). -/
def storedAt (meta_ : W64) (k : Nat) : Option Nat :=
  let p := keptPair (bf meta_ (4 * (k / 4 % 16)) 4)
  if k % 4 = p.1 then some (2 * (k / 4)) else if k % 4 = p.2 then some (2 * (k / 4) + 1) else none

/-- The column format of a class (07 R212); `none` sums exactly. -/
def colFmt (cls : Nat) : Option Fl := if cls = 3 then none else if cls = 2 then some .fp32 else some .fp64

/-- A column sum over groups of terms, from −0 (07 R219). -/
def colSum (cf : Option Fl) (groups : List (List Num)) : Num :=
  match cf with
  | none => sumExact false groups.flatten
  | some t => groups.foldl (fun col g => t.decode (t.addr .rne 0 [col, sumExact false g])) (.fin true 0 0)

/-- The column sums of a product in ascending i, then n; a complex product gives each element's real part and then its
imaginary part (07 R219 to R223). -/
def MOp.cols (o : MOp) (f : MX) (cplx sparse : Bool) : List Num :=
  let fa := f.fa.toNat
  let ba := f.ba.toNat
  let cls := fmtClass fa ba
  let a := Img.parse fa ba o.k o.img
  let kb := if sparse then 2 * o.k else o.k
  let b := Img.parse o.buf.fb o.buf.blk kb o.buf.data
  let bval (im : Bool) (k n : Nat) : Num := if o.buf.empty then .fin false 0 0 else b.b o.buf.fb o.buf.blk im k n
  let cj (c : BitVec 1) (x : Num) : Num := if c = 1 then x.neg else x
  let gs := kGroups (pipWidth fa * pipWidth o.buf.fb) o.h kb sparse
  let cell (i n : Nat) (im : Bool) : Num :=
    colSum (colFmt cls) (gs.map (fun g => g.flatMap (fun k =>
      match (if sparse then storedAt o.meta_ k else some k) with
      | none => []
      | some j =>
        if !cplx then [(a.a fa ba o.k false i j).mul (bval false k n)]
        else
          let ar := a.a fa ba o.k false i j
          let ai := cj f.ca (a.a fa ba o.k true i j)
          let br := bval false k n
          let bi := cj f.cb (bval true k n)
          if im then [ar.mul bi, ai.mul br] else [ar.mul br, (ai.mul bi).neg])))
  (upto 32).flatMap (fun i => (upto 32).flatMap (fun n =>
    if cplx then [cell i n false, cell i n true] else [cell i n false]))

/-- The type of a tile format's elements, or of their parts (03 R90). -/
def accTy (af : Nat) : CvtTy :=
  match af with
  | 0 | 3 => .fl .fp32
  | 2 => .int ⟨32, true⟩
  | _ => .fl .fp64

/-- A tile sum: one rounding, or saturation for I32 (03 R90, 07 R219, R235). -/
def accAdd (t : CvtTy) (rm : Rnd) (d : BitVec 32) (x y : Num) : Nat :=
  match t with
  | .fl t => t.addr rm d [x, y]
  | .int t => t.round .rtz 0 (sumExact false [x, y])

/-- The parts of an element of a tile, `u` the second slot of a pair: one code, or real and imaginary (03 R90, 07 R233). -/
def Tile.parts (t u : Tile) (af i : Nat) : Nat × Nat :=
  let x := (t.get i).toNat
  match af with
  | 0 | 2 => (x % 2 ^ 32, 0)
  | 3 => (x % 2 ^ 32, x / 2 ^ 32)
  | 4 => (x, (u.get i).toNat)
  | _ => (x, 0)

/-- The parts of an element of a context's tile. -/
def Ctx.accGet (c : Ctx) (n af i : Nat) : Nat × Nat := (c.tile n).parts (c.tile (n + 1)) af i

/-- The parts of an element of the source tile that an operation read when it started. -/
def MOp.srcGet (o : MOp) (i : Nat) : Nat × Nat := (o.src.getD 0 {}).parts (o.src.getD 1 {}) o.sf i

/-- Elements of a tile from their parts, unlisted where zero. -/
def elMap (l : List Nat) : SMap W64 := (l.zipIdx.filter (fun e => e.1 ≠ 0)).map (fun e => (e.2, w64 e.1))

/-- Writes all 1,024 elements of a tile, or of a pair. -/
def Ctx.accFill (c : Ctx) (n af : Nat) (l : List (Nat × Nat)) : Ctx :=
  let set1 (c : Ctx) (n : Nat) (l : List Nat) : Ctx := c.onTile n (fun t => { t with el := elMap l, bad := [] })
  match af with
  | 3 => set1 c n (l.map (fun p => p.1 + 2 ^ 32 * p.2))
  | 4 => set1 (set1 c n (l.map (fun p => p.1))) (n + 1) (l.map (fun p => p.2))
  | _ => set1 c n (l.map (fun p => p.1))

/-- Is the tile format complex? -/
def accCplx (af : Nat) : Bool := af == 3 || af == 4

/-- Adds column sums into a tile (07 R219, R223). -/
def Ctx.accSum (c : Ctx) (n af : Nat) (cols : List Num) : Ctx :=
  let t := accTy af
  let a := cols.toArray
  c.accFill n af ((upto 1024).map (fun i =>
    let x := c.accGet n af i
    let add (v : Nat) (y : Num) : Nat := accAdd t .rne 0 (t.dec v) y
    if accCplx af then (add x.1 (a.getD (2 * i) .nan), add x.2 (a.getD (2 * i + 1) .nan))
    else (add x.1 (a.getD i .nan), 0)))

/-- Finite values that a conversion clips (06 R197, the `mmac` item). -/
def CvtTy.clips (t : CvtTy) (rm : Rnd) (d : BitVec 32) (x : Num) : Bool :=
  match x with
  | .fin neg n e =>
    let (a, b) := dyadic n e
    match t with
    | .int t => let v := roundInt rm d neg a b; decide (v < t.lo) || decide (t.hi < v)
    | .fl t =>
      if a = 0 then false
      else
        let (m, g) := roundGrid t.prec t.emin rm d neg a b
        decide (t.maxCode < t.gridCode m g)
  | _ => false

/-- A source element of `mmac`: its value and its draw, where the position lies in the tile (07 R224). -/
def Ctx.mmacSrc (c : Ctx) (o : MOp) (f : MX) : List (List (Option (Num × BitVec 32))) :=
  let c0 := bf f.src 5 5
  let n := min o.k (32 - c0)
  let t := accTy o.sf
  (upto 32).map (fun i => (upto o.k).map (fun k =>
    if k < n then some (t.dec (c.accGet (bf f.src 0 5) o.sf (32 * i + c0 + k)).1, o.draws.getD (i * n + k) 0) else none))

/-! ### Hands (05 R169, R170) -/

/-- Inserts a number into a rising list. -/
def insertUp (x : Nat) : List Nat → List Nat
  | [] => [x]
  | y :: t => if x < y then x :: y :: t else if x = y then y :: t else y :: insertUp x t

/-- d4 with H and the dense K of a pass (02 R47, 01 R28). -/
def Regs.withHands (r : Regs) (h : Nat) : Regs :=
  let d (n : Nat) : W64 := mget 0 r.d n
  let p := pipWidth (bf (d 5) 0 5) * pipWidth (bf (d 6) 0 5)
  { r with d := mset 0 r.d 4 (setf (setf (d 4) 32 4 h) 16 16 (if h = 0 then 0 else (passK p h).getD 0)) }

/-- A `handreq` or `handrel` takes effect: the hands, both buffers empty, and d4 (05 R170). -/
def Ctx.handEffect (c : Ctx) : Ctx :=
  match c.mx.chg with
  | none => c
  | some h =>
    let hs := if h.add.isEmpty then c.mx.hands.take h.n else h.add.foldl (fun l x => insertUp x l) c.mx.hands
    { c with
      mx := { c.mx with hands := hs, front := {}, back := {}, frontD := [], backD := [], chg := none }
      r := c.r.withHands hs.length }

/-- Moves mpc; a word fetched for the old one no longer counts (07 R220, R222). -/
def Ctx.nextMeta (c : Ctx) (a : W64) : Ctx := { c with r := { c.r with mpc := a }, mx := { c.mx with metaW := none } }

/-! ### The queue (07 R226, R227) -/

/-- A streaming product. -/
def isStream : Instr → Bool
  | .mma _ | .mmas _ | .mmac _ | .mmaC _ => true
  | _ => false

/-- A load of the back buffer. -/
def isLoad : Instr → Bool
  | .mld _ | .mldw _ => true
  | _ => false

/-- The first operation that has not started. -/
def Mx.nextOp (m : Mx) : Option MOp := m.ops.find? (fun o => !o.started)

/-- May the next operation start (07 R217, R226, R227)? -/
def Mx.mayStart (m : Mx) (o : MOp) : Bool :=
  let before := m.ops.filter (fun x => x.started)
  let writers (n : Nat) : List MOp := before.filter (fun x => x.tiles.contains n)
  if isLoad o.lat.instr then
    before.all (fun x => !isLoad x.lat.instr && !(isStream x.lat.instr && x.par != m.par))
  else match o.lat.instr with
    | .mswap _ => before.all (fun x => !isLoad x.lat.instr)
    | _ =>
      if isStream o.lat.instr then
        o.tiles.all (fun n => (writers n).all (fun x => isStream x.lat.instr && x.tiles == o.tiles)) &&
          o.reads.all (fun n => (writers n).isEmpty)
      else (o.tiles ++ o.reads).all (fun n => (writers n).isEmpty)

/-- The statistics record of an `mmac` over the source elements it converts (07 R225). -/
def mmacRecord (f : MX) (src : List (List (Option (Num × BitVec 32)))) : List W64 :=
  let t := fmtTy f.fa.toNat
  let rm := Rnd.get f.rm.toNat
  let xs := src.flatMap (fun r => r.filterMap (fun y => y))
  recordOf (xs.map (fun x => (x.1, t.dec (t.enc rm x.2 x.1)))) (xs.filter (fun x => t.clips rm x.2 x.1)).length

/-- The statistics record of column sums (07 R225). -/
def colRecord (cols : List Num) : List W64 := recordOf (cols.map (fun x => (x, x))) 0

/-- Replaces an operation of the queue. -/
def Mx.setOp (m : Mx) (o : MOp) : Mx := { m with ops := m.ops.map (fun x => if x.id = o.id then o else x) }

/-- Starts an operation (07 R226): a product takes the front buffer's data, an `mswap` exchanges the data and leaves
the queue, `mmac` converts its source tile, and `acvt` and `aadd` read theirs (03 R95). -/
def Ctx.mStart (c : Ctx) (o : MOp) : Ctx :=
  let o1 := { o with started := true, par := c.mx.par, buf := { o.buf with data := c.mx.frontD } }
  match o.lat.instr with
  | .mswap _ =>
    { c with mx := { c.mx with frontD := c.mx.backD, backD := c.mx.frontD, par := !c.mx.par,
                               ops := c.mx.ops.filter (fun x => x.id ≠ o.id) } }
  | .mmac f =>
    let t := fmtTy f.fa.toNat
    let src := c.mmacSrc o f
    let rows := src.map (fun r => r.map (fun x => match x with
      | some v => t.enc (Rnd.get f.rm.toNat) v.2 v.1
      | none => 0))
    let img := leBytes (runBytes t.bits (32 * o.k)) (packEl t.bits rows.flatten)
    let c0 := bf f.src 5 5
    let bad := c.parity (bf f.src 0 5) (fun i => decide (c0 ≤ i % 32) && decide (i % 32 < c0 + o.k))
    { c with mx := c.mx.setOp { o1 with img := img, stat := if f.ce = 1 then mmacRecord f src else [], poison := bad } }
  | .acvt _ | .aadd _ =>
    let bad := (c.parity o.lat.acb (fun _ => true)).orElse (fun _ => if o.sf = 4 then c.parity (o.lat.acb + 1) (fun _ => true) else none)
    { c with mx := c.mx.setOp { o1 with src := [c.tile o.lat.acb, c.tile (o.lat.acb + 1)], poison := bad } }
  | _ => { c with mx := c.mx.setOp o1 }

/-- The last write of an operation lands and its busy bits clear (07 R216, R219, R233 to R235). -/
def Ctx.mLand (c : Ctx) (o : MOp) : Ctx :=
  let c1 := { c with mx := { c.mx with ops := c.mx.ops.filter (fun x => x.id ≠ o.id) } }
  if o.poison.isSome then c1
  else match o.lat.instr with
  | .mld _ => { c1 with mx := { c1.mx with backD := o.img } }
  | .mldw f =>
    let fb := f.fa.toNat
    let ba := f.ba.toNat
    { c1 with mx := { c1.mx with backD := ((Img.parse fb ba o.k o.img).transposed fb ba o.k).build fb ba o.k } }
  | .mma f => c1.accSum o.lat.acc o.af (o.cols f false false)
  | .mmas f => c1.accSum o.lat.acc o.af (o.cols f false true)
  | .mmac f => c1.accSum o.lat.acc o.af (o.cols f false false)
  | .mmaC f => c1.accSum o.lat.acc o.af (o.cols f true false)
  | .azero _ | .acfg _ | .aclr _ => o.tiles.foldl (fun c n => c.onTile n (fun t => { t with el := [], bad := [] })) c1
  | .aload _ =>
    let ws := (upto (o.img.length / 8)).map (fun i => leNat ((o.img.drop (8 * i)).take 8))
    let mask (l : List Nat) : List Nat := if o.af = 0 ∨ o.af = 2 then l.map (· % 2 ^ 32) else l
    let c2 := c1.onTile o.lat.acc (fun t => { t with el := elMap (mask (ws.take 1024)), bad := [] })
    if o.af = 4 then c2.onTile (o.lat.acc + 1) (fun t => { t with el := elMap (ws.drop 1024), bad := [] }) else c2
  | .acvt f =>
    let rm := Rnd.get f.rm.toNat
    let st := accTy o.sf
    let dt := accTy o.af
    let d (i : Nat) : BitVec 32 := o.draws.getD i 0
    c1.accFill o.lat.acc o.af ((upto 1024).map (fun i =>
      let x := o.srcGet i
      if accCplx o.af then (dt.enc rm (d (2 * i)) (st.dec x.1), dt.enc rm (d (2 * i + 1)) (st.dec x.2))
      else (dt.enc rm (d i) (st.dec x.1), 0)))
  | .aadd f =>
    let rm := Rnd.get f.rm.toNat
    let t := accTy o.af
    let d (i : Nat) : BitVec 32 := o.draws.getD i 0
    c1.accFill o.lat.acc o.af ((upto 1024).map (fun i =>
      let x := c.accGet o.lat.acc o.af i
      let y := o.srcGet i
      if accCplx o.af then
        (accAdd t rm (d (2 * i)) (t.dec x.1) (t.dec y.1), accAdd t rm (d (2 * i + 1)) (t.dec x.2) (t.dec y.2))
      else (accAdd t rm (d i) (t.dec x.1) (t.dec y.1), 0)))
  | _ => c1

/-- The entry that an operation sends a record to. -/
def MOp.cal (o : MOp) : Option Nat :=
  match o.lat.instr with
  | .mma f | .mmas f | .mmaC f | .mmac f => if f.ce = 1 then some f.cal.toNat else none
  | _ => none

/-- The record a landing product sends, with its entry (07 R225). -/
def MOp.sent (o : MOp) : Option (Nat × List W64) :=
  if o.poison.isSome then none
  else match o.lat.instr with
  | .mma f => if f.ce = 1 then some (f.cal.toNat, colRecord (o.cols f false false)) else none
  | .mmas f => if f.ce = 1 then some (f.cal.toNat, colRecord (o.cols f false true)) else none
  | .mmaC f => if f.ce = 1 then some (f.cal.toNat, colRecord (o.cols f true false)) else none
  | .mmac f => if f.ce = 1 then some (f.cal.toNat, o.stat) else none
  | _ => none

/-- Does an operation add to the tiles it writes, so that it reads them (07 R219, R224, R235)? -/
def MOp.adds (o : MOp) : Bool :=
  match o.lat.instr with
  | .mma _ | .mmas _ | .mmaC _ | .mmac _ | .aadd _ => true
  | _ => false

/-- An operation about to land, with the parity error that its read of its own tiles meets (18 R438). -/
def MOp.checked (o : MOp) (c : Ctx) : MOp :=
  if o.adds && o.poison.isNone && o.tiles.any (fun n => !(c.tile n).bad.isEmpty) then
    { o with poison := o.tiles.findSome? (fun n => c.parity n (fun _ => true)) }
  else o

/-- Completes an operation: its last write, its record, or the asynchronous trap of a read that met an error
(07 R225, R227, 09 R305); an error of the accumulator store is logged now, one of the scratchpad when it was read. -/
def State.mComplete (s : State) (k : Nat) (o : MOp) : State :=
  let c := s.ctxAt k
  let o := o.checked c
  let s1 := s.putCtx k (c.mLand o)
  let s2 := match o.sent with
    | some r => s1.sendRecord k r.1 r.2
    | none => s1
  match o.poison with
  | none => s2
  | some a => (if 0x1000000 ≤ a.toNat then s2.logAcc k (a.toNat - 0x1000000) else s2).onCtx k (fun c => { c with sys := { c.sys with asyncs := c.sys.asyncs ++
      [({ cls := .async, code := 0x22, detail := a, x0 := o.pkt, x1 := w64 o.pos, num := o.id } : Trap)] } })

/-- Starts and completes the operations of the queue in order, `n` of them at most. -/
def State.mRun (s : State) (k : Nat) : Nat → State
  | 0 => s
  | n + 1 =>
    match (s.ctxAt k).mx.ops with
    | [] => s
    | o :: _ =>
      let s1 := if o.started then s else s.onCtx k (fun c => c.mStart o)
      match (s1.ctxAt k).mx.ops.find? (fun x => x.id = o.id) with
      | some o1 => (s1.mComplete k o1).mRun k n
      | none => s1.mRun k n

/-- Runs the queue until nothing is in flight (07 R229, R237). -/
def State.mFinish (s : State) (k : Nat) : State := s.mRun k (s.ctxAt k).mx.ops.length

/-- The next queued operation starts (07 R226). -/
def execMOpStart (c : Nat) (s : State) : Out State :=
  let m := (s.ctxAt c).mx
  match m.nextOp with
  | some o => if m.mayStart o then .next (s.onCtx c (fun x => x.mStart o)) else .refused .notEnabled
  | none => .refused .notEnabled

/-- An operation's last write lands; products into one tile land in their order (07 R227). -/
def execMOpComplete (c id : Nat) (s : State) : Out State :=
  let m := (s.ctxAt c).mx
  match m.ops.find? (fun o => o.id = id) with
  | some o =>
    if o.started && m.ops.all (fun x => !(decide (x.id < id) && x.tiles.any (fun n => o.tiles.contains n)))
    then .next (s.mComplete c o) else .refused .notEnabled
  | none => .refused .notEnabled

end Sys2Proof.Machine
end

