-- ==== Sys2Proof/Machine/Translate.lean ====
section
/-!
DEFINITION. Address translation: the five-level walk, its checks and permissions, and the TLBs (17 R413 to R421).
-/

namespace Sys2Proof.Machine

/-- What an access needs of a page (17 R418). -/
inductive Want where
  | r | w | x | rw
  deriving DecidableEq, Repr

/-- Why an address does not translate or may not be accessed (17 R418, R425). -/
inductive XErr where
  | window
  /-- V = 0 at a level; 7 for the address-space table (17 R422) -/
  | absent (level : Nat)
  | perm
  /-- an uncorrectable error in the entry at a physical address -/
  | walkError (pa : Nat)
  | notReam
  | ecwStore
  deriving DecidableEq, Repr

/-- A translated access. -/
structure Phys where
  pa : Nat
  key : Nat
  flags : Nat
  deriving DecidableEq, Repr

/-- The outcome of a translation. -/
inductive XRes where
  | ok (p : Phys)
  | err (e : XErr)
  deriving DecidableEq, Repr

/-- The outcome of a walk. -/
inductive WRes where
  | ok (t : Tlb)
  | err (e : XErr)
  deriving DecidableEq, Repr

/-- The global window of a context (01 R33). -/
def inGlobal (a : Nat) : Bool := decide (0x1000000000000 ≤ a) && decide (a < 0x10000000000000)

/-- A partition may use a key id (17 R414, R418). -/
def State.keyOk (s : State) (p k : Nat) : Bool :=
  let w := s.part p 0x10
  (k == 0 && bit w 31) || (decide (1 ≤ k) && decide (bf w 0 10 ≤ k) && decide (k ≤ bf w 32 10))

/-- A partition owns a stack (17 R414). -/
def State.owns (s : State) (p st : Nat) : Bool := decide (st < 8) && bit (s.part p 0) st

/-- The format tag map register of a stack (17 R426). -/
def State.tagMap (s : State) (st : Nat) : W64 := s.win (0x18000 + 8 * st)

/-- Bits of VA below a page mapped at a level (17 R415). -/
def levelShift (level : Nat) : Nat := if level = 0 then 48 else if level = 1 then 39 else if level = 2 then 30 else if level = 3 then 21 else 12

/-- Entries of a table at a level (17 R415). -/
def levelBits (level : Nat) : Nat := if level = 0 then 4 else 9

/-- A leaf entry's checks (17 R416, R418). -/
def State.leaf (s : State) (p asid va level : Nat) (e : W64) : WRes :=
  let sz64 := bit e 8
  let bits := if sz64 then 16 else levelShift level
  let frame := bf e 12 36 * 4096
  let key := bf e 52 10
  let kinds := b2n (bit e 9) + b2n (bit e 10) + b2n (bit e 11)
  if nz6 e || decide (level < 2) || (sz64 && level != 4) || frame % 2 ^ bits != 0 then .err .perm
  else if decide (0x8000000000 ≤ frame) || !s.owns p (frame / 0x1000000000) then .err .perm
  else if !s.keyOk p key then .err .perm
  else if decide (1 < kinds) || (bit e 10 && !bit (s.tagMap (frame / 0x1000000000)) 63) then .err .perm
  else .ok { part := p, asid := asid, vbase := va / 2 ^ bits, bits := bits, pa := frame, key := key, flags := bf e 0 12 }
where
  /-- a reserved bit of the entry is set -/
  nz6 (e : W64) : Bool := bf e 62 2 != 0 || bf e 48 4 != 0 || bf e 6 2 != 0

/-- A walk: its outcome, the non-leaf entries it passed and the lines it read, with their keys. -/
structure Walked where
  res : WRes
  steps : List Tlb := []
  reads : List (Nat × Nat) := []
  deriving DecidableEq, Repr

/-- The place of the entry that translates an address of a 64 KiB page: its own, or any one of the run's sixteen where
they differ (17 R417). -/
def State.run64 (s : State) (ptkey at_ : Nat) : Nat :=
  let first := at_ / 128 * 128
  let es := (upto 16).map (fun i => s.phys8 (first + 8 * i) ptkey)
  if es.all (fun x => x = s.phys8 at_ ptkey) then at_ else first + 8 * (Config.freeBits 4 s.free).toNat

/-- The entry of a table that a walk takes at a level, by its place (17 R417). -/
def State.entryAt (s : State) (ptkey level at_ : Nat) : Nat :=
  let e := s.phys8 at_ ptkey
  if level = 4 && bit e 0 && bit e 1 && bit e 8 then s.run64 ptkey at_ else at_

/-- The walk from a level's table down: each read is one of the partition's, under PTKEY (17 R415, R418, R420, R428). -/
def State.walkFrom (s : State) (p asid ptkey va : Nat) : Nat → Nat → Walked
  | 0, _ => { res := .err .perm }
  | f + 1, tab =>
    let level := 4 - f
    let own := tab + 8 * (va / 2 ^ levelShift level % 2 ^ levelBits level)
    let at_ := s.entryAt ptkey level own
    let fin (r : WRes) : Walked := { res := r, reads := [(own, ptkey)] }
    if !s.open_ p ptkey own 8 || !s.open_ p ptkey at_ 8 then { res := .err .perm }
    else if s.bad own then fin (.err (.walkError own))
    else if s.bad at_ then fin (.err (.walkError at_))
    else
      let e := s.phys8 at_ ptkey
      if !bit e 0 then fin (.err (.absent level))
      else if bit e 1 then fin (s.leaf p asid va level e)
      else if level = 4 ∨ bf e 48 16 ≠ 0 ∨ bf e 2 10 ≠ 0 then fin (.err .perm)
      else
        let next := bf e 12 36 * 4096
        let w := s.walkFrom p asid ptkey va f next
        let t : Tlb := { part := p, asid := asid, vbase := va / 2 ^ levelShift level, bits := levelShift level, pa := next, key := ptkey, flags := 0 }
        { w with steps := t :: w.steps, reads := (own, ptkey) :: w.reads }

/-- A whole walk for an address space of a partition (17 R414, R415). -/
def State.walkAll (s : State) (p asid va : Nat) : Walked :=
  if !inGlobal va then { res := .err .window }
  else
    let r := s.part p 8
    if bf r 48 16 ≤ asid then { res := .err (.absent 7) }
    else
      let at_ := bf r 12 36 * 4096 + 16 * asid
      if !s.open_ p 0 at_ 16 then { res := .err .perm }
      else if s.bad at_ then { res := .err (.walkError at_) }
      else
        let w0 := s.phys8 at_ 0
        if !bit w0 0 then { res := .err (.absent 7), reads := [(at_, 0)] }
        else
          let w := s.walkFrom p asid (bf (s.phys8 (at_ + 8) 0) 0 10) va 5 (bf w0 12 36 * 4096)
          { w with reads := (at_, 0) :: w.reads }

/-- The outcome of a whole walk. -/
def State.walk (s : State) (p asid va : Nat) : WRes := (s.walkAll p asid va).res

/-- A TLB's translation of an address. -/
def tlbFind (l : List Tlb) (p asid va : Nat) : Option Tlb :=
  l.find? (fun t => decide (t.part = p) && decide (t.asid = asid) && decide (va / 2 ^ t.bits = t.vbase))

/-- Adds a translation; a full TLB drops its oldest (log entry 10). -/
def tlbAdd (cap : Nat) (l : List Tlb) (t : Tlb) : List Tlb := (t :: l.filter (fun u => u ≠ t)).take cap

/-- The non-leaf entry nearest the leaf that a list holds for an address. -/
def nearest (l : List Tlb) (p asid va : Nat) : Option Tlb :=
  [21, 30, 39, 48].findSome? (fun b => tlbFind (l.filter (fun t => t.bits == b)) p asid va)

/-- Levels below a non-leaf entry, by the bits it covers (17 R415). -/
def levelsBelow (bits : Nat) : Nat := if bits = 21 then 1 else if bits = 30 then 2 else if bits = 39 then 3 else 4

/-- A walk by a slice's walker, from the nearest non-leaf entry that the slice holds (17 R421). -/
def State.walkAt (s : State) (sl p asid va : Nat) : Walked :=
  match nearest (mget [] s.walks sl) p asid va with
  | some t => s.walkFrom p asid t.key va (levelsBelow t.bits) t.pa
  | none => s.walkAll p asid va

/-- What a walk leaves at its slice: the lines it read are resident, and its non-leaf entries are held (17 R420, R421). -/
def State.walked (s : State) (sl : Nat) (w : Walked) : State :=
  let s1 := w.reads.foldl (fun s x => s.fill x.1 x.2) s
  if w.steps.isEmpty then s1
  else { s1 with walks := mput s1.walks sl (w.steps ++ (mget [] s1.walks sl).filter (fun t => !w.steps.contains t)) }

/-- A translation through the core's TLB, its slice's TLB and a walk, filling both (17 R421). -/
def State.lookup (s : State) (core p asid va : Nat) : State × WRes :=
  match tlbFind (s.coreAt core).tlb p asid va with
  | some t => (s, .ok t)
  | none =>
    let sl := sliceOf core
    match tlbFind (mget [] s.slices sl) p asid va with
    | some t => (s.onCore core (fun c => { c with tlb := tlbAdd 256 c.tlb t }), .ok t)
    | none =>
      let w := s.walkAt sl p asid va
      match w.res with
      | .err e => (s, .err e)
      | .ok t =>
        let s0 := s.walked sl w
        let s1 := { s0 with slices := mput s0.slices sl (tlbAdd 8192 (mget [] s0.slices sl) t), free := s0.free + 1 }
        (s1.onCore core (fun c => { c with tlb := tlbAdd 256 c.tlb t }), .ok t)

/-- The permissions of a page (17 R418). -/
def pageAllows (flags : Nat) (sup : Bool) (w : Want) : Bool :=
  let b (i : Nat) : Bool := flags.testBit i
  (sup || !b 5) &&
    match w with
    | .r => b 2
    | .w => b 3
    | .rw => b 2 && b 3
    | .x => b 4

/-- The bytes of memory behind an address of a page: the line at `pa`, or the 160-byte slot of an ECW page (08 R270). -/
def pageSpan (ecw : Bool) (pa : Nat) : Nat × Nat := if ecw then (pa / 4096 * 4096 + 160 * (pa % 4096 / 256), 160) else (pa, 1)

/-- The checks past the page: permission, access tables, resident key, ECW store and ream frame
(17 R418, R420, R425, R428, 08 R272). -/
def State.pageCheck (s : State) (p va : Nat) (sup : Bool) (w : Want) (t : Tlb) : XRes :=
  let pa := t.pa + va % 2 ^ t.bits
  let ream := t.flags.testBit 9
  let span := pageSpan (t.flags.testBit 11) pa
  if !pageAllows t.flags sup w then .err .perm
  else if t.flags.testBit 11 && (decide (w = .w) || decide (w = .rw)) then .err .ecwStore
  else if !s.open_ p t.key span.1 span.2 then .err .perm
  else if ream then
    match s.reamOf p pa with
    | none => .err .notReam
    | some r => if (s.reamReg p (r % 64)).key = t.key then .ok ⟨pa, t.key, t.flags⟩ else .err .perm
  else .ok ⟨pa, t.key, t.flags⟩

/-- Translates one address and checks the access (17 R418). -/
def State.xlate (s : State) (core p asid : Nat) (sup : Bool) (va : Nat) (w : Want) : State × XRes :=
  match s.lookup core p asid va with
  | (s1, .err e) => (s1, .err e)
  | (s1, .ok t) => (s1, s1.pageCheck p va sup w t)

/-- The flags of a page: ECW, TRK and REAM (17 R416). -/
def Phys.ecw (p : Phys) : Bool := p.flags.testBit 11
@[inherit_doc Phys.ecw]
def Phys.trk (p : Phys) : Bool := p.flags.testBit 10
@[inherit_doc Phys.ecw]
def Phys.ream (p : Phys) : Bool := p.flags.testBit 9

/-- Translates an address for an agent of context `k`: a guess reaches no page under another key id than its queue's
(11 R351). -/
def State.xlateCtx (s : State) (k : Nat) (sup : Bool) (va : Nat) (w : Want) : State × XRes :=
  let c := s.ctxAt k
  match s.xlate (k / 4) c.part c.asid sup va w with
  | (s1, .ok p) => (s1, if (s.guessOf c).isSome && p.key != c.key then .err .perm else .ok p)
  | (s1, .err e) => (s1, .err e)

/-- Bytes from a physical address under a key, line by line. -/
def State.physRun (s : State) (key : Nat) : Nat → Nat → Nat → List Byte
  | 0, _, _ => []
  | f + 1, pa, n =>
    if n = 0 then []
    else
      let m := min n (64 - pa % 64)
      s.phys pa key m ++ s.physRun key f (pa + m) (n - m)

/-- Bytes of one line of an address space as the dispatcher reads them, or nothing when the read does not translate, is
denied or meets an error (16 R398); a page marked ECW is read decoded (08 R272). -/
def State.readLine (s : State) (p asid va n : Nat) : Option (List Byte) :=
  match s.walk p asid va with
  | .err _ => none
  | .ok t =>
    match s.pageCheck p va true .r t with
    | .err _ => none
    | .ok q =>
      if q.ecw then
        let off := q.pa % 4096
        let slot := q.pa / 4096 * 4096 + 160 * (off / 256)
        if [0, 64, 128, 159].any (fun d => s.bad (slot + d)) then none
        else match ecwSlot (s.physRun q.key 4 slot 160) with
          | .ok bs => some ((bs.drop (off % 256)).take n)
          | .err _ => none
      else if s.bad q.pa then none
      else some (s.phys q.pa q.key n)

/-- Reads of an address space line by line. -/
def State.readRun (s : State) (p asid : Nat) : Nat → Nat → Nat → Option (List Byte)
  | 0, _, _ => some []
  | f + 1, va, n =>
    if n = 0 then some []
    else
      let m := min n (64 - va % 64)
      match s.readLine p asid va m with
      | none => none
      | some bs => (s.readRun p asid f (va + m) (n - m)).map (fun l => bs ++ l)

/-- Bytes of an address space as the dispatcher reads them. -/
def State.readBytes (s : State) (p asid va n : Nat) : Option (List Byte) := s.readRun p asid (n / 64 + 2) va n

/-- Words of an address space as the dispatcher reads them. -/
def State.readWords (s : State) (p asid : Nat) (va : Nat) : Nat → Option (List W64)
  | 0 => some []
  | n + 1 =>
    match s.readBytes p asid va 8 with
    | none => none
    | some bs => (s.readWords p asid (va + 8) n).map (fun ws => w64 (leNat bs) :: ws)

/-- The trap of an address that does not translate or may not be accessed: `x0` is the access SEXTRA0 names and `fq` the
one the fault queue names (15 R381, 17 R418, R422). -/
def xTrap (va : W64) (e : XErr) (x0 fq : Nat) : Trap :=
  match e with
  | .window => { cls := .slot, code := 0x09, detail := va }
  | .absent l => { cls := .slot, code := 0x20, detail := va, x0 := w64 x0, level := l, fq := fq }
  | .perm => { cls := .slot, code := 0x21, detail := va, x0 := w64 x0 }
  | .walkError pa => { cls := .slot, code := 0x22, detail := w64 pa }
  | .notReam => { cls := .slot, code := 0x24, detail := va }
  | .ecwStore => { cls := .slot, code := 0x29, detail := va }

end Sys2Proof.Machine
end

