-- ==== Sys2Proof/Machine/Homes.lean ====
section
/-!
DEFINITION. Performing accesses (09 R287 to R305): which accesses of a context scoreboard order puts before which
(R289), and the one place where an access reads or writes its home, delivers its result and leaves its scoreboard slot.
-/

namespace Sys2Proof.Machine

/-! ### Scalars and vectors of a context -/

/-- A scalar: s0 reads zero, and s56 to s63 are separate in supervisor mode (01 R32, 15 R375). -/
def Regs.rs (r : Regs) (n : Nat) : W64 :=
  if n = 0 then 0 else if r.sup && decide (56 ≤ n) then mget 0 r.ss n else mget 0 r.s n

/-- Writes a scalar of a mode; a write to s0 is discarded (01 R32). -/
def Regs.wsMode (r : Regs) (sup : Bool) (n : Nat) (v : W64) : Regs :=
  if n = 0 then r
  else if sup && decide (56 ≤ n) then { r with ss := mset 0 r.ss n v } else { r with s := mset 0 r.s n v }

/-- Writes a scalar of the current mode. -/
def Regs.ws (r : Regs) (n : Nat) (v : W64) : Regs := r.wsMode r.sup n v

/-- A vector register. -/
def Regs.rv (r : Regs) (n : Nat) : VReg := mget 0 r.v n

/-- Writes bits [lo + w - 1 : lo] of a vector register and leaves the others (04 R119). -/
def Regs.wvBits (r : Regs) (n lo w v : Nat) : Regs := { r with v := mset 0 r.v n (setf (r.rv n) lo w v) }

/-- A mask; m0 reads all ones (01 R32). -/
def Regs.rm (r : Regs) (n : Nat) : MaskReg := if n = 0 then BitVec.allOnes 128 else mget 0 r.m n

/-- Writes the low `w` bits of a mask; m0 discards (01 R32, 06 R188). -/
def Regs.wm (r : Regs) (n w v : Nat) : Regs := if n = 0 then r else { r with m := mset 0 r.m n (setf (r.rm n) 0 w v) }

/-- A condition bit. -/
def Regs.rc (r : Regs) (n : Nat) : Bool := bit r.c n

/-- Writes a condition bit. -/
def Regs.wc (r : Regs) (n : Nat) (b : Bool) : Regs := { r with c := setf r.c n 1 (b2n b) }

/-- A dispatch register. -/
def Regs.rd (r : Regs) (n : Nat) : W64 := mget 0 r.d n

/-- Writes a dispatch register. -/
def Regs.wd (r : Regs) (n : Nat) (v : W64) : Regs := { r with d := mset 0 r.d n v }

/-- An address step. -/
def Regs.rq (r : Regs) (n : Nat) : W64 := mget 0 r.q n

/-- Changes a context's registers. -/
def Ctx.onR (c : Ctx) (f : Regs → Regs) : Ctx := { c with r := f c.r }

/-! ### Scoreboard order (09 R289) -/

/-- The first and past-the-last line of a run of bytes, in a space of its own per kind of place (09 R291). -/
def lineSpan (space o n : Nat) : Nat × Nat × Nat := (space, o / 64, (o + n - 1) / 64 + 1)

/-- The lines an access touches (09 R291): those of its place, of the ring slot it delivers to, and of the slots a
pointer operation waits on (08 R253). -/
def Access.spans (a : Access) : List (Nat × Nat × Nat) :=
  (match a.loc with
   | .share o => lineSpan 0 o a.size
   | .phys p _ => lineSpan 1 p a.size
   | .mail k => (2, k, k + 1)
   | .acc _ => (3, 0, 1)) ::
  ((match a.dest with | .ring o => [lineSpan 0 o a.size] | _ => []) ++
   match a.kind with | .ringTags sl n _ _ => sl.map (fun o => lineSpan 0 o n) | _ => [])

/-- Is it a deferred push, which waits for a copy tag (08 R253)? -/
def Access.deferred (a : Access) : Bool := match a.kind with | .ringTags _ _ _ (some _) => true | _ => false

/-- Is it a reduction? -/
def Access.isRed (a : Access) : Bool := match a.kind with | .red .. => true | _ => false

/-- The accesses touch the same line (09 R291). -/
def sameLine (a b : Access) : Bool :=
  a.spans.any (fun x => b.spans.any (fun y => x.1 == y.1 && decide (x.2.1 < y.2.2) && decide (y.2.1 < x.2.2)))

/-- Two results are bound for bits of one vector register; the later stands over the earlier (04 R104). -/
def sameDest (a b : Access) : Bool :=
  match a.dest, b.dest with
  | .v n lo w, .v m lo' w' => n == m && decide (lo < lo' + w') && decide (lo' < lo + w)
  | .s p n, .s q m => p == q && n == m
  | _, _ => false

/-- Accesses to the accumulator window are outside the order (09 R287). -/
def Access.isAcc (a : Access) : Bool := match a.loc with | .acc _ => true | _ => false

/-- Access `a`, earlier in program order, comes before `b` in scoreboard order by one row of 09 R289. -/
def ordered (a b : Access) : Bool :=
  if a.deferred then false
  else if a.isAcc || b.isAcc then a.isAcc && b.isAcc
  else (b.sbWait.isSome && decide (a.sbSet = b.sbWait)) || a.acq || b.rel || (sameLine a b && !a.isRed && !b.isRed) || sameDest a b

/-- No access of the context that must come first is still in flight, its tile is not busy, and the tag of a deferred
push is set (08 R253, 09 R289, 01 R34). -/
def Ctx.canPerform (c : Ctx) (a : Access) : Bool :=
  c.mem.pend.all (fun b => !(decide (b.id < a.id) && ordered b a)) &&
  (match a.loc with | .acc o => !c.busy (o / 0x2000) | _ => true) &&
  (match a.kind with
   | .ringTags _ _ _ (some g) =>
     bit c.mem.tagBits g && c.mem.pend.all (fun b => !(decide (b.id < a.id) && b.deferred && b.va == a.va))
   | .ringTags ..  => true
   | _ => true)

/-! ### Performing -/

/-- A tile has been found stale, and its job has not ended (10 R327). -/
def State.tileHeld (s : State) (tile : Nat) : Bool :=
  s.hub.couch.any (fun e => e.2.queue.contains tile || (match e.2.job with | some j => j.1 == tile | none => false))

/-- An access to a tile under re-encoding is held until the job ends (10 R327). -/
def State.accessHeld (s : State) (a : Access) : Bool :=
  match a.loc with
  | .phys p _ => s.tileHeld (p / 4096)
  | _ => false

/-- Delivers a result of `w` bytes to a name (08 R242, R245). -/
def Ctx.put (c : Ctx) (d : Dest) (v : Nat) : Ctx :=
  match d with
  | .s sup n => c.onR (fun r => r.wsMode sup n (w64 v))
  | .v n lo w => c.onR (fun r => r.wvBits n lo w v)
  | .m n w => c.onR (fun r => r.wm n w v)
  | .c n => c.onR (fun r => r.wc n (v % 2 == 1))
  | .lc n => c.onR (fun r => { r with lc := mset 0 r.lc n (w64 (v % 2 ^ 24)) })
  | .q n => c.onR (fun r => { r with q := mset 0 r.q n (w64 v) })
  | _ => c

/-- Delivers a result anywhere a context's operation may name. -/
def State.deliver (s : State) (k : Nat) (d : Dest) (w v : Nat) : State :=
  match d with
  | .ring off => s.onResv (s.ctxAt k).resv (fun r => r.write off (leBytes w v))
  | _ => s.onCtx k (fun c => c.put d v)

/-- What a read finds: the bytes as a number, the offset of the first byte in a line with an uncorrectable error, and
the state after. -/
structure Read where
  val : Nat
  bad : Option Nat
  st : State

/-- The offset of the first byte of a physical range that lies in a bad line (09 R305). -/
def State.badIn (s : State) (pa n : Nat) : Option Nat :=
  if s.mem.poison.isEmpty then none
  else (upto n).find? (fun i => (i == 0 || (pa + i) % 64 == 0) && s.bad (pa + i))

/-- A decoded byte run of an ECW page at virtual address `va`: `off` is the decoded offset in the page, `frame` its base
(08 R272, log entry 11); the predicted argument words of a guess take their places (11 R341). -/
def State.ecwBytes (s : State) (c : Ctx) (frame key off va n : Nat) : Option (List Byte) :=
  match ecwSlot (s.agentBytes c key 0 8 (frame + 160 * (off / 256)) 160) with
  | .ok bs => some (s.withArgs c va ((bs.drop (off % 256)).take n))
  | .err _ => none

/-- The read-set entries of such a read: none where every byte is a predicted argument (11 R341, R343). -/
def State.ecwNote (s : State) (c : Ctx) (frame key off va n : Nat) : State :=
  if (upto n).all (fun i => (s.argByte c (va + i)).isSome) then s
  else s.agentNote c key 0 8 (frame + 160 * (off / 256)) 160

/-- The physical address of the first bad line of the slot that holds a decoded byte. -/
def State.ecwBad (s : State) (frame off : Nat) : Option Nat :=
  (s.badIn (frame + 160 * (off / 256)) 160).map (fun d => frame + 160 * (off / 256) + d)

/-- The offset of the first byte of a range that an agent of a context reads with an uncorrectable error: of memory, or
of its guess's Kitty (09 R305, 18 R438). -/
def State.agentBad (s : State) (c : Ctx) (pa n : Nat) : Option Nat :=
  (s.badIn pa n).orElse (fun _ => match s.guessOf c with
    | some q =>
      let bad := (s.queueAt q).dealer.kbad
      if bad.isEmpty then none else (upto n).find? (fun i => (i == 0 || (pa + i) % 64 == 0) && (mfind bad ((pa + i) / 64)).isSome)
    | none => none)

/-- The offset of the first byte of a load that lies in a line of which the core's L1 holds a bad copy (08 R239, 09
R305). -/
def State.l1Bad (s : State) (k : Nat) (a : Access) (pa : Nat) : Option Nat :=
  let bad := (s.coreAt (k / 4)).l1bad
  if bad.isEmpty || a.kind != .ld then none
  else (upto a.size).find? (fun i => (i == 0 || (pa + i) % 64 == 0) && (mfind bad ((pa + i) / 64)).isSome)

/-- Reads the bytes of an access at its home (09 R288). -/
def State.locRead (s : State) (k : Nat) (a : Access) : Read :=
  let c := s.ctxAt k
  match a.loc with
  | .share o =>
    let r := s.resvAt c.resv
    ⟨leNat (r.read o a.size), r.badIn o a.size, s⟩
  | .phys p key =>
    match a.ecw with
    | some off =>
      match s.ecwBytes c p key off a.va.toNat a.size with
      | some bs => ⟨leNat bs, (s.ecwBad p off).map (fun _ => 0), s.ecwNote c p key off a.va.toNat a.size⟩
      | none => ⟨0, some 0, s⟩
    | none =>
      let d := a.va.toNat - p
      ⟨leNat (s.agentBytes c key d 4 p a.size), (s.agentBad c p a.size).orElse (fun _ => s.l1Bad k a p), s.agentNote c key d 4 p a.size⟩
  | .mail n => ⟨(mget 0 s.hub.mail n).toNat, none, s⟩
  | .acc o => ⟨leNat ((upto a.size).map (fun i => c.accByte (o + i))), c.accBad o a.size, s⟩

/-- Writes the bytes of an access at its home. -/
def State.locWrite (s : State) (k : Nat) (a : Access) (bs : List Byte) : State :=
  let c := s.ctxAt k
  match a.loc with
  | .share o => s.onResv c.resv (fun r => r.write o bs)
  | .phys p key =>
    let s1 := s.agentStore c p key bs
    if bs.length = 64 && !(s.coreAt (k / 4)).l1bad.isEmpty then s1.onCore (k / 4) (fun x => { x with l1bad := mdel x.l1bad (p / 64) }) else s1
  | .mail n => { s with hub := { s.hub with mail := mset 0 s.hub.mail n (w64 (leNat bs)) } }
  | .acc o => s.onCtx k (fun c => (bs.zipIdx).foldl (fun c e => c.accStore (o + e.2) e.1) c)

/-- The class-A memory-error trap of an access that met an error at an offset (09 R305). -/
def memTrap (a : Access) (off : Nat) : Trap :=
  { cls := .async, code := 0x22, detail := a.va + w64 off, x0 := a.pkt, x1 := w64 a.pos, num := a.id }

/-- An uncorrectable error met by an access is logged (18 R438); where in the L1 it lies is a free value. -/
def State.logAccess (s : State) (k : Nat) (a : Access) (off : Nat) : State :=
  match a.loc with
  | .phys q _ =>
    let p := match a.ecw with | some o => (s.ecwBad q o).getD q | none => q + off
    if s.bad p then s.logPhys (s.ctxAt k) p
    else
      let (w, s1) := s.takeFree 15
      if (s.guessOf (s.ctxAt k)).isSome then s else s1.logError 1 (k / 4) (w64 (debugBase (k / 4) + 0x600000 + 8 * w.toNat))
  | .share q => s.logShare (s.ctxAt k) (k / 4) (q + off)
  | .acc q => s.logAcc k (q + off)
  | .mail _ => s

/-- An access leaves flight: off the list, and its scoreboard count down once the last access of its operation has
performed (09 R295). -/
def Mems.retire (m : Mems) (a : Access) : Mems :=
  let rest := m.pend.filter (fun b => b.id ≠ a.id)
  { m with
    pend := rest
    sb := match a.sbSet with
      | some n => if rest.any (fun b => b.grp == a.grp) then m.sb else mset 0 m.sb n (mget 0 m.sb n - 1)
      | none => m.sb }

/-- Sign or zero extension of a loaded value to 64 bits (08 R245). -/
def extend (signed : Bool) (size v : Nat) : Nat :=
  if signed && decide (2 ^ (8 * size - 1) ≤ v % 2 ^ (8 * size)) then 2 ^ 64 - 2 ^ (8 * size) + v % 2 ^ (8 * size)
  else v % 2 ^ (8 * size)

/-- The value a result name receives from a read. -/
def Access.result (a : Access) (v : Nat) : Nat :=
  match a.dest with
  | .s _ _ => extend a.signed a.size v
  | _ => v

/-- The effect of an access at its home, and the value for its destination; `none` when a result is dropped for an
uncorrectable error or there is none. -/
def State.effect (s : State) (k : Nat) (a : Access) : State × Option Nat × Option Nat :=
  let c := s.ctxAt k
  match a.kind with
  | .ld =>
    let r := s.locRead k a
    match r.bad with
    | some o => (s.logAccess k a o, none, some o)
    | none => (r.st, some (a.result r.val), none)
  | .st => (s.locWrite k a (leBytes a.size a.data.toNat), none, none)
  | .amo op x cmp =>
    let r := s.locRead k a
    match r.bad with
    | some o => (s.logAccess k a o, none, some o)
    | none =>
      let s1 := match amoNew op a.size r.val x.toNat cmp.toNat with
        | some n => r.st.locWrite k a (leBytes a.size n)
        | none => r.st
      (s1, some r.val, none)
  | .red op et =>
    let r := s.locRead k a
    match r.bad with
    | some o =>
      let s1 := s.logAccess k a o
      (s1.onCtx k (fun c => if c.sys.rlost then c else { c with sys := { c.sys with rlost := true, rlostAddr := a.va } }), none, none)
    | none => (r.st.locWrite k a (leBytes a.size (redNew op et r.val a.data.toNat)), none, none)
  | .ringTags sl _ full _ =>
    (s.onResv c.resv (fun r => sl.foldl (fun r o => r.setTag (o / 8) full) r), none, none)
  | .tag full =>
    match a.loc with
    | .share o => (s.onResv c.resv (fun r => (upto (a.size / 8)).foldl (fun r i => r.setTag (o / 8 + i) full) r), none, none)
    | _ => (s, none, none)
  | .verld v | .verle v =>
    match a.loc with
    | .phys p key =>
      match s.reamOf c.part p with
      | none => (s, some (a.result a.data.toNat), none)
      | some r =>
        let spec : List (Nat × Nat × List Byte) := match s.guessOf c with
          | some q => (s.queueAt q).dealer.vers.filter (fun e => decide (e.1 = p / 64))
          | none => []
        let old := s.quire r (p / 64)
        let us := (spec.map (fun e => e.2.1) ++ old.map (fun e => e.1)).filter (fun u =>
          match a.kind with | .verld _ => decide (u = v) | _ => decide (u ≤ v))
        let u := us.foldl max 0
        if us.isEmpty then (s, some (a.result a.data.toNat), none)
        else if s.bad p then (s.logAccess k a 0, none, some 0)
        else
          let line := match spec.find? (fun e => e.2.1 = u) with
            | some e => some e.2.2
            | none => s.verBytes r (p / 64) key u
          match line with
          | some bs => (s.noteRead c a.va.toNat p a.size, some (a.result (leNat (s.withArgs c a.va.toNat ((bs.drop (p % 64)).take a.size)))), none)
          | none => (s, some (a.result a.data.toNat), none)
    | _ => (s, none, none)
  | .vernew =>
    match a.loc with
    | .phys p _ =>
      match s.reamOf c.part p with
      | none => (s, none, none)
      | some r =>
        if s.bad p then (s.logAccess k a 0, none, some 0)
        else
          let spec := match s.guessOf c with
            | some q => ((s.queueAt q).dealer.vers.filter (fun e => decide (e.1 = p / 64))).map (fun e => e.2.1)
            | none => []
          ((s.noteRead c 0 p 64), some ((newestOf (s.quire r (p / 64)) :: spec).foldl max 0), none)
    | _ => (s, none, none)
  | .verst v =>
    match a.loc with
    | .phys p key =>
      match s.guessOf c with
      | some q =>
        let d := (s.queueAt q).dealer
        let base := match d.vers.reverse.find? (fun e => decide (e.1 = p / 64)) with
          | some e => e.2.2
          | none => s.lineBytes (p / 64) key
        let bs := leBytes a.size a.data.toNat
        let new := base.take (p % 64) ++ bs ++ base.drop (p % 64 + a.size)
        let s1 := s.noteRead c 0 p 64
        ((s1.agentStore c p key bs).onDealer q (fun d => { d with vers := d.vers ++ [(p / 64, v, new)] }), none, none)
      | none =>
        match s.reamOf c.part p with
        | none => (s, none, none)
        | some r =>
          let s1 := (s.makeRoom r (p / 64)).getD s
          (s1.makeVersion r (p / 64) key v (p % 64) (leBytes a.size a.data.toNat), none, none)
    | _ => (s, none, none)
  | .verfl v =>
    match a.loc with
    | .phys p _ =>
      match s.reamOf c.part p, s.guessOf c with
      | some r, none => (s.onReam r (fun m => { m with floor := max m.floor v }), none, none)
      | some r, some q => (s.onDealer q (fun d => { d with floors := d.floors ++ [(d.vers.length, r, v)] }), none, none)
      | none, _ => (s, none, none)
    | _ => (s, none, none)

/-- An access takes its place in the order (09 R287, R288): its effect, its result delivered, its slot counted down; an
uncorrectable error drops the result and leaves an asynchronous trap waiting (09 R305). -/
def State.perform (s : State) (k : Nat) (a : Access) : State :=
  let (s1, v, bad) := s.effect k a
  let s2 := match v with
    | some x => s1.deliver k a.dest a.size x
    | none => s1
  let s3 := { s2 with mem := { s2.mem with now := s2.mem.now + 1 } }
  s3.onCtx k (fun c => { c with
    mem := c.mem.retire a
    sys := match bad with
      | some o => { c.sys with asyncs := c.sys.asyncs ++ [memTrap a o] }
      | none => c.sys })

/-- The accesses in flight that must perform before access `t`, or that `want` names, with all that must come before
those, in program order. -/
def neededBy (pend : List Access) (want : Access → Bool) : List Access :=
  pend.foldr (fun a acc => if want a || acc.any (fun b => ordered a b) then a :: acc else acc) []

/-- Performs the accesses in flight that `want` names and all that scoreboard order puts before them; an access to the
accumulator window waits for the M-slot operations (01 R34). -/
def State.drain (s : State) (k : Nat) (want : Access → Bool) : State :=
  let l := neededBy (s.ctxAt k).mem.pend want
  let s1 := if l.any (fun a => a.isAcc) then s.mFinish k else s
  l.foldl (fun s a => s.perform k a) s1

/-- Performs what must come before an access that performs at once. -/
def State.drainBefore (s : State) (k : Nat) (t : Access) : State := s.drain k (fun b => ordered b t)

/-- An operation's own access number. -/
def State.nextSeq (s : State) : Nat × State := (s.seq, { s with seq := s.seq + 1 })

/-- Puts the accesses of one operation in flight: one more on its scoreboard slot (09 R287, R295). -/
def State.launch (s : State) (k : Nat) (l : List Access) : State :=
  let s1 := { s with seq := s.seq + l.length }
  s1.onCtx k (fun c => { c with mem := { c.mem with
    pend := c.mem.pend ++ (l.zipIdx).map (fun (a, i) => { a with id := s.seq + i, grp := s.seq })
    sb := match l.findSome? (fun a => a.sbSet) with | some n => mset 0 c.mem.sb n (mget 0 c.mem.sb n + 1) | none => c.mem.sb } })

/-- An access that performs within its packet's issue, after all that must come before it. -/
def State.performNow (s : State) (k : Nat) (a : Access) : State :=
  let a := { a with id := s.seq, sbSet := none }
  let s1 := ({ s with seq := s.seq + 1 }).drainBefore k a
  s1.perform k a

end Sys2Proof.Machine
end

