-- ==== Sys2Proof/Machine/Form.lean ====
section
/-!
DEFINITION. The slot form of each operation (04 R116 to R123), the names it reads or writes for the interlocks of
R105, and the scalar operands a replay carries (15 R448).
-/

namespace Sys2Proof.Machine

/-- A slot form with its fields. -/
inductive Form where
  | sr (f : SR) | si (f : SI) | su (f : SU) | vr (f : VR) | vq (f : VQ) | mx (f : MX) | mc (f : MC) | lm (f : LM)
  | lc (f : LC) | bj (f : BJ) | bl (f : BL) | bg (f : BG) | bt (f : BT) | none
  deriving DecidableEq, Repr

/-- The form of an operation; the steps that are no slot operation have none. -/
def formOf : Instr → Form
  | .add f => .sr f
  | .sub f => .sr f
  | .addi f => .si f
  | .mul f => .sr f
  | .mulh f => .sr f
  | .mulhu f => .sr f
  | .div f => .sr f
  | .divu f => .sr f
  | .rem f => .sr f
  | .remu f => .sr f
  | .and f => .sr f
  | .or f => .sr f
  | .xor f => .sr f
  | .andn f => .sr f
  | .shl f => .sr f
  | .shr f => .sr f
  | .sra f => .sr f
  | .shli f => .si f
  | .shri f => .si f
  | .srai f => .si f
  | .clz f => .sr f
  | .ctz f => .sr f
  | .popc f => .sr f
  | .min f => .sr f
  | .max f => .sr f
  | .minu f => .sr f
  | .maxu f => .sr f
  | .sel f => .sr f
  | .cmp f => .sr f
  | .li f => .su f
  | .lui f => .su f
  | .mov f => .sr f
  | .sext f => .si f
  | .zext f => .si f
  | .bfx f => .sr f
  | .bfi f => .sr f
  | .addr f => .su f
  | .fadd f => .sr f
  | .fsub f => .sr f
  | .fmul f => .sr f
  | .fmadd f => .sr f
  | .fdiv f => .sr f
  | .fsqrt f => .sr f
  | .fmin f => .sr f
  | .fmax f => .sr f
  | .fcmp f => .sr f
  | .fcvt f => .sr f
  | .fmvx f => .sr f
  | .rdd f => .si f
  | .rdsys f => .si f
  | .rdtime f => .sr f
  | .mbrd f => .si f
  | .mbwr f => .si f
  | .vadd f => .vr f
  | .vsub f => .vr f
  | .vmul f => .vr f
  | .vmulh f => .vr f
  | .vmadd f => .vr f
  | .vabs f => .vr f
  | .vneg f => .vr f
  | .vmin f => .vr f
  | .vmax f => .vr f
  | .vsadd f => .vr f
  | .vssub f => .vr f
  | .vshl f => .vr f
  | .vshr f => .vr f
  | .vsra f => .vr f
  | .vand f => .vr f
  | .vor f => .vr f
  | .vxor f => .vr f
  | .vnot f => .vr f
  | .vclz f => .vr f
  | .vpopc f => .vr f
  | .vfadd f => .vr f
  | .vfsub f => .vr f
  | .vfmul f => .vr f
  | .vfma f => .vr f
  | .vfms f => .vr f
  | .vfmin f => .vr f
  | .vfmax f => .vr f
  | .vfabs f => .vr f
  | .vfneg f => .vr f
  | .vfrcp f => .vr f
  | .vfrsqrt f => .vr f
  | .vfsqrt f => .vr f
  | .vfexp2 f => .vr f
  | .vflog2 f => .vr f
  | .vftanh f => .vr f
  | .vferf f => .vr f
  | .vfsin f => .vr f
  | .vfcos f => .vr f
  | .vcmul f => .vr f
  | .vcmla f => .vr f
  | .vcmp f => .vr f
  | .vfcmp f => .vr f
  | .mand f => .vr f
  | .mor f => .vr f
  | .mxor f => .vr f
  | .mnot f => .vr f
  | .mpopc f => .vr f
  | .mffs f => .vr f
  | .vsel f => .vr f
  | .vcvt f => .vr f
  | .vqnt f => .vq f
  | .vdq f => .vq f
  | .vqc4 f => .vq f
  | .vdqc4 f => .vq f
  | .vsrseed f => .vr f
  | .vmov f => .vr f
  | .vbcast f => .vr f
  | .vperm f => .vr f
  | .vshuf f => .vr f
  | .vslide f => .vr f
  | .vcompress f => .vr f
  | .vcompressKeep f => .vr f
  | .vexpand f => .vr f
  | .vzip f => .vr f
  | .vunzip f => .vr f
  | .vext f => .vr f
  | .vins f => .vr f
  | .vred f => .vr f
  | .vfred f => .vr f
  | .vscan f => .vr f
  | .vhist f => .vr f
  | .arow f => .vr f
  | .acol f => .vr f
  | .awrow f => .vr f
  | .awcol f => .vr f
  | .mld f => .mx f
  | .mldw f => .mx f
  | .mswap f => .mc f
  | .mma f => .mx f
  | .mmas f => .mx f
  | .mmac f => .mx f
  | .mmaC f => .mx f
  | .azero f => .mc f
  | .acvt f => .mc f
  | .aadd f => .mc f
  | .acfg f => .mc f
  | .await f => .mc f
  | .awaitAll f => .mc f
  | .mpcset f => .mc f
  | .mstat f => .mc f
  | .aclr f => .mc f
  | .aload f => .mc f
  | .ld f => .lm f
  | .st f => .lm f
  | .ldv f => .lm f
  | .stv f => .lm f
  | .ldvs f => .lm f
  | .stvs f => .lm f
  | .ldvg f => .lm f
  | .stvg f => .lm f
  | .ldf f => .lm f
  | .ldfe f => .lm f
  | .ste f => .lm f
  | .stf f => .lm f
  | .tagset f => .lm f
  | .tagclr f => .lm f
  | .tld f => .lc f
  | .tst f => .lc f
  | .cpy f => .lc f
  | .rgather f => .lc f
  | .rscatter f => .lc f
  | .amo f => .lm f
  | .red f => .lm f
  | .verld f => .lm f
  | .verle f => .lm f
  | .verst f => .lm f
  | .verfl f => .lm f
  | .vernew f => .lm f
  | .stopk f => .lm f
  | .cbcfg f => .lm f
  | .cbwait f => .lm f
  | .cbpop f => .lm f
  | .cbresv f => .lm f
  | .cbpush f => .lm f
  | .coll f => .lc f
  | .pf f => .lm f
  | .br f => .bj f
  | .bt f => .bt f
  | .call f => .bj f
  | .ret f => .bj f
  | .jr f => .bj f
  | .loop f => .bl f
  | .loopw f => .bl f
  | .brk f => .bg f
  | .trap f => .bg f
  | .yield f => .bg f
  | .exit f => .bg f
  | .spawn f => .bg f
  | .nextr f => .bg f
  | .waitsb f => .bg f
  | .fence f => .bg f
  | .fenceS f => .bg f
  | .bar f => .bg f
  | .barArv f => .bg f
  | .barwait f => .bg f
  | .tagwaitany f => .bg f
  | .tagwaitall f => .bg f
  | .tagffr f => .bg f
  | .tlwait f => .bg f
  | .tlwaitBind f => .bg f
  | .tlwaitRead f => .bg f
  | .handreq f => .bg f
  | .handrel f => .bg f
  | .blend f => .bg f
  | .bret f => .bg f
  | .cstep f => .bg f
  | .cset f => .bg f
  | .cpin f => .bg f
  | .cread f => .bg f
  | .dstat f => .bg f
  | .dhint f => .bg f
  | .mtsy f => .bg f
  | .mfsy f => .bg f
  | .eret f => .bg f
  | .eretEnd f => .bg f
  | .tlbinv f => .bg f
  | .ctxsave f => .bg f
  | .ctxrestore f => .bg f
  | .halt f => .bg f
  | _ => .none

/-- V-slot operations whose VA is a mask, a tile or a scalar (06 R175). -/
def noVa : Instr → Bool
  | .mand _ | .mor _ | .mxor _ | .mnot _ | .mpopc _ | .mffs _ | .arow _ | .acol _ | .vins _ | .vsrseed _ => true
  | _ => false

/-- V-slot operations whose VB is a selector, a mask or absent. -/
def noVb : Instr → Bool
  | .mand _ | .mor _ | .mxor _ | .mnot _ | .mpopc _ | .mffs _ | .vcvt _ | .vcompress _ | .vcompressKeep _ | .vfred _ | .vscan _ | .vabs _ | .vneg _ | .vnot _ | .vclz _ | .vpopc _ | .vfabs _ | .vfneg _ | .vfrcp _ | .vfrsqrt _ | .vfsqrt _ | .vfexp2 _ | .vflog2 _ | .vftanh _ | .vferf _ | .vfsin _ | .vfcos _ | .vsrseed _ | .vmov _ | .vbcast _ | .vexpand _ | .vext _ | .vins _ | .vslide _ | .vred _ | .vhist _ | .arow _ | .acol _ | .awrow _ | .awcol _ => true
  | _ => false

/-- V-slot operations whose VD names a mask, a scalar or a tile, or is absent. -/
def noVd : Instr → Bool
  | .mand _ | .mor _ | .mxor _ | .mnot _ | .mpopc _ | .mffs _ | .vcmp _ | .vfcmp _ | .vext _ | .vred _ | .vfred _ | .awrow _ | .awcol _ | .vsrseed _ => true
  | _ => false

/-- V-slot operations whose VD names a scalar. -/
def sVd : Instr → Bool
  | .mpopc _ | .mffs _ | .vext _ | .vred _ | .vfred _ => true
  | _ => false

/-- The M-slot operations that write a scalar or read one that is no address. -/
def isMpcset : Instr → Bool
  | .mpcset _ => true
  | _ => false

/-- L-slot operations whose DATA names no register of DCL 00. -/
def noData : Instr → Bool
  | .pf _ | .cbpush _ | .cbwait _ | .cbpop _ | .cbresv _ | .verfl _ => true
  | _ => false

/-- L-slot operations of DCL 00 that read the scalar of DATA. -/
def readsData : Instr → Bool
  | .st _ | .ste _ | .stf _ | .tagset _ | .tagclr _ | .cbcfg _ | .red _ | .verst _ => true
  | _ => false

/-- The scalars an L-slot operation names in IMM16: the operands of an `amo` and the version of a version operation. -/
def immScalars : Instr → List Nat
  | .amo f => [bf f.imm 0 6, bf f.imm 6 6]
  | .verld f | .verle f | .verst f | .verfl f => [bf f.imm 0 6]
  | _ => []

/-- The index register of a gather or scatter (08 R247). -/
def indexReg : Instr → Option Nat
  | .ldvg f | .stvg f => some (bf f.imm 0 11)
  | _ => none

/-- A register operand of class 00, as a list. -/
def regOf (c : Nat) (n : Nat) : List Nat := if c = 0 then [n] else []
@[inherit_doc regOf]
def bcastOf (c : Nat) (n : Nat) : List Nat := if c = 2 then [n % 64] else []

/-- The scalars an operation reads or writes (04 R105). -/
def sNames (i : Instr) : List Nat :=
  match formOf i with
  | .sr f =>
    match i with
    | .cmp _ | .fcmp _ => [f.sa.toNat, f.sb.toNat]
    | _ => [f.sa.toNat, f.sb.toNat, f.sd.toNat]
  | .si f => [f.sa.toNat, f.sd.toNat]
  | .su f => [f.sd.toNat]
  | .vr f => bcastOf f.ac.toNat f.va.toNat ++ bcastOf f.bc.toNat f.vb.toNat ++ (if sVd i then [f.vd.toNat % 64] else []) ++
      (match i with | .vcompress _ | .vcompressKeep _ => [f.vb.toNat % 64] | _ => [])
  | .mx f => bcastOf f.scl.toNat f.src.toNat
  | .mc f => [f.ss.toNat]
  | .lm f => f.base.toNat :: immScalars i ++ (if f.dcl = 0 ∧ !noData i then [f.data.toNat % 64] else [])
  | .lc f => [f.sdst.toNat, f.ssrc.toNat, f.sdsc.toNat]
  | .bj f => [f.sd.toNat, f.sa.toNat]
  | .bl f => [f.sa.toNat]
  | .bg f =>
    match i with
    | .spawn _ => f.sa.toNat :: (upto 8).map (fun j => f.sb.toNat + j)
    | .nextr _ => []
    | _ => [f.sd.toNat, f.sa.toNat, f.sb.toNat]
  | _ => []

/-- The vector registers an operation reads or writes (04 R105). -/
def vNames (i : Instr) : List Nat :=
  match formOf i with
  | .vr f => (if noVd i then [] else regOf f.dc.toNat f.vd.toNat) ++ (if noVa i then [] else regOf f.ac.toNat f.va.toNat) ++
      (if noVb i then [] else regOf f.bc.toNat f.vb.toNat)
  | .vq f => regOf f.dc.toNat f.vd.toNat ++ regOf f.ac.toNat f.va.toNat
  | .lm f => (if f.dcl = 1 then [f.data.toNat] else []) ++ (indexReg i).toList
  | _ => []

/-- The scalar operands of an operation in the order of its assembly form, address bases excluded (15 R448). -/
def scalOps (i : Instr) : List Nat :=
  match formOf i with
  | .sr f =>
    match i with
    | .bfi _ | .fmadd _ => [f.sd.toNat, f.sa.toNat, f.sb.toNat]
    | _ => [f.sa.toNat, f.sb.toNat]
  | .si f => [f.sa.toNat]
  | .su f => match i with | .lui _ => [f.sd.toNat] | _ => []
  | .vr f => bcastOf f.ac.toNat f.va.toNat ++ bcastOf f.bc.toNat f.vb.toNat
  | .mc f => if isMpcset i then [f.ss.toNat] else []
  | .lm f => (if f.dcl = 0 ∧ readsData i then [f.data.toNat % 64] else []) ++ immScalars i
  | .lc f => [f.sdsc.toNat]
  | .bj f => [f.sa.toNat]
  | .bl f => [f.sa.toNat]
  | .bg f =>
    match i with
    | .spawn _ => f.sa.toNat :: (upto 8).map (fun j => f.sb.toNat + j)
    | _ => [f.sa.toNat, f.sb.toNat]
  | _ => []

/-- L-slot operations whose effective address takes the immediate as an offset (08 R240). -/
def hasOffset : Instr → Bool
  | .ld _ | .st _ | .ldv _ | .stv _ | .ldf _ | .ldfe _ | .ste _ | .stf _ | .tagset _ | .tagclr _ | .pf _ => true
  | _ => false

/-- L-slot operations that compute no address (08 R240). -/
def noAddress : Instr → Bool
  | .cbcfg _ | .cbwait _ | .cbpop _ | .cbresv _ | .cbpush _ => true
  | _ => false

/-- Privileged operations, with their OP (04 R128, 15 R375). -/
def privOp : Instr → Option Nat
  | .mtsy _ => some 0x30
  | .mfsy _ => some 0x31
  | .eret _ | .eretEnd _ => some 0x32
  | .tlbinv _ => some 0x33
  | .ctxsave _ => some 0x34
  | .ctxrestore _ => some 0x35
  | .halt _ => some 0x36
  | _ => none

end Sys2Proof.Machine
end

