-- ==== Sys2Proof/Machine/Life.lean ====
section
/-!
DEFINITION. How contexts and tasks end: retirement and release of reservations (02 R54), the end-task request
(02 R62, 15 R384), queue records (02 R63), and the end of a guess (11 R344).
-/

namespace Sys2Proof.Machine

/-- Is the slot live or parked, so that it counts as live for its task (16 R407)? -/
def Ctx.counts (c : Ctx) : Bool := match c.st with | .live | .parked => true | _ => false

/-- The contexts of a task, by key. -/
def State.ctxsOf (s : State) (t : Nat) : SMap Ctx := s.ctxs.filter (fun e => e.2.task == t && e.2.st != .free)

/-- Some context of a task counts as live. -/
def State.taskLive (s : State) (t : Nat) : Bool := (s.ctxsOf t).any (fun e => e.2.counts)

/-- The identity word of a core: die and site index with its row and column (01 R12). -/
def State.identOf (s : State) (core : Nat) : W64 :=
  w64 (bf (s.win 0x40000) 0 16 * 2 ^ 32 + dieOf core * 2 ^ 16 + siteOf core / 12 * 2 ^ 12 + siteOf core % 12 * 2 ^ 8 +
    siteOf core % 12 / 6 * 32 + sliceOf core % 18)

/-- Copies of a context, by number, at its core. -/
def State.copiesOf (s : State) (k : Nat) : List CopyOp := (s.coreAt (k / 4)).copies.filter (fun o => o.ctx == k)

/-- Frees the slots, share, sidecars and hands of a reservation (02 R54). -/
def State.release (s : State) (r : Nat) : State :=
  let v := s.resvAt r
  let s1 := v.slots.foldl (fun s k => { s with ctxs := mdel s.ctxs k, sides := mdel (mdel s.sides (2 * k)) (2 * k + 1) }) s
  { s1 with disp := { s1.disp with resvs := mdel s1.disp.resvs r } }

/-- The reservations of a task. -/
def State.resvsOf (s : State) (t : Nat) : List Nat := (s.disp.resvs.filter (fun e => e.2.task == t)).map (fun e => e.1)

/-- A retired slot: reserved idle, with its allotment (02 R54). -/
def Ctx.retired (c : Ctx) : Ctx :=
  { st := .idle, task := c.task, group := c.group, resv := c.resv, part := c.part, asid := c.asid, key := c.key,
    loader := c.loader, storer := c.storer,
    mx := { nTiles := c.mx.nTiles, nBanks := c.mx.nBanks, bankMat := c.mx.bankMat, hands := c.mx.hands,
            hmax := c.mx.hmax, heven := c.mx.heven, ktgt := c.mx.ktgt } }

/-- A guess with no live context and an empty pool is complete (11 R344). -/
def State.noteComplete (s : State) (t : Nat) : State :=
  let tk := s.taskAt t
  if tk.guess && tk.pieces.isEmpty && !s.taskLive t then s.onDealer tk.q (fun d => { d with complete := true }) else s

/-- Ends the pre-emption request in progress with a result (16 R406). -/
def State.preEnd (s : State) (r : Nat) : State :=
  { s with mgmt := { s.mgmt with pre := none } }.setWin 0x58 (w64 r)

/-- A park is done once no context of the task issues (16 R406, R407). -/
def State.preCheck (s : State) : State :=
  match s.mgmt.pre with
  | some p => if p.op = 0 && !(s.ctxsOf p.task).any (fun e => e.2.st == .live) then s.preEnd 0 else s
  | none => s

/-- Retires context `k`; its reservation goes when none of its slots is live (02 R54). -/
def State.retire (s : State) (k : Nat) : State :=
  let c := s.ctxAt k
  let s1 := s.putCtx k c.retired
  let s2 := { s1 with sides := mdel (mdel s1.sides (2 * k)) (2 * k + 1) }
  let slots := (s2.resvAt c.resv).slots
  let s3 := if slots.any (fun j => (s2.ctxAt j).counts) then s2 else s2.release c.resv
  (s3.noteComplete c.task).preCheck

/-! ### Records (02 R63) -/

/-- A record's eight words; the last, the time, is set when it is written. -/
def recordWords (kind cause : Nat) (late : Bool) (pslot cslot taskid : Nat) (pc detail ident clo chi : W64) : List W64 :=
  [w64 (kind + 256 * cause + 0x80000 * cslot + 0x200000 * pslot + (if late then 0x2000000 else 0)),
   w64 taskid, pc, detail, ident, clo, chi, 0]

/-- A record of KIND 0, 2 or 3 (02 R63). -/
def plainRecord (kind cause : Nat) (late : Bool) (taskid : Nat) (detail : W64) : List W64 :=
  recordWords kind cause late 15 0 taskid 0 detail 0 0 0

/-- A record waits for its place in the record ring (16 R400). -/
def State.pushRecord (s : State) (q : Nat) (ws : List W64) : State :=
  s.onQueue q (fun u => { u with recs := u.recs ++ [{ words := ws }] })

/-- The fields of QSTAT (16 R396). -/
def State.qstate (s : State) (q : Nat) : Nat := bf (s.qreg q 0x30) 32 4

/-- Sets STATE. -/
def State.setQstate (s : State) (q v : Nat) : State := s.setQreg q 0x30 (setf (s.qreg q 0x30) 32 4 v)

/-- Sets ERR. -/
def State.setQerr (s : State) (q v : Nat) : State := s.setQreg q 0x30 (setf (s.qreg q 0x30) 40 8 v)

/-- A queue stops with an error code, 0 for a record of KIND 1 to 3 (16 R398, 02 R62); one that is not running stays as
it is. -/
def State.qstop (s : State) (q err : Nat) : State := if s.qstate q = 1 then (s.setQstate q 2).setQerr q err else s

/-! ### Walks (02 R57, R61; 10 R331) -/

/-- The successor that ends a walk. -/
def walkEnd : Nat := 0xFFFFFFFF

/-- A graph error: the walk stops, its record is written, the queue stops. -/
def State.graphError (s : State) (q node reason : Nat) (detail : W64) : State :=
  ((s.onQueue q (fun u => { u with walk := none })).pushRecord q (plainRecord 3 reason false node detail)).qstop q 0

/-- The walk of a queue moves to a successor of the node it has acted on; after LAST of a re-walk it goes on from the
RERUN node. -/
def State.walkGo (s : State) (q target : Nat) : State :=
  match (s.queueAt q).walk with
  | none => s
  | some w =>
    let (t, rr) := match w.rerun with
      | some (next, last) => if w.node = last then (next, none) else (target, w.rerun)
      | none => (target, none)
    if t = walkEnd then
      (if rr.isSome then s.graphError q w.node 18 0 else s.onQueue q (fun u => { u with walk := none }))
    else if w.count ≤ t then s.graphError q w.node 18 0
    else s.onQueue q (fun u => { u with walk := some { w with node := t, rerun := rr, task := none, calNext := none } })

/-! ### The read copies of the Calender (10 R322) -/

/-- Every die's read copy takes the CTRL and rung words of every entry; a `cstep` that waited for this writes its
result, a walk in a CALSTEP node moves to NEXT, and one that has widened an entry goes on (10 R322, R331). -/
def State.syncCopies (s : State) : State :=
  s.disp.queues.foldl (fun (s : State) (e : Nat × Queue) => match e.2.walk.bind (fun (w : Walk) => w.calNext) with
    | some n => s.walkGo e.1 n
    | none => s.onQueue e.1 (fun u => { u with walk := u.walk.map (fun (w : Walk) => { w with calWait := false }) })) { s with
    hub := { s.hub with copy := s.hub.cal.filter (fun e => decide (e.1 % 32 ≤ 8)) }
    ctxs := s.ctxs.map (fun (e : Nat × Ctx) => (e.1, if e.2.mem.stepWait.isEmpty then e.2 else
      { e.2.mem.stepWait.foldl (fun c w => c.put w.1 w.2.toNat) e.2 with mem := { e.2.mem with stepWait := [] } })) }

/-! ### Guesses end (11 R344) -/

/-- Counts and notes the end of a guess (11 R353, R355). -/
def Dealer.ended (d : Dealer) (cause : Nat) : Dealer :=
  { d with
    guess := none, matched := none, complete := false, claiming := false, kitty := [], kkeys := [], kbad := [], reads := [], vers := [],
    floors := [], recs := [], gens := [], last := cause,
    mism := if 32 ≤ cause ∧ cause ≤ 34 ∨ cause = 37 then d.mism + 1 else d.mism
    reval := if cause = 35 ∨ cause = 36 then d.reval + 1 else d.reval
    dropped := if cause ≤ 16 then d.dropped + 1 else d.dropped }

/-- The Dealer drops the guess of a queue: its contexts and copies stop, its reservations go, nothing of it stays; a
launch that had matched it goes on as a fresh task with a new id (11 R344, R346). -/
def State.dropGuess (s : State) (q cause : Nat) : State :=
  let d := (s.queueAt q).dealer
  match d.guess with
  | none => s
  | some g =>
    let t := s.taskAt g
    let keys := (s.ctxsOf g).map (fun e => e.1)
    let s1 := { s with cores := s.cores.map (fun (e : Nat × Core) => (e.1, { e.2 with copies := e.2.copies.filter (fun (o : CopyOp) => !keys.contains o.ctx) })) }
    let s2 := (s1.resvsOf g).foldl State.release s1
    let s3 := { s2 with disp := { s2.disp with tasks := mdel s2.disp.tasks g } }
    let s4 := match d.matched with
      | none => s3
      | some l =>
        let n := s3.disp.nextTask
        let s5 := { s3 with disp := { s3.disp with
          nextTask := n + 1
          tasks := mput s3.disp.tasks n ({ id := n, q := q, l := l, desc := d.fresh.1, side := d.fresh.2, st := t.st, order := t.order,
                                           entries := t.entries, pieces := [], walk := t.walk } : Task) } }
        s5.onQueue q (fun u => { u with
          wait := if u.wait = some g then some n else u.wait
          walk := u.walk.map (fun (w : Walk) => if w.task = some g then { w with task := some n } else w) })
    s4.onDealer q (fun d => d.ended cause)

/-- An event of 11 R344 in context `k`: a guess ends, and a task goes on. -/
def State.abandon (s : State) (k cause : Nat) : State :=
  match s.guessOf (s.ctxAt k) with
  | some q => s.dropGuess q cause
  | none => s

/-! ### The end of a task (02 R62) -/

/-- The end-task request: the first one decides the record, and the task's contexts issue nothing further. -/
def State.endTask (s : State) (k cause pslot : Nat) (pc detail : W64) : State :=
  let c := s.ctxAt k
  let t := s.taskAt c.task
  if t.ended.isSome then s
  else
    let s1 := s.onTask c.task (fun t => { t with ended := some (recordWords 1 cause t.late pslot (k % 4) t.id pc detail
        (s.identOf (k / 4)) (c.r.rd 0) (c.r.rd 1)) })
    if s.mgmt.pre.any (fun (p : PreReq) => p.task == c.task) then s1.preEnd 0 else s1

end Sys2Proof.Machine
end

