-- ==== Sys2Proof/Machine/Calender.lean ====
section
/-!
DEFINITION. Calender entries (10 R315 to R324): the words of an entry, its checks, generations, statistics and
evaluation, and the writes of `cset`, `cpin` and the management window.
-/

namespace Sys2Proof.Machine

/-- The 32 words of an entry (10 R315). -/
abbrev Entry := List W64

/-- An entry of the Calender. -/
def State.entry (s : State) (e : Nat) : Entry := (upto 32).map (fun w => mget 0 s.hub.cal (32 * e + w))

/-- Puts an entry. -/
def State.putEntry (s : State) (e : Nat) (x : Entry) : State :=
  { s with hub := { s.hub with cal := (upto 32).foldl (fun m w => mset 0 m (32 * e + w) (x.getD w 0)) s.hub.cal } }

/-- The entry as the dies' read copies hold it: CTRL and the rung words (10 R322). -/
def State.copyEntry (s : State) (e : Nat) : Entry := (upto 9).map (fun w => mget 0 s.hub.copy (32 * e + w))

/-- An entry belongs to a partition (10 R315, 17 R414). -/
def State.ownsEntry (s : State) (p e : Nat) : Bool :=
  let r := s.part p 0x18
  decide (bf r 0 12 ≤ e) && decide (e < bf r 0 12 + bf r 32 13)

/-- The Calender-access fault for an entry outside the context's partition (10 R315). -/
def State.entryTrap (s : State) (c : Ctx) (e : Nat) : Option Trap :=
  if s.ownsEntry c.part e then none else some { cls := .issue, code := 0x2E, detail := w64 e }

/-- A word of an entry. -/
def Entry.w (x : Entry) (i : Nat) : W64 := x.getD i 0

/-- VALID, PIN and RERUN, and the number of rungs less one, the rung, CNT and GEN (10 R316). -/
def Entry.valid (x : Entry) : Bool := bit (x.w 0) 28
@[inherit_doc Entry.valid]
def Entry.pin (x : Entry) : Bool := bit (x.w 0) 27
@[inherit_doc Entry.valid]
def Entry.rerun (x : Entry) : Bool := bit (x.w 0) 26
@[inherit_doc Entry.valid]
def Entry.nrm1 (x : Entry) : Nat := bf (x.w 0) 22 3
@[inherit_doc Entry.valid]
def Entry.rung (x : Entry) : Nat := bf (x.w 0) 19 3
@[inherit_doc Entry.valid]
def Entry.cnt (x : Entry) : Nat := bf (x.w 0) 0 16
@[inherit_doc Entry.valid]
def Entry.gen (x : Entry) : Nat := bf (x.w 0) 48 16

/-- Replaces a word. -/
def Entry.put (x : Entry) (i : Nat) (v : W64) : Entry := x.set i v

/-- Sets a field of CTRL. -/
def Entry.ctl (x : Entry) (lo n v : Nat) : Entry := x.put 0 (setf (x.w 0) lo n v)

/-- Bits [15:0] of a rung's word. -/
def Entry.rungWord (x : Entry) (k : Nat) : Nat := bf (x.w (1 + k)) 0 16

/-- Bits [9:0] of the current rung's format word (10 R319). -/
def Entry.format (x : Entry) : Nat := fld (x.rungWord x.rung) 0 10

/-- RND of the current rung. -/
def Entry.rnd (x : Entry) : Nat := fld (x.rungWord x.rung) 10 3

/-- The generation after `g` (10 R319). -/
def Entry.nextGen (g : Nat) : Nat := if g = 65535 then 1 else g + 1

/-- What an operation that turned `old` into `x` does to GEN and CNT (10 R319). -/
def Entry.settle (old x : Entry) : Entry :=
  let y := if x.rung ≠ old.rung then x.ctl 0 16 0 else x
  if x.format ≠ old.format ∨ (x.valid ∧ !old.valid) then y.ctl 48 16 (nextGen old.gen) else y

/-- A rung word is bits [15:0] of a valid format word with RUNG zero (10 R317, R318). -/
def Entry.rungOk (v : Nat) : Bool := decide (fld v 13 3 = 0) && (FmtWord.of v).valid

/-- A threshold is finite and not negative (10 R318). -/
def Entry.thrOk (c : Nat) : Bool :=
  let x := Fl.fp32.decode c
  x.isFin && !Num.lt x (.fin false 0 0)

/-- The pip width and class of a rung's word. -/
def Entry.rungPips (v : Nat) : Nat := pipWidth (fld v 0 5)
@[inherit_doc Entry.rungPips]
def Entry.rungClass (v : Nat) : Nat := fmtClass (fld v 0 5) (fld v 5 3)

/-- EN, EW, NZ, CL, CH and HYST (10 R317). -/
def Entry.en (x : Entry) : Nat := bf (x.w 9) 32 32
@[inherit_doc Entry.en]
def Entry.ew (x : Entry) : Nat := bf (x.w 9) 0 32
@[inherit_doc Entry.en]
def Entry.noiseThr (x : Entry) : Nat := bf (x.w 10) 32 32
@[inherit_doc Entry.en]
def Entry.cl (x : Entry) : Nat := bf (x.w 10) 0 32
@[inherit_doc Entry.en]
def Entry.ch (x : Entry) : Nat := bf (x.w 11) 32 32
@[inherit_doc Entry.en]
def Entry.hyst (x : Entry) : Nat := bf (x.w 11) 16 16

/-- A valid entry is well formed (10 R318). -/
def Entry.wellFormed (x : Entry) : Bool :=
  let ks := upto (x.nrm1 + 1)
  ks.all (fun k => rungOk (x.rungWord k) && rungClass (x.rungWord k) == rungClass (x.rungWord 0)) &&
    (upto x.nrm1).all (fun k => decide (rungPips (x.rungWord (k + 1)) ≤ rungPips (x.rungWord k))) &&
    decide (x.rung ≤ x.nrm1) && decide (1 ≤ x.hyst) &&
    [x.en, x.ew, x.noiseThr, x.cl, x.ch].all thrOk && !Num.lt (Fl.fp32.decode x.ew) (Fl.fp32.decode x.en)

/-- Clears the statistics, words 12 to 19 (10 R317). -/
def Entry.clearStats (x : Entry) : Entry := (upto 8).foldl (fun x i => x.put (12 + i) 0) x

/-- Widens by one rung (10 R321). -/
def Entry.widen (x : Entry) : Entry := if 0 < x.rung then x.ctl 19 3 (x.rung - 1) else x

/-- The ladder and role of a preset (10 R324). -/
def Entry.presetOf (k : Nat) : Nat × List W64 :=
  match k with
  | 1 => (0, [0x0005, 0x0146, 0x0149, 0x014A])
  | 2 => (1, [0x0005, 0x0146])
  | 3 => (2, [0x1005, 0x1147])
  | 4 => (4, [0x0002])
  | _ => (5, [0x0005, 0x0146, 0x014A])

/-- Installs preset `k` (10 R324); rung words past the preset's ladder stay. -/
def Entry.preset (x : Entry) (k : Nat) : Entry :=
  let (role, ladder) := presetOf k
  let x1 := ladder.zipIdx.foldl (fun x e => x.put (1 + e.2) e.1) x
  let x2 := ((x1.put 9 0x3A8000003C000000).put 10 0x3F0000003A800000).put 11 0x3C80000000640000
  ((x2.put 0 (w64 (x.gen * 2 ^ 48 + bf (x.w 0) 32 16 * 2 ^ 32 + role * 2 ^ 29 + 2 ^ 28 + (ladder.length - 1) * 2 ^ 22)))).clearStats

/-- A write of a word, field by field and then checked where the entry was valid or becomes it; nothing when it is refused
(10 R318, R323). -/
def Entry.write (x : Entry) (i : Nat) (v : W64) : Option Entry :=
  let checked (y : Entry) : Option Entry :=
    if (x.valid || y.valid) && !y.wellFormed then none else some (settle x y)
  if i = 0 then
    let y := (((x.ctl 32 16 (bf v 32 16)).ctl 28 4 (bf v 28 4)).ctl 19 6 (bf v 19 6))
    checked (if bit v 26 then y.ctl 26 1 0 else y)
  else if i ≤ 8 then
    let r := bf v 0 16
    if rungOk r then checked (x.put i (w64 r)) else none
  else if i ≤ 10 then checked (x.put i v)
  else if i = 11 then checked (x.put 11 (w64 (bf v 16 48 * 65536)))
  else if i = 30 then
    if 1 ≤ v.toNat ∧ v.toNat ≤ 5 then checked (x.preset v.toNat) else none
  else if i = 31 then some (x.clearStats.ctl 0 16 0)
  else none

/-- `cpin` with pin and rung (10 R323); nothing when it is refused. -/
def Entry.pinTo (x : Entry) (pin : Bool) (rung : Nat) : Option Entry :=
  if !x.valid || (pin && decide (x.nrm1 < rung)) then none
  else if pin then some (settle x ((x.ctl 27 1 1).ctl 19 3 rung)) else some (x.ctl 27 1 0)

/-- FP64 arithmetic of the Calender, to nearest even. -/
def Entry.add64 (a b : Nat) : Nat := Fl.fp64.addr .rne 0 [Fl.fp64.decode a, Fl.fp64.decode b]
@[inherit_doc Entry.add64]
def Entry.sub64 (a b : Nat) : Nat := Fl.fp64.addr .rne 0 [Fl.fp64.decode a, (Fl.fp64.decode b).neg]
@[inherit_doc Entry.add64]
def Entry.mul64 (a b : Nat) : Nat := Fl.fp64.rne ((Fl.fp64.decode a).mul (Fl.fp64.decode b))
@[inherit_doc Entry.add64]
def Entry.div64 (a b : Nat) : Nat := Fl.fp64.div .rne 0 (Fl.fp64.decode a) (Fl.fp64.decode b)
@[inherit_doc Entry.add64]
def Entry.ofNat64 (n : Nat) : Nat := Fl.fp64.rne (.fin false n 0)
@[inherit_doc Entry.add64]
def Entry.to32 (a : Nat) : Nat := Fl.fp32.rne (Fl.fp64.decode a)

/-- An FP64 code is above an FP32 threshold, or at or above it. -/
def Entry.above (a thr : Nat) : Bool := Num.lt (Fl.fp32.decode thr) (Fl.fp64.decode a)
@[inherit_doc Entry.above]
def Entry.below (a thr : Nat) : Bool := Num.lt (Fl.fp64.decode a) (Fl.fp32.decode thr)
@[inherit_doc Entry.above]
def Entry.reaches (a thr : Nat) : Bool := above a thr || Num.eqv (Fl.fp64.decode a) (Fl.fp32.decode thr)

/-- Adds a record of count, sum, sum of squares, error, absmax and clips (10 R320). -/
def Entry.addRecord (x : Entry) (r : List W64) : Entry :=
  let g (i : Nat) : W64 := r.getD i 0
  let acc (x : Entry) (i : Nat) (v : Nat) : Entry := x.put i (w64 (add64 (x.w i).toNat v))
  let mu := div64 (g 1).toNat (ofNat64 (g 0).toNat)
  let x1 := acc (acc (acc (x.put 12 (x.w 12 + g 0)) 13 (g 1).toNat) 14 (g 2).toNat) 15 (g 3).toNat
  let am := Fl.fp32.minmax true (bf (x.w 16) 32 32) (g 4).toNat
  let cl := min (bf (x.w 16) 0 32 + (g 5).toNat) (2 ^ 32 - 1)
  acc (acc ((x1.put 16 (w64 (am * 2 ^ 32 + cl))).put 17 (x.w 17 + 1)) 18 mu) 19 (mul64 mu mu)

/-- One evaluation (10 R321). -/
def Entry.evaluate (x : Entry) : Entry :=
  if !x.valid then x
  else if x.pin then x.clearStats
  else if x.rerun then (settle x (x.ctl 26 1 0).widen).clearStats
  else if x.w 12 = 0 then x
  else
    let z (c : W64) : Bool := (Fl.fp64.decode c.toNat).isZero
    let err := if z (x.w 14) then 0 else div64 (x.w 15).toNat (x.w 14).toNat
    let clip := div64 (ofNat64 (bf (x.w 16) 0 32)) (ofNat64 (x.w 12).toNat)
    let nr := ofNat64 (x.w 17).toNat
    let m1 := div64 (x.w 18).toNat nr
    let m2 := div64 (x.w 19).toNat nr
    let noise := if (x.w 17).toNat < 2 ∨ (Fl.fp64.decode m2).isZero then 0 else div64 (sub64 m2 (mul64 m1 m1)) m2
    let y := (x.put 20 (w64 (to32 err * 2 ^ 32 + to32 noise))).put 21 (w64 (to32 clip * 2 ^ 32))
    let hard := !(Fl.fp32.decode x.ch).isZero && reaches clip x.ch
    let y1 :=
      if hard || above err x.ew || above clip x.cl then
        let y2 := y.ctl 0 16 0
        if 0 < x.rung then (if hard then y2.ctl 26 1 1 else y2.widen) else y2
      else if below err x.en && above noise x.noiseThr then
        if x.rung < x.nrm1 then
          let n := min (x.cnt + 1) 65535
          let y2 := y.ctl 0 16 n
          if x.hyst ≤ n then y2.ctl 19 3 (x.rung + 1) else y2
        else y
      else y.ctl 0 16 0
    (settle x y1).clearStats

/-- A RERUN node takes the flag: cleared, and the entry widened (10 R331). -/
def Entry.takeRerun (x : Entry) : Entry := settle x (x.ctl 26 1 0).widen

/-- Evaluates a run of entries in ascending order and raises the step count (10 R322). -/
def State.evalRange (s : State) (first n : Nat) : State :=
  let s1 := (upto n).foldl (fun s i =>
    let x := s.entry (first + i)
    if x.valid then s.putEntry (first + i) x.evaluate else s) s
  { s1 with hub := { s1.hub with stepCount := s1.hub.stepCount + 1 } }

/-- A record is added to its entry; one that names an entry with VALID = 0 is dropped (10 R320). -/
def State.addRecord (s : State) (r : Rec) : State :=
  let x := s.entry r.entry
  if x.valid then s.putEntry r.entry (x.addRecord r.words) else s

/-- The H-die adds a record that has arrived; its context has one fewer on its way. -/
def State.takeRecord (s : State) (r : Rec) : State :=
  (s.addRecord r).onCtx r.ctx (fun c => { c with mem := { c.mem with recs := c.mem.recs - 1 } })

/-- The H-die adds an arriving record: records from several contexts arrive in no fixed order, those of one context to
one entry in program order (10 R320, R323). -/
def execStatsRecordAdd (i : Nat) (s : State) : Out State :=
  match s.hub.recs[i]? with
  | none => .refused .notEnabled
  | some r =>
    if (s.hub.recs.take i).any (fun x => x.ctx == r.ctx && x.entry == r.entry) then .refused .notEnabled
    else .next ({ s with hub := { s.hub with recs := s.hub.recs.eraseIdx i } }.takeRecord r)

/-- Every die's read copy takes the entries, so that what waited for it goes on (10 R322). -/
def execCalenderReadCopyUpdate (s : State) : Out State :=
  let t := s.syncCopies
  if t = s then .refused .notEnabled else .next t

/-- A write of k to word 30 installs preset k (10 R324, 18 R429). -/
def execCalenderPreset (entry : Nat) (k : BitVec 64) (s : State) : Out State :=
  if 4096 ≤ entry then .refused .notEnabled
  else match (s.entry entry).write 30 k with
    | some x => .next (s.putEntry entry x)
    | none => .next s

/-- A write to word 31 clears the statistics and CNT (10 R317). -/
def execCalenderClr (entry : Nat) (s : State) : Out State :=
  if 4096 ≤ entry then .refused .notEnabled
  else match (s.entry entry).write 31 0 with
    | some x => .next (s.putEntry entry x)
    | none => .next s

/-- A management write to a word of an entry; one that the checks refuse changes nothing (18 R429, R431). -/
def execCalenderWindowWrite (entry word : Nat) (val : BitVec 64) (s : State) : Out State :=
  if 4096 ≤ entry ∨ 32 ≤ word then .refused .notEnabled
  else match (s.entry entry).write word val with
    | some x => .next (s.putEntry entry x)
    | none => .next s

end Sys2Proof.Machine
end

