-- ==== Sys2Proof/Machine/Flags.lean ====
section
/-!
DEFINITION. The computations behind condition bits and mask bits: integer and floating-point relations (05 R142, R147;
06 R188), and the counts of bits that several operations share.
-/

namespace Sys2Proof.Machine

/-- An integer relation on 64-bit scalars (05 R142): eq, ne, lt, ge, ltu, geu. -/
def relation (rel : Nat) (a b : W64) : Bool :=
  match rel with
  | 0 => a == b
  | 1 => a != b
  | 2 => a.slt b
  | 3 => !a.slt b
  | 4 => a.ult b
  | _ => !a.ult b

/-- A floating-point relation (05 R147): eq, ne, lt, le, un.  A NaN makes `ne` and `un` hold and the others fail. -/
def fRelation (rel : Nat) (a b : Num) : Bool :=
  let un := decide (a = .nan) || decide (b = .nan)
  match rel with
  | 0 => Num.eqv a b
  | 1 => !Num.eqv a b
  | 2 => Num.lt a b
  | 3 => Num.lt a b || Num.eqv a b
  | _ => un

/-- Leading zero bits of a `w`-bit number. -/
def leadingZeros (w x : Nat) : Nat := if x = 0 then w else w - 1 - Nat.log2 x

/-- Trailing zero bits of a `w`-bit number. -/
def trailingZeros : Nat → Nat → Nat
  | 0, _ => 0
  | w + 1, x => if x % 2 = 1 then 0 else 1 + trailingZeros w (x / 2)

/-- Set bits of a `w`-bit number. -/
def setBits : Nat → Nat → Nat
  | 0, _ => 0
  | w + 1, x => x % 2 + setBits w (x / 2)

/-- The low `n` bits of a scalar, sign-extended. -/
def signBits (n : Nat) (x : W64) : W64 := sx (x.extractLsb' 0 n)

/-- A bit field of a scalar: sb[5:0] is its position and sb[13:8] its length less one (05 R140). -/
def extractField (signed : Bool) (a b : W64) : W64 :=
  let l := bf b 8 6 + 1
  let v := w64 (a.toNat / 2 ^ bf b 0 6 % 2 ^ l)
  if signed then signBits l v else v

/-- Inserts a bit field (05 R140). -/
def insertField (d a b : W64) : W64 :=
  let p := bf b 0 6
  let mask := w64 ((2 ^ (bf b 8 6 + 1) - 1) * 2 ^ p)
  (d &&& ~~~mask) ||| ((a <<< p) &&& mask)

end Sys2Proof.Machine
end

