-- ==== Sys2Proof/WellFormed.lean ====
section
/-!
DEFINITION. When an instruction is well formed: for a slot operation, no field breaks the static checks of 04 R129.
Steps of engines and of the platform carry no encoding, and are well formed.
-/

namespace Sys2Proof

/-- An instruction whose fields 04 R129 accepts. -/
def Instr.WellFormed (i : Instr) : Bool := Machine.instrLegal i

end Sys2Proof
end

