-- ==== Sys2Proof/Decode.lean ====
section
/-!
DEFINITION. Decoding and encoding.  A slot word decodes by its operation code (04 R124 to R128) into the raw fields of
its form (04 R116 to R123); a bundle decodes by its header (04 R100 to R102); a sidecar word decodes by 08 R285 and,
for the ordinary instructions, by the RISC-V encodings of RV64IM, Zicsr, Zifencei and the compressed set
(log entry 9).  `encode` is written from the same tables.
-/

namespace Sys2Proof

open Machine

/-- Why a word is not an instruction. -/
inductive DecErr where
  /-- an unassigned operation code (04 R124 to R128) of a slot kind -/
  | unassigned (kind : String) (op : Nat)
  deriving DecidableEq, Repr

/-- The result of decoding. -/
inductive Dec where
  | ok (i : Instr)
  | bad (e : DecErr)
  deriving DecidableEq, Repr

/-- The decoded instruction, if any. -/
def Dec.get? : Dec → Option Instr
  | .ok i => some i
  | .bad _ => none

/-- Slot kinds. -/
inductive SlotKind where
  | s | v | m | l | b
  deriving DecidableEq, Repr

/-- The kind of a slot position, in the order of PRES (04 R100). -/
def kindOf (pos : Nat) : SlotKind :=
  if pos < 2 then .s else if pos < 5 then .v else if pos = 5 then .m else if pos < 8 then .l else .b

/-- Bytes of a slot word (04 R101). -/
def slotBytes (pos : Nat) : Nat := if pos < 2 then 4 else 8

/-- The fields of form SR (04 R116). -/
def SR.ofWord (x : BitVec 32) : SR :=
  { g := x.extractLsb' 22 4, sd := x.extractLsb' 16 6, sa := x.extractLsb' 10 6, sb := x.extractLsb' 4 6, fn := x.extractLsb' 0 4 }

/-- The word of form SR under an operation code. -/
def SR.toWord (op : BitVec 6) (f : SR) : BitVec 32 :=
  op ++ f.g ++ f.sd ++ f.sa ++ f.sb ++ f.fn

/-- The fields of form SI (04 R116). -/
def SI.ofWord (x : BitVec 32) : SI :=
  { g := x.extractLsb' 22 4, sd := x.extractLsb' 16 6, sa := x.extractLsb' 10 6, imm := x.extractLsb' 0 10 }

/-- The word of form SI under an operation code. -/
def SI.toWord (op : BitVec 6) (f : SI) : BitVec 32 :=
  op ++ f.g ++ f.sd ++ f.sa ++ f.imm

/-- The fields of form SU (04 R116). -/
def SU.ofWord (x : BitVec 32) : SU :=
  { g := x.extractLsb' 22 4, sd := x.extractLsb' 16 6, imm := x.extractLsb' 0 16 }

/-- The word of form SU under an operation code. -/
def SU.toWord (op : BitVec 6) (f : SU) : BitVec 32 :=
  op ++ f.g ++ f.sd ++ f.imm

/-- The fields of form VR (04 R117). -/
def VR.ofWord (x : BitVec 64) : VR :=
  { mrg := x.extractLsb' 55 1, w := x.extractLsb' 53 2, et := x.extractLsb' 49 4, vd := x.extractLsb' 38 11, va := x.extractLsb' 27 11, vb := x.extractLsb' 16 11, dc := x.extractLsb' 15 1, ac := x.extractLsb' 13 2, bc := x.extractLsb' 11 2, rm := x.extractLsb' 8 3, mask := x.extractLsb' 4 4, g := x.extractLsb' 0 4 }

/-- The word of form VR under an operation code. -/
def VR.toWord (op : BitVec 8) (f : VR) : BitVec 64 :=
  op ++ f.mrg ++ f.w ++ f.et ++ f.vd ++ f.va ++ f.vb ++ f.dc ++ f.ac ++ f.bc ++ f.rm ++ f.mask ++ f.g

/-- The fields of form VQ (04 R120). -/
def VQ.ofWord (x : BitVec 64) : VQ :=
  { op0 := x.extractLsb' 55 1, w := x.extractLsb' 53 2, fmt := x.extractLsb' 48 5, vd := x.extractLsb' 37 11, va := x.extractLsb' 26 11, dc := x.extractLsb' 25 1, ac := x.extractLsb' 24 1, blk := x.extractLsb' 21 3, rm := x.extractLsb' 18 3, ce := x.extractLsb' 17 1, cal := x.extractLsb' 5 12, rsv := x.extractLsb' 4 1, g := x.extractLsb' 0 4 }

/-- The word of form VQ under an operation code. -/
def VQ.toWord (op : BitVec 8) (f : VQ) : BitVec 64 :=
  op ++ f.op0 ++ f.w ++ f.fmt ++ f.vd ++ f.va ++ f.dc ++ f.ac ++ f.blk ++ f.rm ++ f.ce ++ f.cal ++ f.rsv ++ f.g

/-- The fields of form MX (04 R121). -/
def MX.ofWord (x : BitVec 64) : MX :=
  { g := x.extractLsb' 54 4, acc := x.extractLsb' 49 5, src := x.extractLsb' 38 11, scl := x.extractLsb' 36 2, fa := x.extractLsb' 31 5, ba := x.extractLsb' 28 3, qs := x.extractLsb' 25 3, ca := x.extractLsb' 24 1, cb := x.extractLsb' 23 1, ce := x.extractLsb' 22 1, cal := x.extractLsb' 10 12, rm := x.extractLsb' 7 3, rsv := x.extractLsb' 0 7 }

/-- The word of form MX under an operation code. -/
def MX.toWord (op : BitVec 6) (f : MX) : BitVec 64 :=
  op ++ f.g ++ f.acc ++ f.src ++ f.scl ++ f.fa ++ f.ba ++ f.qs ++ f.ca ++ f.cb ++ f.ce ++ f.cal ++ f.rm ++ f.rsv

/-- The fields of form MC (04 R121). -/
def MC.ofWord (x : BitVec 64) : MC :=
  { g := x.extractLsb' 54 4, acc := x.extractLsb' 49 5, acb := x.extractLsb' 44 5, af := x.extractLsb' 41 3, rm := x.extractLsb' 38 3, ss := x.extractLsb' 32 6, imm := x.extractLsb' 16 16, rsv := x.extractLsb' 0 16 }

/-- The word of form MC under an operation code. -/
def MC.toWord (op : BitVec 6) (f : MC) : BitVec 64 :=
  op ++ f.g ++ f.acc ++ f.acb ++ f.af ++ f.rm ++ f.ss ++ f.imm ++ f.rsv

/-- The fields of form LM (04 R122). -/
def LM.ofWord (x : BitVec 64) : LM :=
  { g := x.extractLsb' 53 4, data := x.extractLsb' 42 11, dcl := x.extractLsb' 40 2, base := x.extractLsb' 34 6, qs := x.extractLsb' 31 3, se := x.extractLsb' 30 1, sbs := x.extractLsb' 26 4, we := x.extractLsb' 25 1, sbw := x.extractLsb' 21 4, ord := x.extractLsb' 19 2, sz := x.extractLsb' 16 3, imm := x.extractLsb' 0 16 }

/-- The word of form LM under an operation code. -/
def LM.toWord (op : BitVec 7) (f : LM) : BitVec 64 :=
  op ++ f.g ++ f.data ++ f.dcl ++ f.base ++ f.qs ++ f.se ++ f.sbs ++ f.we ++ f.sbw ++ f.ord ++ f.sz ++ f.imm

/-- The fields of form LC (04 R122). -/
def LC.ofWord (x : BitVec 64) : LC :=
  { g := x.extractLsb' 53 4, sdst := x.extractLsb' 47 6, ssrc := x.extractLsb' 41 6, sdsc := x.extractLsb' 35 6, tag := x.extractLsb' 31 4, qs := x.extractLsb' 28 3, md := x.extractLsb' 24 4, fmt := x.extractLsb' 19 5, we := x.extractLsb' 18 1, sbw := x.extractLsb' 14 4, rsv := x.extractLsb' 0 14 }

/-- The word of form LC under an operation code. -/
def LC.toWord (op : BitVec 7) (f : LC) : BitVec 64 :=
  op ++ f.g ++ f.sdst ++ f.ssrc ++ f.sdsc ++ f.tag ++ f.qs ++ f.md ++ f.fmt ++ f.we ++ f.sbw ++ f.rsv

/-- The fields of form BJ (04 R123). -/
def BJ.ofWord (x : BitVec 64) : BJ :=
  { g := x.extractLsb' 54 4, sd := x.extractLsb' 48 6, sa := x.extractLsb' 42 6, rsv := x.extractLsb' 32 10, off := x.extractLsb' 0 32 }

/-- The word of form BJ under an operation code. -/
def BJ.toWord (op : BitVec 6) (f : BJ) : BitVec 64 :=
  op ++ f.g ++ f.sd ++ f.sa ++ f.rsv ++ f.off

/-- The fields of form BG (04 R123). -/
def BG.ofWord (x : BitVec 64) : BG :=
  { g := x.extractLsb' 54 4, sd := x.extractLsb' 48 6, sa := x.extractLsb' 42 6, sb := x.extractLsb' 36 6, fn := x.extractLsb' 32 4, imm := x.extractLsb' 0 32 }

/-- The word of form BG under an operation code. -/
def BG.toWord (op : BitVec 6) (f : BG) : BitVec 64 :=
  op ++ f.g ++ f.sd ++ f.sa ++ f.sb ++ f.fn ++ f.imm

/-- The fields of form BL (04 R123). -/
def BL.ofWord (x : BitVec 64) : BL :=
  { g := x.extractLsb' 54 4, lc := x.extractLsb' 52 2, sa := x.extractLsb' 46 6, max := x.extractLsb' 22 24, last := x.extractLsb' 6 16, neg := x.extractLsb' 5 1, cc := x.extractLsb' 2 3, rsv := x.extractLsb' 0 2 }

/-- The word of form BL under an operation code. -/
def BL.toWord (op : BitVec 6) (f : BL) : BitVec 64 :=
  op ++ f.g ++ f.lc ++ f.sa ++ f.max ++ f.last ++ f.neg ++ f.cc ++ f.rsv

/-- The fields of form BT (04 R123). -/
def BT.ofWord (x : BitVec 64) : BT :=
  { nt := x.extractLsb' 56 2, t0 := x.extractLsb' 52 4, t1 := x.extractLsb' 48 4, t2 := x.extractLsb' 44 4, t3 := x.extractLsb' 40 4, l0 := x.extractLsb' 30 10, l1 := x.extractLsb' 20 10, l2 := x.extractLsb' 10 10, l3 := x.extractLsb' 0 10 }

/-- The word of form BT under an operation code. -/
def BT.toWord (op : BitVec 6) (f : BT) : BitVec 64 :=
  op ++ f.nt ++ f.t0 ++ f.t1 ++ f.t2 ++ f.t3 ++ f.l0 ++ f.l1 ++ f.l2 ++ f.l3

/-- The operation of an S-slot word (04 R124 to R128). -/
def decS (x : BitVec 32) : Dec :=
  match (x.extractLsb' 26 6).toNat with
  | 1 => .ok (.add (SR.ofWord x))
  | 2 => .ok (.sub (SR.ofWord x))
  | 3 => .ok (.addi (SI.ofWord x))
  | 4 => .ok (.mul (SR.ofWord x))
  | 5 => .ok (.mulh (SR.ofWord x))
  | 6 => .ok (.mulhu (SR.ofWord x))
  | 7 => .ok (.div (SR.ofWord x))
  | 8 => .ok (.divu (SR.ofWord x))
  | 9 => .ok (.rem (SR.ofWord x))
  | 10 => .ok (.remu (SR.ofWord x))
  | 11 => .ok (.and (SR.ofWord x))
  | 12 => .ok (.or (SR.ofWord x))
  | 13 => .ok (.xor (SR.ofWord x))
  | 14 => .ok (.andn (SR.ofWord x))
  | 15 => .ok (.shl (SR.ofWord x))
  | 16 => .ok (.shr (SR.ofWord x))
  | 17 => .ok (.sra (SR.ofWord x))
  | 18 => .ok (.shli (SI.ofWord x))
  | 19 => .ok (.shri (SI.ofWord x))
  | 20 => .ok (.srai (SI.ofWord x))
  | 21 => .ok (.clz (SR.ofWord x))
  | 22 => .ok (.ctz (SR.ofWord x))
  | 23 => .ok (.popc (SR.ofWord x))
  | 24 => .ok (.min (SR.ofWord x))
  | 25 => .ok (.max (SR.ofWord x))
  | 26 => .ok (.minu (SR.ofWord x))
  | 27 => .ok (.maxu (SR.ofWord x))
  | 28 => .ok (.sel (SR.ofWord x))
  | 29 => .ok (.cmp (SR.ofWord x))
  | 30 => .ok (.li (SU.ofWord x))
  | 31 => .ok (.lui (SU.ofWord x))
  | 32 => .ok (.mov (SR.ofWord x))
  | 33 => .ok (.sext (SI.ofWord x))
  | 34 => .ok (.zext (SI.ofWord x))
  | 35 => .ok (.bfx (SR.ofWord x))
  | 36 => .ok (.bfi (SR.ofWord x))
  | 37 => .ok (.addr (SU.ofWord x))
  | 38 => .ok (.fadd (SR.ofWord x))
  | 39 => .ok (.fsub (SR.ofWord x))
  | 40 => .ok (.fmul (SR.ofWord x))
  | 41 => .ok (.fmadd (SR.ofWord x))
  | 42 => .ok (.fdiv (SR.ofWord x))
  | 43 => .ok (.fsqrt (SR.ofWord x))
  | 44 => .ok (.fmin (SR.ofWord x))
  | 45 => .ok (.fmax (SR.ofWord x))
  | 46 => .ok (.fcmp (SR.ofWord x))
  | 47 => .ok (.fcvt (SR.ofWord x))
  | 48 => .ok (.fmvx (SR.ofWord x))
  | 49 => .ok (.rdd (SI.ofWord x))
  | 50 => .ok (.rdsys (SI.ofWord x))
  | 51 => .ok (.rdtime (SR.ofWord x))
  | 52 => .ok (.mbrd (SI.ofWord x))
  | 53 => .ok (.mbwr (SI.ofWord x))
  | op => .bad (.unassigned "S" op)

/-- The operation of an V-slot word (04 R124 to R128). -/
def decV (x : BitVec 64) : Dec :=
  match (x.extractLsb' 56 8).toNat with
  | 1 => .ok (.vadd (VR.ofWord x))
  | 2 => .ok (.vsub (VR.ofWord x))
  | 3 => .ok (.vmul (VR.ofWord x))
  | 4 => .ok (.vmulh (VR.ofWord x))
  | 5 => .ok (.vmadd (VR.ofWord x))
  | 6 => .ok (.vabs (VR.ofWord x))
  | 7 => .ok (.vneg (VR.ofWord x))
  | 8 => .ok (.vmin (VR.ofWord x))
  | 9 => .ok (.vmax (VR.ofWord x))
  | 10 => .ok (.vsadd (VR.ofWord x))
  | 11 => .ok (.vssub (VR.ofWord x))
  | 12 => .ok (.vshl (VR.ofWord x))
  | 13 => .ok (.vshr (VR.ofWord x))
  | 14 => .ok (.vsra (VR.ofWord x))
  | 15 => .ok (.vand (VR.ofWord x))
  | 16 => .ok (.vor (VR.ofWord x))
  | 17 => .ok (.vxor (VR.ofWord x))
  | 18 => .ok (.vnot (VR.ofWord x))
  | 19 => .ok (.vclz (VR.ofWord x))
  | 20 => .ok (.vpopc (VR.ofWord x))
  | 24 => .ok (.vfadd (VR.ofWord x))
  | 25 => .ok (.vfsub (VR.ofWord x))
  | 26 => .ok (.vfmul (VR.ofWord x))
  | 27 => .ok (.vfma (VR.ofWord x))
  | 28 => .ok (.vfms (VR.ofWord x))
  | 29 => .ok (.vfmin (VR.ofWord x))
  | 30 => .ok (.vfmax (VR.ofWord x))
  | 31 => .ok (.vfabs (VR.ofWord x))
  | 32 => .ok (.vfneg (VR.ofWord x))
  | 33 => .ok (.vfrcp (VR.ofWord x))
  | 34 => .ok (.vfrsqrt (VR.ofWord x))
  | 35 => .ok (.vfsqrt (VR.ofWord x))
  | 36 => .ok (.vfexp2 (VR.ofWord x))
  | 37 => .ok (.vflog2 (VR.ofWord x))
  | 38 => .ok (.vftanh (VR.ofWord x))
  | 39 => .ok (.vferf (VR.ofWord x))
  | 40 => .ok (.vfsin (VR.ofWord x))
  | 41 => .ok (.vfcos (VR.ofWord x))
  | 42 => .ok (.vcmul (VR.ofWord x))
  | 43 => .ok (.vcmla (VR.ofWord x))
  | 48 => .ok (.vcmp (VR.ofWord x))
  | 49 => .ok (.vfcmp (VR.ofWord x))
  | 50 => .ok (.mand (VR.ofWord x))
  | 51 => .ok (.mor (VR.ofWord x))
  | 52 => .ok (.mxor (VR.ofWord x))
  | 53 => .ok (.mnot (VR.ofWord x))
  | 54 => .ok (.mpopc (VR.ofWord x))
  | 55 => .ok (.mffs (VR.ofWord x))
  | 56 => .ok (.vsel (VR.ofWord x))
  | 57 => .ok (.vcvt (VR.ofWord x))
  | 58 => .ok (.vqnt (VQ.ofWord x))
  | 59 => .ok (.vdq (VQ.ofWord x))
  | 60 => .ok (.vqc4 (VQ.ofWord x))
  | 61 => .ok (.vdqc4 (VQ.ofWord x))
  | 62 => .ok (.vsrseed (VR.ofWord x))
  | 64 => .ok (.vmov (VR.ofWord x))
  | 65 => .ok (.vbcast (VR.ofWord x))
  | 66 => .ok (.vperm (VR.ofWord x))
  | 67 => .ok (.vshuf (VR.ofWord x))
  | 68 => .ok (.vslide (VR.ofWord x))
  | 69 => .ok (.vcompress (VR.ofWord x))
  | 70 => .ok (.vcompressKeep (VR.ofWord x))
  | 71 => .ok (.vexpand (VR.ofWord x))
  | 72 => .ok (.vzip (VR.ofWord x))
  | 73 => .ok (.vunzip (VR.ofWord x))
  | 74 => .ok (.vext (VR.ofWord x))
  | 75 => .ok (.vins (VR.ofWord x))
  | 76 => .ok (.vred (VR.ofWord x))
  | 77 => .ok (.vfred (VR.ofWord x))
  | 78 => .ok (.vscan (VR.ofWord x))
  | 79 => .ok (.vhist (VR.ofWord x))
  | 80 => .ok (.arow (VR.ofWord x))
  | 81 => .ok (.acol (VR.ofWord x))
  | 82 => .ok (.awrow (VR.ofWord x))
  | 83 => .ok (.awcol (VR.ofWord x))
  | op => .bad (.unassigned "V" op)

/-- The operation of an M-slot word (04 R124 to R128). -/
def decM (x : BitVec 64) : Dec :=
  match (x.extractLsb' 58 6).toNat with
  | 1 => .ok (.mld (MX.ofWord x))
  | 2 => .ok (.mldw (MX.ofWord x))
  | 3 => .ok (.mswap (MC.ofWord x))
  | 4 => .ok (.mma (MX.ofWord x))
  | 5 => .ok (.mmas (MX.ofWord x))
  | 6 => .ok (.mmac (MX.ofWord x))
  | 7 => .ok (.mmaC (MX.ofWord x))
  | 8 => .ok (.azero (MC.ofWord x))
  | 9 => .ok (.acvt (MC.ofWord x))
  | 10 => .ok (.aadd (MC.ofWord x))
  | 11 => .ok (.acfg (MC.ofWord x))
  | 12 => let f := MC.ofWord x; .ok (if f.imm = 1 then .awaitAll f else .await f)
  | 13 => .ok (.mpcset (MC.ofWord x))
  | 14 => .ok (.mstat (MC.ofWord x))
  | 15 => .ok (.aclr (MC.ofWord x))
  | 16 => .ok (.aload (MC.ofWord x))
  | op => .bad (.unassigned "M" op)

/-- The operation of an L-slot word (04 R124 to R128). -/
def decL (x : BitVec 64) : Dec :=
  match (x.extractLsb' 57 7).toNat with
  | 1 => .ok (.ld (LM.ofWord x))
  | 2 => .ok (.st (LM.ofWord x))
  | 3 => .ok (.ldv (LM.ofWord x))
  | 4 => .ok (.stv (LM.ofWord x))
  | 5 => .ok (.ldvs (LM.ofWord x))
  | 6 => .ok (.stvs (LM.ofWord x))
  | 7 => .ok (.ldvg (LM.ofWord x))
  | 8 => .ok (.stvg (LM.ofWord x))
  | 9 => .ok (.ldf (LM.ofWord x))
  | 10 => .ok (.ldfe (LM.ofWord x))
  | 11 => .ok (.ste (LM.ofWord x))
  | 12 => .ok (.stf (LM.ofWord x))
  | 13 => .ok (.tagset (LM.ofWord x))
  | 14 => .ok (.tagclr (LM.ofWord x))
  | 16 => .ok (.tld (LC.ofWord x))
  | 17 => .ok (.tst (LC.ofWord x))
  | 18 => .ok (.cpy (LC.ofWord x))
  | 19 => .ok (.rgather (LC.ofWord x))
  | 20 => .ok (.rscatter (LC.ofWord x))
  | 24 => .ok (.amo (LM.ofWord x))
  | 25 => .ok (.red (LM.ofWord x))
  | 32 => .ok (.verld (LM.ofWord x))
  | 33 => .ok (.verle (LM.ofWord x))
  | 34 => .ok (.verst (LM.ofWord x))
  | 35 => .ok (.verfl (LM.ofWord x))
  | 36 => .ok (.vernew (LM.ofWord x))
  | 40 => .ok (.stopk (LM.ofWord x))
  | 48 => .ok (.cbcfg (LM.ofWord x))
  | 49 => .ok (.cbwait (LM.ofWord x))
  | 50 => .ok (.cbpop (LM.ofWord x))
  | 51 => .ok (.cbresv (LM.ofWord x))
  | 52 => .ok (.cbpush (LM.ofWord x))
  | 56 => .ok (.coll (LC.ofWord x))
  | 57 => .ok (.pf (LM.ofWord x))
  | op => .bad (.unassigned "L" op)

/-- The operation of an B-slot word (04 R124 to R128). -/
def decB (x : BitVec 64) : Dec :=
  match (x.extractLsb' 58 6).toNat with
  | 1 => .ok (.br (BJ.ofWord x))
  | 2 => .ok (.bt (BT.ofWord x))
  | 3 => .ok (.call (BJ.ofWord x))
  | 4 => .ok (.ret (BJ.ofWord x))
  | 5 => .ok (.jr (BJ.ofWord x))
  | 6 => .ok (.loop (BL.ofWord x))
  | 7 => .ok (.loopw (BL.ofWord x))
  | 8 => .ok (.brk (BG.ofWord x))
  | 9 => .ok (.trap (BG.ofWord x))
  | 10 => .ok (.yield (BG.ofWord x))
  | 11 => .ok (.exit (BG.ofWord x))
  | 12 => .ok (.spawn (BG.ofWord x))
  | 13 => .ok (.nextr (BG.ofWord x))
  | 16 => .ok (.waitsb (BG.ofWord x))
  | 17 => .ok (.fence (BG.ofWord x))
  | 18 => .ok (.fenceS (BG.ofWord x))
  | 19 => let f := BG.ofWord x; .ok (if f.fn = 1 then .barArv f else .bar f)
  | 20 => .ok (.barwait (BG.ofWord x))
  | 21 => .ok (.tagwaitany (BG.ofWord x))
  | 22 => .ok (.tagwaitall (BG.ofWord x))
  | 23 => .ok (.tagffr (BG.ofWord x))
  | 24 => let f := BG.ofWord x; .ok (if f.fn = 1 then .tlwaitBind f else if f.fn = 2 then .tlwaitRead f else .tlwait f)
  | 25 => .ok (.handreq (BG.ofWord x))
  | 26 => .ok (.handrel (BG.ofWord x))
  | 27 => .ok (.blend (BG.ofWord x))
  | 28 => .ok (.bret (BG.ofWord x))
  | 32 => .ok (.cstep (BG.ofWord x))
  | 33 => .ok (.cset (BG.ofWord x))
  | 34 => .ok (.cpin (BG.ofWord x))
  | 35 => .ok (.cread (BG.ofWord x))
  | 36 => .ok (.dstat (BG.ofWord x))
  | 37 => .ok (.dhint (BG.ofWord x))
  | 48 => .ok (.mtsy (BG.ofWord x))
  | 49 => .ok (.mfsy (BG.ofWord x))
  | 50 => let f := BG.ofWord x; .ok (if f.fn = 1 then .eretEnd f else .eret f)
  | 51 => .ok (.tlbinv (BG.ofWord x))
  | 52 => .ok (.ctxsave (BG.ofWord x))
  | 53 => .ok (.ctxrestore (BG.ofWord x))
  | 54 => .ok (.halt (BG.ofWord x))
  | op => .bad (.unassigned "B" op)

/-- The operation of a slot word of a kind; an S word is the low 32 bits. -/
def decSlot (k : SlotKind) (x : BitVec 64) : Dec :=
  match k with
  | .s => decS (x.extractLsb' 0 32)
  | .v => decV x
  | .m => decM x
  | .l => decL x
  | .b => decB x

/-- The word of a slot operation with its slot kind (04 R116 to R128); steps without an encoding have none. -/
def encode : Instr → Option (SlotKind × BitVec 64)
  | .add f => some (.s, (f.toWord 1).zeroExtend 64)
  | .sub f => some (.s, (f.toWord 2).zeroExtend 64)
  | .addi f => some (.s, (f.toWord 3).zeroExtend 64)
  | .mul f => some (.s, (f.toWord 4).zeroExtend 64)
  | .mulh f => some (.s, (f.toWord 5).zeroExtend 64)
  | .mulhu f => some (.s, (f.toWord 6).zeroExtend 64)
  | .div f => some (.s, (f.toWord 7).zeroExtend 64)
  | .divu f => some (.s, (f.toWord 8).zeroExtend 64)
  | .rem f => some (.s, (f.toWord 9).zeroExtend 64)
  | .remu f => some (.s, (f.toWord 10).zeroExtend 64)
  | .and f => some (.s, (f.toWord 11).zeroExtend 64)
  | .or f => some (.s, (f.toWord 12).zeroExtend 64)
  | .xor f => some (.s, (f.toWord 13).zeroExtend 64)
  | .andn f => some (.s, (f.toWord 14).zeroExtend 64)
  | .shl f => some (.s, (f.toWord 15).zeroExtend 64)
  | .shr f => some (.s, (f.toWord 16).zeroExtend 64)
  | .sra f => some (.s, (f.toWord 17).zeroExtend 64)
  | .shli f => some (.s, (f.toWord 18).zeroExtend 64)
  | .shri f => some (.s, (f.toWord 19).zeroExtend 64)
  | .srai f => some (.s, (f.toWord 20).zeroExtend 64)
  | .clz f => some (.s, (f.toWord 21).zeroExtend 64)
  | .ctz f => some (.s, (f.toWord 22).zeroExtend 64)
  | .popc f => some (.s, (f.toWord 23).zeroExtend 64)
  | .min f => some (.s, (f.toWord 24).zeroExtend 64)
  | .max f => some (.s, (f.toWord 25).zeroExtend 64)
  | .minu f => some (.s, (f.toWord 26).zeroExtend 64)
  | .maxu f => some (.s, (f.toWord 27).zeroExtend 64)
  | .sel f => some (.s, (f.toWord 28).zeroExtend 64)
  | .cmp f => some (.s, (f.toWord 29).zeroExtend 64)
  | .li f => some (.s, (f.toWord 30).zeroExtend 64)
  | .lui f => some (.s, (f.toWord 31).zeroExtend 64)
  | .mov f => some (.s, (f.toWord 32).zeroExtend 64)
  | .sext f => some (.s, (f.toWord 33).zeroExtend 64)
  | .zext f => some (.s, (f.toWord 34).zeroExtend 64)
  | .bfx f => some (.s, (f.toWord 35).zeroExtend 64)
  | .bfi f => some (.s, (f.toWord 36).zeroExtend 64)
  | .addr f => some (.s, (f.toWord 37).zeroExtend 64)
  | .fadd f => some (.s, (f.toWord 38).zeroExtend 64)
  | .fsub f => some (.s, (f.toWord 39).zeroExtend 64)
  | .fmul f => some (.s, (f.toWord 40).zeroExtend 64)
  | .fmadd f => some (.s, (f.toWord 41).zeroExtend 64)
  | .fdiv f => some (.s, (f.toWord 42).zeroExtend 64)
  | .fsqrt f => some (.s, (f.toWord 43).zeroExtend 64)
  | .fmin f => some (.s, (f.toWord 44).zeroExtend 64)
  | .fmax f => some (.s, (f.toWord 45).zeroExtend 64)
  | .fcmp f => some (.s, (f.toWord 46).zeroExtend 64)
  | .fcvt f => some (.s, (f.toWord 47).zeroExtend 64)
  | .fmvx f => some (.s, (f.toWord 48).zeroExtend 64)
  | .rdd f => some (.s, (f.toWord 49).zeroExtend 64)
  | .rdsys f => some (.s, (f.toWord 50).zeroExtend 64)
  | .rdtime f => some (.s, (f.toWord 51).zeroExtend 64)
  | .mbrd f => some (.s, (f.toWord 52).zeroExtend 64)
  | .mbwr f => some (.s, (f.toWord 53).zeroExtend 64)
  | .vadd f => some (.v, f.toWord 1)
  | .vsub f => some (.v, f.toWord 2)
  | .vmul f => some (.v, f.toWord 3)
  | .vmulh f => some (.v, f.toWord 4)
  | .vmadd f => some (.v, f.toWord 5)
  | .vabs f => some (.v, f.toWord 6)
  | .vneg f => some (.v, f.toWord 7)
  | .vmin f => some (.v, f.toWord 8)
  | .vmax f => some (.v, f.toWord 9)
  | .vsadd f => some (.v, f.toWord 10)
  | .vssub f => some (.v, f.toWord 11)
  | .vshl f => some (.v, f.toWord 12)
  | .vshr f => some (.v, f.toWord 13)
  | .vsra f => some (.v, f.toWord 14)
  | .vand f => some (.v, f.toWord 15)
  | .vor f => some (.v, f.toWord 16)
  | .vxor f => some (.v, f.toWord 17)
  | .vnot f => some (.v, f.toWord 18)
  | .vclz f => some (.v, f.toWord 19)
  | .vpopc f => some (.v, f.toWord 20)
  | .vfadd f => some (.v, f.toWord 24)
  | .vfsub f => some (.v, f.toWord 25)
  | .vfmul f => some (.v, f.toWord 26)
  | .vfma f => some (.v, f.toWord 27)
  | .vfms f => some (.v, f.toWord 28)
  | .vfmin f => some (.v, f.toWord 29)
  | .vfmax f => some (.v, f.toWord 30)
  | .vfabs f => some (.v, f.toWord 31)
  | .vfneg f => some (.v, f.toWord 32)
  | .vfrcp f => some (.v, f.toWord 33)
  | .vfrsqrt f => some (.v, f.toWord 34)
  | .vfsqrt f => some (.v, f.toWord 35)
  | .vfexp2 f => some (.v, f.toWord 36)
  | .vflog2 f => some (.v, f.toWord 37)
  | .vftanh f => some (.v, f.toWord 38)
  | .vferf f => some (.v, f.toWord 39)
  | .vfsin f => some (.v, f.toWord 40)
  | .vfcos f => some (.v, f.toWord 41)
  | .vcmul f => some (.v, f.toWord 42)
  | .vcmla f => some (.v, f.toWord 43)
  | .vcmp f => some (.v, f.toWord 48)
  | .vfcmp f => some (.v, f.toWord 49)
  | .mand f => some (.v, f.toWord 50)
  | .mor f => some (.v, f.toWord 51)
  | .mxor f => some (.v, f.toWord 52)
  | .mnot f => some (.v, f.toWord 53)
  | .mpopc f => some (.v, f.toWord 54)
  | .mffs f => some (.v, f.toWord 55)
  | .vsel f => some (.v, f.toWord 56)
  | .vcvt f => some (.v, f.toWord 57)
  | .vqnt f => some (.v, f.toWord 58)
  | .vdq f => some (.v, f.toWord 59)
  | .vqc4 f => some (.v, f.toWord 60)
  | .vdqc4 f => some (.v, f.toWord 61)
  | .vsrseed f => some (.v, f.toWord 62)
  | .vmov f => some (.v, f.toWord 64)
  | .vbcast f => some (.v, f.toWord 65)
  | .vperm f => some (.v, f.toWord 66)
  | .vshuf f => some (.v, f.toWord 67)
  | .vslide f => some (.v, f.toWord 68)
  | .vcompress f => some (.v, f.toWord 69)
  | .vcompressKeep f => some (.v, f.toWord 70)
  | .vexpand f => some (.v, f.toWord 71)
  | .vzip f => some (.v, f.toWord 72)
  | .vunzip f => some (.v, f.toWord 73)
  | .vext f => some (.v, f.toWord 74)
  | .vins f => some (.v, f.toWord 75)
  | .vred f => some (.v, f.toWord 76)
  | .vfred f => some (.v, f.toWord 77)
  | .vscan f => some (.v, f.toWord 78)
  | .vhist f => some (.v, f.toWord 79)
  | .arow f => some (.v, f.toWord 80)
  | .acol f => some (.v, f.toWord 81)
  | .awrow f => some (.v, f.toWord 82)
  | .awcol f => some (.v, f.toWord 83)
  | .mld f => some (.m, f.toWord 1)
  | .mldw f => some (.m, f.toWord 2)
  | .mswap f => some (.m, f.toWord 3)
  | .mma f => some (.m, f.toWord 4)
  | .mmas f => some (.m, f.toWord 5)
  | .mmac f => some (.m, f.toWord 6)
  | .mmaC f => some (.m, f.toWord 7)
  | .azero f => some (.m, f.toWord 8)
  | .acvt f => some (.m, f.toWord 9)
  | .aadd f => some (.m, f.toWord 10)
  | .acfg f => some (.m, f.toWord 11)
  | .await f => some (.m, f.toWord 12)
  | .awaitAll f => some (.m, f.toWord 12)
  | .mpcset f => some (.m, f.toWord 13)
  | .mstat f => some (.m, f.toWord 14)
  | .aclr f => some (.m, f.toWord 15)
  | .aload f => some (.m, f.toWord 16)
  | .ld f => some (.l, f.toWord 1)
  | .st f => some (.l, f.toWord 2)
  | .ldv f => some (.l, f.toWord 3)
  | .stv f => some (.l, f.toWord 4)
  | .ldvs f => some (.l, f.toWord 5)
  | .stvs f => some (.l, f.toWord 6)
  | .ldvg f => some (.l, f.toWord 7)
  | .stvg f => some (.l, f.toWord 8)
  | .ldf f => some (.l, f.toWord 9)
  | .ldfe f => some (.l, f.toWord 10)
  | .ste f => some (.l, f.toWord 11)
  | .stf f => some (.l, f.toWord 12)
  | .tagset f => some (.l, f.toWord 13)
  | .tagclr f => some (.l, f.toWord 14)
  | .tld f => some (.l, f.toWord 16)
  | .tst f => some (.l, f.toWord 17)
  | .cpy f => some (.l, f.toWord 18)
  | .rgather f => some (.l, f.toWord 19)
  | .rscatter f => some (.l, f.toWord 20)
  | .amo f => some (.l, f.toWord 24)
  | .red f => some (.l, f.toWord 25)
  | .verld f => some (.l, f.toWord 32)
  | .verle f => some (.l, f.toWord 33)
  | .verst f => some (.l, f.toWord 34)
  | .verfl f => some (.l, f.toWord 35)
  | .vernew f => some (.l, f.toWord 36)
  | .stopk f => some (.l, f.toWord 40)
  | .cbcfg f => some (.l, f.toWord 48)
  | .cbwait f => some (.l, f.toWord 49)
  | .cbpop f => some (.l, f.toWord 50)
  | .cbresv f => some (.l, f.toWord 51)
  | .cbpush f => some (.l, f.toWord 52)
  | .coll f => some (.l, f.toWord 56)
  | .pf f => some (.l, f.toWord 57)
  | .br f => some (.b, f.toWord 1)
  | .bt f => some (.b, f.toWord 2)
  | .call f => some (.b, f.toWord 3)
  | .ret f => some (.b, f.toWord 4)
  | .jr f => some (.b, f.toWord 5)
  | .loop f => some (.b, f.toWord 6)
  | .loopw f => some (.b, f.toWord 7)
  | .brk f => some (.b, f.toWord 8)
  | .trap f => some (.b, f.toWord 9)
  | .yield f => some (.b, f.toWord 10)
  | .exit f => some (.b, f.toWord 11)
  | .spawn f => some (.b, f.toWord 12)
  | .nextr f => some (.b, f.toWord 13)
  | .waitsb f => some (.b, f.toWord 16)
  | .fence f => some (.b, f.toWord 17)
  | .fenceS f => some (.b, f.toWord 18)
  | .bar f => some (.b, f.toWord 19)
  | .barArv f => some (.b, f.toWord 19)
  | .barwait f => some (.b, f.toWord 20)
  | .tagwaitany f => some (.b, f.toWord 21)
  | .tagwaitall f => some (.b, f.toWord 22)
  | .tagffr f => some (.b, f.toWord 23)
  | .tlwait f => some (.b, f.toWord 24)
  | .tlwaitBind f => some (.b, f.toWord 24)
  | .tlwaitRead f => some (.b, f.toWord 24)
  | .handreq f => some (.b, f.toWord 25)
  | .handrel f => some (.b, f.toWord 26)
  | .blend f => some (.b, f.toWord 27)
  | .bret f => some (.b, f.toWord 28)
  | .cstep f => some (.b, f.toWord 32)
  | .cset f => some (.b, f.toWord 33)
  | .cpin f => some (.b, f.toWord 34)
  | .cread f => some (.b, f.toWord 35)
  | .dstat f => some (.b, f.toWord 36)
  | .dhint f => some (.b, f.toWord 37)
  | .mtsy f => some (.b, f.toWord 48)
  | .mfsy f => some (.b, f.toWord 49)
  | .eret f => some (.b, f.toWord 50)
  | .eretEnd f => some (.b, f.toWord 50)
  | .tlbinv f => some (.b, f.toWord 51)
  | .ctxsave f => some (.b, f.toWord 52)
  | .ctxrestore f => some (.b, f.toWord 53)
  | .halt f => some (.b, f.toWord 54)
  | _ => none

/-- The fields of a bundle header (04 R100). -/
structure Header where
  rsv : BitVec 4
  kind : BitVec 3
  stop : BitVec 1
  rep : BitVec 6
  stky : BitVec 9
  pres : BitVec 9
  deriving DecidableEq, Repr

/-- Reads a header word. -/
def Header.ofWord (x : BitVec 32) : Header :=
  { rsv := x.extractLsb' 28 4, kind := x.extractLsb' 25 3, stop := x.extractLsb' 24 1, rep := x.extractLsb' 18 6,
    stky := x.extractLsb' 9 9, pres := x.extractLsb' 0 9 }

/-- The word of a header. -/
def Header.toWord (h : Header) : BitVec 32 := h.rsv ++ h.kind ++ h.stop ++ h.rep ++ h.stky ++ h.pres

/-- The slot positions a header marks present, with the byte offset of each in its bundle, and the bundle's length
(04 R101, R102); only a normal bundle has slots. -/
def Header.slots (h : Header) : List (Nat × Nat) × Nat :=
  if h.kind = 0 then
    (upto 9).foldl (fun acc p =>
      if h.pres.getLsbD p then (acc.1 ++ [(p, acc.2)], acc.2 + slotBytes p) else acc) ([], 4)
  else ([], 4)

/-- A sidecar instruction word of 32 bits with major opcode custom-0 or custom-1 (08 R285): funct7 zero, and the
fields the instruction does not use zero. -/
def decX (x : BitVec 32) : Option Instr :=
  let maj := (x.extractLsb' 0 7).toNat
  let f3 := (x.extractLsb' 12 3).toNat
  let rd := x.extractLsb' 7 5
  let rs1 := x.extractLsb' 15 5
  let rs2 := x.extractLsb' 20 5
  if x.extractLsb' 25 7 ≠ 0 then none
  else if maj = 0x0B then
    match f3 with
    | 0 => if rs2 = 0 then some (.xSpld rd rs1) else none
    | 1 => if rd = 0 then some (.xSpst rs2 rs1) else none
    | 2 => if rs2 = 0 then some (.xSpldfe rd rs1) else none
    | 3 => if rd = 0 then some (.xSpste rs2 rs1) else none
    | 4 => if rs2 = 0 then some (.xGld rd rs1) else none
    | 5 => if rd = 0 then some (.xGst rs2 rs1) else none
    | 6 => if rd = 0 ∧ rs2 = 0 then some (.xTagwait rs1) else none
    | _ => if rs2 = 0 then some (.xRdd rd rs1) else none
  else if maj = 0x2B then
    match f3 with
    | 0 => if rd = 0 ∧ rs2 = 0 then some (.xCopy rs1) else none
    | 1 => if rd = 0 then some (.xCbcfg rs2 rs1) else none
    | 2 => if rd = 0 then some (.xCbwait rs2 rs1) else none
    | 3 => if rd = 0 then some (.xCbresv rs2 rs1) else none
    | 4 => if rd = 0 then some (.xCbpop rs2 rs1) else none
    | 5 => if rd = 0 then some (.xCbpush rs2 rs1) else none
    | _ => none
  else none

/-- The word of a sidecar instruction of 08 R285. -/
def encX : Instr → Option (BitVec 32)
  | .xSpld rd rs1 => some ((0 : BitVec 12) ++ rs1 ++ (0 : BitVec 3) ++ rd ++ (0x0B : BitVec 7))
  | .xSpst rs2 rs1 => some ((0 : BitVec 7) ++ rs2 ++ rs1 ++ (1 : BitVec 3) ++ (0 : BitVec 5) ++ (0x0B : BitVec 7))
  | .xSpldfe rd rs1 => some ((0 : BitVec 12) ++ rs1 ++ (2 : BitVec 3) ++ rd ++ (0x0B : BitVec 7))
  | .xSpste rs2 rs1 => some ((0 : BitVec 7) ++ rs2 ++ rs1 ++ (3 : BitVec 3) ++ (0 : BitVec 5) ++ (0x0B : BitVec 7))
  | .xGld rd rs1 => some ((0 : BitVec 12) ++ rs1 ++ (4 : BitVec 3) ++ rd ++ (0x0B : BitVec 7))
  | .xGst rs2 rs1 => some ((0 : BitVec 7) ++ rs2 ++ rs1 ++ (5 : BitVec 3) ++ (0 : BitVec 5) ++ (0x0B : BitVec 7))
  | .xTagwait rs1 => some ((0 : BitVec 12) ++ rs1 ++ (6 : BitVec 3) ++ (0 : BitVec 5) ++ (0x0B : BitVec 7))
  | .xRdd rd rs1 => some ((0 : BitVec 12) ++ rs1 ++ (7 : BitVec 3) ++ rd ++ (0x0B : BitVec 7))
  | .xCopy rs1 => some ((0 : BitVec 12) ++ rs1 ++ (0 : BitVec 3) ++ (0 : BitVec 5) ++ (0x2B : BitVec 7))
  | .xCbcfg rs2 rs1 => some ((0 : BitVec 7) ++ rs2 ++ rs1 ++ (1 : BitVec 3) ++ (0 : BitVec 5) ++ (0x2B : BitVec 7))
  | .xCbwait rs2 rs1 => some ((0 : BitVec 7) ++ rs2 ++ rs1 ++ (2 : BitVec 3) ++ (0 : BitVec 5) ++ (0x2B : BitVec 7))
  | .xCbresv rs2 rs1 => some ((0 : BitVec 7) ++ rs2 ++ rs1 ++ (3 : BitVec 3) ++ (0 : BitVec 5) ++ (0x2B : BitVec 7))
  | .xCbpop rs2 rs1 => some ((0 : BitVec 7) ++ rs2 ++ rs1 ++ (4 : BitVec 3) ++ (0 : BitVec 5) ++ (0x2B : BitVec 7))
  | .xCbpush rs2 rs1 => some ((0 : BitVec 7) ++ rs2 ++ rs1 ++ (5 : BitVec 3) ++ (0 : BitVec 5) ++ (0x2B : BitVec 7))
  | _ => none

/-- The low register of a compressed instruction: x8 to x15. -/
def cReg (x : BitVec 16) (lo : Nat) : BitVec 5 := (1 : BitVec 2) ++ x.extractLsb' lo 3

/-- An immediate gathered from the listed bits of a word, least significant first. -/
def bitsOf {n : Nat} (x : BitVec n) (l : List Nat) : Nat :=
  match l with
  | [] => 0
  | i :: is => (if x.getLsbD i then 1 else 0) + 2 * bitsOf x is

/-- Sign-extends a gathered value of `k` bits into `w` bits. -/
def sxOf (w k v : Nat) : BitVec w := (BitVec.ofNat k v).signExtend w

/-- The register operation a funct3 of OP and OP-32 names; `alt` is funct7 bit 5. -/
def rvOp (f3 : Nat) (alt : Bool) : RvAlu :=
  match f3 with
  | 0 => if alt then .sub else .add
  | 1 => .sll | 2 => .slt | 3 => .sltu | 4 => .xor
  | 5 => if alt then .sra else .srl
  | 6 => .or | _ => .and

/-- The M extension's operation of a funct3. -/
def rvMul (f3 : Nat) : RvAlu :=
  match f3 with
  | 0 => .mul | 1 => .mulh | 2 => .mulhsu | 3 => .mulhu | 4 => .div | 5 => .divu | 6 => .rem | _ => .remu

/-- An ordinary 32-bit RISC-V instruction (01 R30: RV64IM with Zicsr and Zifencei; log entry 9). -/
def rvDec (x : BitVec 32) : RvInstr :=
  let f3 := (x.extractLsb' 12 3).toNat
  let f7 := (x.extractLsb' 25 7).toNat
  let rd := x.extractLsb' 7 5
  let rs1 := x.extractLsb' 15 5
  let rs2 := x.extractLsb' 20 5
  let iimm := x.extractLsb' 20 12
  let bad := RvInstr.illegal x
  match (x.extractLsb' 0 7).toNat with
  | 0x37 => .lui rd (x.extractLsb' 12 20)
  | 0x17 => .auipc rd (x.extractLsb' 12 20)
  | 0x6F => .jal rd (x.extractLsb' 31 1 ++ x.extractLsb' 12 8 ++ x.extractLsb' 20 1 ++ x.extractLsb' 21 10)
  | 0x67 => if f3 = 0 then .jalr rd rs1 iimm else bad
  | 0x63 =>
    let off := x.extractLsb' 31 1 ++ x.extractLsb' 7 1 ++ x.extractLsb' 25 6 ++ x.extractLsb' 8 4
    match f3 with
    | 0 => .branch .beq rs1 rs2 off | 1 => .branch .bne rs1 rs2 off
    | 4 => .branch .blt rs1 rs2 off | 5 => .branch .bge rs1 rs2 off
    | 6 => .branch .bltu rs1 rs2 off | 7 => .branch .bgeu rs1 rs2 off
    | _ => bad
  | 0x03 => if f3 = 7 then bad else .load (x.extractLsb' 12 2) (x.getLsbD 14) rd rs1 iimm
  | 0x23 => if f3 ≤ 3 then .store (x.extractLsb' 12 2) rs1 rs2 (x.extractLsb' 25 7 ++ rd) else bad
  | 0x13 =>
    if f3 = 1 then (if f7 / 2 = 0 then .aluImm .sll false rd rs1 (iimm &&& 0x3F) else bad)
    else if f3 = 5 then
      (if f7 / 2 = 0 then .aluImm .srl false rd rs1 (iimm &&& 0x3F)
       else if f7 / 2 = 16 then .aluImm .sra false rd rs1 (iimm &&& 0x3F) else bad)
    else .aluImm (rvOp f3 false) false rd rs1 iimm
  | 0x1B =>
    if f3 = 0 then .aluImm .add true rd rs1 iimm
    else if f3 = 1 ∧ f7 = 0 then .aluImm .sll true rd rs1 (iimm &&& 0x1F)
    else if f3 = 5 ∧ f7 = 0 then .aluImm .srl true rd rs1 (iimm &&& 0x1F)
    else if f3 = 5 ∧ f7 = 32 then .aluImm .sra true rd rs1 (iimm &&& 0x1F)
    else bad
  | 0x33 =>
    if f7 = 1 then .alu (rvMul f3) false rd rs1 rs2
    else if f7 = 0 ∨ (f7 = 32 ∧ (f3 = 0 ∨ f3 = 5)) then .alu (rvOp f3 (f7 = 32)) false rd rs1 rs2
    else bad
  | 0x3B =>
    if f7 = 1 ∧ (f3 = 0 ∨ 4 ≤ f3) then .alu (rvMul f3) true rd rs1 rs2
    else if (f7 = 0 ∧ (f3 = 0 ∨ f3 = 1 ∨ f3 = 5)) ∨ (f7 = 32 ∧ (f3 = 0 ∨ f3 = 5)) then
      .alu (rvOp f3 (f7 = 32)) true rd rs1 rs2
    else bad
  | 0x0F => if f3 = 0 then .fence else if f3 = 1 then .fenceI else bad
  | 0x73 =>
    if f3 = 0 then
      (if rd = 0 ∧ rs1 = 0 then
        (if iimm = 0 then .ecall else if iimm = 1 then .ebreak else if iimm = 0x105 then .wfi
         else if iimm = 0x302 then .mret else bad)
       else bad)
    else if f3 = 4 then bad
    else .csr (if f3 % 4 = 1 then .rw else if f3 % 4 = 2 then .rs else .rc) (decide (4 < f3)) rd rs1 iimm
  | _ => bad

/-- A 16-bit compressed instruction, as the instruction it expands to (log entry 9). -/
def rvcDec (x : BitVec 16) : RvInstr :=
  let f3 := (x.extractLsb' 13 3).toNat
  let bad := RvInstr.illegal (x.zeroExtend 32)
  let rd := x.extractLsb' 7 5
  let rs2 := x.extractLsb' 2 5
  let a := cReg x 7
  let b := cReg x 2
  let imm6 := sxOf 12 6 (bitsOf x [2, 3, 4, 5, 6, 12])
  let sh := BitVec.ofNat 12 (bitsOf x [2, 3, 4, 5, 6, 12])
  match (x.extractLsb' 0 2).toNat, f3 with
  | 0, 0 =>
    let n := bitsOf x [6, 5, 11, 12, 7, 8, 9, 10] * 4
    if n = 0 then bad else .aluImm .add false b 2 (BitVec.ofNat 12 n)
  | 0, 2 => .load 2 false b a (BitVec.ofNat 12 (bitsOf x [6, 10, 11, 12, 5] * 4))
  | 0, 3 => .load 3 false b a (BitVec.ofNat 12 (bitsOf x [10, 11, 12, 5, 6] * 8))
  | 0, 6 => .store 2 a b (BitVec.ofNat 12 (bitsOf x [6, 10, 11, 12, 5] * 4))
  | 0, 7 => .store 3 a b (BitVec.ofNat 12 (bitsOf x [10, 11, 12, 5, 6] * 8))
  | 1, 0 => .aluImm .add false rd rd imm6
  | 1, 1 => if rd = 0 then bad else .aluImm .add true rd rd imm6
  | 1, 2 => .aluImm .add false rd 0 imm6
  | 1, 3 =>
    if rd = 2 then
      let v := bitsOf x [6, 2, 5, 3, 4, 12]
      if v = 0 then bad else .aluImm .add false 2 2 (sxOf 12 10 (v * 16))
    else if sh = 0 then bad else .lui rd (sxOf 20 6 (bitsOf x [2, 3, 4, 5, 6, 12]))
  | 1, 4 =>
    match (x.extractLsb' 10 2).toNat with
    | 0 => .aluImm .srl false a a sh
    | 1 => .aluImm .sra false a a sh
    | 2 => .aluImm .and false a a imm6
    | _ =>
      match (x.extractLsb' 12 1).toNat, (x.extractLsb' 5 2).toNat with
      | 0, 0 => .alu .sub false a a b
      | 0, 1 => .alu .xor false a a b
      | 0, 2 => .alu .or false a a b
      | 0, _ => .alu .and false a a b
      | _, 0 => .alu .sub true a a b
      | _, 1 => .alu .add true a a b
      | _, _ => bad
  | 1, 5 => .jal 0 (sxOf 20 11 (bitsOf x [3, 4, 5, 11, 2, 7, 6, 9, 10, 8, 12]))
  | 1, 6 => .branch .beq a 0 (sxOf 12 8 (bitsOf x [3, 4, 10, 11, 2, 5, 6, 12]))
  | 1, 7 => .branch .bne a 0 (sxOf 12 8 (bitsOf x [3, 4, 10, 11, 2, 5, 6, 12]))
  | 2, 0 => .aluImm .sll false rd rd sh
  | 2, 2 => if rd = 0 then bad else .load 2 false rd 2 (BitVec.ofNat 12 (bitsOf x [4, 5, 6, 12, 2, 3] * 4))
  | 2, 3 => if rd = 0 then bad else .load 3 false rd 2 (BitVec.ofNat 12 (bitsOf x [5, 6, 12, 2, 3, 4] * 8))
  | 2, 4 =>
    if x.getLsbD 12 then
      (if rs2 = 0 then (if rd = 0 then .ebreak else .jalr 1 rd 0) else .alu .add false rd rd rs2)
    else (if rs2 = 0 then (if rd = 0 then bad else .jalr 0 rd 0) else .alu .add false rd 0 rs2)
  | 2, 6 => .store 2 2 rs2 (BitVec.ofNat 12 (bitsOf x [9, 10, 11, 12, 7, 8] * 4))
  | 2, 7 => .store 3 2 rs2 (BitVec.ofNat 12 (bitsOf x [10, 11, 12, 7, 8, 9] * 8))
  | _, _ => bad


/-- The instruction at the start of a sidecar's bytes: a word of 08 R285, or an ordinary RISC-V instruction. -/
def decSide (x : BitVec 32) : Instr :=
  match decX x with
  | some i => i
  | none => if x.extractLsb' 0 2 = 3 then .sidecarRiscvInstruction (rvDec x) false
    else .sidecarRiscvInstruction (rvcDec (x.extractLsb' 0 16)) true

/-- The instruction the decoder reads from a word whose bits are numbered as the table of operations numbers them:
up to 32 bits a sidecar word, and otherwise a bundle of one slot, its header in bits [31:0]. -/
def decodeTableWord (nbits w : Nat) : Option Instr :=
  if nbits ≤ 32 then some (decSide (BitVec.ofNat 32 w))
  else
    match (Header.ofWord (BitVec.ofNat 32 w)).slots with
    | ([(p, _)], _) =>
      let x := BitVec.ofNat 64 (w / 2 ^ 32)
      (decSlot (kindOf p) (if p < 2 then x.setWidth 32 |>.setWidth 64 else x)).get?
    | _ => none

end Sys2Proof
end

