-- ==== Sys2Proof/Machine/Ops.lean ====
section
/-!
DEFINITION. Taking a trap and returning from one (15 R379 to R386): shadow latches, entry, nested traps, packets held
at the fault queue, the replay state, and the return to user mode.
-/

namespace Sys2Proof.Machine

/-! ### Shadow latches (15 R382, R390) -/

/-- Names a register, so that its result interlocks? -/
def Dest.isReg : Dest → Bool
  | .none => false
  | .ring _ => false
  | _ => true

/-- Adds a result to the shadow latches.  The elements of one strided or gathered load share one latch of the whole
register (15 R449). -/
def Ctx.addShadow (c : Ctx) (d : Dest) (v off : Nat) : Ctx :=
  match d with
  | .v n lo w =>
    let isV (x : Shadow) : Bool := match x.dest with | .v m _ _ => m == n | _ => false
    match c.sys.shadow.find? isV with
    | some x =>
      let base := match x.dest with | .v _ _ w0 => setf (c.r.rv n) 0 w0 x.value.toNat | _ => x.value
      let y : Shadow := { dest := .v n 0 1024, value := setf base lo w v, offset := x.offset }
      { c with sys := { c.sys with shadow := c.sys.shadow.filter (fun z => !isV z) ++ [y] } }
    | none =>
      let y : Shadow := if lo = 0 then { dest := .v n 0 w, value := BitVec.ofNat 1024 (v % 2 ^ w), offset := off }
        else { dest := .v n 0 1024, value := setf (c.r.rv n) lo w v, offset := off }
      { c with sys := { c.sys with shadow := c.sys.shadow ++ [y] } }
  | _ =>
    let y : Shadow := { dest := d, value := BitVec.ofNat 1024 v, offset := off }
    { c with sys := { c.sys with shadow := c.sys.shadow ++ [y] } }

/-- Performs an access and holds its result in a shadow latch; the offset at which it would have arrived is a free
value (log entry 2). -/
def State.performShadow (s : State) (k : Nat) (a : Access) : State :=
  let (s1, v, bad) := s.effect k a
  let (off, s2) := s1.takeFree 32
  let s3 := s2.onCtx k (fun c => { c with
    mem := c.mem.retire a
    sys := match bad with
      | some o => { c.sys with asyncs := c.sys.asyncs ++ [memTrap a o] }
      | none => c.sys })
  match v with
  | some x => s3.onCtx k (fun c => c.addShadow a.dest x off.toNat)
  | none => s3

/-- Every result in flight toward a register name goes to a shadow latch, after the accesses that must perform before
it (15 R382 step 2, R390); where 48 latches are full, which only a handler can meet, its result is delivered. -/
def State.drainToShadow (s : State) (k : Nat) : State :=
  let room (s : State) : Bool := !(s.ctxAt k).r.sup || decide ((s.ctxAt k).sys.shadow.length < 48)
  let s1 := (neededBy (s.ctxAt k).mem.pend (fun a => a.dest.isReg)).foldl
    (fun s a => if a.dest.isReg && room s then s.performShadow k a else s.perform k a) s
  let waits := (s1.ctxAt k).mem.stepWait
  let s2 := waits.foldl (fun s w =>
    let (off, s') := s.takeFree 32
    s'.onCtx k (fun c => if room s' then c.addShadow w.1 w.2.toNat off.toNat else c.put w.1 w.2.toNat)) s1
  s2.onCtx k (fun c => { c with mem := { c.mem with stepWait := [] } })

/-- Delivers the shadow latches that a condition names. -/
def Ctx.unshadow (c : Ctx) (want : Shadow → Bool) : Ctx :=
  let c1 := { c with sys := { c.sys with shadow := c.sys.shadow.filter (fun x => !want x) } }
  (c.sys.shadow.filter want).foldl (fun c x => c.put x.dest x.value.toNat) c1

/-! ### Entry -/

/-- The SCAUSE word of a trap (15 R378). -/
def Trap.scause (t : Trap) : W64 :=
  w64 (t.code + 0x10000 * t.pos + 0x400000 * t.bund + (if t.cls = .async then 0x800000 else 0))

/-- The registers a trap entry writes (15 R382 steps 3 and 4): SEPC, SCAUSE, SDETAIL, SEXTRA, SREPL, the mode and the
pc; the interrupted repetition is kept for the return (04 R110). -/
def Ctx.enterTrap (c : Ctx) (p : PendTrap) : Ctx :=
  { c with
    r := { c.r with sup := true, pc := c.sys.stvec }
    sys := { c.sys with
      sepc := p.sepc, scause := p.trap.scause, sdetail := p.trap.detail
      x0 := p.trap.x0, x1 := p.trap.x1, x2 := p.trap.x2
      srepl := p.srepl, replay := p.replay, sstep := false, ticks := 0, shRun := false, trapPend := none
      rlost := if p.trap.code = 0x2B then false else c.sys.rlost
      rlostAddr := if p.trap.code = 0x2B then 0 else c.sys.rlostAddr }
    sq := { c.sq with
      urep := c.sq.rep, upc := p.sepc, rep := 1, blocked := 0, wait := none, replay := [], idle := 0
      held := none, yielded := false, exiting := false, perf := 0, handAsk := none, handGot := [], late := [], verAsks := [] }
    mem := { c.mem with inv := none } }

/-- Offsets of the shadow latches count from now on (15 R382, R390). -/
def Ctx.rebase (c : Ctx) : Ctx :=
  { c with sys := { c.sys with ticks := 0, shadow := c.sys.shadow.map (fun x => { x with offset := x.offset - c.sys.ticks }) } }

/-- The entry itself: the results in flight drain to shadow latches, then the registers are written (15 R382). -/
def State.enterTrap (s : State) (k : Nat) (p : PendTrap) : State :=
  ((s.onCtx k Ctx.rebase).drainToShadow k).onCtx k (fun c => c.enterTrap p)

/-- The cause with which a trap in a guess ends it (11 R344). -/
def guessCause (code : Nat) : Nat :=
  if code = 0x20 ∨ code = 0x21 then 2 else if code = 0x2A ∨ code = 0x31 then 14 else 1

/-- Takes a trap in context `k` (15 R379 to R384): a guess ends; in supervisor mode a trap of class I, S or P is nested
and ends the task; otherwise the trap is entered, once every M-slot operation issued has completed. -/
def State.takeTrap (s : State) (k : Nat) (p : PendTrap) : State :=
  let c := s.ctxAt k
  if (s.guessOf c).isSome then s.abandon k (guessCause p.trap.code)
  else if c.r.sup && !decide (p.trap.cls = .async) then
    s.endTask k 0x3F p.trap.pos p.sepc (w64 (p.trap.code % 256 + 256 * bf c.sys.scause 0 8))
  else if c.mx.ops.isEmpty then s.enterTrap k p
  else s.onCtx k (fun c => { c with sys := { c.sys with trapPend := some p } })

/-- SREPL of a class-S trap: VALID, the repetition less one, and the performed bits (15 R378, R379). -/
def sreplOf (rep : Nat) (perf : List Nat) : W64 :=
  w64 (0x10000 + 512 * ((rep - 1) % 64) + ((upto 9).filter (fun p => perf.contains p)).foldl (fun a p => a + 2 ^ p) 0)

/-! ### Translation faults held at the fault queue (17 R423) -/

/-- Holds a packet whose translation is absent, until system software answers (15 R381, 17 R423). -/
def State.hold (s : State) (k : Nat) (p : PendTrap) : State :=
  let c := s.ctxAt k
  let h : Held := { trap := p.trap, part := c.part, die := dieOf (k / 4), asid := c.asid, va := p.trap.detail,
                    level := p.trap.level, access := p.trap.fq, replay := p.replay, srepl := p.srepl, agent := p.trap.agent }
  s.putCtx k { c with sq := { c.sq with held := some h } }

/-- A trap found before a slot performs.  A fetch that is absent is held first (17 R423), and a copy fault is raised once
(08 R259). -/
def State.trapAt (s : State) (k : Nat) (p : PendTrap) : State :=
  if p.trap.code = 0x20 && (s.guessOf (s.ctxAt k)).isNone then s.hold k p
  else
    let s1 := if p.trap.code = 0x2A then
        s.onCtx k (fun c => { c with mem := { c.mem with cfails := c.mem.cfails.filter (fun x => x.id ≠ p.trap.num) } })
      else s
    s1.takeTrap k p

/-- A class-I trap at a packet: no slot performed, SEPC is the packet and SREPL.VALID is 0 (15 R379). -/
def State.trapIssue (s : State) (k : Nat) (pc : W64) (t : Trap) : State :=
  s.trapAt k { trap := t, sepc := pc, srepl := 0, replay := [] }

/-- SREPL of a packet that still owes a replay, and 0 of one that owes none: slots of it have performed, and none may
perform again (09 R304; log entry 17). -/
def Ctx.owed (c : Ctx) : W64 :=
  if c.sq.replay.isEmpty then 0 else sreplOf c.sq.rep ((upto 9).filter (fun p => c.sq.perf.testBit p))

/-- A class-I trap at the packet that a context is to issue or to replay (15 R379, 09 R304). -/
def State.trapDue (s : State) (k : Nat) (pc : W64) (t : Trap) : State :=
  s.trapAt k { trap := t, sepc := pc, srepl := (s.ctxAt k).owed, replay := (s.ctxAt k).sq.replay }

/-! ### Return (15 R386) -/

/-- Returns to user mode at SEPC.  With SREPL.VALID the repetition REPN + 1 is replayed from the buffer; otherwise the
packet issues afresh at the repetition that was due when the trap was taken (04 R110). -/
def Ctx.returnUser (c : Ctx) : Ctx :=
  let valid := bit c.sys.srepl 16
  { c with
    r := { c.r with sup := false, pc := c.sys.sepc }
    sys := { c.sys with replay := [], ticks := 0, shRun := false }
    sq := { c.sq with
      rep := if valid then bf c.sys.srepl 9 6 + 1 else if c.sys.sepc = c.sq.upc then c.sq.urep else 1
      replay := if valid then c.sys.replay else []
      perf := if valid then bf c.sys.srepl 0 9 else 0
      urep := 1, upc := 0, blocked := 0, wait := none } }

end Sys2Proof.Machine
end

