-- ==== Sys2Proof/Machine/Packet.lean ====
section
/-!
DEFINITION. Fetching a packet and issuing its slots (04 R102 to R114, R129; 05 R154, R161; 15 R379, R380): what an
operation is apart from when it issues, which slots are due, and what follows the last of them.
-/

namespace Sys2Proof.Machine

/-! ### Fetch (04 R102, R103) -/

/-- A bundle as fetched. -/
structure Bundle where
  addr : W64
  hdr : Header
  slots : List (Nat × BitVec 64)
  len : Nat
  deriving DecidableEq, Repr

/-- The outcome of a fetch. -/
inductive Fetch (α : Type) where
  | ok (x : α)
  /-- an address that does not translate or may not be executed -/
  | fault (va : W64) (e : XErr)
  | poisoned
  deriving DecidableEq, Repr

/-- Fetches four bytes with the context's permissions; an ECW page gives its decoded bytes (08 R272). -/
def State.fetch4 (s : State) (k : Nat) (va : W64) : State × Fetch (BitVec 32) :=
  let c := s.ctxAt k
  match s.xlateCtx k c.r.sup va.toNat .x with
  | (s1, .err e) => (s1, .fault va e)
  | (s1, .ok p) =>
    if s1.bad p.pa then (s1, .poisoned)
    else if p.ecw then
      let off := p.pa % 4096
      match s1.ecwBytes c (p.pa / 4096 * 4096) p.key off va.toNat 4 with
      | some bs => (s1, .ok (BitVec.ofNat 32 (leNat bs)))
      | none => (s1, .poisoned)
    else (s1, .ok (BitVec.ofNat 32 (leNat (s1.phys p.pa p.key 4))))

/-- Fetches the slots of a bundle, each at its offset. -/
def State.fetchSlots (s : State) (k : Nat) (base : W64) : List (Nat × Nat) → State × Fetch (List (Nat × BitVec 64))
  | [] => (s, .ok [])
  | (p, off) :: t =>
    match s.fetch4 k (base + w64 off) with
    | (s1, .fault va e) => (s1, .fault va e)
    | (s1, .poisoned) => (s1, .poisoned)
    | (s1, .ok lo) =>
      let (s2, hi) := if p < 2 then (s1, Fetch.ok (0 : BitVec 32)) else s1.fetch4 k (base + w64 (off + 4))
      match hi with
      | .fault va e => (s2, .fault va e)
      | .poisoned => (s2, .poisoned)
      | .ok hi =>
        match s2.fetchSlots k base t with
        | (s3, .ok l) => (s3, .ok ((p, hi ++ lo) :: l))
        | (s3, .fault va e) => (s3, .fault va e)
        | (s3, .poisoned) => (s3, .poisoned)

/-- Fetches the bundle at an address. -/
def State.fetchBundle (s : State) (k : Nat) (a : W64) : State × Fetch Bundle :=
  match s.fetch4 k a with
  | (s1, .fault va e) => (s1, .fault va e)
  | (s1, .poisoned) => (s1, .poisoned)
  | (s1, .ok h) =>
    let hdr := Header.ofWord h
    match s1.fetchSlots k a hdr.slots.1 with
    | (s2, .fault va e) => (s2, .fault va e)
    | (s2, .poisoned) => (s2, .poisoned)
    | (s2, .ok l) => (s2, .ok { addr := a, hdr := hdr, slots := l, len := hdr.slots.2 })

/-- Forms the packet at an address: a normal bundle with STOP = 0 is joined by the next (04 R103). -/
def State.fetchPacket (s : State) (k : Nat) (a : W64) : State × Fetch (List Bundle) :=
  match s.fetchBundle k a with
  | (s1, .fault va e) => (s1, .fault va e)
  | (s1, .poisoned) => (s1, .poisoned)
  | (s1, .ok b) =>
    if b.hdr.stop = 1 ∨ b.hdr.kind ≠ 0 then (s1, .ok [b])
    else
      match s1.fetchBundle k (a + w64 b.len) with
      | (s2, .ok b2) => (s2, .ok [b, b2])
      | (s2, .fault va e) => (s2, .fault va e)
      | (s2, .poisoned) => (s2, .poisoned)

/-- The trap of a fetch that does not translate or is denied: class I, code 0x20 or 0x21, SEXTRA0 = 2; an error met by
the walk is a memory-error fault of class S (09 R305, 15 R381). -/
def fetchTrap (va : W64) (e : XErr) : Trap :=
  match e with
  | .absent l => { cls := .issue, code := 0x20, detail := va, x0 := 2, level := l, fq := 2 }
  | .walkError pa => { cls := .slot, code := 0x22, detail := w64 pa }
  | _ => { cls := .issue, code := 0x21, detail := va, x0 := 2 }

/-! ### The checks of 04 R129 -/

/-- The reason a header is illegal: `i` is the bundle's place and `two` says whether the packet has two. -/
def headerReason (two : Bool) (i : Nat) (h : Header) : Option Nat :=
  leastReason (viol (h.rsv != 0) 1 ++ viol (decide (2 ≤ h.kind.toNat)) 2 ++
    viol (h.kind == 1 && (h.stop == 0 || i == 1)) 3 ++
    (if h.kind == 0 then
      viol (i == 1 && h.stop == 0) 4 ++ viol (two && i == 0 && (h.rep != 0 || h.stky != 0)) 5 ++
      viol (bit h.stky 8) 6 else []))

/-- The decoded slots of a bundle. -/
def Bundle.ops (b : Bundle) : List (Nat × Dec) := b.slots.map (fun e => (e.1, decSlot (kindOf e.1) e.2))

/-- The `bt` of a packet, if it has one. -/
def btOf (l : List Bundle) : Option BT :=
  (l.flatMap Bundle.ops).findSome? (fun e => match e.2.get? with | some (.bt f) => some f | _ => none)

/-- The reason a slot of a packet is illegal. -/
def slotReason (bt : Option BT) (rep : Bool) (len : Nat) (dup : Bool) (d : Dec) : Option Nat :=
  if dup then some 7
  else match d.get? with
    | none => some 8
    | some i => slotIllegal bt rep len i

/-- The reason a sticky position without a slot is illegal: its latch is empty, or the guard of the operation it holds is
reserved in this packet (04 R107, R109, R113). -/
def latchReason (bt : Option BT) : Option Instr → Option Nat
  | none => some 13
  | some i => if guardViol bt (guardOf i) then some 11 else none

/-- The first illegal header or slot of a packet: position, bundle and reason (04 R129). -/
def packetIllegal (latched : Nat → Option Instr) (l : List Bundle) : Option (Nat × Nat × Nat) :=
  let bt := btOf l
  let len := (l.map (fun b => b.len)).foldl (· + ·) 0
  let last := (l.getLast?.map (fun b => b.hdr)).getD (Header.ofWord 0)
  let rep := last.kind == 0 && last.rep != 0
  let first := (l.head?.map (fun b => b.slots.map (fun e => e.1))).getD []
  let present := l.flatMap (fun b => b.slots.map (fun e => e.1))
  (l.zipIdx).findSome? (fun (b, i) =>
    match headerReason (l.length == 2) i b.hdr with
    | some r => some (15, i, r)
    | none =>
      (upto 9).findSome? (fun p =>
        match b.ops.find? (fun e => e.1 == p) with
        | some (_, d) => (slotReason bt rep len (i == 1 && first.contains p) d).map (fun r => (p, i, r))
        | none =>
          if b.hdr.kind == 0 && i + 1 == l.length && bit last.stky p && !present.contains p
          then (latchReason bt (latched p)).map (fun r => (p, i, r)) else none))

/-- The illegal-bundle trap (04 R129). -/
def illegalTrap (pos bund reason : Nat) : Trap :=
  { cls := .issue, code := 0x01, detail := w64 (pos + 16 * bund + 256 * reason), pos := pos, bund := bund }

/-! ### Slots -/

/-- Why a packet blocks (02 R50): the cause and DETAIL that its wait limit names, and whether the wait counts toward
that limit (02 R51). -/
structure Wait where
  cause : Nat := 0x1A
  detail : W64 := 0
  counts : Bool := true
  pos : Nat := 15
  deriving DecidableEq, Repr

/-- What an operation finds when it issues: its context and share as they stood before the packet, with the operands
of a replay restored, its latch, its position, and the buffered operation of a replay. -/
structure Env where
  k : Nat
  pos : Nat
  c : Ctx
  share : Resv
  o : Latch
  rp : Option Replay := none

/-- An operation apart from when it issues: its class-I checks, its waits, and its act, which answers a class-S fault
when it meets one (15 R380). -/
structure SlotSem where
  check : State → Env → Option Trap := fun _ _ => none
  wait : Env → State → State × Option Wait := fun _ s => (s, none)
  /-- the core stalls before the operation (04 R105) -/
  stall : Env → State → Bool := fun _ _ => false
  act : Env → State → State × Option Trap

/-- Where a due slot comes from (04 R106, 15 R383). -/
inductive DueSrc where
  | fresh | sticky | replay (r : Replay)
  deriving DecidableEq, Repr

/-- A slot that is due. -/
structure Due where
  pos : Nat
  instr : Instr
  sem : SlotSem
  src : DueSrc := .fresh

/-- The latches of the current mode (04 R107). -/
def Ctx.latch (c : Ctx) (p : Nat) : Option Latch := mfind (if c.r.sup then c.sq.latS else c.sq.latU) p

/-- Loads a latch of the current mode. -/
def Ctx.setLatch (c : Ctx) (p : Nat) (l : Latch) : Ctx :=
  if c.r.sup then { c with sq := { c.sq with latS := mput c.sq.latS p l } }
  else { c with sq := { c.sq with latU := mput c.sq.latU p l } }

/-- M-slot operations that use no accumulator tile in ACC (07). -/
def noAcc : Instr → Bool
  | .mld _ | .mldw _ | .mswap _ | .mpcset _ | .mstat _ | .awaitAll _ => true
  | _ => false

/-- Is the operation `aload`, whose SS names a scratchpad address? -/
def isAload : Instr → Bool
  | .aload _ => true
  | _ => false

/-- Is the operation `vsrseed`, which keeps the value it latched (06 R198)? -/
def isSeed : Instr → Bool
  | .vsrseed _ => true
  | _ => false

/-- The latch a slot loads as encoded, with its address read now (04 R106, 15 R448). -/
def freshLatch (c : Ctx) (i : Instr) : Latch :=
  match formOf i with
  | .vr f => { instr := i, ringD := if f.dc = 1 then bf f.vd 0 7 else 0, ringA := if f.ac = 1 then bf f.va 0 7 else 0,
               ringB := if f.bc = 1 then bf f.vb 0 7 else 0
               addrA := if isSeed i then c.r.rs (bf f.va 0 6) else 0 }
  | .vq f => { instr := i, ringD := if f.dc = 1 then bf f.vd 0 7 else 0, ringA := if f.ac = 1 then bf f.va 0 7 else 0 }
  | .mx f => { instr := i, addrA := if f.scl = 2 then c.r.rs (f.src.toNat % 64) else 0,
               ringD := if f.scl = 1 then bf f.src 0 7 else 0, acc := if noAcc i then 0 else f.acc.toNat }
  | .mc f => { instr := i, addrA := if isAload i then c.r.rs f.ss.toNat else 0,
               acc := if noAcc i then 0 else f.acc.toNat, acb := f.acb.toNat }
  | .lm f => { instr := i, addrA := if noAddress i then 0 else if hasOffset i then c.r.rs f.base.toNat + sx f.imm else c.r.rs f.base.toNat,
               ringD := if f.dcl = 2 then bf f.data 0 7 else 0 }
  | .lc f => { instr := i, addrA := c.r.rs f.sdst.toNat, addrB := c.r.rs f.ssrc.toNat }
  | _ => { instr := i }

/-- Slots a tile takes (07 R227): two for a CF64 tile. -/
def Ctx.slotCount (c : Ctx) (n : Nat) : Nat := if (c.tile n).pair = 1 then 2 else 1

/-- One step of a latch (04 R108). -/
def stepLatch (c : Ctx) (l : Latch) : Latch :=
  match formOf l.instr with
  | .vr f => { l with ringD := l.ringD + f.dc.toNat, ringA := if f.ac = 1 then l.ringA + 1 else l.ringA,
                      ringB := if f.bc = 1 then l.ringB + 1 else l.ringB }
  | .vq f => { l with ringD := l.ringD + f.dc.toNat, ringA := l.ringA + f.ac.toNat }
  | .mx f => { l with addrA := if f.scl = 2 then l.addrA + c.r.rq f.qs.toNat else l.addrA,
                      ringD := if f.scl = 1 then l.ringD + 1 else l.ringD,
                      acc := if noAcc l.instr then 0 else l.acc + c.slotCount l.acc }
  | .mc _ => if noAcc l.instr then l else { l with acc := l.acc + c.slotCount l.acc, acb := l.acb + c.slotCount l.acb }
  | .lm f => { l with addrA := if noAddress l.instr then 0 else l.addrA + c.r.rq f.qs.toNat,
                      ringD := if f.dcl = 2 then l.ringD + 1 else l.ringD }
  | .lc f => { l with addrA := l.addrA + sx ((c.r.rq f.qs.toNat).extractLsb' 0 32),
                      addrB := l.addrB + sx ((c.r.rq f.qs.toNat).extractLsb' 32 32) }
  | _ => l

/-- The leaf a branch tree selects (04 R114). -/
def leafOf (r : Regs) (f : BT) : Nat :=
  let test (t : BitVec 4) : Bool := r.rc (t.toNat % 8) != bit t 3
  let n := f.nt.toNat
  if test f.t0 then 0
  else if 1 ≤ n ∧ test f.t1 then 1
  else if 2 ≤ n ∧ test f.t2 then 2
  else if 3 ≤ n ∧ test f.t3 then 3
  else n + 1

/-- Does a guard let its slot perform (04 R113)? -/
def guardOn (r : Regs) (bt : Option BT) (g : Nat) : Bool :=
  if g = 0 then true
  else match bt with
    | some f => leafOf r f + 1 == g
    | none => if g < 8 then r.rc g else !r.rc (g - 8)

/-- The values of a map stand in for those of another. -/
def mover {β : Type} (m n : SMap β) : SMap β := n.foldl (fun m e => mput m e.1 e.2) m

/-- The operands of a replay stand in for the context's own: registers are not read again (15 R383). -/
def Ctx.withReplay (c : Ctx) (rp : Replay) : Ctx :=
  let ns := scalOps rp.lat.instr
  let c1 := (ns.zip rp.scal).foldl (fun c e => c.onR (fun r => r.ws e.1 e.2)) c
  let c2 := c1.onR (fun r => { r with
    mpc := rp.mpc
    v := match indexReg rp.lat.instr with | some n => mset 0 r.v n rp.idx | none => r.v })
  match rp.reads with
  | some x => c2.onR (fun r => { r with c := x.c, m := x.m, v := mover r.v x.v, hs := x.hs })
  | none => c2

/-- What a due slot finds. -/
def Due.env (k : Nat) (c : Ctx) (v : Resv) (d : Due) : Env :=
  match d.src with
  | .fresh => { k := k, pos := d.pos, c := c, share := v, o := freshLatch c d.instr }
  | .sticky => { k := k, pos := d.pos, c := c, share := v, o := stepLatch c ((c.latch d.pos).getD { instr := d.instr }) }
  | .replay r => { k := k, pos := d.pos, c := c.withReplay r, share := v, o := r.lat, rp := some r }

/-- Is a due slot's guard true?  A replayed operation has had its guard read (15 R383). -/
def Due.on (s : State) (c : Ctx) (d : Due) : Bool :=
  match d.src with
  | .replay _ => true
  | _ => guardOn c.r s.issue.bt (guardOf d.instr)

/-- The bundle of the packet that a position lies in. -/
def State.bundOf (s : State) (p : Nat) : Nat :=
  if s.issue.second.contains p then 1 else 0

/-! ### Rings (08 R250, 06 R176) -/

/-- A ring operand: handle, slot offset, slots, bytes of each, and whether it is a destination. -/
structure RingRef where
  h : Nat
  o : Nat
  r : Nat
  bytes : Nat
  dst : Bool
  deriving DecidableEq, Repr

/-- A handle of a context. -/
def Ctx.handle (c : Ctx) (h : Nat) : Handle := mget {} c.r.hs h

/-- The share offset of slot `s` of a ring. -/
def Handle.at (hd : Handle) (s : Nat) : Nat := hd.base * 64 + s % hd.depth * (hd.slot * 64)

/-- The share offset of the `j`-th slot of a ring operand: from the consumer pointer for a source, from the producer
pointer for a destination (08 R250). -/
def RingRef.off (x : RingRef) (hd : Handle) (j : Nat) : Nat := hd.at ((if x.dst then hd.pp else hd.cp) + x.o + j)

/-- The ring-handle, ring-width and ring-offset faults, in that order (06 R176). -/
def RingRef.check (x : RingRef) (c : Ctx) : Option Trap :=
  let hd := c.handle x.h
  if hd.slot = 0 then some { cls := .issue, code := 0x0D, detail := w64 x.h }
  else if hd.slot * 64 < x.bytes then some { cls := .issue, code := 0x0E, detail := w64 x.h }
  else if hd.depth ≤ x.o + x.r - 1 then some { cls := .issue, code := 0x0F, detail := w64 x.h }
  else none

/-- The tag of a share word as a slot finds it: as the packet's earlier slots leave it (08 R248, R252). -/
def State.tagSeen (s : State) (resv word : Nat) : Bool := (mfind s.issue.tags word).getD ((s.resvAt resv).tag word)

/-- An earlier slot of the packet leaves these tags on words. -/
def State.noteTags (s : State) (full : Bool) (words : List Nat) : State :=
  { s with issue := { s.issue with tags := words.foldl (fun m w => mput m w full) s.issue.tags } }

/-- The slot tags of a ring operand let it proceed: full for a source, empty for a destination (08 R250). -/
def RingRef.ready (x : RingRef) (c : Ctx) (tag : Nat → Bool) : Bool :=
  let hd := c.handle x.h
  (upto x.r).all (fun j => tag (x.off hd j / 8) != x.dst)

/-- The handle and the count of a pointer operation (08 R252). -/
def cbHandle (f : LM) : Nat := bf f.imm 0 4
@[inherit_doc cbHandle]
def cbCount (f : LM) : Nat := bf f.imm 4 8

/-- The handle a descriptor configures (08 R251); SLOT = 0 unconfigures it. -/
def Handle.ofDesc (d : W64) : Handle :=
  if bf d 20 12 = 0 then {} else { base := bf d 6 14, slot := bf d 20 12, depth := bf d 32 7 + 1 }

/-- The handles after a ring operation: a pointer changes at issue, and every later operation in program order counts
from the new one (08 R251, R252). -/
def ringMove (i : Instr) (r : Regs) : SMap Handle :=
  let at_ (f : LM) : Handle := mget {} r.hs (cbHandle f)
  match i with
  | .cbcfg f => mset {} r.hs (cbHandle f) (Handle.ofDesc (r.rs (bf f.data 0 6)))
  | .cbpop f => mset {} r.hs (cbHandle f) { at_ f with cp := ((at_ f).cp + cbCount f) % (at_ f).depth }
  | .cbpush f => mset {} r.hs (cbHandle f) { at_ f with pp := ((at_ f).pp + cbCount f) % (at_ f).depth }
  | _ => r.hs

/-- Registers that a tile row of an element type takes (06 R210). -/
def tileRegs (et : Nat) : Nat := if et = 13 then 4 else if et = 11 ∨ et = 12 then 2 else 1

/-- Registers or slots of the destination and of the first source of a V-slot operation (06 R177, R193 to R196, R200,
R210). -/
def vRegs : Instr → Nat × Nat
  | .vqnt _ => (2, 4)
  | .vdq _ => (4, 2)
  | .vqc4 _ => (2, 8)
  | .vdqc4 _ => (8, 2)
  | .vshuf _ => (1, 2)
  | .arow f => (tileRegs f.et.toNat, 1)
  | .acol f => (tileRegs f.et.toNat, 1)
  | .awrow f => (1, tileRegs f.et.toNat)
  | .awcol f => (1, tileRegs f.et.toNat)
  | _ => (1, 1)

/-- Consecutive register names. -/
def regRun (n r : Nat) : List Nat := (upto r).map (fun j => n + j)

/-- The vector registers a V-slot operation writes. -/
def vDests (i : Instr) : List Nat :=
  match formOf i with
  | .vr f => if f.dc = 0 ∧ !noVd i then regRun f.vd.toNat (vRegs i).1 else []
  | .vq f => if f.dc = 0 then regRun f.vd.toNat (vRegs i).1 else []
  | _ => []

/-- The vector registers a V-slot operation names, in the order of its operands. -/
def vRegNames (i : Instr) : List Nat :=
  let ra := (vRegs i).2
  vDests i ++ match formOf i with
  | .vr f => (if f.ac = 0 ∧ !noVa i then regRun f.va.toNat ra else []) ++ (if f.bc = 0 ∧ !noVb i then [f.vb.toNat] else [])
  | .vq f => if f.ac = 0 then regRun f.va.toNat ra else []
  | _ => []

/-- The buffered form of an operation that did not perform (15 R448): scalar operands in the order of the assembly
form, a vector data operand and an index register. -/
def replayOf (c : Ctx) (o : Latch) (data : VReg) : Replay :=
  { lat := o
    mpc := match o.instr with | .mmas _ => c.r.mpc | _ => 0
    scal := (scalOps o.instr).map c.r.rs
    vec := data
    idx := match indexReg o.instr with | some n => c.r.rv n | none => 0
    reads := some { c := c.r.c, m := c.r.m, hs := c.r.hs
                    v := (vRegNames o.instr).map (fun n => (n, c.r.rv n)) } }

/-- Bytes that SZ names (08 R240). -/
def sizeOf (sz : BitVec 3) : Nat := [1, 2, 4, 8, 32, 64, 128].getD sz.toNat 0

/-- Bytes of a vector or ring data operand of an L-slot operation (08 R242, R246, R247, R278). -/
def dataBytes (i : Instr) (f : LM) : Nat :=
  match i with
  | .ldvs _ | .stvs _ | .ldvg _ | .stvg _ => 128
  | .stopk _ => 64
  | _ => sizeOf f.sz

/-- L-slot operations whose vector data operand is a source (08 R242). -/
def dataSource : Instr → Bool
  | .stv _ | .stvs _ | .stvg _ | .red _ | .verst _ => true
  | _ => false

/-- The ring operands of a V-slot or L-slot operation, in the order of its operands. -/
def vRings (i : Instr) (l : Latch) : List RingRef :=
  let (rd, ra) := vRegs i
  let run (x : BitVec 11) (o r w : Nat) (dst : Bool) : RingRef := { h := bf x 7 4, o := o, r := r, bytes := 32 * 2 ^ w, dst := dst }
  match formOf i with
  | .vr f => (if f.dc = 1 then [run f.vd l.ringD rd f.w.toNat true] else []) ++
      (if f.ac = 1 then [run f.va l.ringA ra f.w.toNat false] else []) ++
      (if f.bc = 1 then [run f.vb l.ringB 1 f.w.toNat false] else [])
  | .vq f => (if f.dc = 1 then [run f.vd l.ringD rd f.w.toNat true] else []) ++
      (if f.ac = 1 then [run f.va l.ringA ra f.w.toNat false] else [])
  | .lm f =>
    if f.dcl = 2 then [{ h := bf f.data 7 4, o := l.ringD, r := 1, bytes := dataBytes i f, dst := !dataSource i }] else []
  | _ => []

/-- The vector data operand of an L-slot store or reduction: a register, a ring slot, or what a replay holds
(08 R242, 15 R448). -/
def dataOf (e : Env) : VReg :=
  match e.rp with
  | some r => r.vec
  | none =>
    match formOf e.o.instr with
    | .lm f =>
      if !dataSource e.o.instr then 0
      else if f.dcl = 1 then e.c.r.rv f.data.toNat
      else match vRings e.o.instr e.o with
        | x :: _ => BitVec.ofNat 1024 (leNat (e.share.read (x.off (e.c.handle x.h) 0) x.bytes))
        | [] => 0
    | _ => 0

/-- The share ranges that a list of ring operands covers. -/
def ringSpans (c : Ctx) (l : List RingRef) : List (Nat × Nat) :=
  l.flatMap (fun x => (upto x.r).map (fun j => (x.off (c.handle x.h) j, x.bytes)))

/-- Performs the accesses in flight that come before reads or writes of share ranges (09 R289, 06 R180). -/
def State.drainSpans (s : State) (k : Nat) (l : List (Nat × Nat)) : State :=
  l.foldl (fun s x => s.drainBefore k { id := s.seq, kind := .ld, va := w64 x.1, loc := .share x.1, size := x.2 }) s

/-! ### Stalls (04 R105) -/

/-- Is a destination a register that the operations of a packet read or write, in the mode of the context
(04 R105)? -/
def Ctx.stallsOn (c : Ctx) (is : List Instr) (d : Dest) : Bool :=
  match d with
  | .s sup n => (is.flatMap sNames).contains n && sup == (c.r.sup && decide (56 ≤ n))
  | .v n _ _ => is.any (fun i => match formOf i with | .mx f => f.scl == 0 | _ => false) ||
      (is.flatMap (fun i => vNames i ++ vRegNames i)).contains n
  | .m .. | .c _ | .lc _ | .q _ => true
  | _ => false

/-- Do the shadow latches of a context count and deliver: in user mode, and after a resume or a restore (15 R386,
R390)? -/
def Ctx.latchesRun (c : Ctx) : Bool := !c.r.sup || c.sys.shRun

/-- V-slot results toward the registers a condition names arrive (04 R105). -/
def State.land (s : State) (k : Nat) (want : Nat → Bool) : State :=
  if !(s.ctxAt k).sq.late.any want then s
  else s.onCtx k (fun c => { c with sq := { c.sq with late := c.sq.late.filter (fun n => !want n) } })

/-- V-slot results toward registers are on their way. -/
def State.inFlight (s : State) (k : Nat) (ns : List Nat) : State :=
  if ns.isEmpty then s
  else s.onCtx k (fun c => { c with sq := { c.sq with late := c.sq.late.filter (fun n => !ns.contains n) ++ ns } })

/-- Delivers the results in flight toward names that a packet reads or writes: the core stalls until they have
arrived.  A shadow latch of such a name that counts in this mode delivers too (15 R382, R386, R390).  A hand change still to take
effect does so first (05 R169). -/
def State.settle (s : State) (k : Nat) (is : List Instr) : State :=
  let s := if (s.ctxAt k).mx.chg.isSome then (s.mFinish k).onCtx k Ctx.handEffect else s
  let c := s.ctxAt k
  let hit := c.stallsOn is
  let s1 := if c.mem.pend.any (fun a => hit a.dest) then s.drain k (fun a => hit a.dest) else s
  let s2 := if c.mem.stepWait.any (fun w => hit w.1) then s1.syncCopies else s1
  let s3 := if c.latchesRun && c.sys.shadow.any (fun x => hit x.dest) then s2.onCtx k (fun c => c.unshadow (fun x => hit x.dest)) else s2
  s3.land k (fun n => hit (.v n 0 1024))

/-- What each due slot finds, and whether its guard is true: registers as they stood before the packet, and handles as
the earlier slots leave them (04 R104, 08 R252). -/
def State.envs (s : State) (k : Nat) (v : Resv) : Ctx → List Due → List (Due × Env × Bool)
  | _, [] => []
  | c, d :: t =>
    let e := d.env k c v
    let on := d.on s c
    (d, e, on) :: s.envs k v (if on then c.onR (fun r => { r with hs := ringMove d.instr e.c.r }) else c) t

/-- Operations that return a result to a register name after they issue (15 R382). -/
def returnsLater : Instr → Bool
  | .ld _ | .ldv _ | .ldvs _ | .ldvg _ | .amo _ | .verld _ | .verle _ | .vernew _ | .mbrd _ | .cstep _ => true
  | _ => false

/-- Results in flight toward register names, and shadow latches (15 R382). -/
def Ctx.results (c : Ctx) : Nat :=
  ((c.mem.pend.filter (fun a => a.dest.isReg)).map (fun a => a.grp)).dedup.length + c.mem.stepWait.length + c.sys.shadow.length +
    c.sq.late.length

/-- The results that a packet adds to those in flight. -/
def moreResults (is : List Instr) : Nat := (is.filter returnsLater).length + (is.flatMap vDests).length

/-- Has a context room for the results of a packet?  It never has more than 48 in flight (15 R382). -/
def Ctx.roomy (c : Ctx) (is : List Instr) : Bool := moreResults is == 0 || decide (c.results + moreResults is ≤ 48)

/-- A packet whose results have no room stalls until those in flight have arrived (15 R382). -/
def State.roomFor (s : State) (k : Nat) (is : List Instr) : State :=
  if (s.ctxAt k).roomy is then s
  else
    let s0 := s.land k (fun _ => true)
    if (s0.ctxAt k).roomy is then s0
    else
      let s1 := s0.drain k (fun a => a.dest.isReg)
      if (s.ctxAt k).mem.stepWait.isEmpty then s1 else s1.syncCopies

/-! ### Issue -/

/-- Moves the core on to its next live context in slot order (02 R49). -/
def State.nextCtx (s : State) (core : Nat) : State :=
  let cur := (s.coreAt core).cur % 4
  let next := [1, 2, 3].map (fun i => (cur + i) % 4)
  match next.find? (fun j => (s.ctxAt (4 * core + j)).st == .live) with
  | some j => s.onCore core (fun c => { c with cur := j })
  | none => s

/-- A packet blocks: the cause its wait limit would name is kept, and the core turns to another context (02 R49 to
R51).  A wait that does not count leaves the cycles counted so far as they are. -/
def State.blockOn (s : State) (k : Nat) (w : Wait) : State :=
  (s.onCtx k (fun c => { c with sq := { c.sq with
    wait := if w.counts then some (w.cause, w.detail, w.pos + 16 * s.bundOf w.pos) else none } })).nextCtx (k / 4)

/-- Takes the asynchronous trap whose access was issued first (09 R305, 15 R385). -/
def State.takeAsync (s : State) (k : Nat) : State :=
  let c := s.ctxAt k
  match c.sys.asyncs with
  | [] => s
  | t :: ts =>
    let t0 := ts.foldl (fun a b => if b.num < a.num then b else a) t
    let s1 := s.putCtx k { c with sys := { c.sys with asyncs := c.sys.asyncs.erase t0 } }
    s1.takeTrap k { trap := t0, sepc := c.r.pc, srepl := 0, replay := [] }

/-- Marks a slot performed. -/
def State.markPerf (s : State) (p : Nat) : State := { s with issue := { s.issue with perf := s.issue.perf ++ [p] } }

/-- Performs one due slot.  A guarded-off slot performs nothing, except that `mmas` moves mpc on (04 R109, 07 R220);
the B slot performs only when no other slot has faulted (15 R380). -/
def State.performSlot (s : State) (d : Due) (e : Env) (on : Bool) : State :=
  if !on then
    let s1 := match d.instr with
      | .mmas _ => s.onCtx e.k (fun c => c.nextMeta (c.r.mpc + 8))
      | _ => s
    s1.markPerf d.pos
  else if d.pos = 8 ∧ !s.issue.faults.isEmpty then s
  else
    match d.sem.act e s with
    | (s1, none) => (s1.markPerf d.pos).inFlight e.k (vDests d.instr)
    | (s1, some t) => { s1 with issue := { s1.issue with faults := s1.issue.faults ++ [(d.pos, t)] } }

/-- The first trap of the class-I checks, at the lowest slot position (15 R380). -/
def firstCheck (s : State) : List (Due × Env × Bool) → Option (Nat × Trap)
  | [] => none
  | (d, e, on) :: t =>
    let r := if !on then none
      else match (if e.c.r.sup then none else privOp d.instr) with
        | some op => some { cls := .issue, code := 0x02, detail := w64 op : Trap }
        | none => d.sem.check s e
    match r with
    | some x => some (d.pos, x)
    | none => firstCheck s t

/-- The waits of the due slots; the first that does not hold decides what the packet is blocked on. -/
def firstWait : List (Due × Env × Bool) → State → State × Option Wait
  | [], s => (s, none)
  | (d, e, on) :: t, s =>
    if !on then firstWait t s
    else
      let (s1, w) := d.sem.wait e s
      let (s2, v) := firstWait t s1
      (s2, (w.map (fun x => { x with pos := d.pos })).orElse (fun _ => v))

/-- Asks for room in an engine queue that holds `limit` and has `used` taken, beside what the packet's earlier slots
have asked for (02 R50). -/
def State.ask (s : State) (what limit used : Nat) : State × Option Wait :=
  if used + s.issue.asks.count what < limit then
    ({ s with issue := { s.issue with asks := what :: s.issue.asks } }, none)
  else (s, some {})

/-- The next pc after a packet that took no transfer, with the loop records stepped: the first active record whose end
the packet holds and that goes round decides it (05 R161). -/
def loopCheck (starts : List W64) (next : W64) (r : Regs) : List LoopRec → Regs × W64 × Option Trap
  | [] => (r, next, none)
  | l :: t =>
    if !starts.contains l.last then loopCheck starts next r t
    else
      let lc := mget 0 r.lc l.k
      let off (r : Regs) : Regs := { r with loops := r.loops.filter (fun x => x.k ≠ l.k) }
      if l.while_ then
        let r1 := { r with lc := mset 0 r.lc l.k (lc + 1) }
        if r1.rc l.cc != l.neg then loopCheck starts next (off r1) t
        else if (lc + 1).toNat = l.max then
          (off r1, next, some { cls := .after, code := 0x17, detail := w64 l.max, x0 := w64 l.k })
        else (r1, l.start, none)
      else
        let r1 := { r with lc := mset 0 r.lc l.k (lc - 1) }
        if lc - 1 ≠ 0 then (r1, l.start, none) else loopCheck starts next (off r1) t

/-- Raises a class-P trap after a packet, if there is one; otherwise the step trap where SSTEP asks for it (15 R379,
R386). -/
def State.afterTraps (s : State) (k : Nat) (user : Bool) (t : Option Trap) : State :=
  let c := s.ctxAt k
  let step : Option Trap := if user && !c.r.sup && c.sys.sstep then some { cls := .after, code := 0x1E, detail := 0 } else none
  match t.orElse (fun _ => step) with
  | some x => s.takeTrap k { trap := x, sepc := c.r.pc, srepl := 0, replay := [] }
  | none => s

/-- What is still to perform before an `exit` retires its context (02 R54). -/
def State.exitWaits (s : State) (k : Nat) : Bool :=
  let c := s.ctxAt k
  !c.mem.pend.isEmpty || !(s.copiesOf k).isEmpty || !c.mx.ops.isEmpty || c.mem.recs != 0 || !c.mem.stepWait.isEmpty

/-- Retires a context, or leaves it to retire once all of its accesses have performed (02 R54). -/
def State.exitNow (s : State) (k : Nat) : State :=
  if s.exitWaits k then s.onCtx k (fun c => { c with sq := { c.sq with exiting := true, exitBund := s.bundOf 8 } })
  else s.retire k

/-- The class-P trap that an earlier repetition of a packet met: it is raised once the packet has performed (15 R379). -/
def Seq.keptTrap (q : Seq) (pc : W64) (sup : Bool) : Option Trap :=
  match q.after with
  | some (a, m, t) => if a = pc ∧ m = sup then some t else none
  | none => none

/-- What follows the slots of a packet or repetition: the class-S trap of the lowest slot that faulted, or else
retirement, return, the end of the task, the next repetition, the transfer or the loop check, and then a class-P trap
(15 R379, R380). -/
def State.finish (s : State) (k : Nat) (ds : List (Due × Env × Bool)) : State :=
  let q := s.issue
  let user := !(s.ctxAt k).r.sup
  match q.drop with
  | some cause => s.abandon k cause
  | none =>
  match q.faults with
  | (pos, t) :: _ =>
    let rp : SMap Replay := ds.foldl (fun m x =>
      let (d, e, _) := x
      if q.perf.contains d.pos then m
      else mput m d.pos ((e.rp).getD (replayOf e.c e.o (dataOf e)))) []
    let p : PendTrap := { trap := { t with pos := pos, bund := s.bundOf pos }, sepc := q.pc,
                          srepl := sreplOf q.rep q.perf, replay := rp }
    if t.code = 0x20 && (s.guessOf (s.ctxAt k)).isNone then s.hold k p else s.takeTrap k p
  | [] =>
    let s1 := s.onCtx k (fun c => { c with sq := { c.sq with replay := [], perf := 0 } })
    if q.retire then s1.exitNow k
    else if q.stop then
      let c := s1.ctxAt k
      s1.endTask k (bf c.sys.scause 0 8) (bf c.sys.scause 16 4) c.sys.sepc c.sys.sdetail
    else if q.ret then s1.onCtx k Ctx.returnUser
    else if q.rep < q.reps then s1.onCtx k (fun c => { c with sq := { c.sq with
      rep := q.rep + 1, after := (q.after.map (fun t => (q.pc, c.r.sup, t))).orElse (fun _ => c.sq.after) } })
    else
      let c := s1.ctxAt k
      let (r, pc, t) := match q.target with
        | some a => (c.r, a, none)
        | none => loopCheck q.starts q.next c.r c.r.loops
      let after := (q.after.orElse (fun _ => c.sq.keptTrap q.pc c.r.sup)).orElse (fun _ => t)
      (s1.putCtx k { c with r := { r with pc := pc }, sq := { c.sq with
        rep := 1, after := c.sq.after.filter (fun x => x.2.1 != c.r.sup) } }).afterTraps k user after

/-- The bookkeeping of an issue: the repetition counts, the wait of the context ends, and the core's cycle count and
the offsets of the shadow latches move on (05 R151, 02 R51, 15 R386).  A replay completes a repetition that has been
counted (04 R110).  How many cycles pass is a free value. -/
def State.countIssue (s : State) (k : Nat) (replay : Bool) : State :=
  let (n, s1) := s.takeFree 16
  let s2 := s1.onCore (k / 4) (fun c => { c with cycles := c.cycles + 1 + n.setWidth 64 })
  s2.onCtx k (fun c => { c with
    sq := { c.sq with repcnt := if replay then c.sq.repcnt else c.sq.repcnt + 1, blocked := 0, wait := none, yielded := false, verAsks := [] }
    mem := { c.mem with barHere := mdel c.mem.barHere (b2n c.r.sup) }
    sys := { c.sys with ticks := if c.latchesRun then c.sys.ticks + 1 else c.sys.ticks } })

/-- The state in which a packet's checks are made: no slot of it has asked for anything. -/
def State.fresh (s : State) : State := { s with issue := { s.issue with asks := [], tags := [], drop := none } }

/-- The stalls of a packet: the results it needs have arrived, and the accesses that come before its ring operands have
performed (04 R105, 06 R180). -/
def State.stalled (s : State) (k : Nat) (ds : List Due) : State :=
  let sa := (s.settle k (ds.map (fun d => d.instr))).roomFor k (ds.map (fun d => d.instr))
  if (sa.ctxAt k).mem.pend.isEmpty then sa
  else sa.drainSpans k ((sa.envs k {} (sa.ctxAt k) ds).flatMap (fun x => ringSpans x.2.1.c (vRings x.1.instr x.2.1.o)))

/-- The bookkeeping before the slots of a packet act: the counts of the issue, the latches they load, and a clean record
of what they do. -/
def State.opened (s : State) (k perf : Nat) (replay : Bool) (ls : List (Nat × Latch)) : State :=
  let s2 := (s.countIssue k replay).onCtx k (fun c => ls.foldl (fun c x => c.setLatch x.1 x.2) c)
  { s2 with issue := { s2.issue with faults := [], after := none, target := none, retire := false, ret := false,
                                     stop := false, perf := (upto 9).filter (fun p => perf.testBit p) } }

/-- The latch a due slot loads; a replayed one loads none. -/
def newLatch (x : Due × Env × Bool) : Option (Nat × Latch) :=
  match x.1.src with
  | .replay _ => none
  | _ => some (x.1.pos, x.2.1.o)

/-- Does a due slot complete a repetition that issued before? -/
def isReplay (x : Due × Env × Bool) : Bool := x.2.1.rp.isSome

/-- The slots of a packet that nothing blocks perform in order, and the packet ends. -/
def State.performAll (s : State) (k perf : Nat) (xs : List (Due × Env × Bool)) : State :=
  (xs.foldl (fun s x => s.performSlot x.1 x.2.1 x.2.2) (s.opened k perf (xs.any isReplay) (xs.filterMap newLatch))).finish k xs

/-- A stalled core issues nothing; the context is not blocked (04 R105). -/
def State.stallOn (s : State) (k : Nat) : State := s.onCtx k (fun c => { c with sq := { c.sq with wait := none } })

/-- A packet whose results have arrived: an asynchronous trap that is due where no replay is under way, the class-I
checks, a stall of its own, the blocks, and the slots (15 R380, R386). -/
def State.issueDue (s : State) (k : Nat) (ds : List Due) : State :=
  let c := s.ctxAt k
  if !c.r.sup && !c.sys.asyncs.isEmpty && c.sq.replay.isEmpty then s.takeAsync k
  else
    let xs := s.envs k (s.resvAt c.resv) c ds
    match firstCheck s xs with
    | some (p, t) =>
      let t1 := { t with pos := p, bund := s.bundOf p }
      if xs.any isReplay then s.trapDue k s.issue.pc t1 else s.trapIssue k s.issue.pc t1
    | none =>
      if xs.any (fun x => x.2.2 && x.1.sem.stall x.2.1 s) then s.stallOn k
      else
        match firstWait xs s with
        | (s1, some w) => s1.blockOn k w
        | (s1, none) => s1.performAll k c.sq.perf xs

/-- Issues the due slots of one packet or repetition (04 R106, 15 R380): stalls first, and then the slots.  The core
stalls while an access of the context is held by a re-encoding (10 R327). -/
def State.runPacket (s : State) (ds : List Due) : State :=
  let k := s.ck
  if (s.ctxAt k).mem.pend.any s.accessHeld then s else (s.fresh.stalled k ds).issueDue k ds

/-- A packet of the context has issued some of its repetitions or idle cycles, and not all (11 R346). -/
def Ctx.midPacket (c : Ctx) : Bool := decide (1 < c.sq.rep) || c.sq.idle != 0

/-- Can context `k` issue: is it live, its core not halted, its task neither at its end nor before its gang start (02
R39, R62), its guess not being claimed
unless a packet is under way (11 R346), no pre-emption asked of it (15 R385), and no packet of it held, trap of
it waiting or exit of it under way? -/
def State.canIssue (s : State) (k : Nat) : Bool :=
  let c := s.ctxAt k
  let t := s.taskAt c.task
  c.st == .live && !(s.coreAt (k / 4)).halted && t.ended.isNone && (t.l.gang == 0 || t.started) &&
    c.sq.held.isNone && c.sys.trapPend.isNone && !c.sq.exiting && !c.sq.parkReq &&
    (match s.guessOf c with | some q => !(s.queueAt q).dealer.claiming || c.midPacket | none => true)

/-- Runs one slot operation as the packet at `issue`: R129 is checked, and then the slot issues. -/
def runSlot (i : Instr) (sem : SlotSem) (s : State) : Out State :=
  if !s.canIssue s.ck then .refused .noContext
  else
    let len := (s.issue.next - s.issue.pc).toNat
    match slotIllegal s.issue.bt (decide (1 < s.issue.reps)) len i with
    | some r => .next (s.trapIssue s.ck s.issue.pc (illegalTrap s.issue.pos (s.bundOf s.issue.pos) r))
    | none => .next (s.runPacket [{ pos := s.issue.pos, instr := i, sem := sem }])

end Sys2Proof.Machine
end

