-- ==== Sys2Proof/Machine/Operands.lean ====
section
/-!
DEFINITION. Operand forms: scalar results, draws of the stochastic generators (03 R93 to R95), and the register, ring
and broadcast operands, widths and masks of the V slots (06 R173 to R181).
-/

namespace Sys2Proof.Machine

/-! ### Scalars -/

/-- A result in flight toward a scalar gives way to a later write of the same packet (04 R104). -/
def Ctx.overwrite (c : Ctx) (sup : Bool) (n : Nat) : Ctx :=
  if c.mem.pend.isEmpty then c
  else { c with mem := { c.mem with
    pend := c.mem.pend.map (fun a => if a.dest = .s sup n then { a with dest := .none } else a) } }

/-- Writes a scalar of context `k`. -/
def State.wr (s : State) (k n : Nat) (v : W64) : State :=
  s.onCtx k (fun c => (c.overwrite (c.r.sup && decide (56 ≤ n)) n).onR (fun r => r.ws n v))

/-- An operation whose one effect is a scalar computed from the registers as they stood before the packet. -/
def sWrite (sd : BitVec 6) (g : Regs → W64) : SlotSem := { act := fun e s => (s.wr e.k sd.toNat (g e.c.r), none) }

/-- An operation whose one effect is a condition bit. -/
def cWrite (n : Nat) (g : Regs → Bool) : SlotSem :=
  { act := fun e s => (s.onCtx e.k (fun c => c.onR (fun r => r.wc n (g e.c.r))), none) }

/-! ### Stochastic rounding (03 R93) -/

/-- The seed of generator `j` from a 64-bit value. -/
def genSeed (z : W64) (j : Nat) : W64 := z + w64 j * 0x6A3F09D5E21BC847

/-- A generator's state; one that nothing has used or seeded holds its seed of z = 0. -/
def Regs.gen (r : Regs) (j : Nat) : W64 := (mfind r.gens j).getD (genSeed 0 j)

/-- One draw. -/
def Regs.draw (r : Regs) (j : Nat) : BitVec 32 × Regs :=
  let g := r.gen j
  (g.extractLsb' 32 32, { r with gens := mput r.gens j (0x9E6C63D0676A9A99 * g + 0x3A5D1E47) })

/-- Draws from a list of generators in order. -/
def Regs.drawList (r : Regs) : List Nat → List (BitVec 32) × Regs
  | [] => ([], r)
  | j :: t =>
    let (d, r1) := r.draw j
    let (ds, r2) := r1.drawList t
    (d :: ds, r2)

/-- Draws of context `k` from a list of generators, in SR mode only (03 R94). -/
def State.drawsOf (s : State) (k : Nat) (rm : Nat) (js : List Nat) : List (BitVec 32) × State :=
  if rm = 4 then
    let c := s.ctxAt k
    let (ds, r) := c.r.drawList js
    (ds, s.putCtx k { c with r := r })
  else (js.map (fun _ => 0), s)

/-- The draw of a scalar operation, from generator 0 (05 R144). -/
def State.drawS (s : State) (k : Nat) (rm : Rnd) : BitVec 32 × State :=
  let (ds, s1) := s.drawsOf k (if rm = .sr then 4 else 0) [0]
  (ds.headD 0, s1)

/-- The scalar float format of a width bit (05 R144). -/
def flWidth (b : Bool) : Fl := if b then .fp64 else .fp32

/-- A rounding scalar floating-point operation: FN[3:1] is the mode, FN[0] the width (05 R144). -/
def fWrite (f : SR) (g : Fl → Rnd → BitVec 32 → Regs → Nat) : SlotSem :=
  { act := fun e s =>
      let rm := Rnd.get (bf f.fn 1 3)
      let (d, s1) := s.drawS e.k rm
      (s1.wr e.k f.sd.toNat (w64 (g (flWidth (bit f.fn 0)) rm d e.c.r)), none) }

/-! ### Vector operands -/

/-- Element width in bits of a vector type (03 R81). -/
def tyBits (et : Nat) : Nat :=
  if et ≤ 1 then 8 else if et ≤ 3 then 16 else if et ≤ 5 then 32 else if et ≤ 7 then 64
  else if et ≤ 9 then 16 else if et = 10 then 32 else if et ≤ 12 then 64 else 128

/-- Width in bits of a W code (04 R117). -/
def widthOf (w : BitVec 2) : Nat := 256 * 2 ^ w.toNat

/-- The integer format of a vector type (03 R81). -/
def tyInt (et : Nat) : IFmt := ⟨tyBits et, et % 2 == 0⟩

/-- The float format of a vector type; complex types give the format of a part. -/
def tyFl (et : Nat) : Fl :=
  if et = 8 then .fp16 else if et = 9 then .bf16 else if et = 10 ∨ et = 12 then .fp32 else .fp64

/-- Element `i` of width `b` is enabled by a mask (06 R174). -/
def enabled (m : MaskReg) (b i : Nat) : Bool := bit m (i * b / 8)

/-- The mask operand of a slot. -/
def Env.mask (e : Env) (mk : BitVec 4) : MaskReg := e.c.r.rm mk.toNat

/-- The bits of slot or register `j` of an operand, `w` bits wide. -/
def Env.part (e : Env) (cls num ringO w j : Nat) (dst : Bool) : Nat :=
  if cls = 0 then (e.c.r.rv (num + j)).toNat % 2 ^ w
  else
    let x : RingRef := { h := num / 128 % 16, o := ringO, r := 1, bytes := w / 8, dst := dst }
    leNat (e.share.read (x.off (e.c.handle x.h) j) (w / 8))

/-- The elements of a source operand: registers, a ring slot, or one scalar in every position (04 R118). -/
def Env.src (e : Env) (cls num ringO w b n : Nat) : List Nat :=
  if cls = 2 then List.replicate n ((e.c.r.rs (num % 64)).toNat % 2 ^ b)
  else elems b n (e.part cls num ringO w 0 false)

/-- Names out of the allotted windows, and then names in matrix-class banks (01 R20, R21); the first in operand order
is reported. -/
def regCheck (c : Ctx) (ns : List Nat) : Option Trap :=
  match ns.find? (fun n => c.mx.nBanks ≤ n / 256) with
  | some n => some { cls := .issue, code := 0x03, detail := w64 n }
  | none =>
    match ns.find? (fun n => bit c.mx.bankMat (n / 256)) with
    | some n => some { cls := .issue, code := 0x04, detail := w64 n }
    | none => none

/-- The class-I checks common to V-slot operations (06 R181). -/
def vCheck (i : Instr) (e : Env) : Option Trap :=
  (regCheck e.c (vRegNames i)).orElse (fun _ => (vRings i e.o).findSome? (fun x => x.check e.c))

/-- A V-slot operation waits until its ring operands are ready (06 R176). -/
def vWait (i : Instr) (e : Env) (s : State) : State × Option Wait :=
  (s, if (vRings i e.o).all (fun x => x.ready e.c (s.tagSeen e.c.resv)) then none else some {})

/-- The offset at which a ring source meets an uncorrectable error (09 R305). -/
def vPoison (i : Instr) (e : Env) : Option Nat :=
  if e.share.poison.isEmpty then none
  else (ringSpans e.c ((vRings i e.o).filter (fun x => !x.dst))).findSome?
    (fun x => (e.share.badIn x.1 x.2).map (fun d => x.1 + d))

/-- Writes the bits of destination `j`: a register, or a ring slot as a share store (04 R119, 06 R176, R180). -/
def State.wrPart (s : State) (e : Env) (cls num ringO w j v : Nat) : State :=
  if cls = 0 then s.onCtx e.k (fun c => c.onR (fun r => r.wvBits (num + j) 0 w v))
  else
    let x : RingRef := { h := num / 128 % 16, o := ringO, r := 1, bytes := w / 8, dst := true }
    let off := x.off (e.c.handle x.h) j
    s.performNow e.k { id := 0, kind := .st, va := w64 off, loc := .share off, size := w / 8,
                       data := BitVec.ofNat 1024 (v % 2 ^ w), pkt := s.issue.pc, pos := e.pos }

/-- What the entry of an elementwise operation reads: position count, element width, its operands' elements, the old
destination, and two draws for each position. -/
structure VIn where
  n : Nat
  b : Nat
  a : List Nat
  b' : List Nat
  d : List Nat
  rm : Rnd
  draws : List (BitVec 32)
  draws2 : List (BitVec 32)
  mask : MaskReg
  r : Regs

/-- Merges results into a destination by mask: a disabled element keeps its bits in the merge form and is zero in the
zeroing form (06 R173). -/
def maskMerge (m : MaskReg) (b : Nat) (mrg : Bool) : Nat → List Nat → List Nat → List Nat
  | i, x :: xs, d :: ds => (if enabled m b i then x else if mrg then d else 0) :: maskMerge m b mrg (i + 1) xs ds
  | _, _, _ => []

/-- The draws of a rounding vector operation: position i from generator i mod 32, in ascending i, twice for each
complex element (06 R179). -/
def vDraws (cplx : Bool) (n : Nat) : List Nat :=
  (upto n).flatMap (fun i => if cplx then [i % 32, i % 32] else [i % 32])

/-- Every other entry of a list, from the first. -/
def evens {α : Type} : List α → List α
  | x :: _ :: t => x :: evens t
  | l => l

/-- A V-slot operation: the checks of 06 R181, the wait for its rings, and an act that runs unless a ring source has
an uncorrectable error. -/
def vDo (i : Instr) (act : Env → State → State) : SlotSem :=
  { check := fun _ e => vCheck i e
    wait := vWait i
    act := fun e s =>
      match vPoison i e with
      | some a =>
        (s.logAccess e.k { id := 0, kind := .ld, va := w64 a, loc := .share a, size := 1 } 0,
          some { cls := .slot, code := 0x22, detail := w64 a })
      | none => (act e s, none) }

/-- The inputs of an operation of form VR, with draws already taken. -/
def vIn (i : Instr) (f : VR) (rm : Nat) (ds : List (BitVec 32)) (e : Env) : VIn :=
  let w := widthOf f.w
  let b := tyBits f.et.toNat
  let n := w / b
  let cplx := f.et.toNat = 12 ∨ f.et.toNat = 13
  { n := n, b := b
    a := if noVa i then [] else e.src f.ac.toNat f.va.toNat e.o.ringA w b n
    b' := if noVb i then [] else e.src f.bc.toNat f.vb.toNat e.o.ringB w b n
    d := if noVd i then [] else elems b n (e.part f.dc.toNat f.vd.toNat e.o.ringD w 0 true)
    rm := Rnd.get rm
    draws := if cplx then evens ds else ds
    draws2 := if cplx then evens (ds.drop 1) else ds
    mask := e.mask f.mask
    r := e.c.r }

/-- A V-slot operation of form VR: `rounds` says that RM is a rounding mode, `act` computes on the inputs. -/
def vrWith (i : Instr) (f : VR) (rounds : Bool) (act : Env → VIn → State → State) : SlotSem :=
  vDo i (fun e s =>
    let n := widthOf f.w / tyBits f.et.toNat
    let rm := if rounds then f.rm.toNat else 0
    let (ds, s1) := s.drawsOf e.k rm (vDraws (decide (f.et.toNat = 12 ∨ f.et.toNat = 13)) n)
    act e (vIn i f rm ds e) s1)

/-- An elementwise operation with a register or ring destination (06 R173). -/
def vrOp (i : Instr) (f : VR) (rounds : Bool) (g : VIn → List Nat) : SlotSem :=
  vrWith i f rounds (fun e x s =>
    s.wrPart e f.dc.toNat f.vd.toNat e.o.ringD (widthOf f.w) 0
      (packEl x.b (maskMerge x.mask x.b (f.mrg == 1) 0 (g x) x.d)))

/-- An operation that writes every position itself, whatever the mask (06 R191, R202, R208). -/
def vrAll (i : Instr) (f : VR) (rounds : Bool) (g : VIn → List Nat) : SlotSem :=
  vrWith i f rounds (fun e x s => s.wrPart e f.dc.toNat f.vd.toNat e.o.ringD (widthOf f.w) 0 (packEl x.b (g x)))

/-- An operation that writes the scalar of VD[5:0]. -/
def vrScalar (i : Instr) (f : VR) (rounds : Bool) (g : VIn → W64) : SlotSem :=
  vrWith i f rounds (fun e x s => s.wr e.k (bf f.vd 0 6) (g x))

/-- Results of one, two and three operands for every position, and the same with a draw. -/
def VIn.map1 (x : VIn) (g : Nat → Nat) : List Nat := x.a.map g
@[inherit_doc VIn.map1]
def VIn.map2 (x : VIn) (g : Nat → Nat → Nat) : List Nat := List.zipWith g x.a x.b'
@[inherit_doc VIn.map1]
def VIn.map3 (x : VIn) (g : Nat → Nat → Nat → Nat) : List Nat := List.zipWith (fun p d => g p.1 p.2 d) (x.a.zip x.b') x.d
@[inherit_doc VIn.map1]
def VIn.rmap1 (x : VIn) (g : BitVec 32 → BitVec 32 → Nat → Nat) : List Nat :=
  List.zipWith (fun q a => g q.1 q.2 a) (x.draws.zip x.draws2) x.a
@[inherit_doc VIn.map1]
def VIn.rmap2 (x : VIn) (g : BitVec 32 → BitVec 32 → Nat → Nat → Nat) : List Nat :=
  List.zipWith (fun q p => g q.1 q.2 p.1 p.2) (x.draws.zip x.draws2) (x.a.zip x.b')
@[inherit_doc VIn.map1]
def VIn.rmap3 (x : VIn) (g : BitVec 32 → BitVec 32 → Nat → Nat → Nat → Nat) : List Nat :=
  List.zipWith (fun q p => g q.1 q.2 p.1.1 p.1.2 p.2) (x.draws.zip x.draws2) ((x.a.zip x.b').zip x.d)

/-- An operation that writes the mask of VD[3:0], bits below W / 8 only (06 R188, R189). -/
def vrMask (i : Instr) (f : VR) (g : VIn → Nat) : SlotSem :=
  vrWith i f false (fun e x s => s.onCtx e.k (fun c => c.onR (fun r => r.wm (bf f.vd 0 4) (widthOf f.w / 8) (g x))))

end Sys2Proof.Machine
end

