-- ==== Sys2Proof/Machine/Matrix.lean ====
section
/-!
DEFINITION. The matrix engine's instructions (07 R212 to R238) and the tile rows and columns of the V slots (06 R210,
R211): their checks and what they do at issue.
-/

namespace Sys2Proof.Machine

/-! ### Checks -/

/-- The first trap of a list of checks. -/
def firstTrap (l : List (Option Trap)) : Option Trap := l.findSome? (fun x => x)

/-- A class-I trap. -/
def trapI (code detail : Nat) : Option Trap := some { cls := .issue, code := code, detail := w64 detail }

/-- The unallotted-tile fault (01 R25). -/
def Ctx.needTile (c : Ctx) (n : Nat) : Option Trap := if c.mx.nTiles ≤ n then trapI 0x06 n else none

/-- The unconfigured-tile trap (07 R232). -/
def Ctx.needSet (c : Ctx) (n : Nat) : Option Trap := if (c.tile n).st = .u then trapI 0x07 n else none

/-- The tile-format fault for the second slot of a pair (07 R232). -/
def Ctx.notSecond (c : Ctx) (n : Nat) : Option Trap := if (c.tile n).pair = 2 then trapI 0x08 n else none

/-- A tile that an operation reads or writes as it stands: allotted, configured, and no second slot. -/
def Ctx.tileOk (c : Ctx) (n : Nat) : Option Trap := firstTrap [c.needTile n, c.needSet n, c.notSecond n]

/-- The slots of a tile: its own, and the next of a pair. -/
def Ctx.slotsOf (c : Ctx) (n : Nat) : List Nat := if (c.tile n).pair = 1 then [n, n + 1] else [n]

/-- The ring operand of an M slot. -/
def mRing (e : Env) (f : MX) (bytes : Nat) : RingRef :=
  { h := bf f.src 7 4, o := e.o.ringD, r := 1, bytes := bytes, dst := false }

/-- The checks of an operand image of a size (07 R214): its registers, its ring, or its place in the share. -/
def imgCheck (e : Env) (f : MX) (size : Nat) : Option Trap :=
  match f.scl.toNat with
  | 0 =>
    let ns := regRun f.src.toNat (max 1 (cdiv size 128))
    firstTrap [(ns.find? (fun n => e.c.mx.nBanks ≤ n / 256)).bind (fun n => trapI 0x03 n),
               (ns.find? (fun n => !bit e.c.mx.bankMat (n / 256))).bind (fun n => trapI 0x04 n)]
  | 1 => (mRing e f size).check e.c
  | _ =>
    let a := e.o.addrA.toNat
    if e.share.size < a + size then trapI 0x09 a else if a % 64 ≠ 0 then trapI 0x0B a else none

/-- Reads an operand image (07 R214, R228): its bytes, and the address at which it meets an uncorrectable error. -/
def State.imgRead (s : State) (e : Env) (f : MX) (size : Nat) : State × List Byte × Option W64 :=
  match f.scl.toNat with
  | 0 => (s, ((regRun f.src.toNat (cdiv size 128)).flatMap (fun n => leBytes 128 (e.c.r.rv n).toNat)).take size, none)
  | m =>
    let off := if m = 1 then (mRing e f size).off (e.c.handle (bf f.src 7 4)) 0 else e.o.addrA.toNat
    let s1 := s.drainBefore e.k { id := s.seq, kind := .ld, va := w64 off, loc := .share off, size := size }
    let v := s1.resvAt e.c.resv
    match v.badIn off size with
    | none => (s1, v.read off size, none)
    | some d => (s1.logShare (s1.ctxAt e.k) (e.k / 4) (off + d), v.read off size, some (w64 (off + d)))

/-- The waits of an M-slot operation: its ring is ready, and the queue has room (07 R226, R237). -/
def mWait (ring : Env → Option RingRef) (e : Env) (s : State) : State × Option Wait :=
  let room := decide (((s.ctxAt e.k).mx.ops.filter (fun o => !o.started)).length < 4)
  let ready := match ring e with
    | some x => x.ready e.c (s.tagSeen e.c.resv)
    | none => true
  (s, if room && ready then none else some {})

/-- The ring operand of an MX slot, when it has one. -/
def mxRing (f : MX) (e : Env) : Option RingRef := if f.scl = 1 then some (mRing e f 0) else none

/-- Puts an operation in the queue. -/
def State.enqueue (s : State) (e : Env) (o : MOp) : State :=
  let (n, s1) := s.nextSeq
  s1.onCtx e.k (fun c => { c with mx := { c.mx with ops := c.mx.ops ++ [{ o with id := n, lat := e.o, pkt := s.issue.pc, pos := e.pos }] } })

/-- Marks tiles dirty. -/
def Ctx.dirty (c : Ctx) (ns : List Nat) : Ctx := ns.foldl (fun c n => c.onTile n (fun t => { t with st := .d })) c

/-! ### Loads and swaps (07 R215 to R217) -/

/-- wA: the pip width of d5's format (07 R216). -/
def Ctx.wA (c : Ctx) : Nat := pipWidth (bf (c.r.rd 5) 0 5)

/-- KB of a load, where it is whole (07 R216). -/
def loadK (c : Ctx) (f : MX) : Option Nat :=
  (passK (c.wA * pipWidth f.fa.toNat) c.mx.hands.length).map (fun k => if f.ca = 1 then 2 * k else k)

/-- The no-hands and hand-count faults (01 R28). -/
def handsCheck (h : Nat) (k : Option Nat) : Option Trap :=
  if h = 0 then trapI 0x10 0 else if k.isNone then trapI 0x11 h else none

/-- `mld` and `mldw` (07 R216). -/
def loadSem (f : MX) : SlotSem :=
  { check := fun _ e =>
      let h := e.c.mx.hands.length
      let k := if h = 0 then none else loadK e.c f
      firstTrap [imgCheck e f ((k.map (fun k => imgSize f.fa.toNat f.ba.toNat k)).getD 0), handsCheck h k,
        if f.ba ≠ 0 ∧ (k.getD 0) % planeLen f.fa.toNat f.ba.toNat ≠ 0 then trapI 0x14 (k.getD 0) else none]
    wait := mWait (mxRing f)
    act := fun e s =>
      let k := (loadK e.c f).getD 0
      let (s1, bs, bad) := s.imgRead e f (imgSize f.fa.toNat f.ba.toNat k)
      let shape : Buf := { empty := false, fb := f.fa.toNat, blk := f.ba.toNat, wa := e.c.wA, sparse := f.ca == 1, kb := k }
      let s2 := if bad.isSome then s1 else s1.onCtx e.k (fun c => { c with mx := { c.mx with back := shape } })
      (s2.enqueue e { id := 0, lat := e.o, img := bs, k := k, poison := bad }, none) }

/-- Loads the back buffer as stored (07 R216). -/
def semMld (f : MX) : SlotSem := loadSem f

@[inherit_doc semMld]
def execMld (f : MX) (s : State) : Out State := runSlot (.mld f) (semMld f) s

/-- Loads the back buffer transposed (07 R216). -/
def semMldw (f : MX) : SlotSem := loadSem f

@[inherit_doc semMldw]
def execMldw (f : MX) (s : State) : Out State := runSlot (.mldw f) (semMldw f) s

/-- Exchanges the buffers: their shapes at issue, their data when it starts (07 R215, R217). -/
def semMswap (_ : MC) : SlotSem :=
  { wait := mWait (fun _ => none)
    act := fun e s =>
      ((s.onCtx e.k (fun c => { c with mx := { c.mx with front := c.mx.back, back := c.mx.front } })).enqueue e
        { id := 0, lat := e.o }, none) }

@[inherit_doc semMswap]
def execMswap (f : MC) (s : State) : Out State := runSlot (.mswap f) (semMswap f) s

/-! ### Products (07 R218 to R225) -/

/-- The format and block code of the front buffer; an empty one has the B format of d6 (07 R215). -/
def Ctx.frontFmt (c : Ctx) : Nat × Nat :=
  if c.mx.front.empty then (bf (c.r.rd 6) 0 5, bf (c.r.rd 6) 5 3) else (c.mx.front.fb, c.mx.front.blk)

/-- K of a product, where it is whole (07 R218). -/
def Ctx.prodK (c : Ctx) (fa : Nat) : Option Nat :=
  if c.mx.hands.isEmpty then none else passK (pipWidth fa * pipWidth c.frontFmt.1) c.mx.hands.length

/-- Tile formats that a class writes (07 R212). -/
def classAccepts (cls af : Nat) : Bool :=
  match cls with
  | 0 => af == 1
  | 1 | 2 => af == 0 || af == 1
  | 3 => af == 2
  | 4 => af == 4
  | _ => af == 3

/-- Tiles that `mmac` converts: floats to a float format, I32 to an integer format (07 R224). -/
def mmacTakes (fa sf : Nat) : Bool :=
  match fmtTy fa with
  | .fl _ => sf == 0 || sf == 1
  | .int _ => sf == 2

/-- The format-pair fault (07 R218). -/
def pairCheck (c : Ctx) (f : MX) (sparse : Bool) : Option Trap :=
  let b := c.mx.front
  if b.empty then none
  else if fmtClass f.fa.toNat f.ba.toNat ≠ fmtClass b.fb b.blk then trapI 0x13 1
  else if pipWidth f.fa.toNat ≠ b.wa then trapI 0x13 2
  else if b.sparse ≠ sparse then trapI 0x13 3
  else none

/-- The outcome of a metadata fetch. -/
inductive MetaRes where
  | word (w : W64)
  | bad
  | trap (t : Trap)
  deriving DecidableEq, Repr

/-- Fetches the metadata word at an address, read like data (07 R221); an address outside the global window raises the
local-window fault (01 R33, 17 R418). -/
def State.fetchMeta (s : State) (k : Nat) (va : W64) : State × MetaRes :=
  let c := s.ctxAt k
  match s.xlateCtx k c.r.sup va.toNat .r with
  | (s1, .err e) =>
    (s1, .trap { xTrap va e 0 0 with agent := 3 })
  | (s1, .ok p) =>
    let frame := p.pa / 4096 * 4096
    if p.ecw then
      match s1.ecwBad frame (p.pa % 4096) with
      | some q => (s1.logPhys c q, .bad)
      | none =>
        match s1.ecwBytes c frame p.key (p.pa % 4096) va.toNat 8 with
        | some bs => (s1.ecwNote c frame p.key (p.pa % 4096) va.toNat 8, .word (w64 (leNat bs)))
        | none => (s1, .bad)
    else if (s1.agentBad c p.pa 8).isSome then (s1.logPhys c p.pa, .bad)
    else (s1.agentNote c p.key (va.toNat - p.pa) 2 p.pa 8, .word (w64 (leNat (s1.agentBytes c p.key (va.toNat - p.pa) 2 p.pa 8))))

/-- A pattern group that an issue of `k` stored positions uses has a reserved code (07 R220). -/
def badMeta (w : W64) (k : Nat) : Bool := (upto (min 16 (cdiv k 2))).any (fun u => decide (6 ≤ bf w (4 * u) 4))

/-- The metadata word that an issue of `k` uses: the one already fetched for mpc, or the word there now (07 R221). -/
def State.metaAt (s : State) (k : Nat) (a : W64) : State × MetaRes :=
  match (s.ctxAt k).mx.metaW with
  | some w => if (s.ctxAt k).r.mpc = a then (s, .word w) else s.fetchMeta k a
  | none => s.fetchMeta k a

/-- The trap of step 10 of 07 R218: the word does not translate, or a pattern group of it is reserved. -/
def MetaRes.trap? (m : MetaRes) (a : W64) (k : Nat) : Option Trap :=
  match m with
  | .trap t => some t
  | .word w => if badMeta w k then some { cls := .slot, code := 0x15, detail := a } else none
  | .bad => none

/-- The class-I checks of a product, in the order of 07 R218; the Calender-access fault gives way to a metadata fault
(class S, step 10), which the act then raises. -/
def prodCheck (f : MX) (sparse mmac : Bool) (s : State) (e : Env) : Option Trap :=
  let c := e.c
  let k := c.prodK f.fa.toNat
  let n := e.o.acc
  let src := bf f.src 0 5
  let size := (k.map (fun k => imgSize f.fa.toNat f.ba.toNat k)).getD 0
  firstTrap [
    if mmac then none else imgCheck e f size,
    c.needTile n, if (c.tile n).pair = 1 then c.needTile (n + 1) else none, if mmac then c.needTile src else none,
    c.needSet n, if mmac then c.needSet src else none,
    c.notSecond n, if classAccepts (fmtClass f.fa.toNat f.ba.toNat) (c.tile n).fmt then none else trapI 0x08 n,
    if mmac then c.notSecond src else none,
    if mmac && !mmacTakes f.fa.toNat (c.tile src).fmt then trapI 0x08 src else none,
    handsCheck c.mx.hands.length k, pairCheck c f sparse,
    if f.ba ≠ 0 ∧ k.getD 0 % planeLen f.fa.toNat f.ba.toNat ≠ 0 then trapI 0x14 (k.getD 0 % 65536) else none,
    if f.ce = 1 ∧ !(sparse && ((s.metaAt e.k c.r.mpc).2.trap? c.r.mpc (k.getD 0)).isSome) then s.entryTrap c f.cal.toNat else none]

/-- Queues a product with its image, and marks its tiles dirty (07 R227, R232). -/
def State.product (s : State) (e : Env) (f : MX) (img : List Byte) (bad : Option W64) (meta_ : W64) (draws : List (BitVec 32))
    (reads : List Nat) : State :=
  let c := e.c
  let n := e.o.acc
  let fb := c.frontFmt
  let s1 := if bad.isSome then s else s.onCtx e.k (fun c => c.dirty (c.slotsOf n))
  s1.enqueue e
    { id := 0, lat := e.o, img := img, draws := draws, meta_ := meta_, h := c.mx.hands.length
      k := (c.prodK f.fa.toNat).getD 0, tiles := c.slotsOf n, reads := reads
      buf := { c.mx.front with fb := fb.1, blk := fb.2 }, poison := bad, af := (c.tile n).fmt
      sf := match reads with | m :: _ => (c.tile m).fmt | [] => 0 }

/-- `mma` and `mma.c` at issue (07 R219, R223). -/
def prodSem (f : MX) : SlotSem :=
  { check := prodCheck f false false
    wait := mWait (mxRing f)
    act := fun e s =>
      let k := (e.c.prodK f.fa.toNat).getD 0
      let (s1, bs, bad) := s.imgRead e f (imgSize f.fa.toNat f.ba.toNat k)
      (s1.product e f bs bad 0 [] [], none) }

/-- T := T + A × B (07 R219). -/
def semMma (f : MX) : SlotSem := prodSem f

@[inherit_doc semMma]
def execMma (f : MX) (s : State) : Out State := runSlot (.mma f) (semMma f) s

/-- The product of complex elements (07 R223). -/
def semMmaC (f : MX) : SlotSem := prodSem f

@[inherit_doc semMmaC]
def execMmaC (f : MX) (s : State) : Out State := runSlot (.mmaC f) (semMmaC f) s

/-- The product with a 2:4 sparse A: the metadata word at mpc, and mpc moves on by 8 (07 R220, R221). -/
def semMmas (f : MX) : SlotSem :=
  { check := prodCheck f true false
    wait := mWait (mxRing f)
    act := fun e s =>
      let a := e.c.r.mpc
      let k := (e.c.prodK f.fa.toNat).getD 0
      let (s1, m) := s.metaAt e.k a
      let go (w : W64) (bad : Option W64) : State × Option Trap :=
        let (s2, bs, bad2) := s1.imgRead e f (imgSize f.fa.toNat f.ba.toNat k)
        ((s2.onCtx e.k (fun c => c.nextMeta (a + 8))).product e f bs (bad.orElse (fun _ => bad2)) w [] [], none)
      match m.trap? a k with
      | some t => (s1, some t)
      | none =>
        match m with
        | .word w => go w none
        | _ => go 0 (some a) }

@[inherit_doc semMmas]
def execMmas (f : MX) (s : State) : Out State := runSlot (.mmas f) (semMmas f) s

/-- The product whose A is converted from a tile; its draws are taken at issue (07 R224, 03 R95). -/
def semMmac (f : MX) : SlotSem :=
  { check := prodCheck f false true
    wait := mWait (fun _ => none)
    act := fun e s =>
      let n := min ((e.c.prodK f.fa.toNat).getD 0) (32 - bf f.src 5 5)
      let (ds, s1) := s.drawsOf e.k f.rm.toNat ((upto 32).flatMap (fun _ => upto n))
      (s1.product e f [] none 0 ds [bf f.src 0 5], none) }

@[inherit_doc semMmac]
def execMmac (f : MX) (s : State) : Out State := runSlot (.mmac f) (semMmac f) s

/-! ### Tiles (07 R232 to R235) -/

/-- Breaks the pair a tile belongs to: the other slot becomes U (07 R233). -/
def Ctx.unpair (c : Ctx) (n : Nat) : Ctx :=
  match (c.tile n).pair with
  | 1 => (c.onTile (n + 1) (fun t => { t with st := .u, pair := 0 })).onTile n (fun t => { t with pair := 0 })
  | 2 => (c.onTile (n - 1) (fun t => { t with st := .u, pair := 0 })).onTile n (fun t => { t with pair := 0 })
  | _ => c

/-- Gives a tile, and its pair for CF64, a format and a state (07 R233). -/
def Ctx.config (c : Ctx) (n af : Nat) (st : TileSt) : Ctx :=
  if af = 4 then
    (((c.unpair n).unpair (n + 1)).onTile n (fun t => { t with st := st, fmt := 4, pair := 1 })).onTile (n + 1)
      (fun t => { t with st := st, fmt := 4, pair := 2 })
  else (c.unpair n).onTile n (fun t => { t with st := st, fmt := af, pair := 0 })

/-- The tiles a configuration names. -/
def cfgTiles (n af : Nat) : List Nat := if af = 4 then [n, n + 1] else [n]

/-- Zeroes a configured tile (07 R233). -/
def semAzero (_ : MC) : SlotSem :=
  { check := fun _ e => e.c.tileOk e.o.acc
    wait := mWait (fun _ => none)
    act := fun e s =>
      let ns := e.c.slotsOf e.o.acc
      ((s.onCtx e.k (fun c => ns.foldl (fun c n => c.onTile n (fun t => { t with st := .z })) c)).enqueue e
        { id := 0, lat := e.o, tiles := ns }, none) }

@[inherit_doc semAzero]
def execAzero (f : MC) (s : State) : Out State := runSlot (.azero f) (semAzero f) s

/-- Configures a tile's format and zeroes it (07 R233). -/
def semAcfg (f : MC) : SlotSem :=
  { check := fun _ e => firstTrap ((cfgTiles e.o.acc f.af.toNat).map e.c.needTile)
    wait := mWait (fun _ => none)
    act := fun e s =>
      ((s.onCtx e.k (fun c => c.config e.o.acc f.af.toNat .z)).enqueue e
        { id := 0, lat := e.o, tiles := cfgTiles e.o.acc f.af.toNat, af := f.af.toNat }, none) }

@[inherit_doc semAcfg]
def execAcfg (f : MC) (s : State) : Out State := runSlot (.acfg f) (semAcfg f) s

/-- Unconfigures a tile; on either slot of a pair, both (07 R233). -/
def semAclr (_ : MC) : SlotSem :=
  { check := fun _ e => e.c.needTile e.o.acc
    wait := mWait (fun _ => none)
    act := fun e s =>
      let n := e.o.acc
      let ns := match (e.c.tile n).pair with | 1 => [n, n + 1] | 2 => [n - 1, n] | _ => [n]
      ((s.onCtx e.k (fun c => (c.unpair n).onTile n (fun t => { t with st := .u }))).enqueue e
        { id := 0, lat := e.o, tiles := ns }, none) }

@[inherit_doc semAclr]
def execAclr (f : MC) (s : State) : Out State := runSlot (.aclr f) (semAclr f) s

/-- Bytes of a tile image (07 R233). -/
def aloadBytes (af : Nat) : Nat := if af = 4 then 0x4000 else 0x2000

/-- Configures a tile and fills it from an image in the share (07 R233); where its read meets an error the tile stays as it
is (09 R305). -/
def semAload (f : MC) : SlotSem :=
  { check := fun _ e =>
      let a := e.o.addrA.toNat
      firstTrap ([if e.share.size < a + aloadBytes f.af.toNat then trapI 0x09 a else none,
        if a % 64 ≠ 0 then trapI 0x0B a else none] ++ (cfgTiles e.o.acc f.af.toNat).map e.c.needTile)
    wait := mWait (fun _ => none)
    act := fun e s =>
      let a := e.o.addrA.toNat
      let n := aloadBytes f.af.toNat
      let s1 := s.drainBefore e.k { id := s.seq, kind := .ld, va := w64 a, loc := .share a, size := n }
      let v := s1.resvAt e.c.resv
      let s2 := match v.badIn a n with
        | none => s1.onCtx e.k (fun c => c.config e.o.acc f.af.toNat .d)
        | some d => s1.logShare (s1.ctxAt e.k) (e.k / 4) (a + d)
      (s2.enqueue e
        { id := 0, lat := e.o, tiles := cfgTiles e.o.acc f.af.toNat, af := f.af.toNat, img := v.read a n
          poison := (v.badIn a n).map (fun d => w64 (a + d)) }, none) }

@[inherit_doc semAload]
def execAload (f : MC) (s : State) : Out State := runSlot (.aload f) (semAload f) s

/-- Generators that a tile operation draws from: element (i, j) from generator j, twice for a complex one
(07 R234, R235). -/
def tileDraws (cplx : Bool) : List Nat := (upto 32).flatMap (fun _ => (upto 32).flatMap (fun j => if cplx then [j, j] else [j]))

/-- Converts one tile into another format (07 R234).  Any access to a tile in state U traps (07 R232), the target's too
(log entry 29). -/
def semAcvt (f : MC) : SlotSem :=
  { check := fun _ e =>
      let c := e.c
      firstTrap ((cfgTiles e.o.acc f.af.toNat).map c.needTile ++ [c.needTile e.o.acb] ++
        (cfgTiles e.o.acc f.af.toNat).map c.needSet ++ [c.needSet e.o.acb, c.notSecond e.o.acc, c.notSecond e.o.acb,
         if accCplx f.af.toNat ≠ accCplx (c.tile e.o.acb).fmt then trapI 0x08 e.o.acc else none])
    wait := mWait (fun _ => none)
    act := fun e s =>
      let af := f.af.toNat
      let sf := (e.c.tile e.o.acb).fmt
      let (ds, s1) := s.drawsOf e.k f.rm.toNat (tileDraws (accCplx af))
      let reads := e.c.slotsOf e.o.acb
      ((s1.onCtx e.k (fun c => c.config e.o.acc af .d)).enqueue e
        { id := 0, lat := e.o, tiles := cfgTiles e.o.acc af, reads := reads, af := af, sf := sf, draws := ds }, none) }

@[inherit_doc semAcvt]
def execAcvt (f : MC) (s : State) : Out State := runSlot (.acvt f) (semAcvt f) s

/-- Adds one tile into another of its format (07 R235). -/
def semAadd (f : MC) : SlotSem :=
  { check := fun _ e =>
      let c := e.c
      firstTrap [c.needTile e.o.acc, c.needTile e.o.acb, c.needSet e.o.acc, c.needSet e.o.acb, c.notSecond e.o.acc,
        c.notSecond e.o.acb, if (c.tile e.o.acc).fmt ≠ (c.tile e.o.acb).fmt then trapI 0x08 e.o.acc else none]
    wait := mWait (fun _ => none)
    act := fun e s =>
      let af := (e.c.tile e.o.acc).fmt
      let (ds, s1) := s.drawsOf e.k (if af = 2 then 0 else f.rm.toNat) (tileDraws (accCplx af))
      let ns := e.c.slotsOf e.o.acc
      ((s1.onCtx e.k (fun c => c.dirty ns)).enqueue e
        { id := 0, lat := e.o, tiles := ns, reads := e.c.slotsOf e.o.acb, af := af, sf := af, draws := ds }, none) }

@[inherit_doc semAadd]
def execAadd (f : MC) (s : State) : Out State := runSlot (.aadd f) (semAadd f) s

/-! ### Waits and status (07 R222, R229, R230) -/

/-- Stalls until a tile is not busy: the operations of the queue run to their end first (07 R229). -/
def stallFor (s : State) (k : Nat) (ns : List Nat) : State := if ns.any (s.ctxAt k).busy then s.mFinish k else s

/-- Stalls until a tile is not busy (07 R229). -/
def semAwait (_ : MC) : SlotSem :=
  { check := fun _ e => firstTrap [e.c.needTile e.o.acc, e.c.notSecond e.o.acc]
    wait := fun e s => (stallFor s e.k (e.c.slotsOf e.o.acc), none)
    act := fun _ s => (s, none) }

@[inherit_doc semAwait]
def execAwait (f : MC) (s : State) : Out State := runSlot (.await f) (semAwait f) s

/-- Stalls until nothing is queued or in flight (07 R229). -/
def semAwaitAll (_ : MC) : SlotSem :=
  { wait := fun e s => (s.mFinish e.k, none)
    act := fun _ s => (s, none) }

@[inherit_doc semAwaitAll]
def execAwaitAll (f : MC) (s : State) : Out State := runSlot (.awaitAll f) (semAwaitAll f) s

/-- Sets mpc (07 R222). -/
def semMpcset (f : MC) : SlotSem :=
  { check := fun _ e =>
      let a := e.c.r.rs f.ss.toNat
      if a.toNat % 8 ≠ 0 then some { cls := .issue, code := 0x0B, detail := a } else none
    act := fun e s => (s.onCtx e.k (fun c => c.nextMeta (e.c.r.rs f.ss.toNat)), none) }

@[inherit_doc semMpcset]
def execMpcset (f : MC) (s : State) : Out State := runSlot (.mpcset f) (semMpcset f) s

/-- The engine status word (07 R230). -/
def Ctx.engineStatus (c : Ctx) : W64 :=
  w64 (b2n c.mx.front.empty * 2 ^ 39 + b2n c.mx.back.empty * 2 ^ 38 + b2n (c.mx.ops.any (fun o => isLoad o.lat.instr)) * 2 ^ 37 +
    (c.mx.ops.filter (fun o => !o.started)).length * 2 ^ 34 +
    ((upto 32).filter c.busy).foldl (fun a n => a + 2 ^ n) 0)

/-- Reads the engine status word or mpc (07 R230). -/
def semMstat (f : MC) : SlotSem :=
  { act := fun e s => (s.wr e.k f.ss.toNat (if f.imm = 1 then e.c.r.mpc else (s.ctxAt e.k).engineStatus), none) }

@[inherit_doc semMstat]
def execMstat (f : MC) (s : State) : Out State := runSlot (.mstat f) (semMstat f) s

/-- The device fetches the metadata word at mpc ahead of the `mmas` that uses it (07 R221). -/
def execMetadataFetch (c : Nat) (s : State) : Out State :=
  let x := s.ctxAt c
  if x.st ≠ .live ∨ x.mx.metaW.isSome then .refused .notEnabled
  else match s.fetchMeta c x.r.mpc with
    | (s1, .word w) => .next (s1.onCtx c (fun x => { x with mx := { x.mx with metaW := some w } }))
    | _ => .refused .notEnabled

/-! ### Tile rows and columns in the V slots (06 R210, R211) -/

/-- The vector type of a tile format (06 R210). -/
def tileEt (af : Nat) : Nat := match af with | 0 => 10 | 1 => 11 | 2 => 4 | 3 => 12 | _ => 13

/-- The checks of a tile row or column past those of its registers and rings (06 R181). -/
def rowCheck (i : Instr) (n et : Nat) (e : Env) : Option Trap :=
  (vCheck i e).orElse (fun _ => (e.c.tileOk n).orElse (fun _ =>
    if tileEt (e.c.tile n).fmt ≠ et then trapI 0x08 n else none))

/-- The tile elements of row or column `r`. -/
def rowIdx (row : Bool) (r : Nat) : List Nat := (upto 32).map (fun j => if row then 32 * r + j else 32 * j + r)

/-- An element of a row is enabled: m0 enables all of them (06 R174, R210). -/
def rowOn (e : Env) (mk : BitVec 4) (b j : Nat) : Bool := mk == 0 || enabled (e.mask mk) b j

/-- `arow` and `acol` (06 R210).  An element of a busy tile is unpredictable.  A parity error drops the result and leaves a
memory-error trap waiting, as every read of a context but a ring slot's does (09 R305, 15 R381, 18 R438). -/
def rowRead (i : Instr) (f : VR) (row : Bool) : SlotSem :=
  { check := fun _ e => rowCheck i (bf f.va 0 5) f.et.toNat e
    wait := vWait i
    act := fun e s =>
      let n := bf f.va 0 5
      let c := s.ctxAt e.k
      let af := (c.tile n).fmt
      let b := tyBits f.et.toNat
      let idx := rowIdx row (bf (e.c.r.rs (bf f.vb 0 6)) 0 5)
      let busy := (c.slotsOf n).any c.busy
      let (x, s1) := if busy then s.takeFree (32 * b) else (0, s)
      let vals := idx.zipIdx.map (fun p =>
        if !rowOn e f.mask b p.2 then 0
        else if busy then fld x.toNat (b * p.2) b
        else let q := c.accGet n af p.1; if accCplx af then q.1 + 2 ^ (b / 2) * q.2 else q.1)
      let reads (i : Nat) : Bool := idx.zipIdx.any (fun p => p.1 == i && rowOn e f.mask b p.2)
      let bad := if busy then none
        else (c.parity n reads).orElse (fun _ => if af = 4 then c.parity (n + 1) reads else none)
      match bad with
      | some a => ((s1.logAcc e.k (a.toNat - 0x1000000)).onCtx e.k (fun c => { c with sys := { c.sys with asyncs := c.sys.asyncs ++
          [({ cls := .async, code := 0x22, detail := a, x0 := s1.issue.pc, x1 := w64 e.pos, num := s1.seq } : Trap)] } }), none)
      | none => ((((blocksOf (1024 / b) 32 vals).zipIdx).foldl (fun s v =>
        s.wrPart e f.dc.toNat f.vd.toNat e.o.ringD 1024 v.2 (packEl b v.1)) s1), none) }

/-- Reads a tile row (06 R210). -/
def semArow (f : VR) : SlotSem := rowRead (.arow f) f true

@[inherit_doc semArow]
def execArow (f : VR) (s : State) : Out State := runSlot (.arow f) (semArow f) s

/-- Reads a tile column (06 R210). -/
def semAcol (f : VR) : SlotSem := rowRead (.acol f) f false

@[inherit_doc semAcol]
def execAcol (f : VR) (s : State) : Out State := runSlot (.acol f) (semAcol f) s

/-- `awrow` and `awcol`: stall until the tile is not busy, then write its enabled elements (06 R211). -/
def rowWrite (i : Instr) (f : VR) (row : Bool) : SlotSem :=
  let d := vDo i (fun e s =>
    let n := bf f.vd 0 5
    let b := tyBits f.et.toNat
    let idx := rowIdx row (bf (e.c.r.rs (bf f.vb 0 6)) 0 5)
    let vals := if f.ac = 2 then List.replicate 32 ((e.c.r.rs (f.va.toNat % 64)).toNat % 2 ^ b)
      else (upto (tileRegs f.et.toNat)).flatMap (fun j => elems b (1024 / b) (e.part f.ac.toNat f.va.toNat e.o.ringA 1024 j false))
    s.onCtx e.k (fun c =>
      let af := (c.tile n).fmt
      let put (c : Ctx) (m i v : Nat) : Ctx := c.onTile m (fun t => t.set i (w64 v))
      let c1 := ((idx.zip vals).zipIdx).foldl (fun c p =>
        if !rowOn e f.mask b p.2 then c
        else if af = 4 then put (put c n p.1.1 (p.1.2 % 2 ^ 64)) (n + 1) p.1.1 (p.1.2 / 2 ^ 64)
        else put c n p.1.1 p.1.2) c
      c1.dirty (c1.slotsOf n)))
  { d with
    check := fun _ e => rowCheck i (bf f.vd 0 5) f.et.toNat e
    wait := fun e s => d.wait e (stallFor s e.k (e.c.slotsOf (bf f.vd 0 5))) }

/-- Writes a tile row (06 R211). -/
def semAwrow (f : VR) : SlotSem := rowWrite (.awrow f) f true

@[inherit_doc semAwrow]
def execAwrow (f : VR) (s : State) : Out State := runSlot (.awrow f) (semAwrow f) s

/-- Writes a tile column (06 R211). -/
def semAwcol (f : VR) : SlotSem := rowWrite (.awcol f) f false

@[inherit_doc semAwcol]
def execAwcol (f : VR) (s : State) : Out State := runSlot (.awcol f) (semAwcol f) s

end Sys2Proof.Machine
end

