-- ==== Sys2Proof/Machine/Access.lean ====
section
/-!
DEFINITION. What the L-slot operations share (08 R240 to R244): windows, the faults of an address in their order,
translation, and putting the accesses of an operation in flight.
-/

namespace Sys2Proof.Machine

/-! ### Windows (01 R33) -/

/-- The windows of a context's addresses. -/
inductive Win where
  | share | acc | mail | glob
  deriving DecidableEq, Repr

/-- The window that holds a range of `z` bytes whole, for a share of a size (01 R23, R33). -/
def winOf (size ea z : Nat) : Option Win :=
  if ea + z ≤ size then some .share
  else if 0x1000000 ≤ ea ∧ ea + z ≤ 0x1040000 then some .acc
  else if 0x2000000 ≤ ea ∧ ea + z ≤ 0x2000200 then some .mail
  else if 0x1000000000000 ≤ ea ∧ ea + z ≤ 0x10000000000000 then some .glob
  else none

/-- The local-window fault of an address (01 R33). -/
def winFault (size z : Nat) (wins : List Win) (a : W64) : Option Trap :=
  match winOf size a.toNat z with
  | some w => if wins.contains w then none else trapI 0x09 a.toNat
  | none => trapI 0x09 a.toNat

/-- The faults of naming a tile through the accumulator window (01 R34). -/
def accFault (c : Ctx) (size z : Nat) (a : W64) : Option Trap :=
  if winOf size a.toNat z = some .acc then
    let n := (a.toNat - 0x1000000) / 0x2000
    firstTrap [c.needTile n, c.needSet n]
  else none

/-- The class-I checks of an L-slot operation on addresses of `z` bytes, in the order of 08 R244. -/
def lmCheck (i : Instr) (f : LM) (wins : List Win) (z : Nat) (eas : Env → List W64) (_ : State) (e : Env) : Option Trap :=
  let names := (if f.dcl = 1 then [f.data.toNat] else []) ++ (indexReg i).toList
  firstTrap [regCheck e.c names,
    (vRings i e.o).findSome? (fun x => x.check e.c),
    (eas e).findSome? (winFault e.share.size z wins),
    (eas e).findSome? (fun a => if a.toNat % z ≠ 0 then trapI 0x0A a.toNat else none),
    (eas e).findSome? (accFault e.c e.share.size z)]

/-- The waits every L-slot operation has: its ring slot is ready, and its scoreboard slot has room (08 R242, 09
R295). -/
def lmWait (i : Instr) (f : LM) (e : Env) (s : State) : State × Option Wait :=
  if !(vRings i e.o).all (fun x => x.ready e.c (s.tagSeen e.c.resv)) then (s, some {})
  else if f.se = 1 then s.ask f.sbs.toNat 63 (mget 0 (s.ctxAt e.k).mem.sb f.sbs.toNat)
  else (s, none)

/-! ### Places -/

/-- Where an access goes, or why it does not. -/
inductive Placed where
  | at_ (va : W64) (loc : Loc) (ecw : Option Nat)
  | trap (t : Trap)
  /-- an event of 11 R344 -/
  | drop (cause : Nat)
  deriving DecidableEq, Repr

/-- How an access uses its place: a plain read, a plain write, an atomic or reduction, or a version operation. -/
inductive Use where
  | read | write | atomic | version
  deriving DecidableEq, Repr

/-- What the page must allow (17 R418). -/
def Use.want (u : Use) (store : Bool) : Want :=
  match u with
  | .read => .r
  | .write => .w
  | .atomic => .rw
  | .version => if store then .w else .r

/-- A mailbox is open to a partition: its register and the mailbox's access table (17 R414, R428). -/
def State.mailOpen (s : State) (p k : Nat) : Bool := bit (s.part p 0x20) k && s.admits (0x280 + 8 * k) p

/-- The place of a page an access reached: the ream faults, and the decode error of an ECW slot (08 R244, R271, R282).
The slot address in DETAIL is the virtual one (log entry 11). -/
def State.pagePlace (s : State) (c : Ctx) (va : W64) (u : Use) (p : Phys) : Placed :=
  if u = .version then
    if p.ream then .at_ va (.phys p.pa p.key) none else .trap { cls := .slot, code := 0x24, detail := va }
  else if p.ream && u != .read then .trap { cls := .slot, code := 0x25, detail := va }
  else if u = .atomic && (s.guessOf c).isSome then .drop 3
  else if p.ecw then
    let off := p.pa % 4096
    let frame := p.pa / 4096 * 4096
    match ecwSlot (s.agentBytes c p.key 0 8 (frame + 160 * (off / 256)) 160) with
    | .ok _ => .at_ va (.phys frame p.key) (some off)
    | .err r =>
      if (s.badIn (frame + 160 * (off / 256)) 160).isSome then .at_ va (.phys frame p.key) (some off)
      else .trap { cls := .slot, code := 0x28, detail := w64 (va.toNat / 4096 * 4096 + 160 * (off / 256)), x0 := w64 r }
  else .at_ va (.phys p.pa p.key) none

/-- The place of an access of `z` bytes at an address that has passed the class-I checks (08 R244). -/
def State.place (s : State) (e : Env) (z : Nat) (u : Use) (store : Bool) (va : W64) : State × Placed :=
  let a := va.toNat
  match winOf e.share.size a z with
  | none => (s, .trap { cls := .slot, code := 0x09, detail := va })
  | some .share => (s, .at_ va (.share a) none)
  | some .acc => (s, .at_ va (.acc (a - 0x1000000)) none)
  | some .mail =>
    let k := (a - 0x2000000) / 8
    if !s.mailOpen e.c.part k then (s, .trap { cls := .slot, code := 0x23, detail := w64 k })
    else if (s.guessOf e.c).isSome then (s, .drop 5)
    else (s, .at_ va (.mail k) none)
  | some .glob =>
    match s.xlateCtx e.k e.c.r.sup a (u.want store) with
    | (s1, .err x) =>
      (match x with | .walkError pa => s1.logPhys e.c pa | _ => s1,
       .trap (xTrap va x (if store then 1 else 0) (if u = .atomic then 3 else if store then 1 else 0)))
    | (s1, .ok p) =>
      (s1, if decide (64 < z) && !p.ecw && !s1.open_ e.c.part p.key p.pa z then .trap (xTrap va .perm (if store then 1 else 0) 0)
           else s1.pagePlace e.c va u p)

/-- The step of 08 R244 that an outcome belongs to: translation and permission, the ream faults, the mailbox, the decode
error, an event of a guess, and an access that goes. -/
def Placed.rank : Placed → Nat
  | .trap t => if t.code = 0x28 then 8 else if t.code = 0x23 then 7 else if decide (0x24 ≤ t.code ∧ t.code ≤ 0x27) then 6 else 5
  | .drop _ => 9
  | .at_ .. => 10

/-- The outcome of every element in ascending order, up to the first that does not translate or is denied. -/
def State.placeEach (s : State) (e : Env) (z : Nat) (u : Use) (store : Bool) : List W64 → State × List Placed
  | [] => (s, [])
  | a :: t =>
    match s.place e z u store a with
    | (s1, p) =>
      if p.rank = 5 then (s1, [p])
      else
        let (s2, r) := s1.placeEach e z u store t
        (s2, p :: r)

/-- The first of the outcomes of the lowest step. -/
def firstRank : List Placed → Option Placed
  | [] => none
  | p :: t => match firstRank t with
    | some q => if q.rank < p.rank then some q else some p
    | none => some p

/-- The places of all elements, or the outcome of the first that has none, in the order of 08 R244: each step is made
for every element before the next (08 R246, R247). -/
def State.placeAll (s : State) (e : Env) (z : Nat) (u : Use) (store : Bool) (l : List W64) :
    State × Option Placed × List (W64 × Loc × Option Nat) :=
  let (s1, r) := s.placeEach e z u store l
  (s1, (firstRank r).filter (fun p => p.rank != 10),
    r.filterMap (fun p => match p with | .at_ va l x => some (va, l, x) | _ => none))

/-- Notes the event of 11 R344 that a slot met; the first decides. -/
def State.noteDrop (s : State) (cause : Nat) : State :=
  { s with issue := { s.issue with drop := s.issue.drop.orElse (fun _ => some cause) } }

/-- An access of an LM-form slot, with its modifiers (09 R294, R295). -/
def lmAccess (f : LM) (e : Env) (s : State) (kind : AccKind) (size : Nat) (p : W64 × Loc × Option Nat) : Access :=
  { id := 0, kind := kind, va := p.1, loc := p.2.1, ecw := p.2.2, size := size
    acq := bit f.ord 0, rel := bit f.ord 1
    sbSet := if f.se = 1 then some f.sbs.toNat else none
    sbWait := if f.we = 1 then some f.sbw.toNat else none
    pkt := s.issue.pc, pos := e.pos }

/-- An L-slot operation on addresses of `z` bytes: the checks and waits all have in common, and an act on the places of
its elements. -/
def lmDo (i : Instr) (f : LM) (wins : List Win) (z : Nat) (u : Use) (store : Bool) (eas : Env → List W64)
    (go : Env → List (W64 × Loc × Option Nat) → State → State × Option Trap) : SlotSem :=
  { check := lmCheck i f wins z eas
    wait := lmWait i f
    act := fun e s =>
      match s.placeAll e z u store (eas e) with
      | (s1, none, l) => go e l s1
      | (s1, some (.trap t), _) => (s1, some t)
      | (s1, some (.drop c), _) => (s1.noteDrop c, none)
      | (s1, some (.at_ _ _ _), _) => (s1, none) }

/-- The effective address of a latch. -/
def oneAddr (e : Env) : List W64 := [e.o.addrA]

/-- The name of a scalar result: s0 takes none (01 R32). -/
def sDest (c : Ctx) (n : Nat) : Dest := if n = 0 then .none else .s (c.r.sup && decide (56 ≤ n)) n

/-- The name that byte `o` up of a data destination lies in: a scalar, a vector register or a ring slot (08 R242). -/
def dataDest (i : Instr) (f : LM) (e : Env) (o z : Nat) : Dest :=
  match f.dcl.toNat with
  | 0 => sDest e.c (bf f.data 0 6)
  | 1 => .v f.data.toNat (8 * o) (8 * z)
  | _ => match vRings i e.o with
    | x :: _ => .ring (x.off (e.c.handle x.h) 0 + o)
    | [] => .none

/-- The data operand of a store, `z` bytes from byte `o` (08 R242). -/
def dataIn (f : LM) (e : Env) (o z : Nat) : Nat :=
  (if f.dcl = 0 then (e.c.r.rs (bf f.data 0 6)).toNat else (dataOf e).toNat) / 2 ^ (8 * o) % 2 ^ (8 * z)

/-- The lines of an access of 128 bytes: an access for each (09 R287). -/
def accLines (z : Nat) (p : W64 × Loc × Option Nat) : List (Nat × Nat × (W64 × Loc × Option Nat)) :=
  if z = 128 then
    let l := match p.2.1 with
      | .share o => Loc.share (o + 64)
      | .phys a k => if p.2.2.isSome then .phys a k else .phys (a + 64) k
      | .acc o => .acc (o + 64)
      | x => x
    [(0, 64, p), (64, 64, (p.1 + 64, l, p.2.2.map (fun o => o + 64)))]
  else [(0, z, p)]

/-- The accesses of operands of `z` bytes in turn: byte of the operand, size and place of each. -/
def piecesOf (z : Nat) (l : List (W64 × Loc × Option Nat)) : List (Nat × Nat × (W64 × Loc × Option Nat)) :=
  l.zipIdx.flatMap (fun (p, j) => (accLines z p).map (fun x => (z * j + x.1, x.2)))

/-- Loads, one for each line of each place, into consecutive parts of the destination (08 R245 to R247, 09 R287). -/
def goLoad (i : Instr) (f : LM) (z : Nat) (e : Env) (l : List (W64 × Loc × Option Nat)) (s : State) : State × Option Trap :=
  (s.launch e.k ((piecesOf z l).map (fun (o, n, p) =>
    { lmAccess f e s .ld n p with dest := dataDest i f e o n, signed := f.dcl == 0 && bit f.data 6 })), none)

/-- Stores, one for each line of each place, from consecutive parts of the source (08 R245 to R247). -/
def goStore (f : LM) (z : Nat) (e : Env) (l : List (W64 × Loc × Option Nat)) (s : State) : State × Option Trap :=
  (s.launch e.k ((piecesOf z l).map (fun (o, n, p) =>
    { lmAccess f e s .st n p with data := BitVec.ofNat 1024 (dataIn f e o n) })), none)

end Sys2Proof.Machine
end

