-- ==== Sys2Proof/Machine/Copies.lean ====
section
/-!
DEFINITION. Copies (08 R255 to R265): issue, the descriptor's checks, the moves of each row, faults and completion; and
the touch of a tracked tile (08 R263, 10 R325 to R327).
-/

namespace Sys2Proof.Machine

/-! ### Descriptors (08 R256, R260) -/

/-- The fields of a copy descriptor (08 R256). -/
structure Desc where
  w : List W64
  deriving DecidableEq, Repr

/-- A field of a descriptor: word, low bit and width. -/
def Desc.f (d : Desc) (i lo n : Nat) : Nat := bf (d.w.getD i 0) lo n

/-- Pitches and origins of the tensor side: the source for `tld`, the destination for `tst`. -/
def Desc.pitch (d : Desc) (ld : Bool) : Nat := d.f 0 (if ld then 0 else 32) 32
@[inherit_doc Desc.pitch]
def Desc.row0 (d : Desc) (ld : Bool) : Nat := d.f (if ld then 1 else 2) 0 32
@[inherit_doc Desc.pitch]
def Desc.col0 (d : Desc) (ld : Bool) : Nat := d.f (if ld then 1 else 2) 32 32
/-- ROWS, COLS, BLK and SCH. -/
def Desc.rows (d : Desc) : Nat := d.f 3 0 16
@[inherit_doc Desc.rows]
def Desc.cols (d : Desc) : Nat := d.f 3 16 16
@[inherit_doc Desc.rows]
def Desc.blk (d : Desc) : Nat := d.f 3 32 3
@[inherit_doc Desc.rows]
def Desc.sch (d : Desc) : Nat := d.f 3 35 2

/-- ROWS and COLS lie within their limits (08 R256). -/
def Desc.sizeOk (d : Desc) : Bool := decide (1 ≤ d.rows) && decide (d.rows ≤ 4096) && decide (1 ≤ d.cols)

/-- The modifiers of a copy: `.t`, `.h`, `.dec`, `.trk` (08 R261). -/
def mdT (md : BitVec 4) : Bool := bit md 3
@[inherit_doc mdT]
def mdH (md : BitVec 4) : Bool := bit md 2
@[inherit_doc mdT]
def mdDec (md : BitVec 4) : Bool := bit md 1
@[inherit_doc mdT]
def mdTrk (md : BitVec 4) : Bool := bit md 0

/-- The descriptor of a tile copy is valid (08 R256, R260 to R263). -/
def Desc.tileOk (d : Desc) (ld : Bool) (fmt : Nat) (md : BitVec 4) : Bool :=
  let p := d.pitch ld
  let c0 := d.col0 ld
  let w := fmtBits fmt
  let planes := if ld then [d.f 4 0 64, d.f 5 0 64] else [d.f 6 0 64, d.f 7 0 64]
  let unused := if ld then [d.f 0 32 32, d.f 2 0 64, d.f 6 0 64, d.f 7 0 64] else [d.f 0 0 32, d.f 1 0 64, d.f 4 0 64, d.f 5 0 64]
  let l := if fmt = 18 then 64 else blkLen d.blk
  d.sizeOk && decide (1 ≤ p) && d.f 3 37 27 == 0 && unused.all (· == 0) &&
    (FmtWord.mk 0 d.sch d.blk fmt).valid && (!mdTrk md || planes.all (· == 0)) &&
    (d.sch == 0 || (p % l == 0 && c0 % l == 0 && d.cols % l == 0)) &&
    (d.sch != 2 || (c0 % 256 == 0 && (d.cols % 256 == 0 || c0 + d.cols == p))) &&
    (if w = 6 then p % 4 == 0 && c0 % 4 == 0 else decide (8 ≤ w) || (p * w % 8 == 0 && c0 * w % 8 == 0))

/-- The descriptor of a row copy is valid (08 R256, R264, R265); `list` says that it uses an index list. -/
def Desc.rowOk (d : Desc) (list : Bool) : Bool :=
  d.sizeOk && decide (1 ≤ d.f 0 0 32) && decide (1 ≤ d.f 0 32 32) && d.f 1 0 64 == 0 && d.f 2 0 64 == 0 &&
    d.f 3 32 32 == 0 && (if list then d.f 4 0 64 % 4 == 0 else d.f 4 0 64 == 0) && d.f 5 0 64 == 0 &&
    d.f 6 0 64 == 0 && d.f 7 0 64 == 0

/-! ### Moves -/

/-- An end of a move: a byte address and a bit from it; `share` says that its endpoint lies in the share, wherever a pitch
or an index carries it (01 R23, 08 R255); `dec` names a byte of an ECW stream (08 R270) and `tile` the tracked tile it lies
in. -/
structure End where
  addr : Nat
  bit : Nat
  share : Bool
  dec : Bool := false
  tile : Option Nat := none
  deriving DecidableEq, Repr

/-- An address is a share offset. -/
def inShare (a : Nat) : Bool := decide (a < 0x100000)

/-- A move of consecutive bits; `flip` is XORed in, and bits outside `keep` are written as zero (08 R261, 03 R83); a move
with `keep` zero has no source. -/
structure Seg where
  src : End
  dst : End
  bits : Nat
  flip : Nat := 0
  keep : Option Nat := none
  deriving DecidableEq, Repr

/-- The first byte of an end and the bytes that `n` bits from it cover. -/
def End.span (e : End) (n : Nat) : Nat × Nat := (e.addr + e.bit / 8, cdiv (e.bit % 8 + n) 8)

/-- The source bytes of a move: an ECW stream is read by whole slots (08 R270). -/
def Seg.srcSpan (g : Seg) : Nat × Nat :=
  if g.keep = some 0 then (g.src.addr, 0)
  else if g.src.dec then
    let b := g.src.bit / 8
    (g.src.addr + 160 * (b / 256), 160 * ((b + (g.src.span g.bits).2 - 1) / 256 - b / 256 + 1))
  else g.src.span g.bits

/-- A pattern of `w` bits repeated `n` times. -/
def repeated (w x : Nat) : Nat → Nat
  | 0 => 0
  | n + 1 => x + 2 ^ w * repeated w x n

/-- What a tile copy moves between: format, modifiers, tensor base, image base, planes, and the elements of a tile of a
tracked tensor (0 for an untracked one). -/
structure Tens where
  ld : Bool
  fmt : Nat
  md : BitVec 4
  d : Desc
  base : Nat
  img : Nat
  e : Nat := 0
  deriving DecidableEq, Repr

/-- Block length of the copy's planes. -/
def Tens.l (t : Tens) : Nat := if t.fmt = 18 then 64 else blkLen t.d.blk

/-- The pieces of a run of `n` tensor elements from linear element `x`: offset in the run, its end, and elements
(08 R261, 10 R326); `fuel` bounds the tiles. -/
def Tens.run (t : Tens) : Nat → Nat → Nat → Nat → List (Nat × End × Nat)
  | 0, _, _, _ => []
  | f + 1, o, x, n =>
    if n = 0 then []
    else if t.e = 0 then [(o, { addr := t.base, bit := x * fmtBits t.fmt, share := inShare t.base, dec := mdDec t.md }, n)]
    else
      let m := min n (t.e - x % t.e)
      (o, { addr := t.base + 4096 * (x / t.e), bit := x % t.e * fmtBits t.fmt, share := inShare t.base,
            tile := some (t.base + 4096 * (x / t.e)) }, m) ::
        t.run f (o + m) (x + m) (n - m)

/-- The entry of the scale or block plane (`group` false) or the group plane that holds tensor element (r, c)
(08 R260, 10 R326). -/
def Tens.entry (t : Tens) (group : Bool) (r c : Nat) : End :=
  let p := t.d.pitch t.ld
  let pl := if t.ld then 4 else 6
  if t.e = 0 then
    let at_ (a bit : Nat) : End := { addr := a, bit := bit, share := inShare a }
    if group then at_ (t.d.f (pl + 1) 0 64) (32 * (r * cdiv p 256 + c / 256))
    else at_ (t.d.f pl 0 64) ((if t.fmt = 18 then 8 else 16) * (r * (p / t.l) + c / t.l))
  else
    let x := r * p + c
    let tb := t.base + 4096 * (x / t.e)
    let p0 := alignUp (runBytes (fmtBits t.fmt) t.e) 64
    let at_ (a bit : Nat) : End := { addr := a, bit := bit, share := inShare t.base, tile := some tb }
    if group then at_ (tb + alignUp (p0 + t.e / 64) 64) (32 * (x % t.e / 256))
    else at_ (tb + p0) ((if t.fmt = 18 then 8 else 16) * (x % t.e / t.l))

/-- The image side of a tile copy, from a byte offset of the image and a bit (08 R261, R262). -/
def Tens.image (t : Tens) (off bit : Nat) : End := { addr := t.img + off, bit := bit, share := true }

/-- A move between the tensor side and the image side, in the direction of the copy. -/
def Tens.seg (t : Tens) (a b : End) (bits flip : Nat) (keep : Option Nat) : Seg :=
  if t.ld then { src := a, dst := b, bits := bits, flip := flip, keep := keep }
  else { src := b, dst := a, bits := bits, flip := flip, keep := keep }

/-- The moves of `n` elements of tensor row `r` from column `c`, to or from image element `x` on (08 R261, R262). -/
def Tens.elems (t : Tens) (r c n x : Nat) : List Seg :=
  let w := fmtBits t.fmt
  (t.run (n + 1) 0 (r * t.d.pitch t.ld + c) n).map (fun (o, e, m) =>
    t.seg e (t.image 0 ((x + o) * w)) (m * w) (if mdH t.md then repeated w (2 ^ (w - 1)) m else 0) none)

/-- The moves of each row, and after the last the moves of the planes (08 R260 to R262, 13 R367). -/
def Tens.steps (t : Tens) : List (List Seg) :=
  let w := fmtBits t.fmt
  let rows := t.d.rows
  let cols := t.d.cols
  let r0 := t.d.row0 t.ld
  let c0 := t.d.col0 t.ld
  let eb := runBytes w (rows * cols)
  let els : List (List Seg) :=
    if !mdT t.md then (upto rows).map (fun i => t.elems (r0 + i) c0 cols (i * cols))
    else if t.ld then (upto cols).map (fun i => (upto rows).flatMap (fun j => t.elems (r0 + j) (c0 + i) 1 (i * rows + j)))
    else (upto rows).map (fun r => (upto cols).flatMap (fun i => t.elems (r0 + r) (c0 + i) 1 (i * rows + r)))
  let pad : List (List Seg) :=
    if t.ld && w == 6 && rows * cols % 4 != 0 then
      [[{ src := t.image 0 0, dst := t.image 0 (6 * (rows * cols)), bits := 8 * eb - 6 * (rows * cols), keep := some 0 }]]
    else []
  let plane (group : Bool) (bits l off : Nat) : List Seg :=
    let nb := cdiv cols l
    (upto rows).flatMap (fun x => (upto nb).map (fun j =>
      t.seg (t.entry group (r0 + x) (c0 + j * l))
        (t.image off (bits * (if mdT t.md then j * rows + x else x * nb + j))) bits 0
        (if bits = 16 then some 0x1FF else none)))
  let planes : List (List Seg) :=
    if t.d.sch = 1 then [plane false 16 t.l (alignUp eb 64)]
    else if t.fmt = 18 then
      let o1 := alignUp eb 64
      [plane false 8 64 o1 ++ plane true 32 256 (alignUp (o1 + rows * (cols / 64)) 64)]
    else []
  els ++ (if pad.isEmpty ∧ planes.isEmpty then [] else [(pad ++ planes).flatten])

/-- The rows of a row copy (08 R264, R265): `idx` names the source and destination row of step i, where it is not
skipped. -/
def rowSteps (d : Desc) (dst src : Nat) (idx : Nat → Option (Nat × Nat)) : List (List Seg) :=
  (upto d.rows).map (fun i => match idx i with
    | some (a, b) => [{ src := { addr := src + a * d.f 0 0 32, bit := 0, share := inShare src }
                        dst := { addr := dst + b * d.f 0 32 32, bit := 0, share := inShare dst }, bits := 8 * d.cols }]
    | none => [])

/-! ### Copies as issued -/

/-- The LC fields of a copy operation. -/
def lcOf : Instr → Option LC
  | .tld f | .tst f | .cpy f | .rgather f | .rscatter f | .coll f => some f
  | _ => none

/-- The descriptor of a copy. -/
def CopyOp.d (o : CopyOp) : Desc := ⟨o.words.take 8⟩

/-- The index list of a row gather or scatter, 32 bits an entry. -/
def CopyOp.index (o : CopyOp) (i : Nat) : Option Nat :=
  let v := bf ((o.words.drop 8).getD (i / 2) 0) (32 * (i % 2)) 32
  if v = 0xFFFFFFFF then none else some v

/-- What a tile copy moves between; `e` is the size of a tracked tensor's tiles. -/
def CopyOp.tens (o : CopyOp) (ld : Bool) (f : LC) (e : Nat) : Tens :=
  { ld := ld, fmt := f.fmt.toNat, md := f.md, d := o.d, e := e
    base := if ld then o.src.toNat else o.dst.toNat, img := if ld then o.dst.toNat else o.src.toNat }

/-- The moves of a copy, step by step. -/
def CopyOp.steps (o : CopyOp) (e : Nat) : List (List Seg) :=
  match o.instr with
  | .tld f => (o.tens true f e).steps
  | .tst f => (o.tens false f e).steps
  | .cpy _ => rowSteps o.d o.dst.toNat o.src.toNat (fun i => some (i, i))
  | .rgather _ => rowSteps o.d o.dst.toNat o.src.toNat (fun i => (o.index i).map (fun j => (j, i)))
  | .rscatter _ => rowSteps o.d o.dst.toNat o.src.toNat (fun i => (o.index i).map (fun j => (i, j)))
  | _ => []

/-- Rows of a copy, planes apart: the first incomplete row is never past their number. -/
def CopyOp.rowCount (o : CopyOp) : Nat :=
  match o.instr with
  | .tld f => if mdT f.md then o.d.cols else o.d.rows
  | _ => o.d.rows

/-- Its descriptor is valid, planes and index list apart (08 R256). -/
def CopyOp.descOk (o : CopyOp) : Bool :=
  match o.instr with
  | .tld f => o.d.tileOk true f.fmt.toNat f.md
  | .tst f => o.d.tileOk false f.fmt.toNat f.md
  | .cpy _ => o.d.rowOk false
  | .rgather _ | .rscatter _ => o.d.rowOk true
  | _ => false

/-- Is the tensor side tracked? -/
def CopyOp.trk (o : CopyOp) : Bool := match o.instr with | .tld f | .tst f => mdTrk f.md | _ => false

/-- Source bytes of a copy, as address ranges: 08 R258 compares the destination with them. -/
def srcSpans (steps : List (List Seg)) : List (Nat × Nat) := steps.flatMap (fun l => l.map Seg.srcSpan)

/-- An address lies in one of some ranges. -/
def inSpans (spans : List (Nat × Nat)) (a : Nat) : Bool := spans.any (fun r => decide (r.1 ≤ a) && decide (a < r.1 + r.2))

/-! ### Accesses of a step, line by line (09 R287) -/

/-- Bytes of one line that a copy reads: `n` bytes from an address, and the tracked tile they lie in. -/
structure Piece where
  addr : Nat
  n : Nat
  share : Bool
  tile : Option Nat := none
  deriving DecidableEq, Repr

/-- A range of bytes cut at line boundaries; `f` bounds the pieces. -/
def linePieces (share : Bool) (tile : Option Nat) : Nat → Nat → Nat → List Piece
  | 0, _, _ => []
  | f + 1, a, n =>
    if n = 0 then []
    else
      let m := min n (64 - a % 64)
      { addr := a, n := m, share := share, tile := tile } :: linePieces share tile f (a + m) (n - m)

/-- The pieces that a range of bytes is read in. -/
def rangePieces (share : Bool) (tile : Option Nat) (r : Nat × Nat) : List Piece := linePieces share tile (r.2 / 64 + 2) r.1 r.2

/-- The reads of a step, one for each line it touches in turn. -/
def readsOf (l : List Seg) : List (List Piece) :=
  (l.flatMap (fun g => rangePieces g.src.share g.src.tile g.srcSpan)).splitBy (fun x y => x.addr / 64 == y.addr / 64)

/-- A byte that a copy writes: the bits of `mask` become those of `val`. -/
structure Put where
  addr : Nat
  mask : Nat
  val : Nat
  share : Bool
  tile : Option Nat := none
  deriving DecidableEq, Repr

/-- The bytes that a move writes for a value; `i` bytes of it are left. -/
def Seg.puts (g : Seg) (mask v : Nat) : Nat → Nat → List Put
  | 0, _ => []
  | i + 1, a => { addr := a, mask := mask % 256, val := v % 256, share := g.dst.share, tile := g.dst.tile } ::
      g.puts (mask / 256) (v / 256) i (a + 1)

/-- Bytes written in turn, with neighbours that name one byte joined. -/
def joinPuts (l : List Put) : List Put :=
  l.foldr (fun x acc => match acc with
    | y :: t =>
      if x.addr = y.addr then { y with mask := x.mask ||| y.mask, val := (x.val &&& (255 - y.mask)) ||| y.val } :: t
      else x :: y :: t
    | [] => [x]) []

/-- The writes of a step, one for each line it touches in turn. -/
def writesOf (l : List (Seg × Nat)) : List (List Put) :=
  (joinPuts (l.flatMap (fun (g, v) =>
    let (a, n) := g.dst.span g.bits
    let lo := g.dst.bit % 8
    g.puts ((2 ^ g.bits - 1) * 2 ^ lo) (v * 2 ^ lo) n a))).splitBy (fun x y => x.addr / 64 == y.addr / 64)

/-- The values of a step's moves from the bytes read for them, in order; a slot of an ECW stream that does not decode gives
its address (08 R271). -/
def valuesOf : List Seg → List Byte → Nat ⊕ List Nat
  | [], _ => .inr []
  | g :: t, bs =>
    let (a, n) := g.srcSpan
    let mine := bs.take n
    let raw : Nat ⊕ List Byte :=
      if g.keep = some 0 then .inr []
      else if g.src.dec then
        (upto (n / 160)).foldl (fun acc i =>
          match acc, ecwSlot ((mine.drop (160 * i)).take 160) with
          | .inr l, .ok b => .inr (l ++ b)
          | .inr _, .err _ => .inl (a + 160 * i)
          | x, _ => x) (.inr [])
      else .inr mine
    match raw, valuesOf t (bs.drop n) with
    | .inl x, _ => .inl x
    | _, .inl x => .inl x
    | .inr l, .inr vs =>
      let off := if g.src.dec then g.src.bit % 2048 else g.src.bit % 8
      .inr ((((leNat l / 2 ^ off % 2 ^ g.bits) ^^^ g.flip) &&& (g.keep.getD (2 ^ g.bits - 1))) :: vs)

/-! ### Reading and writing for a copy -/

/-- The outcome of a piece of a copy's work. -/
inductive Cp (α : Type) where
  | ok (x : α)
  /-- a translation fault at a virtual address: level and access (17 R422) -/
  | hold (va level access : Nat)
  /-- a tile under re-encoding, by physical address divided by 4,096 (10 R327) -/
  | wait (tile : Nat)
  | fail (cause va : Nat)
  /-- an event of 11 R344 -/
  | drop (cause : Nat)
  deriving DecidableEq, Repr

/-- What follows a piece of work that ended well. -/
def Cp.andThen {α β : Type} (r : State × Cp α) (f : State → α → State × Cp β) : State × Cp β :=
  match r with
  | (s, .ok x) => f s x
  | (s, .hold va l a) => (s, .hold va l a)
  | (s, .wait t) => (s, .wait t)
  | (s, .fail c va) => (s, .fail c va)
  | (s, .drop c) => (s, .drop c)

/-- The failure of an address that does not translate (08 R259).  An address that leaves the global window after issue
takes cause 2: 17 R418 names local-window for it, which the table of 08 R259 does not hold (log entry 27). -/
def cpErr {α : Type} (va access : Nat) (e : XErr) : Cp α :=
  match e with
  | .absent l => .hold va l access
  | .walkError pa => .fail 6 pa
  | _ => .fail 2 va

/-- Translates an address for a copy. -/
def State.cpXlate (s : State) (o : CopyOp) (va : Nat) (store : Bool) : State × Cp Phys :=
  match s.xlateCtx o.ctx o.sup va (if store then .w else .r) with
  | (s1, .err e) => (s1, cpErr va (if store then 1 else 0) e)
  | (s1, .ok p) =>
    if store && p.ream then (s1, .fail 5 va)
    else if s1.tileHeld (p.pa / 4096) then (s1, .wait (p.pa / 4096))
    else (s1, .ok p)

/-- Decoded bytes of an ECW page from a page offset, within one line (08 R272). -/
def State.cpEcw (s : State) (c : Ctx) (frame key off va n : Nat) : State × Cp (List Byte) :=
  match s.ecwBad frame off with
  | some q => (s.logPhys c q, .fail 6 va)
  | none =>
    match s.ecwBytes c frame key off va n with
    | some bs => (s.ecwNote c frame key off va n, .ok bs)
    | none => (s, .fail 4 (va / 4096 * 4096 + 160 * (off / 256)))

/-- Reads bytes of one line for a copy (08 R255, R259, R272). -/
def State.cpRead (s : State) (o : CopyOp) (x : Piece) : State × Cp (List Byte) :=
  let c := s.ctxAt o.ctx
  if x.share then
    let r := s.resvAt c.resv
    if r.size < x.addr + x.n then (s, .fail 3 (max x.addr r.size))
    else match r.badIn x.addr x.n with
      | some d => (s.logShare c (o.ctx / 4) (x.addr + d), .fail 6 (x.addr + d))
      | none => (s, .ok (r.read x.addr x.n))
  else
    Cp.andThen (s.cpXlate o x.addr false) (fun s1 p =>
      if p.ecw then s1.cpEcw c (p.pa / 4096 * 4096) p.key (p.pa % 4096) x.addr x.n
      else match s1.agentBad c p.pa x.n with
        | some d => (s1.logPhys c (p.pa + d), .fail 6 (x.addr + d))
        | none => (s1.agentNote c p.key (x.addr - p.pa) 2 p.pa x.n, .ok (s1.agentBytes c p.key (x.addr - p.pa) 2 p.pa x.n)))

/-- Reads the pieces of one access. -/
def State.cpReads (s : State) (o : CopyOp) (l : List Piece) : State × Cp (List Byte) :=
  l.foldl (fun r x => Cp.andThen r (fun s bs => Cp.andThen (s.cpRead o x) (fun s b => (s, .ok (bs ++ b))))) (s, .ok [])

/-- Writes bytes of one line for a copy (08 R259). -/
def State.cpWrite (s : State) (o : CopyOp) (share : Bool) (a : Nat) (bs : List Byte) : State × Cp Unit :=
  let c := s.ctxAt o.ctx
  if share then
    let r := s.resvAt c.resv
    if r.size < a + bs.length then (s, .fail 3 (max a r.size))
    else (s.onResv c.resv (fun r => r.write a bs), .ok ())
  else
    Cp.andThen (s.cpXlate o a true) (fun s p => (s.agentStore c p.pa p.key bs, .ok ()))

/-- The byte at an address as a write of part of it finds it; a guess that has not written the byte itself records its
line (08 R260, 11 R343). -/
def State.cpPeek (s : State) (o : CopyOp) (share : Bool) (a : Nat) : State × Byte :=
  let c := s.ctxAt o.ctx
  if share then (s, ((s.resvAt c.resv).read a 1).headD 0)
  else match (s.xlateCtx o.ctx o.sup a .w).2 with
    | .ok p => (s.noteRead c a p.pa 1, (s.agentLine c a p.pa p.key 1).headD 0)
    | .err _ => (s, 0)

/-- The bytes that a list of writes leaves: bytes written in part keep their other bits, and the written bits of bytes
that a condition names take free values (00 R6, 08 R258, R260). -/
def State.putBytes (s : State) (o : CopyOp) (open_ : Nat → Bool) : List Put → State × List Byte
  | [] => (s, [])
  | x :: t =>
    let (s1, v) := if open_ x.addr then (let (b, s1) := s.takeFree 8; (s1, b.toNat)) else (s, x.val)
    let (s2, old) := if x.mask = 255 then (s1, (0 : Byte)) else s1.cpPeek o x.share x.addr
    let (s3, l) := s2.putBytes o open_ t
    (s3, BitVec.ofNat 8 ((old.toNat &&& (255 - x.mask)) ||| (v &&& x.mask)) :: l)

/-- Writes the bytes of one line, each run of consecutive ones as one store. -/
def State.cpPuts (s : State) (o : CopyOp) (open_ : Nat → Bool) (l : List Put) : State × Cp Unit :=
  (l.splitBy (fun x y => x.addr + 1 == y.addr)).foldl (fun r run => Cp.andThen r (fun s _ =>
    match run with
    | [] => (s, .ok ())
    | x :: _ =>
      let (s1, bs) := s.putBytes o open_ run
      s1.cpWrite o x.share x.addr bs)) (s, .ok ())

/-! ### Tracked tiles (08 R263, 10 R325 to R327) -/

/-- The address of the tag of the tile at a physical address (17 R426). -/
def State.tagAddr (s : State) (pa : Nat) : Nat :=
  let st := pa / 0x1000000000
  bf (s.tagMap st) 12 36 * 4096 + 16 * (pa % 0x1000000000 / 4096)

/-- Words 0 and 1 of a tile's tag (10 R325). -/
def State.tileTag (s : State) (pa : Nat) : W64 × W64 := (s.phys8 (s.tagAddr pa) 0, s.phys8 (s.tagAddr pa + 8) 0)

/-- A tile is stale: its encoding is not that of the current rung of its entry (10 R327). -/
def State.stale (s : State) (tag : W64) : Bool :=
  let x := s.copyEntry (bf tag 48 12)
  x.valid && bf tag 0 10 != x.format

/-- The die that is home to a tile (01 R13, 10 R328), and the number of the engine that re-encodes it. -/
def couchOf (tile : Nat) : Nat := 4 * (tile * 4096 / 0x2000000000) + tile % 4

/-- A tracked copy touches a tile: it is served, waits for a job, or fails (08 R263, 10 R327). -/
def State.touch (s : State) (o : CopyOp) (want : Nat) (tile va : Nat) (store : Bool) : State × Cp Unit :=
  let c := s.ctxAt o.ctx
  Cp.andThen (s.cpXlate o tile store) (fun s1 p =>
    if !p.trk then (s1, .fail 10 va)
    else
      let t := p.pa / 4096
      let (w0, _) := s1.tileTag p.pa
      if s1.keyClash (s1.tagAddr p.pa) 0 then (s1, .fail 2 va)
      else if s1.stale w0 then
        if (s1.guessOf c).isSome then (s1, .drop 7)
        else
          let s2 := s1.physStore (s1.tagAddr p.pa) 0 (leBytes 8 (setf w0 62 2 1).toNat)
          let e := couchOf t
          let q := mget {} s2.hub.couch e
          ({ s2 with hub := { s2.hub with couch := mput s2.hub.couch e { q with queue := q.queue ++ [t] } } }, .wait t)
      else if bf w0 0 10 ≠ want then (s1, .fail 10 va)
      else (s1, .ok ()))

/-- Touches the tiles that an access lies in, each at the first address it needs. -/
def State.touchAll (s : State) (o : CopyOp) (want : Nat) (store : Bool) : List (Option Nat × Nat) → State × Cp Unit
  | [] => (s, .ok ())
  | (none, _) :: t => s.touchAll o want store t
  | (some tile, a) :: t =>
    Cp.andThen (s.touch o want tile a store) (fun s _ => s.touchAll o want store t)

/-- Does a copy load its tile from a tensor? -/
def CopyOp.loads (o : CopyOp) : Bool := match o.instr with | .tld _ => true | _ => false

/-- The address of a tracked copy's tensor. -/
def CopyOp.tensor (o : CopyOp) : Nat := if o.loads then o.src.toNat else o.dst.toNat

/-- ELOG of the tile at an address, where it translates for the copy to a page marked tracked and the field is legal. -/
def State.elogAt (s : State) (o : CopyOp) (va : Nat) : Option Nat :=
  match (s.xlateCtx o.ctx o.sup va (if o.loads then .r else .w)).2 with
  | .ok p =>
    let l := bf (s.tileTag p.pa).1 40 4
    if p.trk ∧ 8 ≤ l ∧ l ≤ 14 then some l else none
  | .err _ => none

/-- The linear elements at which the rows of a copy's tile begin. -/
def CopyOp.rowStarts (o : CopyOp) : List Nat :=
  (upto o.d.rows).map (fun r => (o.d.row0 o.loads + r) * o.d.pitch o.loads + o.d.col0 o.loads)

/-- The elements of a tile of the tensor a tracked copy works on; 0 for an untracked one.  10 R325 gives the number in the
tag of each tile: the model takes it from the tensor's first tile or, where the copy cannot reach that, from a tile that
agrees with it, and fails as the first tile fails where there is none (log entry 29).  A pitch that is no multiple of
256 makes the descriptor invalid (10 R326). -/
def State.tensE (s : State) (o : CopyOp) : Cp Nat :=
  if !o.trk then .ok 0
  else if o.d.pitch o.loads % 256 ≠ 0 then .fail 3 0
  else
    let va := o.tensor
    let far (x : Nat) : Option Nat := [14, 13, 12, 11, 10, 9, 8].find? (fun l => s.elogAt o (va + 4096 * (x / 2 ^ l)) == some l)
    match (s.elogAt o va).orElse (fun _ => o.rowStarts.findSome? far) with
    | some l => .ok (2 ^ l)
    | none =>
      (Cp.andThen (s.cpXlate o va (!o.loads)) (fun s _ => (s, .fail 10 va))).2

/-! ### A step of a copy -/

/-- The encoding a tracked copy asks for: SCH, BLK and FMT (08 R263). -/
def CopyOp.want (o : CopyOp) : Nat :=
  o.d.sch * 256 + o.d.blk * 32 + (match lcOf o.instr with | some f => f.fmt.toNat | none => 0)

/-- The next access of a started copy: a line of the row's source, or of its destination once the row has been read
(09 R287); after the last write the next row is due. -/
def State.cpStep (s : State) (o : CopyOp) : State × Cp CopyOp :=
  Cp.andThen (s, s.tensE o) (fun s e =>
    let steps := o.steps e
    let l := steps.getD o.done []
    let reads := readsOf l
    let next : CopyOp := { o with acc := o.acc + 1 }
    match reads[o.acc]? with
    | some ps =>
      Cp.andThen (s.touchAll o o.want false (ps.map (fun x => (x.tile, x.addr)))) (fun s _ =>
        Cp.andThen (s.cpReads o ps) (fun s bs => (s, .ok { next with got := o.got ++ bs })))
    | none =>
      let row : CopyOp := { o with done := o.done + 1, got := [], acc := 0 }
      match valuesOf l o.got with
      | .inl slot => (s, .fail 4 slot)
      | .inr vs =>
        let writes := writesOf (l.zip vs)
        let i := o.acc - reads.length
        match writes[i]? with
        | none => (s, .ok row)
        | some ps =>
          Cp.andThen (s.touchAll o o.want true (ps.map (fun x => (x.tile, x.addr)))) (fun s _ =>
            Cp.andThen (s.cpPuts o (inSpans (srcSpans steps)) ps) (fun s _ =>
              (s, .ok (if i + 1 < writes.length then next else row)))))

/-- The first share offset outside the share that a started copy would touch (08 R255). -/
def State.cpOutside (s : State) (o : CopyOp) (steps : List (List Seg)) : Option Nat :=
  let size := (s.resvAt (s.ctxAt o.ctx).resv).size
  let ends := steps.flatMap (fun l => l.flatMap (fun g => [(g.src.share, g.srcSpan), (g.dst.share, g.dst.span g.bits)]))
  (ends.filterMap (fun (sh, r) => if sh && decide (size < r.1 + r.2) && r.2 != 0 then some (max r.1 size) else none)).min?

/-- Does a copy move rows through an index list (08 R265)? -/
def CopyOp.listed (o : CopyOp) : Bool := match o.instr with | .rgather _ | .rscatter _ => true | _ => false

/-- The start of a copy: its descriptor is checked, its index list read line by line, and its place in the share checked
(08 R255, R256, R265). -/
def State.cpStart (s : State) (o : CopyOp) : State × Cp CopyOp :=
  let a := o.d.f 4 0 64
  let n := if o.listed then 4 * o.d.rows else 0
  let size := (s.resvAt (s.ctxAt o.ctx).resv).size
  if o.words.isEmpty then (s.logShare (s.ctxAt o.ctx) (o.ctx / 4) o.desc, .fail 6 o.desc)
  else if !o.descOk then (s, .fail 3 0)
  else if o.listed && inShare a && decide (size < a + n) then (s, .fail 3 (max a size))
  else match (rangePieces (inShare a) none (a, n))[o.acc]? with
    | some p => Cp.andThen (s.cpRead o p) (fun s bs => (s, .ok { o with got := o.got ++ bs, acc := o.acc + 1 }))
    | none =>
      let list := (upto (cdiv o.got.length 8)).map (fun i => w64 (leNat ((o.got.drop (8 * i)).take 8)))
      let o1 : CopyOp := { o with words := o.words.take 8 ++ list, got := [], acc := 0, done := 0, started := true }
      Cp.andThen (s, s.tensE o1) (fun s e =>
        match s.cpOutside o1 (o1.steps e) with
        | some x => (s, .fail 3 x)
        | none => (s, .ok o1))

/-! ### The engine's list -/

/-- A copy of a core by number. -/
def State.copyAt (s : State) (core id : Nat) : Option CopyOp := (s.coreAt core).copies.find? (fun o => o.id == id)

/-- Changes a copy. -/
def State.onCopy (s : State) (core id : Nat) (f : CopyOp → CopyOp) : State :=
  s.onCore core (fun c => { c with copies := c.copies.map (fun o => if o.id = id then f o else o) })

/-- A copy leaves its tag's count; the bit is set when the count of completed copies reaches zero (08 R257). -/
def Ctx.tagDone (c : Ctx) (tag : Nat) (set : Bool) : Ctx :=
  let n := mget 0 c.mem.tagCnt tag - 1
  { c with mem := { c.mem with
    tagCnt := mset 0 c.mem.tagCnt tag n
    tagBits := if set && n == 0 then setf c.mem.tagBits tag 1 1 else c.mem.tagBits } }

/-- The copy leaves the engine. -/
def State.removeCopy (s : State) (core id : Nat) : State :=
  s.onCore core (fun c => { c with copies := c.copies.filter (fun o => o.id ≠ id) })

/-- Free values for the rows a failed copy leaves incomplete, and its planes (08 R259): the bits of those rows and no
others (00 R6). -/
def State.scramble (s : State) (o : CopyOp) (l : List (List Seg)) : State :=
  l.foldl (fun s step => (writesOf (step.map (fun g => (g, 0)))).foldl (fun s ps => (s.cpPuts o (fun _ => true) ps).1) s) s

/-- The steps of a copy so far as they fix its destination: where the tiles of the tensor of a `tld` are not known its
image is, and where the list of a gather has not been read its rows are. -/
def State.destSteps (s : State) (o : CopyOp) : List (List Seg) :=
  match s.tensE o with
  | .ok e => (match o.instr with | .rscatter _ => if o.started then o.steps e else [] | _ => o.steps e)
  | _ => if o.loads then o.steps 256 else []

/-- A copy ends with a copy fault, kept until a wait on its tag reports it (08 R259); one whose descriptor is invalid has
performed nothing (R255).  In a guess the run is dropped (11 R344). -/
def State.failCopy (s : State) (core : Nat) (o : CopyOp) (cause va : Nat) : State :=
  if (s.guessOf (s.ctxAt o.ctx)).isSome then s.abandon o.ctx (if cause = 1 ∨ cause = 2 then 2 else 14)
  else
    let s1 := if cause = 3 ∨ o.words.isEmpty then s else s.scramble o ((s.destSteps o).drop o.done)
    (s1.removeCopy core o.id).onCtx o.ctx (fun c =>
      let c := c.tagDone o.tag false
      { c with mem := { c.mem with
        cfails := c.mem.cfails ++ [{ id := o.id, tag := o.tag, cause := cause, row := min o.done o.rowCount, detail := w64 va }] } })

/-- A copy stops for a translation fault: it is held at the fault queue, with the rows it has written (08 R259, 17 R423). -/
def State.holdCopy (s : State) (core : Nat) (o : CopyOp) (va level access : Nat) : State :=
  let c := s.ctxAt o.ctx
  if (s.guessOf c).isSome then s.abandon o.ctx 2
  else
    let h : Held := { trap := { cls := .slot, code := 0x20, detail := w64 va }, part := c.part, die := dieOf core, asid := c.asid,
                      va := w64 va, level := level, access := access, agent := 1 }
    s.onCopy core o.id (fun o => { o with hold := some h })

/-- Is the operation a collective, which the H-die completes (08 R274)? -/
def CopyOp.isColl (o : CopyOp) : Bool := match o.instr with | .coll _ => true | _ => false

/-- A copy may start: it is the first of its context and agent not started, and no earlier access that carries `.acq` or
that it waits on is in flight (08 R258, 09 R307). -/
def State.copyMayStart (s : State) (core : Nat) (o : CopyOp) : Bool :=
  !o.started && o.hold.isNone &&
    (s.coreAt core).copies.all (fun x => !(x.ctx == o.ctx && x.side == o.side && decide (x.id < o.id) && !x.started && !x.isColl)) &&
    (o.side != 0 || (s.ctxAt o.ctx).mem.pend.all (fun a => !(decide (a.id < o.seq) && (a.acq || (o.sbWait.isSome && decide (a.sbSet = o.sbWait))))))

/-- A copy's last row has been written. -/
def State.copyOver (s : State) (o : CopyOp) : Bool :=
  o.started && !o.isColl && (match s.tensE o with | .ok e => decide ((o.steps e).length ≤ o.done) | _ => false)

/-- The next access of a copy that may go on: of its start, or of a row; none where it may not. -/
def State.cpNext (s : State) (core : Nat) (o : CopyOp) : Option (State × Cp CopyOp) :=
  if o.isColl || o.hold.isSome || (o.waitTile.isSome && s.tileHeld (o.waitTile.getD 0)) then none
  else if !o.started then (if s.copyMayStart core o then some (s.cpStart o) else none)
  else if s.copyOver o then none
  else some (s.cpStep o)

/-- Work on a copy where it does not fail: its next access, or its wait. -/
def State.copyWork (s : State) (core : Nat) (o : CopyOp) : Out State :=
  match s.cpNext core o with
  | some (s1, .ok o1) => .next (s1.onCopy core o.id (fun _ => { o1 with waitTile := none }))
  | some (s1, .hold va l x) => .next (s1.holdCopy core o va l x)
  | some (s1, .wait t) => .next (s1.onCopy core o.id (fun o => { o with waitTile := some t }))
  | some (s1, .drop x) => .next (s1.abandon o.ctx x)
  | _ => .refused .notEnabled

/-- The failure a copy meets next, if it meets one. -/
def State.copyFails (s : State) (core : Nat) (o : CopyOp) : Option (State × Nat × Nat) :=
  match s.cpNext core o with
  | some (s1, .fail x v) => some (s1, x, v)
  | _ => none

/-- The lines that a copy has wholly written are no longer poisoned (09 R305). -/
def State.cpHeal (s : State) (o : CopyOp) (l : List (List Seg)) : State :=
  let c := s.ctxAt o.ctx
  let v := s.resvAt c.resv
  let spans := l.flatMap (fun step => step.map (fun g => (g.dst.share, g.dst.span g.bits)))
  let whole (r : List (Nat × Nat)) (line : Nat) : Bool := (upto 64).all (fun i => inSpans r (64 * line + i))
  let s1 := if v.poison.isEmpty then s else
    let r := spans.filterMap (fun x => if x.1 then some x.2 else none)
    s.onResv c.resv (fun v => { v with poison := v.poison.filter (fun p => !whole r p.1) })
  if s.mem.poison.isEmpty || (s.guessOf c).isSome then s1 else
    let r := (spans.flatMap (fun x => if x.1 then [] else rangePieces false none x.2)).filterMap (fun p =>
      match (s.xlateCtx o.ctx o.sup p.addr .w).2 with
      | .ok q => some (q.pa, p.n)
      | .err _ => none)
    { s1 with mem := { s1.mem with poison := s1.mem.poison.filter (fun p => !whole r p.1) } }

/-! ### Issue (08 R255, R257) -/

/-- A copy goes to the engine: its tag's bit clears and its count rises (08 R257). -/
def State.issueCopy (s : State) (core : Nat) (o : CopyOp) : State :=
  let s1 := { s with seq := s.seq + 1 }
  (s1.onCore core (fun c => { c with copies := c.copies ++ [{ o with id := s.seq, seq := s.seq }] })).onCtx o.ctx
    (fun c => { c with mem := { c.mem with
      tagBits := setf c.mem.tagBits o.tag 1 0
      tagCnt := mset 0 c.mem.tagCnt o.tag (mget 0 c.mem.tagCnt o.tag + 1) } })

/-- An address lies in the share or the global window. -/
def copyWin (size : Nat) (glob share : Bool) (a : W64) : Option Trap :=
  match winOf size a.toNat 1 with
  | some .share => if share then none else trapI 0x09 a.toNat
  | some .glob => if glob then none else trapI 0x09 a.toNat
  | _ => trapI 0x09 a.toNat

/-- A copy operation: destination and source may be global, and an address that must be 64-byte aligned (08 R255). -/
def copyDo (f : LC) (dstGlob srcGlob : Bool) (image : Env → Option W64) (i : Instr) : SlotSem :=
  let desc (e : Env) : W64 := e.c.r.rs f.sdsc.toNat
  { check := fun _ e =>
      firstTrap [copyWin e.share.size dstGlob true e.o.addrA, copyWin e.share.size srcGlob true e.o.addrB,
        winFault e.share.size 64 [.share] (desc e),
        if (desc e).toNat % 64 ≠ 0 then trapI 0x0A (desc e).toNat else none,
        match image e with | some a => if a.toNat % 64 ≠ 0 then trapI 0x0A a.toNat else none | none => none]
    wait := fun e s =>
      let (s1, w) := s.ask 101 32 (s.coreAt (e.k / 4)).copies.length
      let (s2, v) := s1.ask 102 16 (s1.copiesOf e.k).length
      (s2, w.orElse (fun _ => v))
    act := fun e s =>
      let d := (desc e).toNat
      let s1 := s.drainSpans e.k [(d, 64)]
      let r := s1.resvAt e.c.resv
      let ws := if (r.badIn d 64).isSome then [] else (upto 8).map (fun j => w64 (leNat (r.read (d + 8 * j) 8)))
      (s1.issueCopy (e.k / 4) { id := 0, instr := i, ctx := e.k, dst := e.o.addrA, src := e.o.addrB, desc := d, tag := f.tag.toNat,
                                sup := e.c.r.sup, seq := 0, sbWait := if f.we = 1 then some f.sbw.toNat else none, words := ws }, none) }

/-- A tile of a tensor to an image in the share (08 R261). -/
def semTld (f : LC) : SlotSem := copyDo f false true (fun e => some e.o.addrA) (.tld f)

@[inherit_doc semTld]
def execTld (f : LC) (s : State) : Out State := runSlot (.tld f) (semTld f) s

/-- An image in the share to a tile of a tensor (08 R262). -/
def semTst (f : LC) : SlotSem := copyDo f true false (fun e => some e.o.addrB) (.tst f)

@[inherit_doc semTst]
def execTst (f : LC) (s : State) : Out State := runSlot (.tst f) (semTst f) s

/-- Rows of bytes (08 R264). -/
def semCpy (f : LC) : SlotSem := copyDo f true true (fun _ => none) (.cpy f)

@[inherit_doc semCpy]
def execCpy (f : LC) (s : State) : Out State := runSlot (.cpy f) (semCpy f) s

/-- Rows gathered through an index list (08 R265). -/
def semRgather (f : LC) : SlotSem := copyDo f true true (fun _ => none) (.rgather f)

@[inherit_doc semRgather]
def execRgather (f : LC) (s : State) : Out State := runSlot (.rgather f) (semRgather f) s

/-- Rows scattered through an index list (08 R265). -/
def semRscatter (f : LC) : SlotSem := copyDo f true true (fun _ => none) (.rscatter f)

@[inherit_doc semRscatter]
def execRscatter (f : LC) (s : State) : Out State := runSlot (.rscatter f) (semRscatter f) s

/-! ### The engine's steps -/

/-- An issued copy starts: its descriptor is checked (08 R255). -/
def execCopyStart (core id : Nat) (s : State) : Out State :=
  match s.copyAt core id with
  | some o => if o.started then .refused .notEnabled else s.copyWork core o
  | none => .refused .notEnabled

/-- A copy that has performed every access leaves the engine, and its tag's count falls (08 R257). -/
def execCopyComplete (core id : Nat) (s : State) : Out State :=
  match s.copyAt core id with
  | some o =>
    if s.copyOver o then
      let s1 := s.cpHeal o (match s.tensE o with | .ok e => o.steps e | _ => [])
      .next ((s1.removeCopy core id).onCtx o.ctx (fun c => c.tagDone o.tag true))
    else .refused .notEnabled
  | none => .refused .notEnabled

/-- A copy stops on a fault (08 R259). -/
def execCopyFault (core id : Nat) (s : State) : Out State :=
  match s.copyAt core id with
  | some o =>
    match s.copyFails core o with
    | some (s1, x, v) => .next (s1.failCopy core o x v)
    | none => .refused .notEnabled
  | none => .refused .notEnabled

/-- A started copy performs its next access (08 R258, 09 R287). -/
def State.copyRow (s : State) (core id : Nat) : Out State :=
  match s.copyAt core id with
  | some o => if o.started then s.copyWork core o else .refused .notEnabled
  | none => .refused .notEnabled

end Sys2Proof.Machine
end

