-- ==== Sys2Proof/Machine/Runs.lean ====
section
/-!
DEFINITION. Packed runs of elements with their planes (03 R68, R84, R88; 08 R260, R274): values, encoding, and the
elements of a run with the scales that apply to them.
-/

namespace Sys2Proof.Machine

/-- A run: element codes, S9 codes or QC4 block codes, and QC4 group scales. -/
structure Run where
  codes : List Nat
  scales : List Nat := []
  groups : List Nat := []
  deriving DecidableEq, Repr

/-- Elements that one entry of the scale or block plane covers. -/
def scaleLen (f : FmtWord) : Nat := if f.sch = 2 then 64 else if f.sch = 1 then blkLen f.blk else 1

/-- Entries of the scale or block plane, and of the group plane, of a run of `n` elements, and bits of the former. -/
def scaleCount (f : FmtWord) (n : Nat) : Nat := if f.sch = 0 then 0 else cdiv n (scaleLen f)
@[inherit_doc scaleCount]
def groupCount (f : FmtWord) (n : Nat) : Nat := if f.sch = 2 then cdiv n 256 else 0
@[inherit_doc scaleCount]
def scaleBits (f : FmtWord) : Nat := if f.sch = 2 then 8 else 16

/-- The values of a run; a complex element gives its real and its imaginary part (03 R84, R88, R99). -/
def Run.vals (f : FmtWord) (r : Run) : List Num :=
  let t := fmtTy f.fmt
  match f.sch with
  | 1 => r.codes.zipIdx.map (fun p => scaled t p.1 (r.scales.getD (p.2 / blkLen f.blk) 0))
  | 2 => r.codes.zipIdx.map (fun p => qcVal p.1 (r.scales.getD (p.2 / 64) 0) (r.groups.getD (p.2 / 256) 0))
  | _ => if fmtCplx f.fmt then r.codes.flatMap (fun c => [t.dec (c % 2 ^ t.bits), t.dec (c / 2 ^ t.bits)]) else r.codes.map t.dec

/-- Codes of the parts of complex elements joined, real part low. -/
def pairParts (b : Nat) : List Nat → List Nat
  | re :: im :: t => (re + im * 2 ^ b) :: pairParts b t
  | _ => []

/-- Encodes values as a run in a mode (03 R85, R89, R96); `keep` gives the scale and codes of a block that keeps them
(10 R329). -/
def runEncode (f : FmtWord) (rm : Rnd) (ds : List (BitVec 32)) (keep : Nat → Option (Nat × List Nat)) (xs : List Num) : Run :=
  let t := fmtTy f.fmt
  let n := xs.length
  match f.sch with
  | 1 =>
    let l := blkLen f.blk
    let enc := ((blocksOf l n xs).zip (blocksOf l n ds)).zipIdx.map (fun (p, j) => (keep j).getD (s9Encode t rm p.2 p.1))
    { codes := enc.flatMap (fun e => e.2), scales := enc.map (fun e => e.1) }
  | 2 =>
    let enc := List.zipWith (fun x d => qcEncode rm d x) (blocksOf 256 n xs) (blocksOf 256 n ds)
    { codes := enc.flatMap (fun e => e.2.2), scales := enc.flatMap (fun e => e.2.1), groups := enc.map (fun e => e.1) }
  | _ =>
    let parts := List.zipWith (fun d x => t.enc rm d x) ds xs
    { codes := if fmtCplx f.fmt then pairParts t.bits parts else parts }

/-- The elements of a run with the scale and the group scale of each. -/
def Run.expand (f : FmtWord) (r : Run) : List (Nat × Nat × Nat) :=
  r.codes.zipIdx.map (fun p => (p.1, r.scales.getD (p.2 / scaleLen f) 0, r.groups.getD (p.2 / 256) 0))

/-- A run of elements with scales: each entry is that of the last element it covers.  A group scale over elements that
came with different ones is a free value of them (log entry 29). -/
def Run.collapse (f : FmtWord) (l : List (Nat × Nat × Nat)) : Run :=
  let n := l.length
  let last (i w : Nat) : Nat × Nat × Nat := l.getD (min (i * w + w) n - 1) (0, 0, 0)
  { codes := l.map (fun e => e.1)
    scales := (upto (scaleCount f n)).map (fun i => (last i (scaleLen f)).2.1)
    groups := (upto (groupCount f n)).map (fun i =>
      let gs := ((l.drop (256 * i)).take 256).map (fun e => e.2.2)
      if gs.all (fun g => g == gs.headD 0) then gs.headD 0 else (Config.mixedGroup gs).toNat) }

/-- Bytes padded with zeros to a length. -/
def padTo (n : Nat) (bs : List Byte) : List Byte := bs ++ List.replicate (n - bs.length) 0

/-- The bytes of a run followed by its planes, each from the next multiple of 64 (07 R213, 10 R326). -/
def Run.bytes (f : FmtWord) (r : Run) : List Byte :=
  let n := r.codes.length
  let eb := leBytes (runBytes (fmtBits f.fmt) n) (packEl (fmtBits f.fmt) r.codes)
  match f.sch with
  | 1 => padTo (alignUp eb.length 64) eb ++ leBytes (2 * r.scales.length) (packEl 16 r.scales)
  | 2 =>
    let o1 := alignUp eb.length 64
    padTo (alignUp (o1 + r.scales.length) 64) (padTo o1 eb ++ leBytes r.scales.length (packEl 8 r.scales)) ++
      leBytes (4 * r.groups.length) (packEl 32 r.groups)
  | _ => eb

/-- The run of `n` elements that bytes of this layout hold. -/
def Run.ofBytes (f : FmtWord) (n : Nat) (bs : List Byte) : Run :=
  let w := fmtBits f.fmt
  let p0 := alignUp (runBytes w n) 64
  let k := scaleCount f n
  let g := groupCount f n
  let b := scaleBits f
  { codes := elems w n (leNat (bs.take (runBytes w n)))
    scales := (elems b k (leNat ((bs.drop p0).take (b * k / 8)))).map (fun c => if b = 16 then c % 512 else c)
    groups := elems 32 g (leNat ((bs.drop (alignUp (p0 + k) 64)).take (4 * g))) }

end Sys2Proof.Machine
end

