-- ==== Sys2Proof/Machine/Couch.lean ====
section
/-!
DEFINITION. The Couch engines: re-encoding a tracked tile (10 R328, R329).
-/

namespace Sys2Proof.Machine

/-- Values as the parts of another encoding: real and complex elements differ in an imaginary part of
zero.  03 R98 calls this no conversion, and 10 R329 names no failure for it: the model's choice (log entry 27). -/
def asParts (from_ to_ : Bool) (l : List Num) : List Num :=
  if from_ == to_ then l else if to_ then l.flatMap (fun x => [x, .fin false 0 0]) else evens l

/-- A block under a kept S9 scale, where every element without its scale lies in the grid (10 R329). -/
def keptBlock (t : CvtTy) (raw : List Num) (scale : Nat) : Option (Nat × List Nat) :=
  let ok (v : Num) : Bool := v.isFin && Num.eqv (t.dec (t.enc .rne 0 v)) v
  if scale ≠ 0 && (s9Val scale).isFin && raw.all ok then some (scale, raw.map (fun v => t.enc .rne 0 v)) else none

/-- The bytes of a tile of `n` elements re-encoded (10 R329), zero beyond its last plane up to 4 KiB (10 R326); none
where they do not fit. -/
def reencode (a b : FmtWord) (n : Nat) (ds : List (BitVec 32)) (bs : List Byte) : Option (List Byte) :=
  let r := Run.ofBytes a n bs
  let raw := blocksOf (blkLen b.blk) n (r.codes.map (fmtTy a.fmt).dec)
  let keep (j : Nat) : Option (Nat × List Nat) :=
    if a.sch = 1 ∧ a.blk = b.blk then keptBlock (fmtTy b.fmt) (raw.getD j []) (r.scales.getD j 0) else none
  let out := (runEncode b (Rnd.get b.rnd) ds keep (asParts (fmtCplx a.fmt) (fmtCplx b.fmt) (r.vals a))).bytes b
  if 4096 < out.length then none else some (padTo 4096 out)

/-- The draws of a job: 32 generators seeded from the tile's address and GEN, for each part of elements 0 to E − 1
(10 R329, 03 R93, R94). -/
def jobDraws (b : FmtWord) (n pa gen : Nat) : List (BitVec 32) :=
  let z : W64 := w64 pa ^^^ w64 (gen * 2 ^ 48)
  let r : Regs := { gens := (upto 32).map (fun j => (j, genSeed z j)) }
  if b.rnd = 4 then (r.drawList (vDraws (fmtCplx b.fmt) n)).1 else List.replicate (2 * n) 0

/-- A job acts for the partition that owns the tile's stack, and reaches the tile and its tag as that master (17 R420,
R428). -/
def State.jobReaches (s : State) (pa : Nat) : Bool :=
  match (upto 8).find? (fun p => s.owns p (pa / 0x1000000000)) with
  | some p => (linesOf pa 4096).all (fun l => s.reaches p (64 * l)) && s.open_ p 0 (s.tagAddr pa) 16
  | none => false

/-- The result of a job on a tile: its bytes, or the cause of its failure: a denied request gives cause 2, as it does a
copy (10 R327, R329, 17 R428, log entry 30). -/
def State.jobResult (s : State) (tile target gen : Nat) : List Byte ⊕ Nat :=
  let pa := tile * 4096
  let w0 := (s.tileTag pa).1
  let a := FmtWord.of (bf w0 0 10)
  let b := FmtWord.of target
  let elog := bf w0 40 4
  let key (i : Nat) : Nat := mget 0 s.mem.wkey (pa / 64 + i)
  if !s.jobReaches pa then .inr 2
  else if !a.valid || elog < 8 || 14 < elog || !b.valid then .inr 10
  else if (s.badIn pa 4096).isSome then .inr 6
  else
    let bs := (upto 64).flatMap (fun i => s.lineBytes (pa / 64 + i) (key i))
    match reencode a b (2 ^ elog) (jobDraws b (2 ^ elog) pa gen) bs with
    | some r => .inl r
    | none => .inr 10

/-- An engine starts the job at the head of its queue, toward the rung that is current now (10 R328, R329). -/
def execCouchJobStart (eng : Nat) (s : State) : Out State :=
  let q := mget {} s.hub.couch eng
  match q.queue, q.job with
  | t :: rest, none =>
    let x := s.copyEntry (bf (s.tileTag (t * 4096)).1 48 12)
    .next { s with hub := { s.hub with couch := mput s.hub.couch eng { q with
      queue := rest, started := q.started + 1
      job := some (t, x.format + 1024 * x.rnd, x.gen, (q.started + 1).toNat) } } }
  | _, _ => .refused .notEnabled

/-- The tag after a job: settled, with the engine and the job's number; the encoding of a completed one (10 R325,
R327). -/
def State.settleTag (s : State) (eng tile num : Nat) (enc : Option Nat) : State :=
  let pa := tile * 4096
  let w0 := (s.tileTag pa).1
  let w1 := setf (setf w0 62 2 0) 60 2 (eng % 4)
  let w2 := match enc with | some e => setf w1 0 10 e | none => w1
  s.physStore (s.tagAddr pa) 0 (leBytes 8 w2.toNat ++ leBytes 8 num)

/-- The job's engine is free, and its counter rises (09 R308). -/
def State.endJob (s : State) (eng : Nat) : State :=
  let q := mget {} s.hub.couch eng
  { s with hub := { s.hub with couch := mput s.hub.couch eng { q with job := none, count := q.count + 1 } } }

/-- A job completes: the tile's lines and its tag are written (10 R327, R328). -/
def execCouchJobComplete (eng : Nat) (s : State) : Out State :=
  match (mget {} s.hub.couch eng).job with
  | some (tile, target, gen, num) =>
    match s.jobResult tile target gen with
    | .inl bs =>
      let s1 := (upto 64).foldl (fun s i =>
        let line := tile * 64 + i
        s.storeLine (64 * line) (mget 0 s.mem.wkey line) ((bs.drop (64 * i)).take 64)) s
      .next ((s1.settleTag eng tile num (some (target % 1024))).endJob eng)
    | .inr _ => .refused .notEnabled
  | none => .refused .notEnabled

/-- The first address that a copy needed in a tile, by its next step. -/
def State.needAddr (s : State) (o : CopyOp) (tile : Nat) : Nat :=
  let ld := match o.instr with | .tld _ => true | _ => false
  match s.tensE o with
  | .ok e =>
    let l := ((o.steps e).getD o.done []).map (fun g => if ld then g.src else g.dst)
    match l.find? (fun e => match e.tile with
      | some va => (match (s.cpXlate o va (!ld)).2 with
        | .ok p => p.pa / 4096 == tile
        | .wait t => t == tile
        | _ => false)
      | none => false) with
    | some e => e.addr + e.bit / 8
    | none => 0
  | _ => 0

/-- A job fails: the tag names it, and every tracked request it held ends in a copy fault; a plain access it held is then
served (10 R327). -/
def execCouchJobFail (eng : Nat) (s : State) : Out State :=
  match (mget {} s.hub.couch eng).job with
  | some (tile, target, gen, num) =>
    match s.jobResult tile target gen with
    | .inr cause =>
      let held := s.cores.flatMap (fun c => (c.2.copies.filter (fun o => o.trk && o.waitTile == some tile)).map (fun o => (c.1, o)))
      let s0 := (s.settleTag eng tile num none).endJob eng
      .next (held.foldl (fun s x => s.failCopy x.1 x.2 cause (s0.needAddr x.2 tile)) s0)
    | .inl _ => .refused .notEnabled
  | none => .refused .notEnabled

end Sys2Proof.Machine
end

