-- ==== Sys2Proof/Machine/Rings.lean ====
section
/-!
DEFINITION. Circular-buffer rings: handles, waits and pointers (08 R250 to R254).
-/

namespace Sys2Proof.Machine

/-- The faults of a ring descriptor (08 R251). -/
def descFault (size : Nat) (d : W64) : Option Trap :=
  let h := Handle.ofDesc d
  if bf d 39 25 ≠ 0 ∨ bf d 0 6 ≠ 0 then some { cls := .issue, code := 0x0D, detail := d }
  else if h.slot ≠ 0 ∧ size < h.base * 64 + h.depth * (h.slot * 64) then trapI 0x09 (h.base * 64)
  else none

/-- Deferred pushes of a context, of one handle or of all (08 R253). -/
def Ctx.deferred (c : Ctx) (h : Option Nat) : List Access :=
  c.mem.pend.filter (fun a => a.deferred && (match h with | some n => a.va == w64 n | none => true))

/-- The handles of context `k` after a ring operation of it (08 R252). -/
def State.moveRing (s : State) (e : Env) (i : Instr) : State :=
  s.onCtx e.k (fun c => c.onR (fun r => { r with hs := ringMove i { e.c.r with hs := r.hs } }))

/-- Configures a handle; the core stalls until its deferred pushes have completed (08 R251). -/
def semCbcfg (f : LM) : SlotSem :=
  { check := fun _ e => descFault e.share.size (e.c.r.rs (bf f.data 0 6))
    stall := fun e s => !((s.ctxAt e.k).deferred (some (cbHandle f))).isEmpty
    act := fun e s => (s.moveRing e (.cbcfg f), none) }

@[inherit_doc semCbcfg]
def execCbcfg (f : LM) (s : State) : Out State := runSlot (.cbcfg f) (semCbcfg f) s

/-- The ring-handle and ring-offset faults of a pointer operation (08 R252). -/
def cbCheck (f : LM) (_ : State) (e : Env) : Option Trap :=
  let h := e.c.handle (cbHandle f)
  if h.slot = 0 then trapI 0x0D (cbHandle f) else if h.depth < cbCount f then trapI 0x0F (cbHandle f) else none

/-- The share offsets of the slots a pointer operation names, from the consumer or the producer pointer. -/
def cbSlots (hd : Handle) (prod : Bool) (n : Nat) : List Nat :=
  (upto n).map (fun j => hd.at ((if prod then hd.pp else hd.cp) + j))

/-- Blocks until the slots are filled, or free; pointers and tags are as the packet's earlier slots leave them (08 R252). -/
def cbBlock (i : Instr) (f : LM) (prod : Bool) : SlotSem :=
  { check := cbCheck f
    wait := fun e s =>
      let (s1, w) := lmWait i f e s
      let ok := (cbSlots (e.c.handle (cbHandle f)) prod (cbCount f)).all (fun o => s1.tagSeen e.c.resv (o / 8) != prod)
      (s1, w.orElse (fun _ => if ok then none else some {}))
    act := fun _ s => (s, none) }

/-- Blocks until slots CP on are filled (08 R252). -/
def semCbwait (f : LM) : SlotSem := cbBlock (.cbwait f) f false

@[inherit_doc semCbwait]
def execCbwait (f : LM) (s : State) : Out State := runSlot (.cbwait f) (semCbwait f) s

/-- Blocks until slots PP on are free (08 R252). -/
def semCbresv (f : LM) : SlotSem := cbBlock (.cbresv f) f true

@[inherit_doc semCbresv]
def execCbresv (f : LM) (s : State) : Out State := runSlot (.cbresv f) (semCbresv f) s

/-- The access that changes the slot tags: after the context's earlier accesses to the slots (08 R253). -/
def tagAccess (f : LM) (e : Env) (s : State) (hd : Handle) (prod : Bool) (tag : Option Nat) : Access :=
  let sl := cbSlots hd prod (cbCount f)
  lmAccess f e s (.ringTags sl (hd.slot * 64) prod tag) 8 (w64 (cbHandle f), .share (sl.headD 0), none)

/-- Empties slots CP on, and moves CP (08 R252, R253). -/
def semCbpop (f : LM) : SlotSem :=
  { check := cbCheck f
    wait := fun e s =>
      let (s1, w) := lmWait (.cbpop f) f e s
      (s1.noteTags false ((cbSlots (e.c.handle (cbHandle f)) false (cbCount f)).map (fun o => o / 8)), w)
    act := fun e s =>
      ((s.performNow e.k (tagAccess f e s ((s.ctxAt e.k).handle (cbHandle f)) false none)).moveRing e (.cbpop f), none) }

@[inherit_doc semCbpop]
def execCbpop (f : LM) (s : State) : Out State := runSlot (.cbpop f) (semCbpop f) s

/-- Fills slots PP on, at once or when a copy tag is set, and moves PP (08 R252, R253). -/
def semCbpush (f : LM) : SlotSem :=
  let defer := bit f.data 4
  { check := cbCheck f
    wait := fun e s =>
      let (s1, w) := lmWait (.cbpush f) f e s
      if defer then
        let (s2, w2) := s1.ask 100 4 ((s1.ctxAt e.k).deferred none).length
        (s2, w.orElse (fun _ => w2))
      else (s1.noteTags true ((cbSlots (e.c.handle (cbHandle f)) true (cbCount f)).map (fun o => o / 8)), w)
    act := fun e s =>
      let a := tagAccess f e s ((s.ctxAt e.k).handle (cbHandle f)) true (if defer then some (bf f.data 0 4) else none)
      ((if defer then s.launch e.k [a] else s.performNow e.k a).moveRing e (.cbpush f), none) }

@[inherit_doc semCbpush]
def execCbpush (f : LM) (s : State) : Out State := runSlot (.cbpush f) (semCbpush f) s

/-- The oldest deferred push of a handle sets its slot tags once its copy tag is set (08 R253). -/
def execDeferredPush (c h : Nat) (s : State) : Out State :=
  match (s.ctxAt c).deferred (some h) with
  | a :: _ => if (s.ctxAt c).canPerform a then .next (s.perform c a) else .refused .notEnabled
  | [] => .refused .notEnabled

end Sys2Proof.Machine
end

