-- ==== Sys2Proof/Machine/Coll.lean ====
section
/-!
DEFINITION. Collectives (08 R274 to R276): the descriptor, membership, the fixed tree, and completion or failure.
-/

namespace Sys2Proof.Machine

/-! ### The descriptor (08 R274) -/

/-- The fields of a collective that every member must agree on. -/
structure CollArgs where
  cop : Nat
  level : Nat
  root : Nat
  count : Nat
  f : FmtWord
  deriving DecidableEq, Repr

/-- The fields of a collective's descriptor. -/
def CopyOp.collArgs (o : CopyOp) : CollArgs :=
  let d := o.d
  { cop := d.f 0 0 3, level := d.f 0 4 3, root := d.f 0 16 16, count := d.f 1 0 32
    f := ⟨d.f 3 37 3, d.sch, d.blk, match lcOf o.instr with | some f => f.fmt.toNat | none => 0⟩ }

/-- The descriptor's own limits (08 R274). -/
def CopyOp.collOk (o : CopyOp) : Bool :=
  let a := o.collArgs
  let d := o.d
  !o.words.isEmpty && decide (a.cop ≤ 6) && d.f 0 3 1 == 0 && decide (2 ≤ a.level) && decide (a.level ≤ 6) && d.f 0 7 9 == 0 &&
    d.f 0 32 32 == 0 && decide (1 ≤ a.count) && d.f 1 32 32 == 0 && d.f 2 0 64 == 0 && d.f 3 0 32 == 0 && d.f 3 40 24 == 0 &&
    decide (a.f.rnd ≤ 3) && a.f.valid

/-- The limits that depend on the number of members (08 R274). -/
def CollArgs.sizeOk (a : CollArgs) (z : Nat) : Bool :=
  decide (a.root < z) && ((a.cop != 1 && a.cop != 4) || a.count % z == 0) &&
    (a.f.sch == 0 || a.count % (z * scaleLen a.f) == 0)

/-! ### Values (08 R275) -/

/-- The combine format; none for exact integers. -/
def combineFl (f : FmtWord) : Option Fl :=
  if f.sch = 0 then
    match fmtTy f.fmt with
    | .int _ => none
    | .fl t => if t = .fp64 ∨ t = .fp32 then some .fp64 else some .fp32
  else some .fp32

/-- Combines two values: sum, max (`op` 5) or min (`op` 6) (08 R275). -/
def combine (fl : Option Fl) (op : Nat) (x y : Num) : Num :=
  match fl with
  | some t =>
    if op = 5 then t.decode (t.minmax true (t.rne x) (t.rne y))
    else if op = 6 then t.decode (t.minmax false (t.rne x) (t.rne y))
    else t.decode (t.addr .rne 0 [x, y])
  | none =>
    if op = 5 then (if Num.lt x y then y else x)
    else if op = 6 then (if Num.lt y x then y else x)
    else sumExact false [x, y]

/-- One level of the pairwise tree: an odd member stands alone. -/
def pairUp (g : Num → Num → Num) : List Num → List Num
  | x :: y :: t => g x y :: pairUp g t
  | l => l

/-- The whole tree over member values in index order (08 R275); `fuel` bounds its levels. -/
def treeOf (g : Num → Num → Num) : Nat → List Num → Num
  | _, [x] => x
  | f + 1, l => treeOf g f (pairUp g l)
  | 0, _ => .nan

/-- Elements [o, o + n) of the reduction of the members' runs, as a run of their own (08 R275). -/
def reduceRuns (a : CollArgs) (rs : List Run) (o n : Nat) : Run :=
  let fl := combineFl a.f
  let parts := if a.f.sch = 0 ∧ fmtCplx a.f.fmt then 2 else 1
  let vs := rs.map (fun r => (((r.vals a.f).drop (parts * o)).take (parts * n)).map (fun x =>
    match fl with | some t => t.decode (t.rne x) | none => x))
  let col (i : Nat) : List Num := vs.map (fun v => v.getD i .nan)
  let out := (upto (parts * n)).map (fun i => treeOf (combine fl a.cop) rs.length (col i))
  runEncode a.f (Rnd.get a.f.rnd) (out.map (fun _ => 0)) (fun _ => none) out

/-- Elements [o, o + n) of a run. -/
def Run.slice (f : FmtWord) (r : Run) (o n : Nat) : List (Nat × Nat × Nat) := ((r.expand f).drop o).take n

/-- The destination run of member `m` (08 R274); a reduction is converted for the run that holds it. -/
def collDest (a : CollArgs) (rs : List Run) (m : Nat) : Run :=
  let c := a.count / rs.length
  match a.cop with
  | 1 => reduceRuns a rs (m * c) c
  | 2 => Run.collapse a.f (rs.flatMap (fun r => r.expand a.f))
  | 3 => rs.getD a.root ⟨[], [], []⟩
  | 4 => Run.collapse a.f (rs.flatMap (fun r => r.slice a.f (m * c) c))
  | _ => reduceRuns a rs 0 a.count

/-! ### Runs in memory -/

/-- The source ranges of a member: its elements and their planes (08 R260, R274). -/
def collSpans (o : CopyOp) : List (Nat × Nat) :=
  let a := o.collArgs
  [(o.src.toNat, runBytes (fmtBits a.f.fmt) a.count), (o.d.f 4 0 64, scaleBits a.f * scaleCount a.f a.count / 8),
   (o.d.f 5 0 64, 4 * groupCount a.f a.count)]

/-- The reads of a member's source, line by line (09 R287). -/
def collReads (o : CopyOp) : List (List Piece) :=
  ((collSpans o).flatMap (fun r => rangePieces (inShare r.1) none r)).splitBy (fun x y => x.addr / 64 == y.addr / 64)

/-- A member's whole source has been read. -/
def CopyOp.collRead (o : CopyOp) : Bool := decide ((collReads o).length ≤ o.acc)

/-- The source run of a member, from the bytes it has read. -/
def CopyOp.collRun (o : CopyOp) : Run :=
  let a := o.collArgs
  let w := fmtBits a.f.fmt
  let eb := runBytes w a.count
  let k := scaleCount a.f a.count
  let b := scaleBits a.f
  { codes := elems w a.count (leNat (o.got.take eb))
    scales := (elems b k (leNat ((o.got.drop eb).take (b * k / 8)))).map (fun c => if b = 16 then c % 512 else c)
    groups := elems 32 (groupCount a.f a.count) (leNat (o.got.drop (eb + b * k / 8))) }

/-- The writes of a member's destination run. -/
def runMoves (o : CopyOp) (r : Run) : List (Seg × Nat) :=
  let a := o.collArgs
  let w := fmtBits a.f.fmt
  let n := r.codes.length
  let b := scaleBits a.f
  let mv (x bits v : Nat) : List (Seg × Nat) :=
    if bits = 0 then []
    else
      let at_ : End := { addr := x, bit := 0, share := inShare x }
      [({ src := at_, dst := at_, bits := bits }, v)]
  mv o.dst.toNat (if w = 6 then 8 * runBytes 6 n else w * n) (packEl w r.codes) ++
    mv (o.d.f 6 0 64) (b * r.scales.length) (packEl b r.scales) ++ mv (o.d.f 7 0 64) (32 * r.groups.length) (packEl 32 r.groups)

/-- Elements of a member's destination. -/
def CollArgs.destLen (a : CollArgs) (z : Nat) : Nat := if a.cop = 1 then a.count / z else if a.cop = 2 then z * a.count else a.count

/-- The writes of a member's destination, line by line (09 R287). -/
def collWrites (o : CopyOp) (r : Run) : List (List Put) := writesOf (runMoves o r)

/-- The first share offset outside the share that a member's runs touch (08 R255). -/
def State.collOutside (s : State) (o : CopyOp) (z : Nat) : Option Nat :=
  let a := o.collArgs
  let size := (s.resvAt (s.ctxAt o.ctx).resv).size
  let n := a.destLen z
  let dst : List (Nat × Nat) := [(o.dst.toNat, runBytes (fmtBits a.f.fmt) n), (o.d.f 6 0 64, scaleBits a.f * scaleCount a.f n / 8),
    (o.d.f 7 0 64, 4 * groupCount a.f n)]
  ((collSpans o ++ dst).filterMap (fun r => if r.2 ≠ 0 ∧ r.1 < 0x100000 ∧ size < r.1 + r.2 then some (max r.1 size) else none)).min?

/-! ### Membership and issue (08 R276) -/

/-- The contexts of a task in a unit of a level, by key (01 R16). -/
def State.groupAt (s : State) (task level unit_ : Nat) : List Nat :=
  ((s.ctxsOf task).filter (fun e => unitOf level e.1 == unit_)).map (fun e => e.1)

/-- The key of a group's timeline and barrier counters. -/
def groupKey (task level unit_ : Nat) : Nat := (task * 8 + level) * 4096 + unit_

/-- A copy of a collective that has failed ends with a copy fault; unless its descriptor is at fault, its destination
holds free values (08 R259, R276). -/
def State.failMember (s : State) (x : Coll) (k id cause va : Nat) : State :=
  match s.copyAt (k / 4) id with
  | none => s
  | some o =>
    let a := o.collArgs
    let n := a.destLen x.members.length
    let dummy : Run := { codes := List.replicate n 0, scales := List.replicate (scaleCount a.f n) 0,
                         groups := List.replicate (groupCount a.f n) 0 }
    let s1 := if cause = 3 then s else (collWrites o dummy).foldl (fun s ps => (s.cpPuts o (fun _ => true) ps).1) s
    s1.failCopy (k / 4) o cause va

/-- A collective that has failed is remembered until every member has issued it, so that a late one takes its fault
(08 R276). -/
def Coll.over (x : Coll) : Bool := x.ended && x.members.all (fun m => x.issued.any (fun e => e.1 == m))

/-- A context's k-th collective at a level: the group's k-th, whose members are fixed by the first that issues; one that
has failed already fails this copy too (08 R276). -/
def State.joinColl (s : State) (k level copy : Nat) : State :=
  let c := s.ctxAt k
  let n := mget 0 c.mem.collNo level + 1
  let s1 := s.onCtx k (fun c => { c with mem := { c.mem with collNo := mset 0 c.mem.collNo level n } })
  let u := unitOf level k
  let mine (x : Coll) : Bool := x.task == c.task && x.level == level && x.unit_ == u && x.k == n
  let live := (s.groupAt c.task level u).filter (fun j => (s.ctxAt j).counts)
  let add (x : Coll) : Coll := { x with members := if x.members.isEmpty then live else x.members, issued := x.issued ++ [(k, copy)] }
  let old := s1.hub.colls
  let all := if (old.any mine) then old.map (fun x => if mine x then add x else x)
    else old ++ [add { task := c.task, level := level, unit_ := u, k := n, members := [] }]
  let s2 := { s1 with hub := { s1.hub with colls := all.filter (fun x => !x.over) } }
  match all.find? mine with
  | some x => if x.ended then s2.failMember x k copy x.cause 0 else s2
  | none => s2

/-- Takes part in one collective of the group at a level (08 R274); a guess is dropped (08 R276). -/
def semColl (f : LC) : SlotSem :=
  let base := copyDo f true true (fun _ => none) (.coll f)
  { base with act := fun e s =>
      if (s.guessOf e.c).isSome then (s.noteDrop 4, none)
      else
        let id := s.seq
        let (s1, t) := base.act e s
        match s1.copyAt (e.k / 4) id with
        | some o =>
          if o.collOk then (s1.joinColl e.k o.collArgs.level id, t)
          else (s1.failCopy (e.k / 4) o (if o.words.isEmpty then 6 else 3) (if o.words.isEmpty then o.desc else 0), t)
        | none => (s1, t) }

@[inherit_doc semColl]
def execColl (f : LC) (s : State) : Out State := runSlot (.coll f) (semColl f) s

/-! ### Completion (08 R276, 09 R308) -/

/-- The packages of a task's gang, and this package's part. -/
def State.gangOf (s : State) (t : Nat) : Nat × Nat :=
  let l := (s.taskAt t).l
  if l.gang = 0 then (1, 0) else (max 1 l.gpkgs.toNat, l.gpart.toNat)

/-- Every other part of a task's gang has announced itself, where a level is that of the gang (16 R411, 18 R435). -/
def State.gangMet (s : State) (t level : Nat) : Bool :=
  let (parts, part) := s.gangOf t
  let l := (s.taskAt t).l
  level != 6 || (upto parts).all (fun p => p == part ||
    s.mgmt.anns.any (fun (x : Announce) => x.gangid == l.gangid.toNat && x.gpart == p && x.gpkgs == parts))

/-- A collective ends: its timeline rises (09 R308).  One that completed is forgotten; one that failed is, once every
member has issued it. -/
def State.endColl (s : State) (x : Coll) (cause : Option Nat) : State :=
  let key := groupKey x.task x.level x.unit_
  let x1 : Coll := { x with ended := true, cause := cause.getD 0 }
  { s with hub := { s.hub with
    colls := if cause.isNone || x1.over then s.hub.colls.filter (fun y => y ≠ x) else s.hub.colls.map (fun y => if y = x then x1 else y)
    collTl := mset 0 s.hub.collTl key (mget 0 s.hub.collTl key + 1) } }

/-- Every member that has issued ends with a copy fault; the member `own` with its own cause and address. -/
def State.failColl (s : State) (x : Coll) (cause : Nat) (own : Option (Nat × Nat × Nat)) : State :=
  (x.issued.foldl (fun s (k, id) =>
    let (ca, va) := match own with | some (j, c, v) => if j = k then (c, v) else (cause, 0) | none => (cause, 0)
    s.failMember x k id ca va) s).endColl x (some cause)

/-- The copies of a collective, in member order. -/
def State.collOps (s : State) (x : Coll) : List (Nat × CopyOp) :=
  x.members.filterMap (fun m => (x.issued.find? (fun e => e.1 == m)).bind (fun e => (s.copyAt (m / 4) e.2).map (fun o => (m, o))))

/-- Runs of the remote parts in part order with the local ones in place, and the index of the first local member
(18 R435). -/
def allRuns (a : CollArgs) (part : Nat) (loc : List Run) (remote : List (Nat × List Nat × List Byte)) (parts : Nat) : List Run × Nat :=
  let len := (Run.bytes a.f { codes := List.replicate a.count 0, scales := List.replicate (scaleCount a.f a.count) 0,
                              groups := List.replicate (groupCount a.f a.count) 0 }).length
  let of_ (p : Nat) : List Run :=
    if p = part then loc
    else match remote.find? (fun e => e.1 == p) with
      | some (_, _, bs) => (upto (bs.length / len)).map (fun i => Run.ofBytes a.f a.count ((bs.drop (len * i)).take len))
      | none => []
  ((upto parts).flatMap of_, ((upto part).flatMap of_).length)

/-- The oldest collective of a group at a level that has not ended. -/
def State.collAt (s : State) (task level unit_ : Nat) : Option Coll :=
  s.hub.colls.find? (fun x => x.task == task && x.level == level && x.unit_ == unit_ && !x.issued.isEmpty && !x.ended)

/-- Its packages and this package's part, the runs of all members in order, and the index of the first local one. -/
def State.collAll (s : State) (x : Coll) : List Run × Nat :=
  let (parts, part) := if x.level = 6 then s.gangOf x.task else (1, 0)
  let ops := s.collOps x
  allRuns ((ops.head?.map (fun p => p.2.collArgs)).getD ⟨0, 0, 0, 0, ⟨0, 0, 0, 0⟩⟩) part (ops.map (fun p => p.2.collRun)) x.remote parts

/-- Every member has issued, no copy of it is held, and each may start (08 R276, 09 R307). -/
def State.collMet (s : State) (x : Coll) : Bool :=
  let ops := s.collOps x
  let parts := if x.level = 6 then (s.gangOf x.task).1 else 1
  decide (ops.length = x.members.length) && decide (parts ≤ x.remote.length + 1) && s.gangMet x.task x.level &&
    ops.all (fun p => p.2.hold.isNone && s.copyMayStart (p.1 / 4) p.2)

/-- The destination run of a local member, where every source has been read. -/
def State.collOut (s : State) (x : Coll) (k : Nat) : Option Run :=
  let ops := s.collOps x
  let (rs, first) := s.collAll x
  if ops.all (fun p => p.2.collRead) then
    (ops.zipIdx.find? (fun p => p.1.1 == k)).map (fun p => collDest p.1.2.collArgs rs (first + p.2))
  else none

/-- The next access of a member's copy: a line of its source or, once every source has been read, of its destination
(09 R287); none where it has no more, or must wait. -/
def State.collNext (s : State) (x : Coll) (o : CopyOp) : Option (State × Cp CopyOp) :=
  if o.waitTile.isSome && s.tileHeld (o.waitTile.getD 0) then none
  else
    let next : CopyOp := { o with acc := o.acc + 1, waitTile := none }
    match (collReads o)[o.acc]? with
    | some ps => some (Cp.andThen (s.cpReads o ps) (fun s bs => (s, .ok { next with got := o.got ++ bs })))
    | none =>
      match (s.collOut x o.ctx).bind (fun r => (collWrites o r)[o.acc - (collReads o).length]?) with
      | some ps => some (Cp.andThen (s.cpPuts o (inSpans (collSpans o)) ps) (fun s _ => (s, .ok next)))
      | none => none

/-- A member's destination has been written. -/
def State.collDone (s : State) (x : Coll) (o : CopyOp) : Bool :=
  match s.collOut x o.ctx with
  | some r => decide ((collReads o).length + (collWrites o r).length ≤ o.acc)
  | none => false

/-- Why a collective fails: the cause for its members, and the member with a cause and an address of its own (08 R276). -/
def State.collFailure (s : State) (x : Coll) : Option (State × Nat × Option (Nat × Nat × Nat)) :=
  let ops := s.collOps x
  let args := ops.map (fun p => p.2.collArgs)
  let rargs (a : CollArgs) : List Nat := [a.cop, a.level, a.root, a.count, a.f.rnd, a.f.sch, a.f.blk, a.f.fmt]
  match args with
  | [] => none
  | a :: _ =>
    if args.any (fun b => b ≠ a) || x.remote.any (fun r => r.2.1 ≠ rargs a) then some (s, 7, none)
    else if x.members.any (fun m => !x.issued.any (fun e => e.1 == m) && !((s.ctxAt m).task == x.task && (s.ctxAt m).counts)) then
      some (s, 8, none)
    else if !s.collMet x then none
    else if !a.sizeOk (s.collAll x).1.length then some (s, 3, none)
    else
      match ops.findSome? (fun p => (s.collOutside p.2 (s.collAll x).1.length).map (fun v => (p.1, v))) with
      | some (m, v) => some (s, 8, some (m, 3, v))
      | none =>
        ops.findSome? (fun p => match s.collNext x p.2 with
          | some (s1, .fail y v) => some (s1, 8, some (p.1, y, v))
          | _ => none)

/-- The oldest collective of a group can still move. -/
def State.collMoves (s : State) (x : Coll) : Bool :=
  decide (s.collAt x.task x.level x.unit_ = some x) && ((s.collFailure x).isSome || s.collMet x)

/-- The next access of a copy of a collective. -/
def State.collWork (s : State) (core : Nat) (o : CopyOp) : Out State :=
  match s.hub.colls.find? (fun x => x.issued.contains (o.ctx, o.id) && decide (s.collAt x.task x.level x.unit_ = some x)) with
  | none => .refused .notEnabled
  | some x =>
    if (s.collFailure x).isSome || !s.collMet x then .refused .notEnabled
    else match s.collNext x o with
      | some (s1, .ok o1) => .next (s1.onCopy core o.id (fun _ => o1))
      | some (s1, .hold va l y) => .next (s1.holdCopy core o va l y)
      | some (s1, .wait t) => .next (s1.onCopy core o.id (fun o => { o with waitTile := some t }))
      | _ => .refused .notEnabled

/-- The next access of a copy that has started, or of a copy of a collective. -/
def State.rowMove (s : State) (core id : Nat) : Out State :=
  match s.copyAt core id with
  | some o => if o.isColl then s.collWork core o else s.copyRow core id
  | none => .refused .notEnabled

/-- The oldest collective of a group at a level completes, every member's tag counting it, or fails (08 R276). -/
def execCollectiveComplete (task level unit_ : Nat) (s : State) : Out State :=
  match s.collAt task level unit_ with
  | none => .refused .notEnabled
  | some x =>
    match s.collFailure x with
    | some (s1, cause, own) => .next (s1.failColl x cause own)
    | none =>
      if s.collMet x && (s.collOps x).all (fun p => s.collDone x p.2) then
        .next (((s.collOps x).foldl (fun s (k, o) => (s.removeCopy (k / 4) o.id).onCtx k (fun c => c.tagDone o.tag true)) s).endColl x none)
      else .refused .notEnabled

end Sys2Proof.Machine
end

