-- ==== Sys2Proof/Machine/Start.lean ====
section
/-!
DEFINITION. How a context starts, at placement or by `spawn` (01 R31, 02 R46, R47, R53, 08 R283, R284): its chunk, its
dispatch registers, its sidecars.
-/

namespace Sys2Proof.Machine

/-! ### Kernel descriptors (02 R40) -/

/-- A field of a task's kernel descriptor: `n` bits from bit `lo` of a word. -/
def Task.df (t : Task) (w lo n : Nat) : Nat := bf (t.desc.getD w 0) lo n

/-- The wait-limit exponent: 24 for WLOG = 0 (02 R40, R47). -/
def Task.wlog (t : Task) : Nat := if t.df 3 48 6 = 0 then 24 else t.df 3 48 6

/-! ### The range (02 R46) -/

/-- The middle of a piece, on a chunk boundary. -/
def halfOf (a b grain : Nat) : Nat := min b (a + grain * cdiv (cdiv (b - a) grain) 2)

/-- The largest piece, the lowest of equals. -/
def largest (l : List (Nat × Nat × Nat)) : Option (Nat × Nat × Nat) :=
  l.foldl (fun m p => match m with
    | none => some p
    | some q => if q.2.1 - q.1 < p.2.1 - p.1 ∨ (q.2.1 - q.1 = p.2.1 - p.1 ∧ p.1 < q.1) then some p else some q) none

/-- Gives die `d` a piece where it owns none: half of the largest. -/
def stealFor (grain d : Nat) (l : List (Nat × Nat × Nat)) : List (Nat × Nat × Nat) :=
  if l.any (fun p => p.2.2 == d) then l
  else match largest l with
    | none => l
    | some (a, b, o) =>
      let m := halfOf a b grain
      if m < b then l.erase (a, b, o) ++ [(a, m, o), (m, b, d)] else l.erase (a, b, o) ++ [(a, b, d)]

/-- One chunk for a context of die `d`: the chunk and the task with the rest of its pool. -/
def Task.takeChunk (t : Task) (d : Nat) : (W64 × W64) × Task :=
  let g := t.l.grain.toNat
  let l := stealFor g d t.pieces
  match l.find? (fun p => p.2.2 == d) with
  | none => ((t.l.hi, t.l.hi), t)
  | some (a, b, o) =>
    let m := halfOf a b g
    let rest := l.erase (a, b, o)
    ((w64 a, w64 m), { t with pieces := if m < b then rest ++ [(m, b, o)] else rest })

/-! ### Dispatch registers (02 R47) -/

/-- The members of a context's group on this package, in index order (02 R43). -/
def Task.membersOf (t : Task) (num k : Nat) : List Nat :=
  ((t.groups.find? (fun g => g.num == num && g.members.contains k)).map (fun g => g.members)).getD [k]

/-- d0 to d15 of context `k` with a chunk (02 R47).  For a spawned context d4 H and K are those of the hands that it holds
itself, as R47 says of them, though 02 R53 says that its d-registers match the spawner's: the model's choice (log entry
27). -/
def State.dregs (s : State) (k : Nat) (chunk : W64 × W64) : SMap W64 :=
  let c := s.ctxAt k
  let t := s.taskAt c.task
  let l := t.l
  let ms := t.membersOf c.group k
  let parts := if l.gang = 0 then 1 else l.gpkgs.toNat
  let part := if l.gang = 0 then 0 else l.gpart.toNat
  let gidx := part * ms.length + ms.idxOf k
  let d3 := l.glev.toNat * 2 ^ 48 + c.group % 65536 * 2 ^ 32 + ms.length * parts % 65536 * 2 ^ 16 + gidx % 65536
  let d4 := k % 4 * 2 ^ 46 + c.mx.nTiles * 2 ^ 40 + c.mx.nBanks * 2 ^ 36 + 32 * 256 + 32
  let d7 := t.df 2 24 7 + 128 * b2n c.loader + 256 * b2n c.storer
  let d9 := t.q + 256 * l.prio.toNat + 1024 * b2n (l.gang ≠ 0)
  let ws : List W64 := [chunk.1, chunk.2, w64 t.id, w64 d3, w64 d4, t.fmtA, t.fmtB, w64 d7, l.args, w64 d9, t.cstep, l.lo, l.hi,
    w64 l.grain.toNat, w64 t.wlog, l.gang]
  ws.zipIdx.foldl (fun m e => mset 0 m e.2 e.1) []

/-! ### Sidecars (08 R283, R284) -/

/-- Bytes of a sidecar image; where they cannot be read, free values (log entry 2). -/
def State.imageBytes (s : State) (p asid va n : Nat) : List Byte :=
  match s.readBytes p asid va n with
  | some bs => bs
  | none => (upto n).map (fun i => Config.freeBits 8 (s.free + i))

/-- The bytes of a list, those that differ from zero listed. -/
def byteMap (bs : List Byte) : SMap Byte := (bs.zipIdx.filter (fun e => e.1 ≠ 0)).map (fun e => (e.2, e.1))

/-- Starts the sidecars a context holds: both stores, the four argument registers, and the entry. -/
def State.startSides (s : State) (k : Nat) : State :=
  let c := s.ctxAt k
  let t := s.taskAt c.task
  let one (s : State) (which : Nat) (held : Bool) : State :=
    if !held then s
    else
      let w (i : Nat) : W64 := t.side.getD (4 * which + i) 0
      let text := s.imageBytes c.part c.asid (w 0).toNat (bf (w 1) 0 32)
      let s1 := { s with free := s.free + bf (w 1) 0 32 }
      let data := s1.imageBytes c.part c.asid (w 2).toNat (bf (w 1) 32 32)
      let s2 := { s1 with free := s1.free + bf (w 1) 32 32 }
      let x := [(10, c.r.rd 8), (11, c.r.rd 0), (12, c.r.rd 1), (13, w64 (bf (c.r.rd 3) 0 16))]
      let sd : Side := { present := true, running := true, pc := w64 (bf (w 3) 0 16), imem := byteMap text, dmem := byteMap data,
                         x := x.foldl (fun m e => mset 0 m e.1 e.2) [] }
      { s2 with sides := mput s2.sides (2 * k + which) sd }
  one (one s 0 c.loader) 1 c.storer

/-! ### The start -/

/-- The latest arrivals of a starting context: the last completed generations (09 R311). -/
def State.arrivals (s : State) (k task : Nat) : SMap W64 :=
  [1, 2, 3, 4, 5, 6].foldl (fun m l => mset 0 m l (mget 0 s.hub.barGen (groupKey task l (unitOf l k)))) []

/-- Context `k` starts at an entry with a chunk and its argument scalars: the names of R31, its d-registers, and the
system registers (15 R376). -/
def State.startCtx (s : State) (k : Nat) (entry : W64) (chunk : W64 × W64) (args : List W64) : State :=
  let c := s.ctxAt k
  let t := s.taskAt c.task
  let r : Regs := { pc := entry, d := s.dregs k chunk
                    s := (args.zipIdx).foldl (fun m e => mset 0 m (e.2 + 1) e.1) [] }
  let c1 := { c.retired with
    st := .live
    r := r.withHands c.mx.hands.length
    sys := { stvec := w64 ((s.qreg t.q 0x18).toNat / 4 * 4), swlog := w64 t.wlog }
    mem := { arr := s.arrivals k c.task }
    sq := { parkReq := t.st == .parked } }
  (s.putCtx k c1).startSides k

end Sys2Proof.Machine
end

