-- ==== Sys2Proof/Machine/Control.lean ====
section
/-!
DEFINITION. Transfers, hardware loops, `yield`, `brk`, `trap`, `exit`, `spawn`, `nextr`, hands and bank classes
(05 R154 to R172, 02 R53, R54).
-/

namespace Sys2Proof.Machine

/-! ### Transfers (05 R154 to R157) -/

/-- The packet transfers to an address once its other slots have performed (05 R154). -/
def State.jump (s : State) (a : W64) : State := { s with issue := { s.issue with target := some a } }

/-- An offset of a BJ slot, in bytes (05 R155). -/
def bjOff (f : BJ) : W64 := sx f.off * 4

/-- The branch-target fault of a register target (05 R156). -/
def targetCheck (a : W64) : Option Trap := if a.toNat % 4 ≠ 0 then trapI 0x0C a.toNat else none

/-- next pc := pc + OFF × 4 (05 R155). -/
def semBr (f : BJ) : SlotSem := { act := fun _ s => (s.jump (s.issue.pc + bjOff f), none) }

@[inherit_doc semBr]
def execBr (f : BJ) (s : State) : Out State := runSlot (.br f) (semBr f) s

/-- sd := the next packet; next pc := pc + OFF × 4 (05 R155). -/
def semCall (f : BJ) : SlotSem :=
  { act := fun e s => ((s.wr e.k f.sd.toNat s.issue.next).jump (s.issue.pc + bjOff f), none) }

@[inherit_doc semCall]
def execCall (f : BJ) (s : State) : Out State := runSlot (.call f) (semCall f) s

/-- next pc := sa (05 R155). -/
def semRet (f : BJ) : SlotSem :=
  { check := fun _ e => targetCheck (e.c.r.rs f.sa.toNat)
    act := fun e s => (s.jump (e.c.r.rs f.sa.toNat), none) }

@[inherit_doc semRet]
def execRet (f : BJ) (s : State) : Out State := runSlot (.ret f) (semRet f) s

/-- sd := the next packet; next pc := sa + OFF × 4 (05 R155). -/
def semJr (f : BJ) : SlotSem :=
  { check := fun _ e => targetCheck (e.c.r.rs f.sa.toNat + bjOff f)
    act := fun e s => ((s.wr e.k f.sd.toNat s.issue.next).jump (e.c.r.rs f.sa.toNat + bjOff f), none) }

@[inherit_doc semJr]
def execJr (f : BJ) (s : State) : Out State := runSlot (.jr f) (semJr f) s

/-- The target of a leaf of a branch tree; the last falls through (04 R114, 05 R157). -/
def btTarget (f : BT) (pc : W64) (leaf : Nat) : Option W64 :=
  if f.nt.toNat < leaf then none
  else some (pc + sx ([f.l0, f.l1, f.l2, f.l3].getD leaf 0) * 4)

/-- Transfers to the target of the leaf that the tests select (05 R157). -/
def semBt (f : BT) : SlotSem :=
  { act := fun e s =>
      match btTarget f s.issue.pc (leafOf e.c.r f) with
      | some a => (s.jump a, none)
      | none => (s, none) }

@[inherit_doc semBt]
def execBt (f : BT) (s : State) : Out State := runSlot (.bt f) (semBt f) s

/-! ### Hardware loops (05 R158 to R162) -/

/-- The address of the end bundle (05 R159). -/
def loopEnd (f : BL) (pc : W64) : W64 := pc + sx f.last * 4

/-- Activates a record as the most recent, in place of any that the counter holds (05 R159, R161). -/
def Regs.activate (r : Regs) (l : LoopRec) : Regs := { r with loops := l :: r.loops.filter (fun x => x.k ≠ l.k) }

/-- The address after the packet that ends with the bundle at `a`, found by reading headers (05 R159); the address of a
header with an uncorrectable error, where the fetch then stops. -/
def State.afterEnd (s : State) (k : Nat) (a : W64) : State × Fetch W64 :=
  match s.fetch4 k a with
  | (s1, .fault va e) => (s1, .fault va e)
  | (s1, .poisoned) => (s1, .ok a)
  | (s1, .ok h) =>
    let hdr := Header.ofWord h
    let b := a + w64 hdr.slots.2
    if hdr.stop = 1 then (s1, .ok b)
    else
      match s1.fetch4 k b with
      | (s2, .ok h2) => (s2, .ok (b + w64 (Header.ofWord h2).slots.2))
      | (s2, .fault va e) => (s2, .fault va e)
      | (s2, .poisoned) => (s2, .ok b)

/-- The class-I faults of a `loop`: its limit, and for no trip the fetch of the headers at its end (05 R159). -/
def loopCheckI (f : BL) (s : State) (e : Env) : Option Trap :=
  let n := e.c.r.rs f.sa.toNat
  if f.max.toNat < n.toNat then some { cls := .issue, code := 0x17, detail := n, x0 := w64 f.lc.toNat }
  else if n = 0 then
    match (s.afterEnd e.k (loopEnd f s.issue.pc)).2 with
    | .fault va x => let t := fetchTrap va x; if t.cls = .issue then some t else none
    | _ => none
  else none

/-- Starts a counted loop, or skips its body where the count is zero (05 R159). -/
def semLoop (f : BL) : SlotSem :=
  { check := loopCheckI f
    act := fun e s =>
      let n := e.c.r.rs f.sa.toNat
      if n = 0 then
        match s.afterEnd e.k (loopEnd f s.issue.pc) with
        | (s1, .ok a) => (s1.jump a, none)
        | (s1, .fault va x) => (s1, some (fetchTrap va x))
        | (s1, .poisoned) => (s1, none)
      else
        let l : LoopRec := { k := f.lc.toNat, while_ := false, cc := 0, neg := false, max := f.max.toNat,
                             start := s.issue.next, last := loopEnd f s.issue.pc }
        (s.onCtx e.k (fun c => c.onR (fun r => { r with lc := mset 0 r.lc f.lc.toNat n }.activate l)), none) }

@[inherit_doc semLoop]
def execLoop (f : BL) (s : State) : Out State := runSlot (.loop f) (semLoop f) s

/-- Starts a while loop (05 R160). -/
def semLoopw (f : BL) : SlotSem :=
  { act := fun e s =>
      let l : LoopRec := { k := f.lc.toNat, while_ := true, cc := f.cc.toNat, neg := f.neg == 1, max := f.max.toNat,
                           start := s.issue.next, last := loopEnd f s.issue.pc }
      (s.onCtx e.k (fun c => c.onR (fun r => { r with lc := mset 0 r.lc f.lc.toNat 0 }.activate l)), none) }

@[inherit_doc semLoopw]
def execLoopw (f : BL) (s : State) : Out State := runSlot (.loopw f) (semLoopw f) s

/-! ### Yield, breakpoint, software trap, exit (05 R163 to R166) -/

/-- The breakpoint fault, before any slot performs (05 R164). -/
def semBrk (f : BG) : SlotSem :=
  { check := fun _ _ => some { cls := .issue, code := 0x18, detail := f.imm.setWidth 64 }
    act := fun _ s => (s, none) }

@[inherit_doc semBrk]
def execBrk (f : BG) (s : State) : Out State := runSlot (.brk f) (semBrk f) s

/-- The software trap, after every other slot has performed (05 R165). -/
def semTrap (f : BG) : SlotSem :=
  { act := fun _ s =>
      ({ s with issue := { s.issue with after := some { cls := .after, code := 0x19, detail := f.imm.setWidth 64, pos := 8,
                                                        bund := s.bundOf 8 } } }, none) }

@[inherit_doc semTrap]
def execTrap (f : BG) (s : State) : Out State := runSlot (.trap f) (semTrap f) s

/-- Blocks its packet for one issue opportunity (05 R163). -/
def semYield (_f : BG) : SlotSem :=
  { wait := fun e s =>
      if (s.ctxAt e.k).sq.yielded then (s, none)
      else (s.onCtx e.k (fun c => { c with sq := { c.sq with yielded := true } }), some { counts := false })
    act := fun _ s => (s, none) }

@[inherit_doc semYield]
def execYield (f : BG) (s : State) : Out State := runSlot (.yield f) (semYield f) s

/-- The failed copy that a packet reports: the lowest tag of a mask, and on one tag the first issued (08 R259). -/
def firstFail (mask : Nat) (l : List CFail) : Option CFail :=
  (l.filter (fun x => mask.testBit x.tag)).foldl (fun m x => match m with
    | none => some x
    | some y => if x.tag < y.tag ∨ (x.tag = y.tag ∧ x.id < y.id) then some x else some y) none

/-- The copy fault (08 R259). -/
def CFail.trap (x : CFail) : Trap :=
  { cls := .issue, code := 0x2A, detail := x.detail, x0 := w64 (x.row % 65536 + 0x10000 * x.cause + 0x1000000 * x.tag), num := x.id }

/-- What an `exit` that has drained finds: a failed copy, or a lost reduction (08 R259, 09 R303). -/
def Ctx.exitTrap (c : Ctx) : Option Trap :=
  match firstFail 0xFFFF c.mem.cfails with
  | some x => some x.trap
  | none => if c.sys.rlost then some { cls := .issue, code := 0x2B, detail := c.sys.rlostAddr } else none

/-- Retires the context after every other slot of its packet, once its accesses, copies and engine requests have
performed (05 R166, 02 R54). -/
def semExit (_f : BG) : SlotSem :=
  { check := fun s e => if s.exitWaits e.k then none else (s.ctxAt e.k).exitTrap
    wait := fun e s => (s, if s.exitWaits e.k then some { counts := false } else none)
    act := fun _ s => ({ s with issue := { s.issue with retire := true } }, none) }

@[inherit_doc semExit]
def execExit (f : BG) (s : State) : Out State := runSlot (.exit f) (semExit f) s

/-! ### Spawn and range (05 R167, R168) -/

/-- The slot a `spawn` names, as a context key. -/
def spawnKey (f : BG) (e : Env) : Nat := e.k / 4 * 4 + bf f.imm 0 2

/-- The faults of a `spawn`: its entry, and a target that is no idle slot of the task's reservation (02 R53). -/
def spawnCheck (f : BG) (s : State) (e : Env) : Option Trap :=
  let t := s.ctxAt (spawnKey f e)
  firstTrap [targetCheck (e.c.r.rs f.sa.toNat),
    if t.st = .idle ∧ t.task = e.c.task ∧ t.resv = e.c.resv then none else trapI 0x16 (bf f.imm 0 2)]

/-- Starts another slot of the reservation: its entry, its eight arguments, an empty chunk; the spawner's earlier
accesses come before anything it does (05 R167). -/
def semSpawn (f : BG) : SlotSem :=
  { check := spawnCheck f
    act := fun e s =>
      let s1 := s.drain e.k (fun a => !a.deferred)
      let thi := e.c.r.rd 12
      (s1.startCtx (spawnKey f e) (e.c.r.rs f.sa.toNat) (thi, thi) ((upto 8).map (fun j => e.c.r.rs (f.sb.toNat + j))), none) }

@[inherit_doc semSpawn]
def execSpawn (f : BG) (s : State) : Out State := runSlot (.spawn f) (semSpawn f) s

/-- Takes a new chunk into d0 and d1; cN says that it is not empty (05 R168, 02 R46). -/
def semNextr (f : BG) : SlotSem :=
  { act := fun e s =>
      let (ch, t) := (s.taskAt e.c.task).takeChunk (dieOf (e.k / 4))
      ((s.onTask e.c.task (fun _ => t)).onCtx e.k (fun c => c.onR (fun r =>
        ((r.wd 0 ch.1).wd 1 ch.2).wc (bf f.sd 0 3) (ch.1 != ch.2))), none) }

@[inherit_doc semNextr]
def execNextr (f : BG) (s : State) : Out State := runSlot (.nextr f) (semNextr f) s

/-! ### Hands (05 R169 to R171) -/

/-- The hands of a core that no slot holds or has been granted. -/
def State.freeHands (s : State) (core : Nat) : List Nat :=
  let used := (upto 4).flatMap (fun j =>
    let c := s.ctxAt (4 * core + j)
    c.mx.hands ++ c.sq.handGot ++ (match c.mx.chg with | some h => h.add | none => []))
  (upto 8).filter (fun h => !used.contains h)

/-- The core's queue of blocked requests, those that are still blocked (05 R171). -/
def State.handQueue (s : State) (core : Nat) : List Nat :=
  (s.coreAt core).handQ.filter (fun k => (s.ctxAt k).sq.handAsk.isSome && (s.ctxAt k).sq.handGot.isEmpty && (s.ctxAt k).st == .live)

/-- The hands the head of a core's queue would be granted now: all it asks for, the lowest free, or none (05 R171). -/
def State.headGrant (s : State) (core : Nat) : Option (Nat × List Nat) :=
  match s.handQueue core with
  | [] => none
  | k :: _ =>
    let c := s.ctxAt k
    let need := (c.sq.handAsk.getD 0) - c.mx.hands.length
    let free := s.freeHands core
    if need ≤ free.length then some (k, free.take need) else none

/-- Grants the head of a core's queue its hands. -/
def State.grantHands (s : State) (core k : Nat) (hs : List Nat) : State :=
  (s.onCore core (fun c => { c with handQ := c.handQ.filter (fun j => j ≠ k) })).onCtx k
    (fun c => { c with sq := { c.sq with handGot := hs } })

/-- n of a hand operation. -/
def handN (f : BG) : Nat := bf f.imm 0 4

/-- The hand-request fault (05 R169). -/
def handTrap (n : Nat) : Option Trap := trapI 0x12 n

/-- A request joins the core's queue; the head is granted at once where it can be met (05 R169, R171). -/
def State.askHands (s : State) (k n : Nat) : State :=
  let core := k / 4
  let s1 := if (s.ctxAt k).sq.handAsk.isSome then s
    else (s.onCtx k (fun c => { c with sq := { c.sq with handAsk := some n } })).onCore core
      (fun c => { c with handQ := c.handQ.filter (fun j => j ≠ k) ++ [k] })
  match s1.headGrant core with
  | some (j, hs) => if j = k then s1.grantHands core k hs else s1
  | none => s1

/-- The change an issued hand operation leaves to take effect after the M-slot operations before it (05 R169). -/
def State.changeHands (s : State) (k n : Nat) (add : List Nat) : State :=
  s.onCtx k (fun c => { c with
    mx := { c.mx with chg := some { n := n, add := add, after := (c.mx.ops.getLast?.map (fun o => o.id)).getD 0 } }
    sq := { c.sq with handAsk := none, handGot := [] } })

/-- Asks that the context hold n hands in total (05 R169). -/
def semHandreq (f : BG) : SlotSem :=
  let n := handN f
  { check := fun _ e =>
      if e.c.mx.hands.length < n ∧ ((e.c.mx.hmax < n ∧ e.c.mx.ktgt = 0) ∨ (n % 2 = 1 ∧ e.c.mx.heven)) then handTrap n else none
    wait := fun e s =>
      let h := (s.ctxAt e.k).mx.hands.length
      if n ≤ h ∨ !(s.ctxAt e.k).sq.handGot.isEmpty then (s, none)
      else
        let s1 := s.askHands e.k n
        (s1, if (s1.ctxAt e.k).sq.handGot.isEmpty then some { cause := 0x1D, detail := w64 n } else none)
    act := fun e s =>
      let c := s.ctxAt e.k
      (if n ≤ c.mx.hands.length then s else s.changeHands e.k n c.sq.handGot, none) }

@[inherit_doc semHandreq]
def execHandreq (f : BG) (s : State) : Out State := runSlot (.handreq f) (semHandreq f) s

/-- Gives up the hands of highest number, to hold n (05 R169). -/
def semHandrel (f : BG) : SlotSem :=
  let n := handN f
  { check := fun _ e => if n < e.c.mx.hands.length ∧ n % 2 = 1 ∧ e.c.mx.heven then handTrap n else none
    act := fun e s => (if n < (s.ctxAt e.k).mx.hands.length then s.changeHands e.k n [] else s, none) }

@[inherit_doc semHandrel]
def execHandrel (f : BG) (s : State) : Out State := runSlot (.handrel f) (semHandrel f) s

/-- The head of a core's queue of requests is granted its hands (05 R171). -/
def execHandGrant (core : Nat) (s : State) : Out State :=
  match s.headGrant core with
  | some (k, hs) => .next (s.grantHands core k hs)
  | none => .refused .notEnabled

/-- A change of hands takes effect, once the M-slot operations before it have completed (05 R169, R170). -/
def execHandChangeEffect (c : Nat) (s : State) : Out State :=
  let x := s.ctxAt c
  match x.mx.chg with
  | some h => if x.mx.ops.any (fun o => decide (o.id ≤ h.after)) then .refused .notEnabled else .next (s.onCtx c Ctx.handEffect)
  | none => .refused .notEnabled

/-! ### Bank classes (05 R172) -/

/-- The window a bank operation names. -/
def bankW (f : BG) : Nat := bf f.imm 0 3

/-- The register-window fault of a window past the allotment. -/
def bankCheck (c : Ctx) (w : Nat) : Option Trap := if c.mx.nBanks ≤ w then trapI 0x03 (256 * w) else none

/-- A result is in flight toward a register of the bank: of a load or copy, or of the V slot. -/
def Ctx.bankBusy (c : Ctx) (w : Nat) : Bool :=
  let hit (d : Dest) : Bool := match d with | .v n _ _ => n / 256 == w | _ => false
  c.mem.pend.any (fun a => hit a.dest) || c.sq.late.any (fun n => n / 256 == w) || (!c.r.sup && c.sys.shadow.any (fun x => hit x.dest))

/-- Moves a bank to the matrix class (05 R172). -/
def semBlend (f : BG) : SlotSem :=
  let w := bankW f
  { check := fun _ e => firstTrap [bankCheck e.c w,
      if !bit e.c.mx.bankMat w && e.c.bankBusy w then trapI 0x05 w else none]
    act := fun e s => (s.onCtx e.k (fun c => { c with mx := { c.mx with bankMat := setf c.mx.bankMat w 1 1 } }), none) }

@[inherit_doc semBlend]
def execBlend (f : BG) (s : State) : Out State := runSlot (.blend f) (semBlend f) s

/-- An M-slot operation's register operand lies wholly or partly in a bank. -/
def MOp.inBank (o : MOp) (w : Nat) : Bool :=
  match formOf o.lat.instr with
  | .mx f => f.scl == 0 && (regRun f.src.toNat (max 1 (cdiv o.img.length 128))).any (fun n => n / 256 == w)
  | _ => false

/-- Moves a bank back to the vector class, once no M-slot operation reads it (05 R172). -/
def semBret (f : BG) : SlotSem :=
  let w := bankW f
  { check := fun _ e => bankCheck e.c w
    act := fun e s =>
      let s1 := if (s.ctxAt e.k).mx.ops.any (fun o => o.inBank w) then s.mFinish e.k else s
      (s1.onCtx e.k (fun c => { c with mx := { c.mx with bankMat := setf c.mx.bankMat w 1 0 } }), none) }

@[inherit_doc semBret]
def execBret (f : BG) (s : State) : Out State := runSlot (.bret f) (semBret f) s

end Sys2Proof.Machine
end

