-- ==== Sys2Proof/Machine/Ordering.lean ====
section
/-!
DEFINITION. Waits and fences of the B slot (09 R296, R297, R303, R306 to R312): scoreboard slots, copy tags, engine
timelines and barriers.
-/

namespace Sys2Proof.Machine

/-- A wait that counts toward the wait limit under the general cause (02 R51), or none. -/
def generalWait (ok : Bool) : Option Wait := if ok then none else some {}

/-- Blocks until the named scoreboard slots read zero (09 R296). -/
def semWaitsb (f : BG) : SlotSem :=
  { wait := fun e s => (s, generalWait ((upto 16).all (fun n => !bit f.imm n || mget 0 (s.ctxAt e.k).mem.sb n == 0)))
    act := fun _ s => (s, none) }

@[inherit_doc semWaitsb]
def execWaitsb (f : BG) (s : State) : Out State := runSlot (.waitsb f) (semWaitsb f) s

/-! ### Fences (09 R297, R303) -/

/-- The accesses that a fence waits for: with reductions for `fence.s` and barriers; a deferred push is none. -/
def Ctx.unfenced (c : Ctx) (reds : Bool) : Bool := c.mem.pend.any (fun a => !a.deferred && (reds || !a.isRed))

/-- The wait of a fence, which does not count toward the wait limit (02 R51). -/
def fenceWait (reds : Bool) (e : Env) (s : State) : State × Option Wait :=
  (s, if (s.ctxAt e.k).unfenced reds then some { counts := false } else none)

/-- Orders every earlier access, reductions apart, before every later one (09 R297). -/
def semFence (_f : BG) : SlotSem := { wait := fenceWait false, act := fun _ s => (s, none) }

@[inherit_doc semFence]
def execFence (f : BG) (s : State) : Out State := runSlot (.fence f) (semFence f) s

/-- As `fence`, with reductions; a lost reduction is reported after the packet (09 R297, R303). -/
def semFenceS (_f : BG) : SlotSem :=
  { wait := fenceWait true
    act := fun e s =>
      let c := s.ctxAt e.k
      if c.sys.rlost then
        ({ s with issue := { s.issue with after := some { cls := .after, code := 0x2B, detail := c.sys.rlostAddr, pos := 8,
                                                          bund := s.bundOf 8 } } }, none)
      else (s, none) }

@[inherit_doc semFenceS]
def execFenceS (f : BG) (s : State) : Out State := runSlot (.fenceS f) (semFenceS f) s

/-! ### Barriers (09 R310 to R312) -/

/-- The level a barrier names. -/
def barLevel (f : BG) : Nat := bf f.imm 0 3

/-- The last completed generation of a context's group at a level. -/
def State.barDone (s : State) (k level : Nat) : W64 :=
  mget 0 s.hub.barGen (groupKey (s.ctxAt k).task level (unitOf level k))

/-- The generation that the blocked packet has arrived at already. -/
def Ctx.arrivedHere (c : Ctx) (level : Nat) (pc : W64) : Option W64 :=
  match mfind c.mem.barHere (b2n c.r.sup) with
  | some (l, g, p) => if l = level ∧ p = pc then some g else none
  | none => none

/-- Arrives at the generation after the context's previous arrival; a barrier of level 1 completes at once (02 R56). -/
def State.arrive (s : State) (k level : Nat) : State :=
  let g := mget 0 (s.ctxAt k).mem.arr level + 1
  let s1 := s.onCtx k (fun c => { c with mem := { c.mem with
    arr := mset 0 c.mem.arr level g
    barHere := mput c.mem.barHere (b2n c.r.sup) (level, g, s.issue.pc) } })
  if level = 1 then
    { s1 with hub := { s1.hub with barGen := mset 0 s1.hub.barGen (groupKey (s1.ctxAt k).task 1 k) g } }
  else s1

/-- The steps of an arrival while its packet is blocked: earlier accesses have performed, fewer than two arrivals are
incomplete, the arrival, and for `bar` its completion (09 R310). -/
def barWait (f : BG) (full : Bool) (e : Env) (s : State) : State × Option Wait :=
  let l := barLevel f
  let c := s.ctxAt e.k
  let done (s : State) (g : W64) : Option Wait := generalWait (!full || decide (g.toNat ≤ (s.barDone e.k l).toNat))
  match c.arrivedHere l s.issue.pc with
  | some g => (s, done s g)
  | none =>
    if c.unfenced true then (s, some { counts := false })
    else if (mget 0 c.mem.arr l).toNat ≥ (s.barDone e.k l).toNat + 2 then (s, some {})
    else
      let s1 := s.arrive e.k l
      (s1, done s1 (mget 0 (s1.ctxAt e.k).mem.arr l))

/-- sd := the generation arrived at. -/
def barAct (f : BG) (e : Env) (s : State) : State × Option Trap :=
  (s.wr e.k f.sd.toNat (mget 0 (s.ctxAt e.k).mem.arr (barLevel f)), none)

/-- Arrives at the group's next generation and blocks until it completes (09 R310). -/
def semBar (f : BG) : SlotSem := { wait := barWait f true, act := barAct f }

@[inherit_doc semBar]
def execBar (f : BG) (s : State) : Out State := runSlot (.bar f) (semBar f) s

/-- Arrives without waiting for completion (09 R310). -/
def semBarArv (f : BG) : SlotSem := { wait := barWait f false, act := barAct f }

@[inherit_doc semBarArv]
def execBarArv (f : BG) (s : State) : Out State := runSlot (.barArv f) (semBarArv f) s

/-- Blocks until the generation of a token completes (09 R311). -/
def semBarwait (f : BG) : SlotSem :=
  { check := fun _ e =>
      let t := e.c.r.rs f.sa.toNat
      if (mget 0 e.c.mem.arr (barLevel f)).toNat < t.toNat then trapI 0x2C t.toNat else none
    wait := fun e s => (s, generalWait (decide ((e.c.r.rs f.sa.toNat).toNat ≤ (s.barDone e.k (barLevel f)).toNat)))
    act := fun _ s => (s, none) }

@[inherit_doc semBarwait]
def execBarwait (f : BG) (s : State) : Out State := runSlot (.barwait f) (semBarwait f) s

/-- The next generation of a group completes once every member that counts as live has arrived at it, and every other
part of a gang (02 R56, 09 R311, R312, 18 R435). -/
def execBarrierGenerationComplete (task level unit_ : Nat) (s : State) : Out State :=
  let key := groupKey task level unit_
  let g := mget 0 s.hub.barGen key + 1
  let live := (s.groupAt task level unit_).filter (fun j => (s.ctxAt j).counts)
  let at_ (j : Nat) : Bool := decide (g.toNat ≤ (mget 0 (s.ctxAt j).mem.arr level).toNat)
  let (parts, part) := if level = 6 then s.gangOf task else (1, 0)
  let remote (p : Nat) : Bool := s.hub.barRemote.any (fun r => r.1 == key && r.2.1 == p && decide (g.toNat ≤ r.2.2.toNat))
  if level < 2 || 6 < level || !live.all at_ || !live.any at_ || !s.gangMet task level ||
      !(upto parts).all (fun p => p == part || remote p) then
    .refused .notEnabled
  else .next { s with hub := { s.hub with barGen := mset 0 s.hub.barGen key g } }

/-! ### Copy tags (09 R306) -/

/-- The tags a wait names. -/
def tagMask (f : BG) (e : Env) : Nat := (f.imm.extractLsb' 0 16 ||| (e.c.r.rs f.sa.toNat).extractLsb' 0 16).toNat

/-- A failed copy on a tag of the mask raises its copy fault (08 R259). -/
def tagCheck (f : BG) (s : State) (e : Env) : Option Trap :=
  (firstFail (tagMask f e) (s.ctxAt e.k).mem.cfails).map CFail.trap

/-- The tags of a mask that are set. -/
def tagsSet (m : Nat) (c : Ctx) : List Nat := (upto 16).filter (fun g => m.testBit g && bit c.mem.tagBits g)

/-- Blocks until any tag of the mask is set (09 R306). -/
def semTagwaitany (f : BG) : SlotSem :=
  { check := tagCheck f
    wait := fun e s => (s, generalWait (tagMask f e == 0 || !(tagsSet (tagMask f e) (s.ctxAt e.k)).isEmpty))
    act := fun _ s => (s, none) }

@[inherit_doc semTagwaitany]
def execTagwaitany (f : BG) (s : State) : Out State := runSlot (.tagwaitany f) (semTagwaitany f) s

/-- Blocks until every tag of the mask is set (09 R306). -/
def semTagwaitall (f : BG) : SlotSem :=
  { check := tagCheck f
    wait := fun e s => (s, generalWait ((upto 16).all (fun g => !(tagMask f e).testBit g || bit (s.ctxAt e.k).mem.tagBits g)))
    act := fun _ s => (s, none) }

@[inherit_doc semTagwaitall]
def execTagwaitall (f : BG) (s : State) : Out State := runSlot (.tagwaitall f) (semTagwaitall f) s

/-- sd := the lowest set tag of the mask, which is cleared; 16 for an empty mask (09 R306). -/
def semTagffr (f : BG) : SlotSem :=
  { check := tagCheck f
    wait := fun e s => (s, generalWait (tagMask f e == 0 || !(tagsSet (tagMask f e) (s.ctxAt e.k)).isEmpty))
    act := fun e s =>
      match tagsSet (tagMask f e) (s.ctxAt e.k) with
      | [] => (s.wr e.k f.sd.toNat 16, none)
      | g :: _ =>
        ((s.onCtx e.k (fun c => { c with mem := { c.mem with tagBits := setf c.mem.tagBits g 1 0 } })).wr e.k f.sd.toNat (w64 g), none) }

@[inherit_doc semTagffr]
def execTagffr (f : BG) (s : State) : Out State := runSlot (.tagffr f) (semTagffr f) s

/-! ### Timelines (09 R308, R309) -/

/-- The handle a timeline operation names. -/
def tlHandle (f : BG) : Nat := bf f.imm 0 3

/-- A timeline selector keeps the layout, and names no Couch engine outside the context's partition. -/
def State.tlOk (s : State) (c : Ctx) (sel : Nat) : Bool :=
  let kind := fld sel 6 2
  let d := fld sel 4 2
  decide (sel < 256) &&
    (if kind = 0 then decide (fld sel 0 2 = 0) && (s.owns c.part (2 * d) || s.owns c.part (2 * d + 1))
     else decide (kind = 1) && decide (fld sel 3 3 = 0) && decide (2 ≤ fld sel 0 3) && decide (fld sel 0 3 ≤ 6))

/-- The counter of a timeline. -/
def State.tlCount (s : State) (k sel : Nat) : W64 :=
  if fld sel 6 2 = 0 then (mget {} s.hub.couch (4 * fld sel 4 2 + fld sel 2 2)).count
  else mget 0 s.hub.collTl (groupKey (s.ctxAt k).task (fld sel 0 3) (unitOf (fld sel 0 3) k))

/-- The timeline fault of a handle that is unbound, or bound outside the partition (09 R309). -/
def tlCheck (f : BG) (s : State) (e : Env) : Option Trap :=
  match mfind e.c.mem.tl (tlHandle f) with
  | some sel => if s.tlOk e.c sel then none else trapI 0x2D (tlHandle f)
  | none => trapI 0x2D (tlHandle f)

/-- The counter a handle is bound to. -/
def tlNow (f : BG) (e : Env) (s : State) : W64 := s.tlCount e.k (mget 0 e.c.mem.tl (tlHandle f))

/-- Blocks until a timeline's counter is at least s(SA) (09 R309). -/
def semTlwait (f : BG) : SlotSem :=
  { check := tlCheck f
    wait := fun e s => (s, generalWait (decide ((e.c.r.rs f.sa.toNat).toNat ≤ (tlNow f e s).toNat)))
    act := fun _ s => (s, none) }

@[inherit_doc semTlwait]
def execTlwait (f : BG) (s : State) : Out State := runSlot (.tlwait f) (semTlwait f) s

/-- Binds a handle to the timeline a selector names (09 R309). -/
def semTlwaitBind (f : BG) : SlotSem :=
  { check := fun s e =>
      let v := e.c.r.rs f.sa.toNat
      if s.tlOk e.c v.toNat then none else trapI 0x2D v.toNat
    act := fun e s =>
      (s.onCtx e.k (fun c => { c with mem := { c.mem with tl := mput c.mem.tl (tlHandle f) (e.c.r.rs f.sa.toNat).toNat } }), none) }

@[inherit_doc semTlwaitBind]
def execTlwaitBind (f : BG) (s : State) : Out State := runSlot (.tlwaitBind f) (semTlwaitBind f) s

/-- sd := a timeline's counter (09 R309). -/
def semTlwaitRead (f : BG) : SlotSem :=
  { check := tlCheck f
    act := fun e s => (s.wr e.k f.sd.toNat (tlNow f e s), none) }

@[inherit_doc semTlwaitRead]
def execTlwaitRead (f : BG) (s : State) : Out State := runSlot (.tlwaitRead f) (semTlwaitRead f) s

end Sys2Proof.Machine
end

