-- ==== Sys2Proof/Machine/Steps.lean ====
section
/-!
DEFINITION. The B-slot instructions of the Calender and the Dealer (10 R322, R323; 11 R353 to R355).
-/

namespace Sys2Proof.Machine

/-- What a context has sent, or will send, to the entries that a condition names reaches them before a later access of it
(10 R323). -/
def State.settleRecords (s : State) (k : Nat) (p : Nat → Bool) : State :=
  let s1 := if (s.ctxAt k).mx.ops.any (fun o => o.cal.any p) then s.mFinish k else s
  let mine (r : Rec) : Bool := r.ctx == k && p r.entry
  (s1.hub.recs.filter mine).foldl State.takeRecord { s1 with hub := { s1.hub with recs := s1.hub.recs.filter (fun r => !mine r) } }

/-- An entry as a context reads it: a guess sees the records it holds for it (10 R320, R323). -/
def State.entrySeen (s : State) (c : Ctx) (n : Nat) : Entry :=
  match s.guessOf c with
  | none => s.entry n
  | some q => ((s.queueAt q).dealer.recs.filter (fun r => r.entry == n)).foldl
      (fun (x : Entry) r => if x.valid then x.addRecord r.words else x) (s.entry n)

/-! ### Calender (10 R322, R323) -/

/-- The first entry and the number of entries of a `cstep`. -/
def cstepFirst (f : BG) : Nat := bf f.imm 0 12
@[inherit_doc cstepFirst]
def cstepN (f : BG) : Nat := bf f.imm 16 12 + 1

/-- Evaluates a run of entries, and writes the new step count once every read copy holds the results (10 R322). -/
def semCstep (f : BG) : SlotSem :=
  { check := fun s e => (upto (cstepN f)).findSome? (fun i => s.entryTrap e.c (cstepFirst f + i))
    act := fun e s =>
      if (s.guessOf e.c).isSome then (s.noteDrop 6, none)
      else
        let s1 := (s.settleRecords e.k (fun n => decide (cstepFirst f ≤ n) && decide (n < cstepFirst f + cstepN f))).evalRange
          (cstepFirst f) (cstepN f)
        let d := sDest e.c f.sd.toNat
        (s1.onCtx e.k (fun c => { c.overwrite (c.r.sup && decide (56 ≤ f.sd.toNat)) f.sd.toNat with
          mem := { (c.overwrite (c.r.sup && decide (56 ≤ f.sd.toNat)) f.sd.toNat).mem with
            stepWait := c.mem.stepWait ++ [(d, s1.hub.stepCount)] } }), none) }

@[inherit_doc semCstep]
def execCstep (f : BG) (s : State) : Out State := runSlot (.cstep f) (semCstep f) s

/-- The entry and word of a selector; none with a reserved bit set (10 R323). -/
def selector (v : W64) : Option (Nat × Nat) :=
  if bf v 12 4 ≠ 0 ∨ bf v 21 43 ≠ 0 then none else some (bf v 0 12, bf v 16 5)

/-- Writes a word of an entry (10 R323). -/
def semCset (f : BG) : SlotSem :=
  let go (s : State) (e : Env) : Option (Nat × Entry) :=
    (selector (e.c.r.rs f.sa.toNat)).bind (fun x => ((s.entry x.1).write x.2 (e.c.r.rs f.sb.toNat)).map (fun y => (x.1, y)))
  { check := fun s e =>
      let v := e.c.r.rs f.sa.toNat
      match selector v with
      | none => trapI 0x2F v.toNat
      | some x => firstTrap [s.entryTrap e.c x.1, if (go s e).isNone then trapI 0x2F v.toNat else none]
    act := fun e s =>
      if (s.guessOf e.c).isSome then (s.noteDrop 6, none)
      else
        let s1 := s.settleRecords e.k (fun n => (go s e).any (fun x => x.1 == n))
        match go s1 e with
        | some (n, y) => (s1.putEntry n y, none)
        | none => (s1, none) }

@[inherit_doc semCset]
def execCset (f : BG) (s : State) : Out State := runSlot (.cset f) (semCset f) s

/-- Pins an entry to a rung, or releases it (10 R323). -/
def semCpin (f : BG) : SlotSem :=
  let go (s : State) (e : Env) : Option (Nat × Entry) :=
    let v := e.c.r.rs f.sa.toNat
    let w := e.c.r.rs f.sb.toNat
    if bf v 12 52 ≠ 0 ∨ bf w 4 60 ≠ 0 then none
    else ((s.entry (bf v 0 12)).pinTo (bit w 3) (bf w 0 3)).map (fun y => (bf v 0 12, y))
  { check := fun s e =>
      let v := e.c.r.rs f.sa.toNat
      if bf v 12 52 ≠ 0 then trapI 0x2F v.toNat
      else firstTrap [s.entryTrap e.c (bf v 0 12), if (go s e).isNone then trapI 0x2F v.toNat else none]
    act := fun e s =>
      if (s.guessOf e.c).isSome then (s.noteDrop 6, none)
      else
        let s1 := s.settleRecords e.k (fun n => (go s e).any (fun x => x.1 == n))
        match go s1 e with
        | some (n, y) => (s1.putEntry n y, none)
        | none => (s1, none) }

@[inherit_doc semCpin]
def execCpin (f : BG) (s : State) : Out State := runSlot (.cpin f) (semCpin f) s

/-- sd := a word of an entry; the WO words read as zero (10 R323). -/
def semCread (f : BG) : SlotSem :=
  { check := fun s e =>
      let v := e.c.r.rs f.sa.toNat
      match selector v with
      | none => trapI 0x2F v.toNat
      | some x => s.entryTrap e.c x.1
    act := fun e s =>
      match selector (e.c.r.rs f.sa.toNat) with
      | some (n, w) =>
        let s1 := s.settleRecords e.k (fun m => m == n)
        (s1.wr e.k f.sd.toNat (if w < 30 then (s1.entrySeen (s1.ctxAt e.k) n).w w else 0), none)
      | none => (s, none) }

@[inherit_doc semCread]
def execCread (f : BG) (s : State) : Out State := runSlot (.cread f) (semCread f) s

/-! ### Dealer (11 R353 to R355) -/

/-- Does a partition's registers grant it a queue (17 R413, R414)? -/
def State.grantsQueue (s : State) (p q : Nat) : Bool :=
  decide (bf (s.part p 0x28) 0 8 ≤ q ∧ q ≤ bf (s.part p 0x28) 8 8)

/-- The Dealer-access fault of a queue (11 R353). -/
def dealerCheck (f : BG) (s : State) (e : Env) : Option Trap :=
  let v := e.c.r.rs f.sa.toNat
  if 256 ≤ v.toNat ∨ !s.grantsQueue e.c.part v.toNat then trapI 0x30 v.toNat else none

/-- STATE of a queue's guess (11 R355). -/
def State.guessState (s : State) (d : Dealer) : Nat :=
  if d.claiming then 3
  else if d.guess.isSome then (if d.complete then 2 else 1)
  else match d.promo with
    | some t => if (mfind s.disp.tasks t).isSome then 1 else 0
    | none => 0

/-- The status word of a queue (11 R355). -/
def State.dealerStatus (s : State) (d : Dealer) : W64 :=
  w64 (s.guessState d + 64 * d.hint + 256 * b2n d.matched.isSome + 512 * d.hist.length + 65536 * d.last)

/-- A value of `dstat` (11 R353). -/
def State.dealerValue (s : State) (d : Dealer) (sel : Nat) : W64 :=
  match sel with
  | 0 => s.dealerStatus d
  | 1 => d.started
  | 2 => d.claimed
  | 3 => d.mism
  | 4 => d.reval
  | 5 => d.dropped
  | 6 => d.commitL
  | _ => d.revalL

/-- sd := a value of a queue's Dealer (11 R353). -/
def semDstat (f : BG) : SlotSem :=
  { check := dealerCheck f
    act := fun e s => (s.wr e.k f.sd.toNat (s.dealerValue (s.queueAt (e.c.r.rs f.sa.toNat).toNat).dealer f.imm.toNat), none) }

@[inherit_doc semDstat]
def execDstat (f : BG) (s : State) : Out State := runSlot (.dstat f) (semDstat f) s

/-- Sets the hint of a queue, or ends its guess (11 R354). -/
def semDhint (f : BG) : SlotSem :=
  { check := dealerCheck f
    act := fun e s =>
      if (s.guessOf e.c).isSome then (s.noteDrop 6, none)
      else
        let q := (e.c.r.rs f.sa.toNat).toNat
        if f.imm = 3 then (s.dropGuess q 16, none)
        else (s.onDealer q (fun d => { d with hint := f.imm.toNat }), none) }

@[inherit_doc semDhint]
def execDhint (f : BG) (s : State) : Out State := runSlot (.dhint f) (semDhint f) s

end Sys2Proof.Machine
end

