-- ==== Sys2Proof/Machine/Image.lean ====
section
/-!
DEFINITION. The context image (15 R394, R395, R447 to R449): its bytes from a context, its checks, and a context from
its bytes.  The image is taken as units of 64 bytes; `word i` is the 8-byte word at offset 8 i of the control region.
-/

namespace Sys2Proof.Machine

/-- Packs small numbers into the bytes of words, eight to a word. -/
def byteWord (g : Nat → Nat) (j : Nat) : W64 := w64 ((upto 8).foldl (fun a i => a + g (8 * j + i) % 256 * 2 ^ (8 * i)) 0)

/-- One byte of such words. -/
def wordByte (w : Nat → W64) (base i : Nat) : Nat := bf (w (base + i / 8)) (8 * (i % 8)) 8

/-! ### Latches and replay (15 R448) -/

/-- A slot's encoding as issued. -/
def slotWord (i : Instr) : W64 := match encode i with | some (_, w) => w | none => 0

/-- The words of a latch after its encoding: addresses, ring offsets, tiles. -/
def Latch.words (l : Latch) : List W64 :=
  [slotWord l.instr, if isSeed l.instr then 0 else l.addrA, l.addrB,
   w64 (l.ringD % 128 + l.ringA % 128 * 256 + l.ringB % 128 * 65536), w64 (l.acc % 32 + l.acb % 32 * 256)]

/-- A latch from its words; `vsrseed` takes its scalar from the image's registers again. -/
def Latch.ofWords (r : Regs) (pos : Nat) (ws : List W64) : Option Latch :=
  (decSlot (kindOf pos) (ws.getD 0 0)).get?.map (fun i =>
    let f := ws.getD 3 0
    let t := ws.getD 4 0
    { instr := i
      addrA := if isSeed i then (freshLatch { r := r } i).addrA else ws.getD 1 0
      addrB := ws.getD 2 0, ringD := bf f 0 7, ringA := bf f 8 7, ringB := bf f 16 7, acc := bf t 0 5, acb := bf t 8 5 })

/-- The words of a vector register. -/
def vecWords (v : VReg) : List W64 := (upto 16).map (fun i => v.extractLsb' (64 * i) 64)

/-- A vector register from sixteen words. -/
def vecOf (w : Nat → W64) (base : Nat) : VReg := BitVec.ofNat 1024 (packEl 64 ((upto 16).map (fun i => (w (base + i)).toNat)))

/-- The 64 words of a replay-buffer position. -/
def Replay.words (p : Replay) : List W64 :=
  [1] ++ p.lat.words ++ [p.mpc] ++ (p.scal ++ List.replicate 9 0).take 9 ++ vecWords p.vec ++ vecWords p.idx ++ List.replicate 16 0

/-! ### Shadow latches (15 R449) -/

/-- CLASS, WIDTH and NUMBER of a name. -/
def Dest.codes (d : Dest) : Nat × Nat × Nat :=
  match d with
  | .s sup n => (if sup then 6 else 0, 0, n)
  | .v n _ w => (1, if w = 256 then 0 else if w = 512 then 1 else 2, n)
  | .m n w => (2, if w ≤ 32 then 0 else if w ≤ 64 then 1 else 2, n)
  | .c n => (3, 0, n)
  | .lc n => (4, 0, n)
  | .q n => (5, 0, n)
  | _ => (7, 0, 0)

/-- The name of CLASS, WIDTH and NUMBER. -/
def Dest.ofCodes (cls wd n : Nat) : Dest :=
  match cls with
  | 0 => .s false n
  | 6 => .s true n
  | 1 => .v n 0 (256 * 2 ^ wd)
  | 2 => .m n (32 * 2 ^ wd)
  | 3 => .c n
  | 4 => .lc n
  | 5 => .q n
  | _ => .none

/-- The 18 words of a shadow latch; a result narrower than the widths WIDTH names is saved with the register's other
bits. -/
def Shadow.words (c : Ctx) (x : Shadow) : List W64 :=
  let (cls, wd, n) := x.dest.codes
  let v := match x.dest with
    | .v n _ w => if w = 256 ∨ w = 512 ∨ w = 1024 then x.value else setf (c.r.rv n) 0 w x.value.toNat
    | _ => x.value
  [w64 (1 + 2 * cls + 16 * wd + 65536 * (n % 2048) + 2 ^ 32 * (x.offset % 2 ^ 32)), 0] ++ vecWords v

/-! ### Ring handles (08 R250; the layout of a handle's 64 bytes is the model's own, log entry 12) -/

/-- The words of handle `h`: its descriptor, its pointers, and its deferred pushes. -/
def Ctx.handleWords (c : Ctx) (h : Nat) : List W64 :=
  let hd := c.handle h
  if hd.slot = 0 then [] else
  let push (a : Access) : W64 :=
    match a.kind with
    | .ringTags sl _ _ (some g) =>
      w64 (g + ((sl.headD 0 - hd.base * 64) / (hd.slot * 64)) % 128 * 16 + sl.length % 256 * 65536 +
        (match a.sbSet with | some n => 2 ^ 32 + n * 2 ^ 33 | none => 0) + (match a.sbWait with | some n => 2 ^ 40 + n * 2 ^ 41 | none => 0) + 2 ^ 63)
    | _ => 0
  [w64 (hd.base * 64 + hd.slot * 2 ^ 20 + (hd.depth - 1) * 2 ^ 32), w64 (hd.cp + hd.pp * 256)] ++ ((c.deferred (some h)).map push).take 4

/-- A handle from its words. -/
def handleOf (w : Nat → W64) : Handle :=
  if bf (w 0) 20 12 = 0 then {} else { Handle.ofDesc (w 0) with cp := bf (w 1) 0 7, pp := bf (w 1) 8 7 }

/-- The deferred pushes of handle `h` from its words. -/
def pushesOf (h : Nat) (w : Nat → W64) : List Access :=
  let hd := handleOf w
  (upto 4).filterMap (fun i =>
    let x := w (2 + i)
    if !bit x 63 then none
    else
      let sl := (upto (bf x 16 8)).map (fun j => hd.at (bf x 4 7 + j))
      some { id := 0, kind := .ringTags sl (hd.slot * 64) true (some (bf x 0 4)), va := w64 h, loc := .share (sl.headD 0), size := 8
             sbSet := if bit x 32 then some (bf x 33 4) else none
             sbWait := if bit x 40 then some (bf x 41 4) else none })

/-! ### System registers (15 R376 to R378) -/

/-- CSLOTS: the state of the four slots of a core (15 R390). -/
def State.cslots (s : State) (core : Nat) : W64 :=
  let h := (s.coreAt core).halted
  w64 ((upto 4).foldl (fun a j =>
    a + 16 ^ j * (match (s.ctxAt (4 * core + j)).st with | .free => 0 | .idle => 1 | .live => if h then 4 else 2 | .parked => if h then 4 else 3)) 0)

/-- A system register by its selector, CSLOTS apart. -/
def Ctx.sysReg (c : Ctx) (sel : Nat) : W64 :=
  match sel with
  | 0 => w64 (b2n c.r.sup + 2 * b2n c.sys.sstep + 4 * b2n (!c.sys.asyncs.isEmpty) + 8 * b2n c.sq.parkReq)
  | 1 => c.sys.stvec
  | 2 => c.sys.sepc
  | 3 => c.sys.scause
  | 4 => c.sys.sdetail
  | 5 => c.sys.x0
  | 6 => c.sys.x1
  | 7 => c.sys.x2
  | 8 => c.sys.srepl
  | 9 => c.sys.swlog
  | 10 => c.sys.sctxp
  | 11 => w64 (b2n c.sys.rlost)
  | _ => 0

/-! ### The control region (15 R395, R447) -/

/-- The words of a loop record. -/
def loopWords (loops : List LoopRec) (k : Nat) : List W64 :=
  match loops.find? (fun x => x.k = k) with
  | none => [0, 0, 0, 0]
  | some x =>
    [w64 (1 + 2 * b2n x.while_ + (if x.while_ then 4 * x.cc + 32 * b2n x.neg else 0) + x.max % 2 ^ 24 * 2 ^ 32 +
      (loops.findIdx (fun y => y.k = k)) % 4 * 2 ^ 56), x.start, x.last, 0]

/-- The words of a buffer's shape. -/
def Buf.words (b : Buf) : List W64 :=
  [if b.empty then 0x8000 else w64 (b.fb + b.blk * 32 + b.wa * 256 + b2n b.sparse * 0x4000 + b.kb % 65536 * 65536), 0, 0, 0, 0, 0, 0, 0]

/-- State code of a tile. -/
def TileSt.code : TileSt → Nat
  | .u => 0 | .z => 1 | .d => 2 | .c => 3

/-- The words of nine latches. -/
def latchWords (m : SMap Latch) : List W64 :=
  (upto 9).flatMap (fun p => match mfind m p with
    | some l => [1] ++ l.words ++ [0, 0]
    | none => List.replicate 8 0)

/-- The replay buffer a context would resume with: that of its trap in supervisor mode, and in user mode the operations
its packet still owes (15 R383). -/
def Ctx.replayBuf (c : Ctx) : SMap Replay := if c.r.sup then c.sys.replay else c.sq.replay

/-- A list padded with zeros to `n` words. -/
def padW (n : Nat) (l : List W64) : List W64 := (l ++ List.replicate n 0).take n

/-- The control region as 2,048 words. -/
def Ctx.control (c : Ctx) : List W64 :=
  let h := c.mx.hands.length
  List.flatten ([
    padW 8 [w64 (2 ^ 48 + c.mx.nBanks % 16 * 2 ^ 38 + c.mx.nTiles % 64 * 2 ^ 32 + h * 2 ^ 28 + b2n c.r.sup * 2 ^ 25 + c.sq.rep % 128 * 2 ^ 17),
          c.r.pc, c.sq.repcnt],
    (upto 64).map (fun n => if n = 0 then (0 : W64) else mget 0 c.r.s n),
    (upto 8).map (fun n => mget 0 c.r.ss (56 + n)),
    (upto 16).map c.sysReg,
    (upto 16).flatMap (fun n => [(c.r.rm n).extractLsb' 0 64, (c.r.rm n).extractLsb' 64 64]),
    [c.r.c.setWidth 64],
    (upto 4).map (fun n => mget 0 c.r.lc n),
    (upto 4).flatMap (loopWords c.r.loops),
    (upto 8).map c.r.rq,
    (upto 16).map c.r.rd,
    [c.r.mpc],
    [w64 ((upto 32).foldl (fun a n => a + (c.tile n).st.code * 4 ^ n) 0)],
    (upto 4).map (byteWord (fun n => (c.tile n).fmt % 8 + 8 * b2n ((c.tile n).pair = 1))),
    [c.mx.bankMat.setWidth 64],
    (upto 6).map (fun l => mget 0 c.mem.arr (l + 1)),
    (upto 8).map (fun n => match mfind c.mem.tl n with | some x => w64 (2 ^ 63 + x % 256) | none => (0 : W64)),
    (upto 2).map (byteWord (fun n => mget 0 c.mem.sb n)),
    [c.mem.tagBits.setWidth 64],
    padW 3 ((upto 2).map (byteWord (fun n => mget 0 c.mem.tagCnt n))),
    (upto 16).flatMap (fun n => padW 8 (c.handleWords n)),
    (upto 32).map c.r.gen,
    c.mx.front.words,
    c.mx.back.words,
    List.replicate 8 0,
    latchWords c.sq.latU,
    latchWords c.sq.latS,
    (upto 9).flatMap (fun p => match mfind c.replayBuf p with | some r => r.words | none => List.replicate 64 0),
    padW 944 (c.sys.shadow.flatMap (fun x => x.words c))] : List (List W64))

/-! ### The bytes of an image (15 R392, R394) -/

/-- Units of 64 bytes in an image. -/
def imageUnits : Nat := 13568

/-- 64 bytes of a list of bytes, padded with zeros. -/
def unitOfBytes (bs : List Byte) (i : Nat) : List Byte := (((bs.drop (64 * i)).take 64) ++ List.replicate 64 0).take 64

/-- Unit `i` of the image of a context, or none where the save writes nothing; `same` says that its image area has not
changed (15 R392). -/
def Ctx.imageUnit (c : Ctx) (same : Bool) (ctl : Array W64) (i : Nat) : Option (List Byte) :=
  if i < 256 then some ((upto 8).flatMap (fun j => leBytes 8 (ctl.getD (8 * i + j) 0).toNat))
  else if i < 2816 then some (unitOfBytes c.mx.frontD (i - 256))
  else if i < 5376 then some (unitOfBytes c.mx.backD (i - 2816))
  else if i < 9472 then
    let n := (i - 5376) / 2
    some (if n / 256 < c.mx.nBanks then leBytes 64 ((c.r.rv n).toNat / 2 ^ (512 * (i % 2))) else List.replicate 64 0)
  else
    let n := (i - 9472) / 128
    let t := c.tile n
    if c.mx.nTiles ≤ n then some (List.replicate 64 0)
    else if t.st = .d ∨ (t.st = .c ∧ !same) then
      some ((upto 8).flatMap (fun j => leBytes 8 (t.get (8 * ((i - 9472) % 128) + j)).toNat))
    else none

/-- The tiles a save writes are clean (15 R392). -/
def Ctx.cleaned (c : Ctx) : Ctx :=
  (upto c.mx.nTiles).foldl (fun c n => if (c.tile n).st = .d then c.onTile n (fun t => { t with st := .c }) else c) c

/-- The units a save of a context at an address writes; the image holds a tile that the save has written as C (15 R392,
12 R361). -/
def Ctx.imageOut (c : Ctx) (a : W64) : List (Nat × List Byte) :=
  let ctl := c.cleaned.control.toArray
  (upto imageUnits).filterMap (fun i => (c.imageUnit (decide (a = c.sys.sctxp)) ctl i).map (fun b => (i, b)))

/-- A context after a save: its written tiles clean, and SCTXP (15 R392). -/
def Ctx.saved (c : Ctx) (a : W64) : Ctx :=
  { c.cleaned with sys := { c.sys with sctxp := a } }

/-! ### Checks of an image (15 R393) -/

/-- The bits of a word of the control region that hold a field. -/
def ctlMask (i : Nat) : W64 :=
  let rep (base n : Nat) (l : List W64) : W64 := l.getD ((i - base) % n) 0
  let all : W64 := 0xFFFFFFFFFFFFFFFF
  if i < 8 then rep 0 8 [0xFFFF03FFF2FE0000, all, all]
  else if i < 80 then all
  else if i < 96 then rep 80 16 [0xF, all, all, 0x4F00FF ||| 0x800000, all, all, all, all, 0x17FFF, all, all, 1]
  else if i < 128 then all
  else if i = 128 then 0xFF
  else if i < 133 then 0xFFFFFF
  else if i < 149 then rep 133 4 [0x03FFFFFF0000003F, all, all]
  else if i < 175 then all
  else if i < 179 then 0x0F0F0F0F0F0F0F0F
  else if i = 179 then 0xFF
  else if i < 186 then all
  else if i < 194 then 0x80000000000000FF
  else if i < 196 then all
  else if i = 196 then 0xFFFF
  else if i < 199 then all
  else if i < 200 then 0
  else if i < 328 then rep 200 8 [0x7FFFFFFFC0, 0x7F7F, 0x80001F1F00FF07FF, 0x80001F1F00FF07FF, 0x80001F1F00FF07FF, 0x80001F1F00FF07FF]
  else if i < 360 then all
  else if i < 376 then rep 360 8 [0xFFFFFFFF]
  else if i < 384 then 0
  else if i < 528 then rep 384 8 [1, all, all, all, 0x7F7F7F, 0x1F1F]
  else if i < 1104 then
    let j := (i - 528) % 64
    if j = 0 then 1 else if j < 4 then all else if j = 4 then 0x7F7F7F else if j = 5 then 0x1F1F else if j < 48 then all else 0
  else if i < 1968 then
    let j := (i - 1104) % 18
    if j = 0 then 0xFFFFFFFF07FF003F else if j = 1 then 0 else all
  else 0

/-- An item whose first word says that it is empty is zero throughout (15 R448, R449). -/
def emptyZero (w : Nat → W64) (base n count : Nat) : Bool :=
  (upto count).all (fun k => bit (w (base + n * k)) 0 || (upto n).all (fun j => w (base + n * k + j) == 0))

/-- The reason of an image fault, or none. -/
def imageReason (c : Ctx) (taskId : Nat) (w : Nat → W64) : Option Nat :=
  if bf (w 0) 48 16 ≠ 1 then some 1
  else if bf (w 0) 38 4 ≠ c.mx.nBanks ∨ bf (w 0) 32 6 ≠ c.mx.nTiles then some 2
  else if (w 159).toNat ≠ taskId then some 3
  else if (upto 2048).any (fun i => w i &&& ~~~(ctlMask i) != 0) || !emptyZero w 384 8 18 || !emptyZero w 528 64 9 ||
      !emptyZero w 1104 18 48 || (upto 8).any (fun n => !bit (w (186 + n)) 63 && w (186 + n) != 0) then some 4
  else none

/-! ### A context from an image (15 R393) -/

/-- A map of the values of a function that differ from the default. -/
def mapOf {β : Type} [DecidableEq β] (d : β) (ns : List Nat) (g : Nat → β) : SMap β :=
  (ns.filter (fun n => g n ≠ d)).map (fun n => (n, g n))

/-- Loop records, the most recently activated first. -/
def loopsOf (w : Nat → W64) : List LoopRec :=
  (upto 4).flatMap (fun rank => (upto 4).filterMap (fun k =>
    let x := w (133 + 4 * k)
    if bit x 0 && bf x 56 2 == rank then
      some { k := k, while_ := bit x 1, cc := bf x 2 3, neg := bit x 5, max := bf x 32 24, start := w (134 + 4 * k), last := w (135 + 4 * k) }
    else none))

/-- A buffer's shape. -/
def bufOf (x : W64) : Buf :=
  if bit x 15 then {} else { empty := false, fb := bf x 0 5, blk := bf x 5 3, wa := bf x 8 6, sparse := bit x 14, kb := bf x 16 16 }

/-- Nine latches. -/
def latchesOf (r : Regs) (w : Nat → W64) (base : Nat) : SMap Latch :=
  (upto 9).filterMap (fun p =>
    let b := base + 8 * p
    if bit (w b) 0 then (Latch.ofWords r p ((upto 5).map (fun j => w (b + 1 + j)))).map (fun l => (p, l)) else none)

/-- The replay buffer. -/
def replaysOf (r : Regs) (w : Nat → W64) : SMap Replay :=
  (upto 9).filterMap (fun p =>
    let b := 528 + 64 * p
    if bit (w b) 0 then
      (Latch.ofWords r p ((upto 5).map (fun j => w (b + 1 + j)))).map (fun l =>
        (p, { lat := l, mpc := w (b + 6), scal := (upto (scalOps l.instr).length).map (fun j => w (b + 7 + j))
              vec := vecOf w (b + 16), idx := vecOf w (b + 32) }))
    else none)

/-- The shadow latches. -/
def shadowsOf (w : Nat → W64) : List Shadow :=
  (upto 48).filterMap (fun j =>
    let b := 1104 + 18 * j
    let x := w b
    let d := Dest.ofCodes (bf x 1 3) (bf x 4 2) (bf x 16 11)
    if bit x 0 && d.isReg then some { dest := d, value := vecOf w (b + 2), offset := bf x 32 32 } else none)

/-- State of a tile code. -/
def tileSt (n : Nat) : TileSt :=
  match n with
  | 0 => .u | 1 => .z | 2 => .d | _ => .c

/-- Tiles whose bytes an image holds. -/
def imageTiles (c : Ctx) (w : Nat → W64) : List Nat := (upto c.mx.nTiles).filter (fun n => decide (2 ≤ bf (w 174) (2 * n) 2))

/-- The units a restore reads after the control region. -/
def imageIn (c : Ctx) (w : Nat → W64) : List Nat :=
  (upto 5120).map (· + 256) ++ (upto (512 * c.mx.nBanks)).map (· + 5376) ++
    (imageTiles c w).flatMap (fun n => (upto 128).map (fun i => 9472 + 128 * n + i))

/-- The names of a context from its control region and its banks. -/
def regsOf (c : Ctx) (w : Nat → W64) (unit_ : Nat → List Byte) : Regs :=
  { pc := w 1, sup := bit (w 0) 25
    s := mapOf 0 ((upto 64).drop 1) (fun n => w (8 + n))
    ss := mapOf 0 ((upto 64).drop 56) (fun n => w (16 + n))
    v := mapOf 0 (upto (256 * c.mx.nBanks)) (fun n => BitVec.ofNat 1024 (leNat (unit_ (5376 + 2 * n) ++ unit_ (5377 + 2 * n))))
    m := mapOf 0 ((upto 16).drop 1) (fun n => BitVec.ofNat 128 ((w (96 + 2 * n)).toNat + (w (97 + 2 * n)).toNat * 2 ^ 64))
    c := (w 128).setWidth 8
    q := mapOf 0 (upto 8) (fun n => w (149 + n))
    d := mapOf 0 (upto 16) (fun n => w (157 + n))
    lc := mapOf 0 (upto 4) (fun n => w (129 + n))
    loops := loopsOf w
    mpc := w 173
    gens := (upto 32).map (fun n => (n, w (328 + n)))
    hs := mapOf {} (upto 16) (fun n => handleOf (fun i => w (200 + 8 * n + i))) }

/-- The tiles of an image. -/
def tilesOf (c : Ctx) (w : Nat → W64) (unit_ : Nat → List Byte) : SMap Tile :=
  let b (n : Nat) : Nat := wordByte w 175 n
  (upto c.mx.nTiles).map (fun n =>
    let st := tileSt (bf (w 174) (2 * n) 2)
    (n, { st := st, fmt := b n % 8
          pair := if 8 ≤ b n % 16 then 1 else if 0 < n ∧ 8 ≤ b (n - 1) % 16 then 2 else 0
          el := if st = .u ∨ st = .z then [] else
            mapOf 0 (upto 1024) (fun i => w64 (leNat (((unit_ (9472 + 128 * n + i / 8)).drop (8 * (i % 8))).take 8))) }))

/-- Context `c`, an idle or parked slot, with everything an image at an address holds (15 R393). -/
def Ctx.ofImage (c : Ctx) (a : W64) (w : Nat → W64) (unit_ : Nat → List Byte) : Ctx :=
  let r := regsOf c w unit_
  let reps := replaysOf r w
  let same := bf (w 0) 28 4 = c.mx.hands.length
  let bytes (base : Nat) (b : Buf) : List Byte :=
    if b.empty then [] else ((upto 2560).flatMap (fun i => unit_ (base + i))).take (imgSize b.fb b.blk b.kb)
  { c.retired with
    st := .live
    r := r
    sys := { sstep := bit (w 80) 1, stvec := w64 ((w 81).toNat / 4 * 4), sepc := w 82, scause := w 83, sdetail := w 84, x0 := w 85, x1 := w 86, x2 := w 87,
             srepl := w 88, swlog := w 89, sctxp := a, rlost := bit (w 91) 0, replay := if r.sup then reps else [], shadow := shadowsOf w
             shRun := true, asyncs := if bit (w 80) 2 then [{ cls := .async, code := 0x22, detail := 0 }] else [] }
    mem := { tagBits := (w 196).setWidth 16, tagCnt := mapOf 0 (upto 16) (wordByte w 197), sb := mapOf 0 (upto 16) (wordByte w 194)
             tl := (upto 8).filterMap (fun n => if bit (w (186 + n)) 63 then some (n, bf (w (186 + n)) 0 8) else none)
             arr := (upto 6).foldl (fun m l => mset 0 m (l + 1) (w (180 + l))) []
             pend := (upto 16).flatMap (fun n => pushesOf n (fun i => w (200 + 8 * n + i))) }
    mx := { c.retired.mx with
            tiles := tilesOf c w unit_
            bankMat := (w 179).setWidth 8
            front := if same then bufOf (w 360) else {}
            back := if same then bufOf (w 368) else {}
            frontD := if same then bytes 256 (bufOf (w 360)) else []
            backD := if same then bytes 2816 (bufOf (w 368)) else [] }
    sq := { latU := latchesOf r w 384, latS := latchesOf r w 456, rep := max 1 (bf (w 0) 17 7), repcnt := w 2
            replay := if r.sup then [] else reps
            perf := if r.sup ∨ reps.isEmpty then 0 else bf (w 88) 0 9 } }

/-! ### Moving the bytes -/

/-- Stores units of an image through a translation, in ascending order; past a fault the image is unpredictable
(15 R391). -/
def State.imgStore (s : State) (e : Env) (a : W64) : List (Nat × List Byte) → Option Trap → State × Option Trap
  | [], t => (s, t)
  | (i, bs) :: l, t =>
    match s.place e 64 .write true (a + w64 (64 * i)) with
    | (s1, .at_ va loc ecw) =>
      let (v, s2) := s1.takeFree 512
      let s3 := (if t.isNone then s1 else s2)
      let b := if t.isNone then bs else leBytes 64 v.toNat
      (s3.locWrite e.k { id := 0, kind := .st, va := va, loc := loc, ecw := ecw, size := 64 } b).imgStore e a l t
    | (s1, .trap x) => s1.imgStore e a l (t.orElse (fun _ => some x))
    | (s1, .drop _) => s1.imgStore e a l t

/-- Loads units of an image, or the first fault that they meet. -/
def State.imgLoad (s : State) (e : Env) (a : W64) : List Nat → State × Except Trap (List (Nat × List Byte))
  | [] => (s, .ok [])
  | i :: l =>
    match s.place e 64 .read false (a + w64 (64 * i)) with
    | (s1, .at_ va loc ecw) =>
      let r := s1.locRead e.k { id := 0, kind := .ld, va := va, loc := loc, ecw := ecw, size := 64 }
      match r.bad with
      | some o => (s1, .error { cls := .slot, code := 0x22, detail := va + w64 o })
      | none =>
        match r.st.imgLoad e a l with
        | (s2, .ok m) => (s2, .ok ((i, leBytes 64 r.val) :: m))
        | x => x
    | (s1, .trap x) => (s1, .error x)
    | (s1, .drop _) => (s1, .ok [])

/-- Units by number. -/
def unitArray (l : List (Nat × List Byte)) : Array (List Byte) :=
  l.foldl (fun (m : Array (List Byte)) e => if e.1 < m.size then m.set! e.1 e.2 else m) (Array.replicate imageUnits [])

/-- Words of the control region by number. -/
def wordArray (u : Array (List Byte)) : Array W64 :=
  ((upto 256).flatMap (fun i => (upto 8).map (fun j => w64 (leNat (((u.getD i []).drop (8 * j)).take 8))))).toArray

/-- Puts the context that an image brings, its accesses numbered afresh.  Of an asynchronous trap that waits the image
says only that it does (15 R377, R395): it is taken as a memory error, and its DETAIL and extra words are free values
(log entry 28).  An image does not hold the context's last time: the latest that any context has read stands for it
(01 R36). -/
def State.putImage (s : State) (k : Nat) (c : Ctx) : State :=
  let l := c.mem.pend.zipIdx.map (fun (a, i) => { a with id := s.seq + i, grp := s.seq + i })
  let (d, s1) := s.takeFree 64
  let (x, s2) := s1.takeFree 64
  let (p, s3) := s2.takeFree 4
  let s4 : State := if c.sys.asyncs.isEmpty then s else s3
  let s5 : State := { s4 with seq := s4.seq + l.length }
  s5.putCtx k { c with
    mem := { c.mem with pend := l, lastTime := s.hub.lastRead }
    sys := { c.sys with asyncs := c.sys.asyncs.map (fun t => { t with detail := d, x0 := x, x1 := p.setWidth 64 }) } }

/-- The context that units of an image describe. -/
def Ctx.ofUnits (c : Ctx) (a : W64) (u : Array (List Byte)) : Ctx :=
  let w := wordArray u
  c.ofImage a (fun i => w.getD i 0) (fun i => u.getD i [])

end Sys2Proof.Machine
end

