-- ==== Sys2Proof/Machine/System.lean ====
section
/-!
DEFINITION. The privileged operations and the events of traps (15 R376 to R393; 18 R440): system registers, `eret`,
`tlbinv`, `halt`, the saves and restores of a slot, trap entry, shadow latches and the core halt.
-/

namespace Sys2Proof.Machine

/-! ### System registers (15 R376 to R378, R387) -/

/-- A context after a write of a system register, field by field. -/
def Ctx.mtsy (c : Ctx) (sel : Nat) (v : W64) : Ctx :=
  match sel with
  | 0 => { c with sys := { c.sys with sstep := bit v 1 } }
  | 1 => { c with sys := { c.sys with stvec := w64 (v.toNat / 4 * 4) } }
  | 2 => { c with sys := { c.sys with sepc := v } }
  | 8 => if bit v 16 then { c with sys := { c.sys with srepl := setf c.sys.srepl 16 1 0 } } else c
  | 9 => if 10 ≤ v.toNat ∧ v.toNat ≤ 40 then { c with sys := { c.sys with swlog := v } } else c
  | 10 => { c with sys := { c.sys with sctxp := w64 (v.toNat / 4096 * 4096) } }
  | 11 => if bit v 0 then { c with sys := { c.sys with rlost := false, rlostAddr := 0 } } else c
  | _ => c

/-- Writes a system register (15 R387). -/
def semMtsy (f : BG) : SlotSem :=
  { act := fun e s => (s.onCtx e.k (fun c => c.mtsy f.imm.toNat (e.c.r.rs f.sa.toNat)), none) }

@[inherit_doc semMtsy]
def execMtsy (f : BG) (s : State) : Out State := runSlot (.mtsy f) (semMtsy f) s

/-- A system register as `mfsy` reads it (15 R376). -/
def State.sysRead (s : State) (e : Env) (sel : Nat) : W64 := if sel = 0x10 then s.cslots (e.k / 4) else e.c.sysReg sel

/-- sd := a system register (15 R387). -/
def semMfsy (f : BG) : SlotSem := { act := fun e s => (s.wr e.k f.sd.toNat (s.sysRead e f.imm.toNat), none) }

@[inherit_doc semMfsy]
def execMfsy (f : BG) (s : State) : Out State := runSlot (.mfsy f) (semMfsy f) s

/-! ### Return (15 R386) -/

/-- Returns to user mode once the other slots have performed. -/
def semEret (_f : BG) : SlotSem :=
  { check := fun _ e => targetCheck e.c.sys.sepc
    act := fun _ s => ({ s with issue := { s.issue with ret := true } }, none) }

@[inherit_doc semEret]
def execEret (f : BG) (s : State) : Out State := runSlot (.eret f) (semEret f) s

/-- Issues the end-task request with the cause of the last trap. -/
def semEretEnd (_f : BG) : SlotSem := { act := fun _ s => ({ s with issue := { s.issue with stop := true } }, none) }

@[inherit_doc semEretEnd]
def execEretEnd (f : BG) (s : State) : Out State := runSlot (.eretEnd f) (semEretEnd f) s

/-! ### Translations removed (15 R388) -/

/-- A translation lies in the scope of a `tlbinv`. -/
def tlbHit (part asid scope : Nat) (va : W64) (t : Tlb) : Bool :=
  t.part == part && (scope == 2 || t.asid == asid) && (scope != 0 || va.toNat / 2 ^ t.bits == t.vbase)

/-- Some TLB of the package holds a translation in scope. -/
def State.tlbHolds (s : State) (hit : Tlb → Bool) : Bool :=
  s.cores.any (fun e => e.2.tlb.any hit) || s.slices.any (fun e => e.2.any hit) || s.walks.any (fun e => e.2.any hit)

/-- Removes the translations in scope from every TLB of the package. -/
def State.tlbDrop (s : State) (hit : Tlb → Bool) : State :=
  { s with
    cores := s.cores.map (fun (e : Nat × Core) => (e.1, { e.2 with tlb := e.2.tlb.filter (fun t => !hit t) }))
    slices := s.slices.map (fun (e : Nat × List Tlb) => (e.1, e.2.filter (fun t => !hit t)))
    walks := s.walks.map (fun (e : Nat × List Tlb) => (e.1, e.2.filter (fun t => !hit t))) }

/-- A fence, and then a wait until no TLB of the package holds a translation in scope; neither counts toward the wait
limit (15 R388, 02 R51). -/
def tlbinvWait (f : BG) (e : Env) (s : State) : State × Option Wait :=
  let va := e.c.r.rs f.sa.toNat
  let setInv (x : Option (Nat × W64)) : State := s.onCtx e.k (fun c => { c with mem := { c.mem with inv := x } })
  if (s.ctxAt e.k).unfenced false then (s, some { counts := false })
  else if (s.ctxAt e.k).mem.inv.map (fun x => x.1) = some 3 then (s, none)
  else if s.tlbHolds (tlbHit e.c.part e.c.asid f.fn.toNat va) then (setInv (some (f.fn.toNat, va)), some { counts := false })
  else (s, none)

/-- Removes translations package-wide and waits for them (15 R388). -/
def semTlbinv (f : BG) : SlotSem :=
  { wait := tlbinvWait f
    act := fun e s => (s.onCtx e.k (fun c => { c with mem := { c.mem with inv := none } }), none) }

@[inherit_doc semTlbinv]
def execTlbinv (f : BG) (s : State) : Out State := runSlot (.tlbinv f) (semTlbinv f) s

/-- Every TLB has dropped the translations in the scope that a blocked `tlbinv` names (15 R388). -/
def execTlbInvalidationComplete (c : Nat) (s : State) : Out State :=
  let x := s.ctxAt c
  match x.mem.inv with
  | some (scope, va) =>
    if scope = 3 then .refused .notEnabled
    else .next ((s.tlbDrop (tlbHit x.part x.asid scope va)).onCtx c (fun y => { y with mem := { y.mem with inv := some (3, va) } }))
  | none => .refused .notEnabled

/-! ### Saves and restores of a slot (15 R391 to R393) -/

/-- The slot that an operation names, as a context key. -/
def slotKey (f : BG) (e : Env) : Nat := e.k / 4 * 4 + bf f.imm 0 2

/-- The context-state and misaligned-access faults. -/
def slotCheck (f : BG) (ok : SlotSt → Bool) (s : State) (e : Env) : Option Trap :=
  let a := e.c.r.rs f.sa.toNat
  firstTrap [if slotKey f e = e.k || !ok (s.ctxAt (slotKey f e)).st then trapI 0x32 (bf f.imm 0 2) else none,
    if a.toNat % 4096 ≠ 0 then trapI 0x0A a.toNat else none]

/-- Writes a parked slot's image (15 R392). -/
def semCtxsave (f : BG) : SlotSem :=
  { check := slotCheck f (fun st => st == .parked)
    wait := fenceWait false
    act := fun e s =>
      let a := e.c.r.rs f.sa.toNat
      match s.imgStore e a ((s.ctxAt (slotKey f e)).imageOut a) none with
      | (s1, none) => (s1.onCtx (slotKey f e) (fun c => c.saved a), none)
      | (s1, some t) => (s1, some t) }

@[inherit_doc semCtxsave]
def execCtxsave (f : BG) (s : State) : Out State := runSlot (.ctxsave f) (semCtxsave f) s

/-- The image fault of a restore: its control region is read once the fence before it has ended (15 R393). -/
def restoreCheck (f : BG) (s : State) (e : Env) : Option Trap :=
  let x := s.ctxAt (slotKey f e)
  match slotCheck f (fun st => st == .idle || st == .parked) s e with
  | some t => some t
  | none =>
    if (s.ctxAt e.k).unfenced false then none
    else
      match (s.imgLoad e (e.c.r.rs f.sa.toNat) (upto 256)).2 with
      | .error _ => none
      | .ok l =>
        let w := wordArray (unitArray l)
        (imageReason x (s.taskAt x.task).id (fun i => w.getD i 0)).bind (fun r => trapI 0x33 r)

/-- Loads a slot from an image (15 R393). -/
def semCtxrestore (f : BG) : SlotSem :=
  { check := restoreCheck f
    wait := fenceWait false
    act := fun e s =>
      let a := e.c.r.rs f.sa.toNat
      let x := s.ctxAt (slotKey f e)
      match s.imgLoad e a (upto 256) with
      | (s1, .error t) => (s1, some t)
      | (s1, .ok l) =>
        let w := wordArray (unitArray l)
        match s1.imgLoad e a (imageIn x (fun i => w.getD i 0)) with
        | (s2, .error t) => (s2, some t)
        | (s2, .ok m) => (s2.putImage (slotKey f e) (x.ofUnits a (unitArray (l ++ m))), none) }

@[inherit_doc semCtxrestore]
def execCtxrestore (f : BG) (s : State) : Out State := runSlot (.ctxrestore f) (semCtxrestore f) s

/-! ### Halt (15 R389, 18 R440) -/

/-- Stops a core: no further packet issues on it. -/
def Core.halt (c : Core) (slot : Nat) (n : BitVec 32) : Core := { c with halted := true, haltSlot := slot, haltN := n }

/-- Stops the whole core after its packet (15 R389). -/
def semHalt (f : BG) : SlotSem :=
  { act := fun e s => (s.onCore (e.k / 4) (fun c => c.halt (e.k % 4) f.imm), none) }

@[inherit_doc semHalt]
def execHalt (f : BG) (s : State) : Out State := runSlot (.halt f) (semHalt f) s

/-! ### Events of traps (02 R51; 15 R382) -/

/-- A trap that waited for M-slot work is entered. -/
def execTrapEntry (c : Nat) (s : State) : Out State :=
  let x := s.ctxAt c
  match x.sys.trapPend with
  | some p => if x.mx.ops.isEmpty && x.st == .live then .next (s.enterTrap c p) else .refused .notEnabled
  | none => .refused .notEnabled

/-- A shadow latch whose offset has been reached delivers its result. -/
def execShadowLatchDeliver (c i : Nat) (s : State) : Out State :=
  let x := s.ctxAt c
  match x.sys.shadow[i]? with
  | some l =>
    if x.st == .live && x.latchesRun && decide (l.offset ≤ x.sys.ticks) then .next (s.onCtx c (fun y => y.unshadow (fun z => z == l)))
    else .refused .notEnabled
  | none => .refused .notEnabled

end Sys2Proof.Machine
end

