-- ==== Sys2Proof/Machine/Launch.lean ====
section
/-!
DEFINITION. Commands and launches (02 R37 to R41; 16 R398, R401, R402; 11 R334, R336, R345): the checks of a launch,
its acceptance, and what it does to the history and the guess of its queue.
-/

namespace Sys2Proof.Machine

/-! ### Fields of a queue (16 R396) -/

/-- PART, ASID, KEYID, HOME, PMAX, CLOG and RLOG of QCFG. -/
def State.qpart (s : State) (q : Nat) : Nat := bf (s.qreg q 0) 28 3
@[inherit_doc State.qpart]
def State.qasid (s : State) (q : Nat) : Nat := bf (s.qreg q 0) 48 16
@[inherit_doc State.qpart]
def State.qkey (s : State) (q : Nat) : Nat := bf (s.qreg q 0) 32 10
@[inherit_doc State.qpart]
def State.qhome (s : State) (q : Nat) : Nat := bf (s.qreg q 0) 24 2
@[inherit_doc State.qpart]
def State.qpmax (s : State) (q : Nat) : Nat := bf (s.qreg q 0) 26 2
@[inherit_doc State.qpart]
def State.qclog (s : State) (q : Nat) : Nat := bf (s.qreg q 0) 16 4
@[inherit_doc State.qpart]
def State.qrlog (s : State) (q : Nat) : Nat := bf (s.qreg q 0) 20 4

/-- CHEAD, CTAIL, and the commands between them modulo 2^32. -/
def State.chead (s : State) (q : Nat) : Nat := bf (s.qreg q 0x20) 0 32
@[inherit_doc State.chead]
def State.ctail (s : State) (q : Nat) : Nat := bf (s.qreg q 0x20) 32 32
@[inherit_doc State.chead]
def State.cmds (s : State) (q : Nat) : Nat := (s.ctail q + 2 ^ 32 - s.chead q) % 2 ^ 32

/-- CHEAD moves past a command. -/
def State.tookCommand (s : State) (q : Nat) : State := s.setQreg q 0x20 (setf (s.qreg q 0x20) 0 32 (s.chead q + 1))

/-- Words of the queue's address space, or the first address that cannot be read (16 R398). -/
def State.readList (s : State) (q va : Nat) : Nat → Except W64 (List W64)
  | 0 => .ok []
  | n + 1 =>
    match s.readWords (s.qpart q) (s.qasid q) va 1 with
    | some (w :: _) =>
      match s.readList q (va + 8) n with
      | .ok l => .ok (w :: l)
      | .error a => .error a
    | _ => .error (w64 va)

/-! ### Launch records (16 R401) -/

/-- The parameters of a launch record, ranges apart. -/
def Launch.ofWords (w : List W64) : Launch :=
  let g (i : Nat) : W64 := w.getD i 0
  { desc := g 1, args := g 2, lo := g 3, hi := g 4, grain := (g 5).extractLsb' 0 32, glev := (g 0).extractLsb' 8 3,
    gcores := (g 0).extractLsb' 32 16, prio := (g 0).extractLsb' 12 2, gang := g 6, gangid := (g 5).extractLsb' 32 16,
    gpart := (g 5).extractLsb' 48 16, gpkgs := (g 0).extractLsb' 48 16 }

/-- Ranges from the words of a table. -/
def rangesOf (ws : List W64) : List (W64 × W64) := (upto (ws.length / 2)).map (fun i => (ws.getD (2 * i) 0, ws.getD (2 * i + 1) 0))

/-- A launch with its declared ranges. -/
def Launch.withRanges (l : Launch) (nrd : Nat) (ws : List W64) : Launch :=
  { l with reads := (rangesOf ws).take nrd, writes := (rangesOf ws).drop nrd }

/-! ### Checks (02 R38, R40) -/

/-- A field of a kernel descriptor. -/
def dfld (d : List W64) (w lo n : Nat) : Nat := bf (d.getD w 0) lo n

/-- The limits and reserved bits of a kernel descriptor (02 R40, 11 R334). -/
def descOk (d : List W64) : Bool :=
  let f := dfld d
  let ctxs := f 2 32 3
  let side := f 2 38 2
  decide (f 0 0 2 = 0) && (side != 0 || f 1 0 64 == 0) && decide (f 1 0 6 = 0) &&
    decide (f 2 40 24 = 0) && decide (f 2 31 1 = 0) && decide (f 2 22 2 = 0) && decide (f 2 13 3 = 0) &&
    decide (1 ≤ ctxs) && decide (ctxs ≤ 4) && decide (1 ≤ f 2 35 3) && decide (f 2 35 3 ≤ ctxs) &&
    decide (f 2 24 7 ≤ 64) && decide (f 2 16 6 ≤ 32) && decide (f 2 4 4 ≤ 8) && decide (f 2 4 4 ≤ f 2 8 4) &&
    decide (f 2 8 4 ≤ 8) && decide (1 ≤ f 2 0 4) && decide (f 2 0 4 ≤ 8) &&
    decide (f 3 55 9 = 0) && decide (f 3 45 3 = 0) && decide (f 3 29 3 = 0) &&
    (f 3 48 6 == 0 || (decide (10 ≤ f 3 48 6) && decide (f 3 48 6 ≤ 40))) && decide (f 3 0 16 ≤ 4096) &&
    decide (f 5 40 24 = 0) && decide (f 7 0 64 = 0) &&
    decide (ctxs * f 2 0 4 ≤ 24) && decide (ctxs * f 2 16 6 ≤ 32) && decide (ctxs * f 2 4 4 ≤ 8) &&
    (if f 3 54 1 = 0 then decide (f 6 0 64 = 0)
     else decide (f 6 0 64 % 32 = 0) && (f 5 32 8 == 0 || f 6 0 64 != 0))

/-- The limits of a sidecar image header (08 R283). -/
def headerOk (h : List W64) : Bool :=
  [0, 4].all (fun b =>
    let f := fun w lo n => bf (h.getD (b + w) 0) lo n
    decide (f 1 0 32 ≤ 65536) && decide (f 1 32 32 ≤ 16384) && decide (f 3 0 1 = 0) && decide (f 3 16 48 = 0))

/-- A format word of a descriptor is valid (02 R41).  That RUNG and GEN must be zero too, as in an untracked role, is the
model's choice: the validity list names neither (log entry 27). -/
def fmtOk (x : Nat) : Bool := decide (x < 2 ^ 13) && (FmtWord.of x).valid

/-- An enabled core (01 R10). -/
def State.enabled (s : State) (core : Nat) : Bool := decide (core < 576) && bit (mget 0 s.mgmt.enmap (dieOf core)) (siteOf core)

/-- The enabled cores of a list. -/
def State.enabledOf (s : State) (l : List Nat) : List Nat := l.filter s.enabled

/-- The number of the unit of a level that holds a core; a core at levels 1 and 2. -/
def coreUnit (level core : Nat) : Nat := if level ≤ 2 then core else unitOf level (4 * core)

/-- Units of a level on the package. -/
def unitsOf (level : Nat) : List Nat :=
  match level with
  | 3 => upto 72
  | 4 => upto 8
  | 5 => [0]
  | 6 => [0]
  | _ => upto 576

/-- The most cores of a list that one unit of a level holds. -/
def mostCores (level : Nat) (l : List Nat) : Nat :=
  if level ≤ 2 then min 1 l.length
  else (unitsOf level).foldl (fun m u => max m (l.filter (fun c => coreUnit level c == u)).length) 0

/-- The enabled cores of a partition (16 R405). -/
def State.partCores (s : State) (p : Nat) : List Nat := (s.enabledOf (upto 576)).filter (fun c => s.owns p (stackOf c))

/-- The pip cost of two format words (01 R27). -/
def pipCost (a b : Nat) : Nat := pipWidth (fld a 0 5) * pipWidth (fld b 0 5)

/-- The hands KTGT gives, or none (02 R44). -/
def ktgtHands (d : List W64) (p : Nat) : Option Nat :=
  let n := dfld d 3 0 16 * p
  let h := n / 512
  if n % 512 = 0 ∧ 1 ≤ h ∧ h ≤ 8 ∧ ¬(h % 2 = 1 ∧ dfld d 2 12 1 = 1) then some h else none

/-- No unit could hold a launch's demand, even empty (02 R38). -/
def State.demandFails (s : State) (q : Nat) (l : Launch) (d : List W64) : Bool :=
  let ctxs := dfld d 2 32 3
  let untracked := dfld d 3 28 1 == 0 && dfld d 3 44 1 == 0
  let hmin := dfld d 2 4 4
  let cores := s.partCores (s.qpart q)
  (decide (1 < ctxs) && (dfld d 2 38 1 == 1 || dfld d 2 39 1 == 1)) ||
    (dfld d 3 0 16 != 0 && untracked &&
      (match ktgtHands d (pipCost (dfld d 4 0 32) (dfld d 4 32 32)) with
       | some h => decide (8 < h * ctxs)
       | none => false)) ||
    (dfld d 3 0 16 == 0 && dfld d 2 12 1 == 1 &&
      (decide (dfld d 2 8 4 / 2 * 2 < hmin) || decide (8 < ctxs * alignUp hmin 2))) ||
    decide (mostCores l.glev.toNat cores < (if l.glev.toNat ≤ 2 then 1 else l.gcores.toNat))

/-- The gang fields disagree (16 R401). -/
def Launch.gangBad (l : Launch) : Bool :=
  if l.gang = 0 then l.gpkgs != 0 || l.gpart != 0 || l.gangid != 0
  else l.gpkgs == 0 || decide (l.gpkgs.toNat ≤ l.gpart.toNat) || l.glev != 6

/-- A launch that has passed its checks: its parameters, descriptor, sidecar header and argument classes. -/
structure Checked where
  l : Launch
  desc : List W64
  side : List W64
  cls : Nat
  deriving DecidableEq, Repr

/-- A test of a chain of checks: the reason and DETAIL of a failure (02 R64). -/
def need (ok : Bool) (reason : Nat) : Except (Nat × W64) Unit := if ok then .ok () else .error (reason, 0)

/-- A read of a chain of checks. -/
def needWords (r : Except W64 (List W64)) : Except (Nat × W64) (List W64) :=
  match r with
  | .ok l => .ok l
  | .error a => .error (10, a)

/-- The checks of a launch with its numbers of ranges and its range table (02 R38); `args` are argument words already
known.  The spec gives the checks no order: which reason a launch that fails several reports is the model's choice, the
first in the order written here (log entry 27). -/
def State.checkLaunch (s : State) (q : Nat) (l : Launch) (nrd nwr : Nat) (tab : Except W64 (List W64)) (args : Option (List W64)) :
    Except (Nat × W64) Checked := do
  need (l.desc.toNat % 64 == 0 && l.args.toNat % 8 == 0) 1
  let d ← needWords (s.readList q l.desc.toNat 8)
  need (descOk d) 1
  let side ← if dfld d 2 38 2 = 0 then .ok [] else needWords (s.readList q (dfld d 1 0 64) 8)
  need (side.isEmpty || headerOk side) 1
  let spec := dfld d 3 54 1 == 1
  let argn := dfld d 5 32 8
  let table ← if spec && dfld d 6 0 64 != 0 then needWords (s.readList q (dfld d 6 0 64) 4) else .ok []
  let cls := packEl 64 (table.map BitVec.toNat)
  need (decide (cls < 2 ^ argn)) 1
  let argw ← match args with
    | some a => .ok a
    | none => if spec then needWords (s.readList q l.args.toNat argn) else .ok []
  need ((dfld d 3 28 1 == 1 || fmtOk (dfld d 4 0 32)) && (dfld d 3 44 1 == 1 || fmtOk (dfld d 4 32 32))) 7
  need (l.grain != 0) 2
  need (decide (l.lo.toNat ≤ l.hi.toNat)) 3
  need (l.glev != 0 && l.glev != 7 && (decide (l.glev.toNat ≤ 2) ||
    (l.gcores != 0 && decide (l.gcores.toNat ≤ mostCores l.glev.toNat (s.enabledOf (upto 576)))))) 4
  need (decide (nrd ≤ 4) && decide (nwr ≤ 4)) 8
  let ws ← needWords tab
  let l1 := l.withRanges nrd ws
  need ((l1.reads ++ l1.writes).all (fun r => decide (r.1.toNat + r.2.toNat ≤ 2 ^ 64))) 8
  need (!l.gangBad) 9
  need (!s.demandFails q l d) 5
  .ok { l := { l1 with argw := argw }, desc := d, side := side, cls := cls }

/-! ### Rejection and acceptance -/

/-- A launch that the checks reject: its record, the queue stops, and a guess of the queue ends (02 R38, 11 R344). -/
def State.rejectLaunch (s : State) (q reason : Nat) (detail : W64) : State :=
  ((s.dropGuess q 37).pushRecord q (plainRecord 2 reason false 0 detail)).qstop q 0

/-- How an accepted launch differs from a guess, as the cause that ends the guess (11 R345). -/
def guessDiffers (g l : Launch) (cls : Nat) : Option Nat :=
  if g.desc ≠ l.desc then some 32
  else if g.args ≠ l.args ∨ g.lo ≠ l.lo ∨ g.hi ≠ l.hi ∨ g.grain ≠ l.grain ∨ g.glev ≠ l.glev ∨ g.gcores ≠ l.gcores ∨
      g.reads ≠ l.reads ∨ g.writes ≠ l.writes ∨ l.gang ≠ 0 then some 33
  else if (upto l.argw.length).any (fun i => !cls.testBit i && g.argw.getD i 0 != l.argw.getD i 0) ||
      g.argw.length != l.argw.length then some 34
  else none

/-- Compares an accepted launch with the queue's guess (11 R345): the guess's task id where it matches. -/
def State.matchGuess (s : State) (q : Nat) (c : Checked) : State × Option Nat :=
  match (s.queueAt q).dealer.guess with
  | none => (s, none)
  | some g =>
    match guessDiffers (s.taskAt g).l c.l c.cls with
    | some cause => (s.dropGuess q cause, none)
    | none => (s.onDealer q (fun d => { d with matched := some c.l, fresh := (c.desc, c.side) }), some g)

/-- The history takes a launch (11 R336). -/
def Dealer.learn (d : Dealer) (c : Checked) : Dealer :=
  { d with hist := ((c.l :: d.hist.reverse).take 64).reverse
           histSpec := ((bit (c.desc.getD 3 0) 54 :: d.histSpec.reverse).take 64).reverse }

/-- Accepts a checked launch: the history, the guess, the task with its id, and its wait for the dependence table
(02 R47; 11 R345; 16 R403).  `walk` is the graph walk that launched it, 0 for a command. -/
def State.accept (s : State) (q : Nat) (c : Checked) (walk : Nat) : State × Nat :=
  let (s1, g) := s.matchGuess q c
  let s2 := s1.onDealer q (fun d => d.learn c)
  let id := g.getD s2.disp.nextTask
  let n := s2.disp.order + 1
  let entries := max 1 (c.l.reads.length + c.l.writes.length)
  let s3 := { s2 with disp := { s2.disp with order := n, nextTask := if g.isSome then s2.disp.nextTask else id + 1 } }
  let s4 := s3.onTask id (fun t =>
    if g.isSome then { t with order := n, entries := entries, walk := walk }
    else { id := id, q := q, l := c.l, desc := c.desc, side := c.side, order := n, entries := entries, walk := walk })
  (s4.onQueue q (fun u => { u with wait := some id }), id)

/-! ### The commands (16 R398, R401, R402) -/

/-- The command that a running queue would take next: its words, or the error that stops the queue; none where the
queue takes no command now. -/
def State.nextCommand (s : State) (q : Nat) : Option (Except Nat (List W64)) :=
  let u := s.queueAt q
  if 256 ≤ q ∨ s.qstate q ≠ 1 ∨ s.cmds q = 0 ∨ u.walk.isSome ∨ u.wait.isSome then none
  else if 2 ^ s.qclog q < s.cmds q then some (.error 3)
  else
    match s.readList q ((s.qreg q 8).toNat + 64 * (s.chead q % 2 ^ s.qclog q)) 8 with
    | .error _ => some (.error 4)
    | .ok w =>
      let g (i : Nat) : W64 := w.getD i 0
      let reserved := match bf (g 0) 0 8 with
        | 1 => bf (g 0) 24 8 != 0 || bf (g 0) 14 2 != 0 || bf (g 0) 11 1 != 0
        | 2 => bf (g 0) 8 56 != 0 || [3, 4, 5, 6, 7].any (fun i => g i != 0)
        | _ => true
      some (if reserved then .error 2 else .ok w)

/-- Launches a range task after the checks of 02 R38. -/
def execLaunch (q : Nat) (s : State) : Out State :=
  match s.nextCommand q with
  | some (.ok w) =>
    let w0 := w.getD 0 0
    if bf w0 0 8 ≠ 1 then .refused .notEnabled
    else
      let s1 := s.tookCommand q
      let nrd := bf w0 16 4
      let nwr := bf w0 20 4
      let tab := if nrd ≤ 4 ∧ nwr ≤ 4 then s.readList q (w.getD 7 0).toNat (2 * (nrd + nwr)) else .ok []
      match s.checkLaunch q (Launch.ofWords w) nrd nwr tab none with
      | .error (r, a) => .next (s1.rejectLaunch q r a)
      | .ok c => .next (s1.accept q c 0).1
  | _ => .refused .notEnabled

/-- Starts the walk of a resident graph, with every iteration count zero (02 R58, 16 R402). -/
def execGraph (q : Nat) (s : State) : Out State :=
  match s.nextCommand q with
  | some (.ok w) =>
    if bf (w.getD 0 0) 0 8 ≠ 2 then .refused .notEnabled
    else
      let s1 := s.tookCommand q
      let first := bf (w.getD 2 0) 32 32
      let n := s1.disp.nextWalk
      let walk : Walk := { id := n, base := w.getD 1 0, count := bf (w.getD 2 0) 0 32, node := first }
      .next (if first = walkEnd then s1
        else { s1 with disp := { s1.disp with nextWalk := n + 1 } }.onQueue q (fun u => { u with walk := some walk }))
  | _ => .refused .notEnabled

/-- A command that is not accepted stops its queue with ERR 2, 3 or 4 (16 R398). -/
def execUnassignedCmd (q : Nat) (s : State) : Out State :=
  match s.nextCommand q with
  | some (.error e) => .next (s.qstop q e)
  | _ => .refused .notEnabled

end Sys2Proof.Machine
end

