-- ==== Sys2Proof/Machine/Graph.lean ====
section
/-!
DEFINITION. The graph walker (02 R57 to R61; 10 R322, R331): the nodes of a resident graph and their checks.
-/

namespace Sys2Proof.Machine

/-- A node as read. -/
structure Node where
  kind : Nat
  next : Nat
  nrd : Nat
  nwr : Nat
  a : W64
  b : W64
  /-- a reserved bit of the node is set -/
  rsv : Bool
  deriving DecidableEq, Repr

/-- A node from its eight words (02 R57). -/
def Node.ofWords (w : List W64) : Node :=
  let h := w.getD 0 0
  { kind := bf h 0 4, next := bf h 32 32, nrd := bf h 4 4, nwr := bf h 8 4, a := w.getD 1 0, b := w.getD 2 0
    rsv := bf h 12 20 != 0 || (w.drop 3).any (fun x => x != 0) }

/-- The reason a node stops the graph before it acts (02 R61).  The NEXT of a COND node, which the walk never takes, is not
checked against the graph's size: the spec is silent, and the choice is the model's (log entry 27). -/
def Node.reason (n : Node) (count : Nat) : Option Nat :=
  let bad17 := n.rsv || decide (4 < n.kind) || (n.kind != 0 && (n.nrd != 0 || n.nwr != 0)) ||
    ((n.kind == 1 || n.kind == 2) && n.a.toNat % 8 != 0) ||
    (n.kind == 3 && (bf n.a 28 36 != 0 || bf n.a 12 4 != 0 || n.b != 0 || decide (4096 < bf n.a 0 12 + bf n.a 16 12 + 1))) ||
    (n.kind == 4 && bf n.a 12 52 != 0)
  let succ := match n.kind with
    | 1 => [bf n.b 0 32, bf n.b 32 32]
    | 2 => [n.next, bf n.b 0 32]
    | 4 => [n.next, bf n.b 0 32]
    | _ => [n.next]
  if bad17 then some 17
  else if succ.any (fun x => x != walkEnd && decide (count ≤ x)) then some 18
  else if n.kind = 0 ∧ (4 < n.nrd ∨ 4 < n.nwr) then some 19
  else none

/-- The walk of a running queue that is about to act on a node, and the words of that node. -/
def State.atNode (s : State) (q : Nat) : Option (Walk × Except W64 Node) :=
  match (s.queueAt q).walk with
  | none => none
  | some w =>
    if s.qstate q ≠ 1 ∨ w.task.isSome ∨ w.calNext.isSome ∨ w.calWait then none
    else
      match s.readList q (w.base.toNat + 64 * w.node) 8 with
      | .ok l => some (w, .ok (Node.ofWords l))
      | .error a => some (w, .error a)

/-- Acts on the node a walk has reached, where it is of a kind; one that cannot be read, or of no kind, is acted on as a
TASK node is. -/
def State.onNode (s : State) (q kind : Nat) (act : Walk → Node → Out State) : Out State :=
  match s.atNode q with
  | none => .refused .notEnabled
  | some (w, .error a) =>
    if kind ≠ 0 then .refused .notEnabled
    else .next (if w.count ≤ w.node then s.graphError q w.node 18 0 else s.graphError q w.node 21 a)
  | some (w, .ok n) =>
    if kind ≠ (if 4 < n.kind ∨ w.count ≤ w.node then 0 else n.kind) then .refused .notEnabled
    else if w.count ≤ w.node then .next (s.graphError q w.node 18 0)
    else
      match n.reason w.count with
      | some r => .next (s.graphError q w.node r 0)
      | none => act w n

/-- The tasks that a walk has launched and that have not completed. -/
def State.walkTasks (s : State) (w : Walk) : List Task :=
  (s.disp.tasks.filter (fun e => e.2.walk == w.id)).map (fun e => e.2)

/-- Ranges overlap in at least one byte (02 R59). -/
def overlap (a b : W64 × W64) : Bool :=
  decide (0 < a.2.toNat) && decide (0 < b.2.toNat) && decide (a.1.toNat < b.1.toNat + b.2.toNat) &&
    decide (b.1.toNat < a.1.toNat + a.2.toNat)

/-- Earlier tasks of the walk that write any of a condition word have completed (02 R60). -/
def State.wordFree (s : State) (w : Walk) (a : W64) : Bool :=
  (s.walkTasks w).all (fun t => !t.l.writes.any (fun r => overlap r (a, 8)))

/-- Launches a node's task; the walk moves on once the dependence table takes it, and past a launch that is rejected
(02 R57, 16 R402); R57 does not say where the walk stands after a rejection, and the choice is the model's (log entry
27). -/
def execNodeTask (q : Nat) (s : State) : Out State :=
  s.onNode q 0 (fun w n =>
    match s.readList q n.a.toNat 8 with
    | .error a => .next (s.graphError q w.node 21 a)
    | .ok r =>
      match s.readList q n.b.toNat (2 * (n.nrd + n.nwr)) with
      | .error a => .next (s.graphError q w.node 21 a)
      | .ok tab =>
        match s.checkLaunch q (Launch.ofWords r) n.nrd n.nwr (.ok tab) none with
        | .error (r, a) => .next ((s.rejectLaunch q r a).walkGo q n.next)
        | .ok c =>
          let (s1, id) := s.accept q c w.id
          .next (s1.onQueue q (fun u => { u with walk := some { w with task := some id, next := n.next } })))

/-- Branches on a condition word (02 R57, R60). -/
def execNodeCond (q : Nat) (s : State) : Out State :=
  s.onNode q 1 (fun w n =>
    if !s.wordFree w n.a then .refused .notEnabled
    else match s.readList q n.a.toNat 1 with
      | .ok (v :: _) => .next (s.walkGo q (if v ≠ 0 then bf n.b 0 32 else bf n.b 32 32))
      | .ok [] => .refused .notEnabled
      | .error a => .next (s.graphError q w.node 21 a))

/-- Tests a WHILE condition: a further iteration of BODY, or the loop closes (02 R57, R58, R61). -/
def execNodeWhile (q : Nat) (s : State) : Out State :=
  s.onNode q 2 (fun w n =>
    if !s.wordFree w n.a then .refused .notEnabled
    else match s.readList q n.a.toNat 1 with
      | .ok (v :: _) =>
        let set (l : SMap Nat) : State := s.onQueue q (fun u => { u with walk := some { w with loops := l } })
        if v = 0 then .next ((set (mdel w.loops w.node)).walkGo q n.next)
        else
          let k := mget 0 w.loops w.node + 1
          if bf n.b 32 32 < k then .next (s.graphError q w.node 16 0)
          else if (mfind w.loops w.node).isNone ∧ 64 ≤ w.loops.length then .next (s.graphError q w.node 20 0)
          else .next ((set (mput w.loops w.node k)).walkGo q (bf n.b 0 32))
      | .ok [] => .refused .notEnabled
      | .error a => .next (s.graphError q w.node 21 a))

/-- The walk stops at a node that names an entry outside its queue's partition: the Calender-access fault, as a record of
KIND 1 with DETAIL the entry (10 R315, 14 R369; log entry 30). -/
def State.calenderStop (s : State) (q e : Nat) : State :=
  ((s.onQueue q (fun u => { u with walk := none })).pushRecord q (recordWords 1 0x2E false 15 0 0 0 (w64 e) 0 0 0)).qstop q 0

/-- The first entry of a run that a queue's partition does not own. -/
def State.foreignEntry (s : State) (q first n : Nat) : Option Nat :=
  ((upto n).map (fun i => first + i)).find? (fun e => !s.ownsEntry (s.qpart q) e)

/-- Evaluates entries once every earlier task of the walk has completed; the walk goes on when the read copies hold the
results (10 R322). -/
def execNodeCalstep (q : Nat) (s : State) : Out State :=
  s.onNode q 3 (fun w n =>
    if !(s.walkTasks w).isEmpty then .refused .notEnabled
    else match s.foreignEntry q (bf n.a 0 12) (bf n.a 16 12 + 1) with
      | some e => .next (s.calenderStop q e)
      | none =>
        .next ((s.evalRange (bf n.a 0 12) (bf n.a 16 12 + 1)).onQueue q (fun u => { u with walk := some { w with calNext := some n.next } })))

/-- Tests the RERUN flag of an entry once every earlier task of the walk has completed: widens it and walks FIRST to
LAST again once the read copies hold the wider rung, or goes on; during a re-walk it only goes on (10 R331). -/
def execNodeRerun (q : Nat) (s : State) : Out State :=
  s.onNode q 4 (fun w n =>
    if !(s.walkTasks w).isEmpty then .refused .notEnabled
    else
      let e := bf n.a 0 12
      let x := s.entry e
      if !s.ownsEntry (s.qpart q) e then .next (s.calenderStop q e)
      else if w.rerun.isSome || !x.rerun then .next (s.walkGo q n.next)
      else
        let s1 := s.putEntry e x.takeRerun
        let first := bf n.b 0 32
        if first = walkEnd then .next (s1.graphError q w.node 18 0)
        else .next (s1.onQueue q (fun u => { u with walk := some { w with
          node := first, rerun := some (n.next, bf n.b 32 32), calWait := true } })))

end Sys2Proof.Machine
end

