-- ==== Sys2Proof/Machine/Place.lean ====
section
/-!
DEFINITION. The dispatcher (02 R39, R42 to R45, R55, R59, R62, R65, R66; 16 R399, R400, R403 to R405): the dependence
table, readiness and priority, placement, completion, the end of a task, and records.
-/

namespace Sys2Proof.Machine

/-! ### The dependence table (02 R59, 16 R403, R404) -/

/-- The ranges of two tasks conflict, or one declares none. -/
def conflicts (a b : Launch) : Bool :=
  (a.reads.isEmpty && a.writes.isEmpty) || (b.reads.isEmpty && b.writes.isEmpty) ||
    a.writes.any (fun x => (b.reads ++ b.writes).any (fun y => overlap x y)) ||
    a.reads.any (fun x => b.writes.any (fun y => overlap x y))

/-- The launch that orders a task: its own, or for a guess the one that has matched it. -/
def State.launchOf (s : State) (t : Task) : Launch :=
  if t.guess then (s.queueAt t.q).dealer.matched.getD t.l else t.l

/-- In the dependence table. -/
def Task.inTable (t : Task) : Bool := t.st != .waiting

/-- An earlier task of its queue holds a task back (02 R59). -/
def State.blockedBy (s : State) (t u : Task) : Bool :=
  u.q == t.q && u.id != t.id && u.inTable && decide (u.order < t.order) && conflicts (s.launchOf u) (s.launchOf t)

/-- All tasks. -/
def State.allTasks (s : State) : List Task := s.disp.tasks.map (fun e => e.2)

/-- A task is ready: in the table, not ended, and no earlier task holds it back (02 R65). -/
def State.ready (s : State) (t : Task) : Bool :=
  t.st == .live && t.ended.isNone && !s.allTasks.any (fun u => s.blockedBy t u)

/-- Entries taken in a die's table. -/
def State.entriesUsed (s : State) (die : Nat) : Nat :=
  (s.allTasks.filter (fun t => t.inTable && s.qhome t.q == die)).foldl (fun a t => a + t.entries) 0

/-- The queue whose task a die's table would admit next: the first with a task waiting, after the queue last admitted. -/
def State.admitNext (s : State) (die : Nat) : Option (Nat × Nat) :=
  let from_ := mget 0 s.disp.rr die
  ((upto 256).map (fun i => (from_ + i) % 256)).findSome? (fun q =>
    if s.qhome q = die then (s.queueAt q).wait.map (fun t => (q, t)) else none)

/-- A task enters the dependence table, and a walk that waits for it goes on (02 R57, 16 R403). -/
def execTaskAdmit (die : Nat) (s : State) : Out State :=
  match s.admitNext die with
  | none => .refused .notEnabled
  | some (q, t) =>
    if 4 ≤ die ∨ 1024 < s.entriesUsed die + (s.taskAt t).entries then .refused .notEnabled
    else
      let s1 := (s.onTask t (fun x => { x with st := .live })).onQueue q (fun u => { u with wait := none })
      let s2 := { s1 with disp := { s1.disp with rr := mset 0 s1.disp.rr die (q + 1) } }
      match (s2.queueAt q).walk with
      | some w => .next (if w.task = some t then s2.walkGo q w.next else s2)
      | none => .next s2

/-! ### Priority (02 R65, R66) -/

/-- The effective priority of a task; a guess runs at priority 0 (11 R338). -/
def State.effPrio (s : State) (t : Task) : Nat :=
  if t.guess then 0 else min 3 (min t.l.prio.toNat (s.qpmax t.q) + t.up)

/-- A task that would place a group now, as far as it and its queue go (02 R43, R62; 16 R400): it is ready, has range
left or nothing placed, its queue runs or it has a group already, and no record of its queue waits. -/
def State.wantsGroup (s : State) (t : Task) : Bool :=
  !t.guess && s.ready t && (if t.placed then !t.pieces.isEmpty && t.l.gang == 0 else t.l.lo != t.l.hi) &&
    (s.qstate t.q == 1 || (t.placed && s.qstate t.q == 2)) && (s.queueAt t.q).recs.isEmpty

/-- One ready task comes before another (02 R65). -/
def State.before (s : State) (t u : Task) : Bool :=
  decide (s.effPrio u < s.effPrio t) || (s.effPrio t == s.effPrio u && decide (t.order < u.order))

/-- An evicted task whose resume waits until every group fits: it counts as a ready task (16 R407). -/
def State.resuming (s : State) (t : Task) : Bool :=
  t.st == .evicted && t.ended.isNone && (match s.mgmt.pre with | some p => p.op == 2 && p.task == t.id | none => false)

/-- A task whose cycles without a placement count: it is ready, or its resume waits (02 R65, 16 R407). -/
def State.ages (s : State) (t : Task) : Bool := !t.guess && (s.ready t || s.resuming t)

/-- `n` cycles pass for the tasks that wait for a placement (02 R65). -/
def State.ageTasks (s : State) (n : Nat) : State :=
  { s with disp := { s.disp with tasks := s.disp.tasks.map (fun (e : Nat × Task) =>
      (e.1, if s.ages e.2 then { e.2 with age := e.2.age + n } else e.2)) } }

/-- A task's cycles give it another step of priority, which it has not yet; nothing is placed before it takes it
(02 R65). -/
def State.stepDue (s : State) (t : Task) : Bool :=
  s.ages t && decide (t.up < t.age / 2 ^ 20) && decide (s.effPrio t < 3)

/-- A ready task without a placement gains a step of priority: another 2^20 cycles have passed (02 R65). -/
def execPriorityAge (task : Nat) (s : State) : Out State :=
  if s.stepDue (s.taskAt task) then .next (s.onTask task (fun t => { t with up := t.up + 1 }))
  else .refused .notEnabled

/-- A task that would be placed has held effective priority 3 for a further 2^20 cycles (02 R66). -/
def State.holdDue (s : State) (t : Task) : Bool :=
  (s.wantsGroup t || s.resuming t) && s.effPrio t == 3 &&
    decide ((4 - min t.l.prio.toNat (s.qpmax t.q)) * 2 ^ 20 ≤ t.age)

/-- A task has held priority 3 for 2^20 cycles: units that fit it are held for it (02 R66). -/
def execStarvationHold (task : Nat) (s : State) : Out State :=
  let t := s.taskAt task
  if s.holdDue t && t.hold == 0 then .next (s.onTask task (fun t => { t with hold := 1 }))
  else .refused .notEnabled

/-- Room is held for a task: from the moment its cycles are up, until a group of it is placed (02 R66). -/
def State.held (s : State) (t : Task) : Bool := t.hold != 0 || s.holdDue t

/-! ### Room on a core (02 R42, R44) -/

/-- What a reservation asks of a core; `h` is the hand count KTGT fixes. -/
structure Demand where
  ctxs : Nat
  banks : Nat
  tiles : Nat
  spad : Nat
  loader : Bool
  storer : Bool
  hmin : Nat
  hmax : Nat
  heven : Bool
  h : Option Nat
  deriving DecidableEq, Repr

/-- The demand of a task. -/
def Task.demand (t : Task) (h : Option Nat) : Demand :=
  { ctxs := t.df 2 32 3, banks := t.df 2 0 4, tiles := t.df 2 16 6, spad := t.df 2 24 7
    loader := t.df 2 38 1 == 1, storer := t.df 2 39 1 == 1, hmin := t.df 2 4 4, hmax := t.df 2 8 4, heven := t.df 2 12 1 == 1, h := h }

/-- The contexts of a core that are not free. -/
def State.busyCtxs (s : State) (core : Nat) : List Ctx := ((upto 4).map (fun j => s.ctxAt (4 * core + j))).filter (fun c => c.st != .free)

/-- The free slots of a core, as keys. -/
def State.freeSlots (s : State) (core : Nat) : List Nat := ((upto 4).map (fun j => 4 * core + j)).filter (fun k => (s.ctxAt k).st == .free)

/-- The hands a reservation's contexts get, in slot order: each the most that leaves HMIN for those after it, or the
count KTGT gives; none while a blocked request waits for hands (02 R44, 05 R171). -/
def handCounts (d : Demand) (free : Nat) : Nat → Option (List Nat)
  | 0 => some []
  | n + 1 =>
    let own := if d.heven then alignUp d.hmin 2 else d.hmin
    let h := match d.h with
      | some h => h
      | none => let m := min d.hmax (free - own * n); if d.heven then m / 2 * 2 else m
    if free < h ∨ (d.h.isNone ∧ h < d.hmin) then none else (handCounts d (free - h) n).map (fun l => h :: l)

/-- Splits a list into parts of given lengths. -/
def splitBy {α : Type} : List Nat → List α → List (List α)
  | [], _ => []
  | n :: ns, l => l.take n :: splitBy ns (l.drop n)

/-- The hands of each context of a reservation, the lowest free ones, or none where the core has too few. -/
def State.handsFor (s : State) (core : Nat) (d : Demand) : Option (List (List Nat)) :=
  let free := if (s.handQueue core).isEmpty then s.freeHands core else []
  (handCounts d free.length d.ctxs).map (fun ns => splitBy ns free)

/-- Everything a reservation asks is free on a core (02 R42). -/
def State.coreFits (s : State) (core : Nat) (d : Demand) : Bool :=
  let cs := s.busyCtxs core
  let spad := (s.disp.resvs.filter (fun e => e.2.core == core)).foldl (fun a e => a + e.2.spad) 0
  decide (d.ctxs ≤ (s.freeSlots core).length) &&
    decide (cs.foldl (fun a c => a + c.mx.nBanks) 0 + d.ctxs * d.banks ≤ 24) &&
    decide (cs.foldl (fun a c => a + c.mx.nTiles) 0 + d.ctxs * d.tiles ≤ 32) &&
    decide (spad + d.spad ≤ 64) && !(d.loader && cs.any (fun c => c.loader)) && !(d.storer && cs.any (fun c => c.storer)) &&
    (s.handsFor core d).isSome

/-! ### Formats (02 R45, R44; 10 R318, R332) -/

/-- A format word of a task: the entry's current rung in its die's read copy, or the descriptor's. -/
def State.roleWord (s : State) (t : Task) (b : Bool) : W64 :=
  let (trk, cal, fmt) := if b then (t.df 3 44 1, t.df 3 32 12, t.df 4 32 32) else (t.df 3 28 1, t.df 3 16 12, t.df 4 0 32)
  if trk = 1 then
    let x : Entry := s.copyEntry cal
    w64 (x.rungWord x.rung % 2 ^ 13 + x.rung * 2 ^ 13 + x.gen * 2 ^ 16)
  else w64 fmt

/-- The format words of a task, fixed at its first placement. -/
def State.taskFormats (s : State) (t : Task) : W64 × W64 :=
  if t.placed then (t.fmtA, t.fmtB) else (s.roleWord t false, s.roleWord t true)

/-- The tracked entries of a task. -/
def Task.tracked (t : Task) : List Nat :=
  (if t.df 3 28 1 = 1 then [t.df 3 16 12] else []) ++ (if t.df 3 44 1 = 1 then [t.df 3 32 12] else [])

/-- The hands KTGT gives a task, where KTGT is set. -/
def State.taskHands (s : State) (t : Task) : Option Nat :=
  if t.df 3 0 16 = 0 then none else ktgtHands t.desc (pipCost (s.taskFormats t).1.toNat (s.taskFormats t).2.toNat)

/-- The reason a first placement rejects a launch (02 R38, R44; 10 R318). -/
def State.placeReason (s : State) (t : Task) : Option Nat :=
  if t.tracked.any (fun e => !(s.copyEntry e : Entry).valid) then some 7
  else if t.df 3 0 16 ≠ 0 then
    match s.taskHands t with
    | none => some 6
    | some h => if 8 < h * t.df 2 32 3 then some 5 else none
  else none

/-! ### Units (02 R43; 16 R405) -/

/-- Cores of a group of a task. -/
def Task.groupCores (t : Task) : Nat := if t.l.glev.toNat ≤ 2 then 1 else t.l.gcores.toNat

/-- The cores that a task holds reservations on. -/
def State.coresOf (s : State) (t : Nat) : List Nat := (s.resvsOf t).map (fun r => (s.resvAt r).core)

/-- Another task has a hold on a core: it lies in a unit that could hold a group of that task when empty (02 R66). -/
def State.heldFor (s : State) (t : Task) (core : Nat) : Bool :=
  s.allTasks.any (fun u =>
    s.held u && u.id != t.id && !(s.held t && s.before t u) &&
      (let lev := u.l.glev.toNat
       let cs := (s.partCores (s.qpart u.q)).filter (fun c => coreUnit lev c == coreUnit lev core)
       decide (u.groupCores ≤ cs.length) && (lev != 1 && lev != 2 || cs.contains core)))

/-- The cores where a task could make a reservation now. -/
def State.fitCores (s : State) (t : Task) : List Nat :=
  let mine := s.coresOf t.id
  let d := t.demand (s.taskHands t)
  (s.partCores (s.qpart t.q)).filter (fun c => !mine.contains c && !s.heldFor t c && s.coreFits c d)

/-- For each unit that holds no group of a task: the cores where a group of it could be placed now. -/
def State.fitUnits (s : State) (t : Task) : List (List Nat) :=
  let lev := t.l.glev.toNat
  let taken := (s.coresOf t.id).map (coreUnit lev)
  let cs := s.fitCores t
  if lev ≤ 2 then cs.map (fun c => [c])
  else ((unitsOf lev).filter (fun u => !taken.contains u)).filterMap (fun u =>
    let l := cs.filter (fun c => coreUnit lev c == u)
    if t.groupCores ≤ l.length then some l else none)

/-- A further group keeps the live contexts within CMAX (02 R43). -/
def State.cmaxOk (s : State) (t : Task) : Bool :=
  let live := ((s.ctxsOf t.id).filter (fun e => e.2.counts)).length
  !t.placed || t.df 5 0 32 == 0 || decide (live + t.groupCores * t.df 2 35 3 ≤ t.df 5 0 32)

/-- A group of a task could be placed now. -/
def State.canPlace (s : State) (t : Task) : Bool :=
  s.wantsGroup t && s.cmaxOk t && (s.placeReason t).isNone && t.tracked.all (s.ownsEntry (s.qpart t.q)) &&
    !(s.fitUnits t).isEmpty

/-- A saved reservation fits on a core. -/
def State.savedFits (s : State) (t : Task) (v : Saved) (core : Nat) : Bool :=
  let d := { t.demand none with hmin := 0, hmax := 0 }
  let free := if (s.handQueue core).isEmpty then (s.freeHands core).length else 0
  s.enabled core && s.owns (s.qpart t.q) (stackOf core) && !s.heldFor t core && s.coreFits core d &&
    decide (v.hands.foldl (· + ·) 0 ≤ free)

/-- The new cores of an evicted task keep every group in one unit, and groups in units of their own (02 R43). -/
def unitsKept (lev : Nat) (l : List (Saved × Nat)) : Bool :=
  l.all (fun a => l.all (fun b =>
    if lev = 1 then a.2 != b.2 || a.1 == b.1
    else if a.1.group = b.1.group then coreUnit lev a.2 == coreUnit lev b.2 && (a.2 != b.2 || a.1 == b.1)
    else coreUnit lev a.2 != coreUnit lev b.2))

/-- A core may take one of the saved reservations of an evicted task, beside those already chosen; all of them fit. -/
def State.fitSaved (s : State) (t : Task) : List Saved → List (Saved × Nat) → Bool
  | [], l => unitsKept t.l.glev.toNat l
  | v :: vs, l => (upto 576).any (fun c =>
      s.savedFits t v c && unitsKept t.l.glev.toNat (l ++ [(v, c)]) && s.fitSaved t vs (l ++ [(v, c)]))

/-- A resume that waits could be carried out now (16 R407). -/
def State.canResume (s : State) (t : Task) : Bool := s.resuming t && s.fitSaved t t.images []

/-- The dispatcher could place a group of a task now, or resume it. -/
def State.canTake (s : State) (t : Task) : Bool := s.canPlace t || s.canResume t

/-- The cores that such a placement could use. -/
def State.coresFor (s : State) (t : Task) : List Nat :=
  if s.resuming t then (upto 576).filter (fun c => t.images.any (fun v => s.savedFits t v c)) else (s.fitUnits t).flatten

/-- A ready task or a waiting resume could use a core now, with the room beside it (11 R339). -/
def State.wanted (s : State) (cores : List Nat) : Bool :=
  s.allTasks.any (fun u => s.canTake u && cores.any (fun c => (s.coresFor u).contains c))

/-- No task that comes first could be placed or resumed now, and no step of priority is due (02 R65). -/
def State.turnOf (s : State) (t : Task) : Bool :=
  !s.allTasks.any (fun u => s.stepDue u || (s.before u t && s.canTake u))

/-- Cores where a whole group of a task may be placed: distinct, in order, within one unit that has room. -/
def State.placeOk (s : State) (t : Task) (cores : List Nat) : Bool :=
  decide (cores.length = t.groupCores) && (cores.zip (cores.drop 1)).all (fun p => decide (p.1 < p.2)) &&
    s.cmaxOk t && (s.fitUnits t).any (fun l => cores.all (fun c => l.contains c))

/-! ### Placement (02 R42 to R47) -/

/-- A context slot reserved for a task. -/
def State.slotFor (s : State) (t : Task) (group resv : Nat) (hands : List Nat) : Ctx :=
  { st := .idle, task := t.id, group := group, resv := resv, part := s.qpart t.q, asid := s.qasid t.q, key := s.qkey t.q,
    loader := t.df 2 38 1 == 1, storer := t.df 2 39 1 == 1,
    mx := { nTiles := t.df 2 16 6, nBanks := t.df 2 0 4, hands := hands, hmax := t.df 2 8 4, heven := t.df 2 12 1 == 1,
            ktgt := t.df 3 0 16 } }

/-- The key of a reservation. -/
def resvKey (core : Nat) (slots : List Nat) : Nat := 1 + 4 * core + slots.headD 0 % 4

/-- Makes one reservation for a task; `num` gives each slot its group number. -/
def State.reserve (s : State) (t : Task) (core : Nat) (num : Nat → Nat) : State :=
  let d := t.demand (s.taskHands t)
  let slots := (s.freeSlots core).take d.ctxs
  let hs := (s.handsFor core d).getD []
  let r := resvKey core slots
  let v : Resv := { core := core, task := t.id, group := num 0, slots := slots, spad := d.spad }
  let s1 := { s with disp := { s.disp with resvs := mput s.disp.resvs r v } }
  slots.zipIdx.foldl (fun s (k, i) => s.putCtx k (s.slotFor t (num i) r (hs.getD i []))) s1

/-- Starts context `k` with a chunk from its task's pool (02 R42, R46). -/
def State.startWithChunk (s : State) (k : Nat) : State :=
  let t := s.taskAt (s.ctxAt k).task
  let (ch, t1) := t.takeChunk (dieOf (k / 4))
  (s.onTask t.id (fun _ => t1)).startCtx k (t.desc.getD 0 0) ch []

/-- The number of the next group of a task (02 R43). -/
def Task.nextGroup (t : Task) : Nat := t.groups.foldl (fun m g => max m (g.num + 1)) 0

/-- Places a whole group on cores: the reservations, the group or groups, the task's formats and step at its first
placement, and the start of CSTART slots in each reservation (02 R42, R43, R45).  Three points are the model's choice (log
entry 27): LATE is set also when the time base equals GANG as placement completes (02 R39); the first piece belongs to the
die of the group's lowest core where it spans several, and the contexts that start together take their chunks in member
order (02 R46). -/
def State.placeGroup (s : State) (t : Task) (cores : List Nat) : State :=
  let fm := s.taskFormats t
  let n := t.nextGroup
  let lev := t.l.glev.toNat
  let s1 := cores.foldl (fun s c => s.reserve t c (fun i => if lev = 1 then n + i else n)) s
  let keys := cores.flatMap (fun c => ((s1.disp.resvs.filter (fun e => e.2.core == c && e.2.task == t.id)).map (fun e => e.2.slots)).flatten)
  let gs : List Group := if lev = 1 then keys.zipIdx.map (fun (k, i) => { num := n + i, level := lev, members := [k] })
    else [{ num := n, level := lev, members := keys }]
  let late := t.l.gang != 0 && decide (t.l.gang.toNat ≤ s.hub.time.toNat)
  let t1 : Task := { t with
    fmtA := fm.1, fmtB := fm.2, placed := true, groups := t.groups ++ gs, age := 0, up := 0, hold := 0, late := t.late || late,
    started := t.started || late,
    cstep := if t.placed then t.cstep else s.hub.stepCount
    pieces := if t.placed then t.pieces else [(t.l.lo.toNat, t.l.hi.toNat, dieOf (cores.headD 0))] }
  let s2 := s1.onTask t.id (fun _ => t1)
  let started := cores.flatMap (fun c =>
    ((s2.disp.resvs.filter (fun e => e.2.core == c && e.2.task == t.id)).map (fun e => e.2.slots.take (t.df 2 35 3))).flatten)
  started.foldl (fun s k => s.startWithChunk k) s2

/-- The record of a launch that its first placement refuses: a reason of 02 R64, or the Calender-access fault of a
tracked entry outside the queue's partition, with DETAIL the entry (10 R315, 14 R369; log entry 30). -/
def State.placeBad (s : State) (t : Task) : Option (List W64) :=
  match t.tracked.find? (fun e => !s.ownsEntry (s.qpart t.q) e) with
  | some e => some (recordWords 1 0x2E t.late 15 0 t.id 0 (w64 e) 0 0 0)
  | none => (s.placeReason t).map (fun r => plainRecord 2 r false t.id 0)

/-- A launch refused at its first placement: its record with its id; the task is ended (02 R38, R63). -/
def State.rejectPlaced (s : State) (t : Task) (ws : List W64) : State :=
  ((s.onTask t.id (fun x => { x with ended := some [], stopped := true })).pushRecord t.q ws).qstop t.q 0

/-- The dispatcher places a whole group of a ready task, before no task that comes first and could be placed (02 R43,
R65); for a running guess, on its home die, in room that no ready task can use (11 R339). -/
def execGroupPlace (task : Nat) (cores : List Nat) (s : State) : Out State :=
  let t := s.taskAt task
  if t.guess then
    let d := (s.queueAt t.q).dealer
    if t.placed && !t.pieces.isEmpty && d.guess == some task && !d.claiming && !d.complete &&
        cores.all (fun c => dieOf c == s.qhome t.q) && s.placeOk t cores &&
        !s.wanted cores then
      .next (s.placeGroup t cores)
    else .refused .notEnabled
  else if !s.wantsGroup t then .refused .notEnabled
  else
    match (if t.placed then none else s.placeBad t) with
    | some ws => .next (s.rejectPlaced t ws)
    | none =>
      if s.placeOk t cores && s.turnOf t then .next (s.placeGroup t cores)
      else .refused .notEnabled

/-- The time base has reached GANG: the gang's contexts begin to issue (02 R39). -/
def execGangStart (task : Nat) (s : State) : Out State :=
  let t := s.taskAt task
  if t.l.gang != 0 && t.placed && !t.started && decide (t.l.gang.toNat ≤ s.hub.time.toNat) then
    .next (s.onTask task (fun t => { t with started := true }))
  else .refused .notEnabled

/-! ### The end of a task (02 R55, R62) -/

/-- Removes a task and what it holds. -/
def State.dropTask (s : State) (t : Nat) : State :=
  let s1 := (s.resvsOf t).foldl State.release s
  { s1 with
    disp := { s1.disp with tasks := mdel s1.disp.tasks t }
    hub := { s1.hub with colls := s1.hub.colls.filter (fun x => x.task ≠ t) } }

/-- A task is complete: an empty pool and no context that counts as live (02 R55). -/
def State.taskDone (s : State) (t : Task) : Bool :=
  (t.st == .live || t.st == .parked) && t.ended.isNone && t.pieces.isEmpty && !s.taskLive t.id && (t.placed || t.l.lo == t.l.hi)

/-- A task completes, and its record waits for the ring (02 R55, R63). -/
def State.complete (s : State) (t : Task) : State :=
  (s.dropTask t.id).pushRecord t.q (plainRecord 0 0 t.late t.id 0)

/-- A task with an empty pool and no live context completes. -/
def execTaskComplete (task : Nat) (s : State) : Out State :=
  let t := s.taskAt task
  if !t.guess && s.taskDone t then .next (s.complete t) else .refused .notEnabled

/-- A queue has finished a reset: no task of it is left, and it runs again or is disabled (16 R397, R399). -/
def State.resetDone (s : State) (q : Nat) : State :=
  if s.qstate q = 3 ∧ !s.allTasks.any (fun t => t.q == q && t.order != 0) then
    ((s.setQreg q 0x20 (setf (s.qreg q 0x20) 0 32 (s.ctail q))).setQstate q (if bit (s.qreg q 0) 0 then 1 else 0)).setQerr q 0
  else s

/-- What an ended task's contexts and sidecars have issued and that has still to complete (02 R62 step 2).  A
collective that can no longer complete is not waited for. -/
def State.drained (s : State) (task : Nat) : Bool :=
  (s.ctxsOf task).all (fun e =>
    e.2.mem.pend.all (fun a => a.deferred) && e.2.mx.ops.isEmpty && e.2.mem.recs == 0 && e.2.mem.stepWait.isEmpty &&
      (s.copiesOf e.1).all (fun o => match o.instr with | .coll _ => true | _ => false)) &&
  s.hub.colls.all (fun x => x.task != task || !s.collMoves x)

/-- Copies of a task are forgotten. -/
def State.dropCopies (s : State) (task : Nat) : State :=
  let keys := (s.ctxsOf task).map (fun e => e.1)
  { s with cores := s.cores.map (fun (e : Nat × Core) => (e.1, { e.2 with copies := e.2.copies.filter (fun (o : CopyOp) => !keys.contains o.ctx) })) }

/-- The dispatcher ends a task once what it has in flight is complete: its reservations go, its record waits for the
ring, and the queue stops (02 R62).  A task that a reset ended holds no record words: nothing is written for it, also
where the host has enabled its queue again while it drained (16 R397, R399). -/
def execTaskEnd (task : Nat) (s : State) : Out State :=
  let t := s.taskAt task
  match t.ended with
  | none => .refused .notEnabled
  | some ws =>
    if t.stopped || t.guess || !s.drained task then .refused .notEnabled
    else
      let s1 := s.dropCopies task
      if s.qstate t.q = 3 || ws.isEmpty then .next ((s1.dropTask task).resetDone t.q)
      else
        let s2 := (s1.resvsOf task).foldl State.release s1
        let s3 := { s2 with hub := { s2.hub with colls := s2.hub.colls.filter (fun x => x.task ≠ task) } }
        .next (((s3.onTask task (fun t => { t with stopped := true, pieces := [] })).pushRecord t.q ws).qstop t.q 0)

/-! ### Records (02 R63; 16 R400) -/

/-- The oldest waiting record of a queue is written, with the time, as one 64-byte write; a write that fails stops the
queue with ERR 5 (16 R398, R400). -/
def execRecordWrite (q : Nat) (s : State) : Out State :=
  match (s.queueAt q).recs with
  | [] => .refused .notEnabled
  | r :: rest =>
    let tail := bf (s.qreg q 0x28) 0 32
    let full := (tail + 2 ^ 32 - bf (s.qreg q 0x28) 32 32) % 2 ^ 32 == 2 ^ s.qrlog q
    if 256 ≤ q || !bit (s.qreg q 0) 0 || full || (s.qstate q == 2 && bf (s.qreg q 0x30) 40 8 == 5) then .refused .notEnabled
    else
      let va := (s.qreg q 0x10).toNat + 64 * (tail % 2 ^ s.qrlog q)
      let bytes := (r.words.take 7 ++ [s.hub.time]).flatMap (fun w => leBytes 8 w.toNat)
      let fail := (s.setQstate q 2).setQerr q 5
      match s.walk (s.qpart q) (s.qasid q) va with
      | .err _ => .next fail
      | .ok t =>
        match s.pageCheck (s.qpart q) va true .w t with
        | .err _ => .next fail
        | .ok p =>
          if s.bad p.pa then .next fail
          else .next (((s.physStore p.pa p.key bytes).setQreg q 0x28 (setf (s.qreg q 0x28) 0 32 (tail + 1))).onQueue q
            (fun u => { u with recs := rest }))

end Sys2Proof.Machine
end

