-- ==== Sys2Proof/Machine/Preempt.lean ====
section
/-!
DEFINITION. The registers of queues and of pre-emption (16 R397, R399, R406 to R412): enabling, resets and restarts,
parks, evictions and resumes, and the Dealer settings.
-/

namespace Sys2Proof.Machine

/-! ### Queues (16 R397, R399) -/

/-- The bits of QCFG that a write sets. -/
def qcfgMask : W64 := 0xFFFF03FF7FFF0001

/-- A write of QCFG while EN = 0. -/
def State.writeQcfg (s : State) (q : Nat) (v : W64) : State :=
  let v := v &&& qcfgMask
  let s1 := s.setQreg q 0 v
  if !bit v 0 then s1
  else
    let logOk (n : Nat) : Bool := decide (4 ≤ n)
    let r := s.part (bf v 28 3) 0x28
    if logOk (bf v 16 4) && logOk (bf v 20 4) && decide (bf r 0 8 ≤ q) && decide (q ≤ bf r 8 8) then
      ((s1.setQstate q 1).setQreg q 0x20 0).setQreg q 0x28 0
    else (s.setQreg q 0 (setf v 0 1 0)).setQerr q 1

/-- Writing EN to 1 enables a queue after its checks (16 R397). -/
def execQcfgEnSet (q : Nat) (val : BitVec 64) (s : State) : Out State :=
  if 256 ≤ q ∨ !bit val 0 then .refused .notEnabled
  else .next (if bit (s.qreg q 0) 0 then s else s.writeQcfg q val)

/-- A reset of a queue (16 R399): its guess ends, what the Dealer holds of it is cleared, its walk, waiting commands and
records go, and its tasks end without a record; it is done when the last of them has gone. -/
def State.resetQueue (s : State) (q : Nat) : State :=
  let s1 := (s.onDealer q (fun d => { d with matched := none })).dropGuess q 13
  let mine (t : Task) : Bool := t.q == q && t.order != 0
  let s2 := s1.setQstate q 3
  let s3 := if s2.mgmt.pre.any (fun (p : PreReq) => mine (s2.taskAt p.task)) then s2.preEnd 0 else s2
  let s4 := s3.onQueue q (fun u => { dealer := { last := u.dealer.last } })
  let left := s4.disp.tasks.filter (fun e => !(mine e.2 && (e.2.st == .waiting || e.2.st == .evicted || e.2.stopped)))
  let ending := left.map (fun (e : Nat × Task) => (e.1, if mine e.2 then { e.2 with ended := some [] } else e.2))
  { s4 with disp := { s4.disp with tasks := ending } }.resetDone q

/-- Clearing EN resets a queue and disables it (16 R397). -/
def execQcfgEnClear (q : Nat) (val : BitVec 64) (s : State) : Out State :=
  if 256 ≤ q || bit val 0 || !bit (s.qreg q 0) 0 then .refused .notEnabled
  else
    let s1 := s.setQreg q 0 (setf (s.qreg q 0) 0 1 0)
    .next (if s.qstate q = 0 then s1 else s1.resetQueue q)

/-- A reset through QCTL, in any state but 0. -/
def State.qctlReset (s : State) (q : Nat) : State := if s.qstate q = 0 ∨ s.qstate q = 3 then s else s.resetQueue q

/-- Resets a queue, stopping all its tasks and clearing its Dealer state (16 R399). -/
def execQctlReset (q : Nat) (s : State) : Out State := if 256 ≤ q then .refused .notEnabled else .next (s.qctlReset q)

/-- The tasks of a queue that an ended task, or one of a set, holds back; `fuel` bounds the chain. -/
def State.dependents (s : State) (q : Nat) : Nat → List Nat → List Nat
  | 0, l => l
  | f + 1, l =>
    let more := (s.allTasks.filter (fun t => t.q == q && t.order != 0 && !l.contains t.id && !t.ended.isSome &&
      l.any (fun u => let b := s.taskAt u; decide (b.order < t.order) && conflicts (s.launchOf b) (s.launchOf t)))).map (fun t => t.id)
    if more.isEmpty then l else s.dependents q f (l ++ more)

/-- Restarts a stopped queue (16 R399): the tasks that an ended one holds back are discarded and counted, and a walk that
waited for one of them goes on. -/
def State.qctlRestart (s : State) (q : Nat) : State :=
  if s.qstate q ≠ 2 then s
  else
    let ended := (s.allTasks.filter (fun t => t.q == q && t.stopped)).map (fun t => t.id)
    let gone := (s.dependents q s.disp.tasks.length ended).filter (fun t => !ended.contains t)
    let guessed := (s.queueAt q).dealer.guess.any (fun g => gone.contains g)
    let s1 := if guessed then (s.onDealer q (fun d => { d with matched := none })).dropGuess q 13 else s
    let s2 := { s1 with disp := { s1.disp with tasks := s1.disp.tasks.filter (fun e => !(gone ++ ended).contains e.1) } }
    let s3 := s2.setQreg q 0x30 (setf (s2.qreg q 0x30) 48 16 (bf (s2.qreg q 0x30) 48 16 + gone.length))
    let s4 := s3.onQueue q (fun u => { u with wait := u.wait.filter (fun t => !gone.contains t) })
    let s5 := match (s4.queueAt q).walk with
      | some w => if w.task.any (fun t => gone.contains t) then s4.walkGo q w.next else s4
      | none => s4
    s5.setQstate q 1

/-- Restarts a stopped queue, discarding dependent tasks (16 R399). -/
def execQctlRestart (q : Nat) (s : State) : Out State := if 256 ≤ q then .refused .notEnabled else .next (s.qctlRestart q)

/-! ### Dealer settings (16 R412) -/

/-- A write of QSPEC; clearing SPECEN ends the queue's guess. -/
def State.writeQspec (s : State) (q : Nat) (v : W64) : State :=
  let s1 := s.setQreg q 0x40 (v &&& 0x1FFFFF)
  if bit v 20 then s1 else s1.dropGuess q 16

/-- Writes a queue's speculation settings (16 R412). -/
def execQspecWrite (q : Nat) (val : BitVec 64) (s : State) : Out State :=
  if 256 ≤ q then .refused .notEnabled else .next (s.writeQspec q val)

/-- The guesses held on a die, as queue and task number. -/
def State.guessesOn (s : State) (die : Nat) : List (Nat × Nat) :=
  s.disp.queues.filterMap (fun e => if s.qhome e.1 = die then e.2.dealer.guess.map (fun g => (e.1, g)) else none)

/-- The youngest of a list of guesses. -/
def youngest (l : List (Nat × Nat)) : Option (Nat × Nat) :=
  l.foldl (fun m x => match m with
    | none => some x
    | some y => if y.2 < x.2 then some x else some y) none

/-- Ends the guesses of a die, youngest first, until at most `limit` are held. -/
def State.limitGuesses (s : State) (die limit : Nat) : Nat → State
  | 0 => s
  | f + 1 =>
    let l := s.guessesOn die
    if l.length ≤ limit then s
    else match youngest l with
      | some (q, _) => (s.dropGuess q 12).limitGuesses die limit f
      | none => s

/-- The guesses a die may hold (16 R412). -/
def State.gmax (s : State) (die : Nat) : Nat :=
  let w := s.win (0x20 + 8 * die)
  if bit w 4 then min 8 (bf w 0 4) else 0

/-- A write of DLRCFG. -/
def State.writeDlrcfg (s : State) (die : Nat) (v : W64) : State :=
  let s1 := s.setWin (0x20 + 8 * die) (v &&& 0x1F)
  s1.limitGuesses die (s1.gmax die) (s1.guessesOn die).length

/-- Writes a die's Dealer settings; lowering limits drops guesses (16 R412). -/
def execDlrcfgWrite (die : Nat) (val : BitVec 64) (s : State) : Out State :=
  if 4 ≤ die then .refused .notEnabled else .next (s.writeDlrcfg die val)

/-! ### Parks (15 R385, R390; 16 R407) -/

/-- Lets a held packet go: it replays as `eret` would (17 R423). -/
def Ctx.releaseHold (c : Ctx) : Ctx :=
  match c.sq.held with
  | none => c
  | some h =>
    if bit h.srepl 16 then
      { c with sq := { c.sq with held := none, replay := h.replay, perf := bf h.srepl 0 9, rep := bf h.srepl 9 6 + 1 } }
    else { c with sq := { c.sq with held := none } }

/-- Context `k` stops at a bundle boundary and is parked (15 R390): results in flight go to shadow latches, its other
accesses perform, a hand change that waited takes effect (05 R169), a blocked wait and a `handreq` are withdrawn, and a
held packet leaves its join.  SREPL takes the state of a packet that still owes a replay, which the image keeps there. -/
def State.park (s : State) (k : Nat) : State :=
  let s1 := ((s.onCtx k Ctx.rebase).drainToShadow k).drain k (fun a => !a.deferred)
  (s1.onCtx k (fun c =>
    let c := (if c.mx.chg.isSome then c.handEffect else c).releaseHold
    { c with
      st := .parked
      sys := if c.r.sup || c.sq.replay.isEmpty then c.sys
             else { c.sys with srepl := sreplOf c.sq.rep ((upto 9).filter (fun p => c.sq.perf.testBit p)) }
      mem := { c.mem with inv := none }
      sq := { c.sq with parkReq := false, idle := 0, blocked := 0, wait := none, handAsk := none, handGot := [], yielded := false, late := [], verAsks := [] } })).preCheck

/-- A pre-empted context stops at a bundle boundary, after an asynchronous trap that is due (15 R385, R390). -/
def execContextPark (c : Nat) (s : State) : Out State :=
  let x := s.ctxAt c
  if !x.sq.parkReq || x.st != .live || x.sq.exiting || x.sys.trapPend.isSome || !x.mx.ops.isEmpty || (s.taskAt x.task).ended.isSome then
    .refused .notEnabled
  else if !x.r.sup && !x.sys.asyncs.isEmpty && x.sq.replay.isEmpty && x.sq.held.isNone then .next (s.takeAsync c)
  else .next (s.park c)

/-! ### Requests (16 R406 to R408) -/

/-- The task that PRTASK names, where it is live: accepted, placed, not ended, and no guess. -/
def State.preTask (s : State) : Option Task :=
  let id := (s.win 0x40).toNat
  match mfind s.disp.tasks id with
  | some t => if t.guess || !t.placed || t.ended.isSome || id == 0 then none else some t
  | none => none

/-- A request is in progress. -/
def State.preBegin (s : State) (op : Nat) (t : Task) : State :=
  { s with mgmt := { s.mgmt with pre := some { op := op, task := t.id, save := s.win 0x48 } } }.setWin 0x58 0x100

/-- A parked context issues again on its own core, and its shadow latches count (15 R390). -/
def Ctx.resume (c : Ctx) : Ctx := if c.st = .parked then { c with st := .live, sys := { c.sys with shRun := true }, sq := { c.sq with parkReq := false } } else c

/-- A write of PRCTL. -/
def State.prctl (s : State) (op : Nat) : State :=
  if s.mgmt.pre.isSome ∨ op = 3 then s
  else match s.preTask with
    | none => s.preEnd 1
    | some t =>
      let keys := (s.ctxsOf t.id).map (fun e => e.1)
      match op with
      | 0 =>
        if t.st != .live || keys.any (fun k => (s.ctxAt k).st == .parked) then s.preEnd 2
        else
          let s1 := (s.onTask t.id (fun t => { t with st := .parked })).preBegin 0 t
          (keys.foldl (fun s k => if (s.ctxAt k).st = .live then s.onCtx k (fun c => { c with sq := { c.sq with parkReq := true } }) else s) s1).preCheck
      | 1 =>
        if t.st != .parked || keys.any (fun k => (s.ctxAt k).st == .live) then s.preEnd 2
        else if t.df 2 38 2 ≠ 0 ∨ t.l.gang ≠ 0 then s.preEnd 3
        else s.preBegin 1 t
      | _ =>
        if t.st = .parked then
          (keys.foldl (fun s k => s.onCtx k Ctx.resume) (s.onTask t.id (fun t => { t with st := .live }))).preEnd 0
        else if t.st = .evicted then s.preBegin 2 t
        else s.preEnd 2

/-- Pre-emption request: park every live context of a task (16 R407). -/
def execPrctlPark (s : State) : Out State := .next (s.prctl 0)
/-- Pre-emption request: save and release a parked task's reservations (16 R407). -/
def execPrctlEvict (s : State) : Out State := .next (s.prctl 1)
/-- Pre-emption request: resume a parked or evicted task (16 R407). -/
def execPrctlResume (s : State) : Out State := .next (s.prctl 2)

/-! ### The save area (16 R409) -/

/-- Offsets of the save area of a reservation: its size, the share, the tags, and the image of slot `j`. -/
def saveStride : Nat := 0x455000
@[inherit_doc saveStride]
def saveImage (j : Nat) : Nat := 0x105000 + 0xD4000 * j

/-- Stores blocks of 64 bytes through the dispatcher's translation. -/
def State.dmaStore (p asid : Nat) : List (Nat × List Byte) → State → Option State
  | [], s => some s
  | (va, bs) :: l, s =>
    match s.walk p asid va with
    | .err _ => none
    | .ok t =>
      match s.pageCheck p va true .w t with
      | .err _ => none
      | .ok q => State.dmaStore p asid l (s.physStore q.pa q.key bs)

/-- 64 bytes from eight words. -/
def wordBlock (ws : List W64) : List Byte := ((ws.flatMap (fun (w : W64) => leBytes 8 w.toNat)) ++ List.replicate 64 0).take 64

/-- One byte of the tag map of a share: the tags of eight words. -/
def tagByte (v : Resv) (i : Nat) : Byte :=
  BitVec.ofNat 8 ((upto 8).foldl (fun a j => a + (if v.tag (8 * i + j) then 2 ^ j else 0)) 0)

/-- The blocks a save of a reservation writes, from offset 0. -/
def State.saveBlocks (s : State) (v : Resv) (base : Nat) : List (Nat × List Byte) :=
  let st (k : Nat) : Nat := match (s.ctxAt k).st with | .idle => 1 | .parked => 2 | _ => 0
  let w0 := w64 (2 ^ 48 + v.group % 65536 * 2 ^ 32 + v.spad * 65536 + v.slots.length)
  let w1 := w64 (v.slots.zipIdx.foldl (fun a (k, i) => a + st k * 4 ^ i) 0)
  let zero : List Byte := List.replicate 64 0
  List.flatten ([
    [(base, wordBlock [w0, w1, s.identOf v.core])],
    (upto 63).map (fun i => (base + 64 * (i + 1), zero)),
    (upto 16384).map (fun i => (base + 0x1000 + 64 * i, if 64 * i < v.size then v.read (64 * i) 64 else zero)),
    (upto 256).map (fun i => (base + 0x101000 + 64 * i, (upto 64).map (fun j => tagByte v (64 * i + j)))),
    v.slots.zipIdx.flatMap (fun (k, i) =>
      if (s.ctxAt k).st = .parked then
        ((s.ctxAt k).imageOut (w64 (base + saveImage i))).map (fun e => (base + saveImage i + 64 * e.1, e.2))
      else [])] : List (List (Nat × List Byte)))

/-- A reservation comes before another in the order of die and site. -/
def State.resvOrder (s : State) (t : Nat) : List (Nat × Resv) :=
  let l := s.disp.resvs.filter (fun e => e.2.task == t)
  (upto 576).flatMap (fun c => l.filter (fun e => e.2.core == c))

/-- Once everything the task has in flight is complete, its reservations are saved and released; a save that fails
leaves it parked, one that meets an uncorrectable error in a share too (16 R407, R409). -/
def execEvictSave (s : State) : Out State :=
  match s.mgmt.pre with
  | none => .refused .notEnabled
  | some p =>
    let t := s.taskAt p.task
    let quiet := (s.ctxsOf t.id).all (fun e => (s.copiesOf e.1).isEmpty && e.2.mem.recs == 0 && e.2.mx.ops.isEmpty &&
      e.2.mem.pend.all (fun a => a.deferred))
    if p.op ≠ 1 ∨ !quiet then .refused .notEnabled
    else
      let rs := s.resvOrder t.id
      let blocks := rs.zipIdx.flatMap (fun (e, i) => s.saveBlocks e.2 (p.save.toNat + saveStride * i))
      let bad := rs.findSome? (fun e => (e.2.badIn 0 e.2.size).map (fun o => (e, o)))
      match (if bad.isSome then none else State.dmaStore (s.qpart t.q) (s.qasid t.q) blocks s) with
      | none => .next ((match bad with | some (e, o) => s.logShare { resv := e.1 } e.2.core o | none => s).preEnd 4)
      | some s1 =>
        let saved := rs.map (fun e => ({ core := e.2.core, group := e.2.group, slots := e.2.slots,
                                         hands := e.2.slots.map (fun k => (s.ctxAt k).mx.hands.length)
                                         nums := e.2.slots.map (fun k => (s.ctxAt k).group) } : Saved))
        let s2 := rs.foldl (fun s e => s.release e.1) s1
        .next ((s2.onTask t.id (fun t => { t with st := .evicted, images := saved, saveAt := p.save, age := 0, up := 0, hold := 0 })).preEnd 0)

/-! ### Resumes (16 R407) -/

/-- How a restore ends, apart from success: a read that fails, or an image that 15 R393 refuses. -/
inductive Restore where
  | ok (s : State)
  | fault
  | refused (reason : Nat)

/-- Restores one slot of a saved reservation: reserved idle, or from its image. -/
def State.restoreSlot (s : State) (t : Task) (k image : Nat) (state : Nat) (c0 : Ctx) : Restore :=
  let p := s.qpart t.q
  let a := s.qasid t.q
  if state ≠ 2 then .ok (s.putCtx k c0)
  else
    let units (l : List Nat) : Option (List (Nat × List Byte)) := l.mapM (fun i => (s.readBytes p a (image + 64 * i) 64).map (fun b => (i, b)))
    match units (upto 256) with
    | none => .fault
    | some ctl =>
      let w := wordArray (unitArray ctl)
      match imageReason c0 t.id (fun i => w.getD i 0) with
      | some r => .refused r
      | none =>
        match units (imageIn c0 (fun i => w.getD i 0)) with
        | none => .fault
        | some l => .ok (s.putImage k (c0.ofUnits (w64 image) (unitArray (ctl ++ l))))

/-- Restores the slots of a saved reservation, in order. -/
def State.restoreSlots (t : Task) (base states : Nat) (mk : Nat → Ctx) : List (Nat × Nat) → State → Restore
  | [], s => .ok s
  | (k, j) :: l, s =>
    match s.restoreSlot t k (base + saveImage j) (fld states (2 * j) 2) (mk j) with
    | .ok s1 => State.restoreSlots t base states mk l s1
    | x => x

/-- Restores one saved reservation on a core from a region of the save area. -/
def State.restoreResv (s : State) (t : Task) (v : Saved) (core base : Nat) : Restore :=
  let p := s.qpart t.q
  let a := s.qasid t.q
  match s.readWords p a base 2, s.readBytes p a (base + 0x1000) (16384 * t.df 2 24 7), s.readBytes p a (base + 0x101000) (256 * t.df 2 24 7) with
  | some ws, some bytes, some tags =>
    let slots := (s.freeSlots core).take v.slots.length
    let r := resvKey core slots
    let hands := splitBy v.hands (s.freeHands core)
    let full := (upto (2048 * t.df 2 24 7)).filter (fun i => ((tags.toArray).getD (i / 8) 0).toNat.testBit (i % 8))
    let resv : Resv := { core := core, task := t.id, group := v.group, slots := slots, spad := t.df 2 24 7, bytes := byteMap bytes,
                         full := full.map (fun i => (i, true)) }
    let mk (j : Nat) : Ctx := s.slotFor t (v.nums.getD j v.group) r (hands.getD j [])
    State.restoreSlots t base (ws.getD 1 0).toNat mk slots.zipIdx { s with disp := { s.disp with resvs := mput s.disp.resvs r resv } }
  | _, _, _ => .fault

/-- Restores the saved reservations in order. -/
def State.restoreAll (t : Task) (save : Nat) : List ((Saved × Nat) × Nat) → State → Restore
  | [], s => .ok s
  | ((v, c), i) :: l, s =>
    match s.restoreResv t v c (save + saveStride * i) with
    | .ok s1 => State.restoreAll t save l s1
    | x => x

/-- The group counters of a task move with its groups from one core's units to another's (02 R56). -/
def State.moveCounters (s : State) (t : Nat) (l : List (Nat × Nat)) : State :=
  let move (m : SMap W64) : SMap W64 :=
    l.foldl (fun acc (a, b) => [2, 3, 4, 5].foldl (fun acc lev =>
      let old := mget 0 m (groupKey t lev (unitOf lev (4 * a)))
      let key := groupKey t lev (unitOf lev (4 * b))
      if (mget 0 acc key).toNat < old.toNat then mset 0 acc key old else acc) acc) m
  { s with hub := { s.hub with barGen := move s.hub.barGen, collTl := move s.hub.collTl } }

/-- An evicted task is placed again, restored and started once every group fits, as a ready task in its turn; a failed
restore leaves it evicted, and an image that is refused ends it (16 R407, R409). -/
def execResumeRestore (cores : List Nat) (s : State) : Out State :=
  match s.mgmt.pre with
  | none => .refused .notEnabled
  | some p =>
    let t := s.taskAt p.task
    let l := t.images.zip cores
    let ok := decide (cores.length = t.images.length) && unitsKept t.l.glev.toNat l && l.all (fun e => s.savedFits t e.1 e.2) &&
      s.turnOf t
    if p.op ≠ 2 ∨ !ok then .refused .notEnabled
    else
      match State.restoreAll t t.saveAt.toNat l.zipIdx s with
      | .fault => .next (s.preEnd 4)
      | .refused r =>
        .next ((s.onTask t.id (fun t => { t with images := [], ended := some (recordWords 1 0x33 t.late 15 0 t.id 0 (w64 r) 0 0 0) })).preEnd 0)
      | .ok s1 =>
        let pairs := l.flatMap (fun e =>
          let new := ((s1.disp.resvs.find? (fun x => x.2.task == t.id && x.2.core == e.2)).map (fun x => x.2.slots)).getD []
          e.1.slots.zip new)
        let moved (k : Nat) : Nat := ((pairs.find? (fun x => x.1 = k)).map (fun x => x.2)).getD k
        let s2 := s1.onTask t.id (fun t => { t with
          st := .live, images := [], age := 0, up := 0, hold := 0
          groups := t.groups.map (fun g => if l.any (fun e => e.1.nums.contains g.num) then { g with members := g.members.map moved } else g) })
        .next ((s2.moveCounters t.id (l.map (fun e => (e.1.core, e.2)))).preEnd 0)

end Sys2Proof.Machine
end

