-- ==== Sys2Proof/Machine/Guess.lean ====
section
/-!
DEFINITION. The Dealer (11 R333 to R347): the prediction of a queue's next launch, the start of a guess, the events
that end one, and the claim.
-/

namespace Sys2Proof.Machine

/-! ### Prediction (11 R336 to R338) -/

/-- The predicted descriptor: that of the launch after the most recent earlier one like the newest (11 R337). -/
def predictDesc (h : List Launch) : Option W64 :=
  match h.reverse with
  | [] => none
  | newest :: older =>
    let d := newest.desc
    let rec go : W64 → List Launch → W64
      | _, [] => d
      | after, x :: t => if x.desc = d then after else go x.desc t
    some (go newest.desc older)

/-- The value predicted from those of the most recent launches, newest first (11 R338). -/
def predictVal (l : List W64) : W64 :=
  match l with
  | a3 :: a2 :: a1 :: _ => if a3 = a2 then a3 else if a3 - a2 = a2 - a1 then a3 + (a3 - a2) else a3
  | a3 :: _ => a3
  | [] => 0

/-- The predicted launch from the launches of its descriptor, newest first; each field separately (11 R338). -/
def predictLaunch (l : List Launch) : Launch :=
  let f (g : Launch → W64) : W64 := predictVal (l.map g)
  let n := l.headD {}
  let ranges (g : Launch → List (W64 × W64)) : List (W64 × W64) :=
    (upto (g n).length).map (fun i =>
      (predictVal (l.filterMap (fun x => ((g x)[i]?).map (fun r => r.1))), predictVal (l.filterMap (fun x => ((g x)[i]?).map (fun r => r.2)))))
  { desc := n.desc, args := f (fun x => x.args), lo := f (fun x => x.lo), hi := f (fun x => x.hi),
    grain := (f (fun x => x.grain.setWidth 64)).setWidth 32, glev := (f (fun x => x.glev.setWidth 64)).setWidth 3,
    gcores := (f (fun x => x.gcores.setWidth 64)).setWidth 16,
    reads := ranges (fun x => x.reads), writes := ranges (fun x => x.writes),
    argw := (upto n.argw.length).map (fun i => predictVal (l.filterMap (fun x => x.argw[i]?))) }

/-- The launch a queue's Dealer would guess next, where its kernel allows guesses (11 R333, R337). -/
def Dealer.predict (d : Dealer) : Option Launch :=
  (predictDesc d.hist).bind (fun p =>
    let mine := ((d.hist.zip d.histSpec).filter (fun e => e.1.desc == p)).reverse
    match mine with
    | (_, true) :: _ => some (predictLaunch (mine.map (fun e => e.1)))
    | _ => none)

/-! ### The start of a guess (11 R339, R340; 16 R412) -/

/-- A queue may start a guess now, resources apart. -/
def State.mayGuess (s : State) (q : Nat) : Bool :=
  let u := s.queueAt q
  let d := u.dealer
  let spec := s.qreg q 0x40
  decide (q < 256) && d.guess.isNone && s.qstate q == 1 && bit spec 20 && bf spec 0 20 != 0 &&
    decide ((s.guessesOn (s.qhome q)).length < s.gmax (s.qhome q)) && s.cmds q == 0 &&
    (match d.hint with
     | 0 => true
     | 1 => !s.allTasks.any (fun t => t.q == q && t.order != 0)
     | _ => false)

/-- The Dealer starts a guess of the queue's next launch on idle cores of the home die: it reserves the next task id and
places the first group (11 R339, R340). -/
def execGuessStart (q : Nat) (cores : List Nat) (s : State) : Out State :=
  match (if s.mayGuess q then (s.queueAt q).dealer.predict else none) with
  | none => .refused .notEnabled
  | some l =>
    let nrd := l.reads.length
    let tab := (l.reads ++ l.writes).flatMap (fun r => [r.1, r.2])
    match s.checkLaunch q l nrd l.writes.length (.ok tab) (some l.argw) with
    | .error _ => .refused .notEnabled
    | .ok c =>
      let id := s.disp.nextTask
      let t : Task := { id := id, q := q, l := c.l, desc := c.desc, side := c.side, guess := true }
      let s1 := { s with disp := { s.disp with nextTask := id + 1, tasks := mput s.disp.tasks id t } }
      if bit (c.desc.getD 3 0) 54 && l.lo != l.hi && (s1.placeBad t).isNone && cores.all (fun x => dieOf x == s.qhome q) &&
          s1.placeOk t cores && !s.wanted cores then
        let s2 := s1.onDealer q (fun d => { d with
          guess := some id, started := d.started + 1, kbud := bf (s.qreg q 0x40) 0 20, promo := none,
          gens := t.tracked.map (fun e => (e, (s.copyEntry e : Entry).gen)) })
        .next (s2.placeGroup t cores)
      else .refused .notEnabled

/-! ### Events that end a guess (11 R344) -/

/-- The lines on which a guess has made more than one version, once for each version after the first. -/
def moreVersions : List (Nat × Nat × List Byte) → List Nat
  | [] => []
  | (line, _) :: t => if t.any (fun x => x.1 == line) then line :: moreVersions t else moreVersions t

/-- The Kitty lines of a guess, as line numbers; each speculative version takes a line of its own (11 R342, R349). -/
def Dealer.lines (d : Dealer) : List Nat := d.kitty.map (fun e => e.1) ++ moreVersions d.vers

/-- The guesses of a die: their Dealers. -/
def State.dealersOn (s : State) (die : Nat) : List Dealer :=
  s.disp.queues.filterMap (fun e => if s.qhome e.1 = die ∧ e.2.dealer.guess.isSome then some e.2.dealer else none)

/-- A home slice has more Kitty lines than its ways 12 to 15 hold (01 R14). -/
def State.kittyFull (s : State) (d : Dealer) : Bool :=
  let all := s.disp.queues.flatMap (fun e => e.2.dealer.lines)
  d.lines.any (fun l => decide (32768 < (all.filter (fun m => homeOf (64 * m) == homeOf (64 * l))).length))

/-- The read sets of a die hold more lines than its table. -/
def State.readsFull (s : State) (die : Nat) : Bool :=
  decide (65536 < (s.dealersOn die).foldl (fun a d => a + d.reads.length) 0)

/-- The state without the guesses of a die, as far as room goes. -/
def State.withoutGuesses (s : State) (die : Nat) : State :=
  (s.guessesOn die).foldl (fun (s : State) (x : Nat × Nat) => (s.resvsOf x.2).foldl State.release s) s

/-- A task that could be placed or resumed, or a blocked `handreq` that could be granted, once the guesses of the die are
gone needs a core where this guess holds a reservation (11 R344, cause 12). -/
def State.guessNeeded (s free : State) (g : Nat) : Bool :=
  let cores := s.coresOf g
  s.allTasks.any (fun u => !s.canTake u && free.canTake u &&
      cores.any (fun c => (free.coresFor u).contains c && !(s.coresFor u).contains c)) ||
    cores.any (fun c => !(s.handQueue c).isEmpty && (s.headGrant c).isNone && (free.headGrant c).isSome)

/-- This guess is the youngest of its die among those that hold what a ready task or a blocked `handreq` needs
(11 R344, cause 12). -/
def State.mustYield (s : State) (q g : Nat) : Bool :=
  let free := s.withoutGuesses (s.qhome q)
  youngest ((s.guessesOn (s.qhome q)).filter (fun x => s.guessNeeded free x.2)) == some (q, g)

/-- The cause that ends the guess of a queue now, among those that no instruction of it meets (11 R344). -/
def State.dropCause (s : State) (q : Nat) : Option Nat :=
  let d := (s.queueAt q).dealer
  match d.guess with
  | none => none
  | some g =>
    if d.kbud < d.lines.length ∨ 1024 < d.recs.length then some 8
    else if s.kittyFull d then some 9
    else if s.readsFull (s.qhome q) then some 10
    else if d.gens.any (fun e => (s.entry e.1 : Entry).gen != e.2) && !d.claiming then some 11
    else if s.qstate q ≠ 1 then some 13
    else if s.mustYield q g then some 12
    else none

/-- An event ends a guess (11 R344). -/
def execGuessDrop (q cause : Nat) (s : State) : Out State :=
  if s.dropCause q = some cause then .next (s.dropGuess q cause) else .refused .notEnabled

/-! ### The claim (11 R346, R347) -/

/-- Something that the guess has issued has still to complete: a packet between its repetitions, a copy or M-slot work. -/
def State.guessBusy (s : State) (g : Nat) : Bool :=
  (s.ctxsOf g).any (fun e => e.2.midPacket || !(s.copiesOf e.1).isEmpty || !e.2.mx.ops.isEmpty)

/-- Every access that the contexts of a guess have issued performs (11 R346 step 1). -/
def State.settleGuess (s : State) (g : Nat) : State :=
  (s.ctxsOf g).foldl (fun (s : State) (e : Nat × Ctx) => s.drain e.1 (fun a => !a.deferred)) s

/-- Masked bytes of a line become one store at the home (11 R346 step 5); an error in the Kitty's line goes with them
(18 R438). -/
def State.commitLine (s : State) (line key : Nat) (kit : SMap Byte) (bad : Bool) : State :=
  let s1 := s.rekey line key
  let now := s1.mem.now + 1
  { s1 with mem := { s1.mem with
    bytes := kit.foldl (fun (m : SMap Byte) (e : Nat × Byte) => mset 0 m (64 * line + e.1) e.2) s1.mem.bytes
    res := mset 0 s1.mem.res line (key + 1)
    now := now
    wts := mput s1.mem.wts line now
    poison := if bad then mput s1.mem.poison line false else if kit.length = 64 then mdel s1.mem.poison line else s1.mem.poison } }

/-- Creates the speculative versions and raises the held floors, in program order; none where a quire stays full
(11 R346 step 5, R349). -/
def State.commitVersions (s : State) (part : Nat) (kkeys : SMap Nat) (floors : List (Nat × Nat × Nat)) :
    Nat → List (Nat × Nat × List Byte) → Option State
  | i, l =>
    let s1 := (floors.filter (fun f => f.1 = i)).foldl (fun (s : State) f => s.onReam f.2.1 (fun m => { m with floor := max m.floor f.2.2 })) s
    match l with
    | [] => some s1
    | (line, v, bs) :: t =>
      match s1.reamOf part (64 * line) with
      | none => none
      | some r =>
        match s1.makeRoom r line with
        | none => none
        | some s2 => (s2.makeVersion r line (mget 0 kkeys line) v 0 bs).commitVersions part kkeys floors (i + 1) t

/-- The commit of a guess and its promotion to the real task (11 R346 steps 5 and 6); its held records are added in the
order they were made (10 R320). -/
def State.promote (s : State) (q g : Nat) (l : Launch) (d : Dealer) : State :=
  let s1 := d.kitty.foldl (fun (s : State) (e : Nat × SMap Byte) => s.commitLine e.1 (mget 0 d.kkeys e.1) e.2 (mfind d.kbad e.1).isSome) s
  let s2 := d.recs.foldl State.addRecord s1
  let s3 := s2.onTask g (fun t => { t with guess := false, l := { l with argw := t.l.argw } })
  let s4 := s3.onDealer q (fun x => { x with
    guess := none, promo := some g, matched := none, complete := false, claiming := false, kitty := [], kkeys := [], kbad := [], reads := [],
    vers := [], floors := [], recs := [], gens := [], claimed := x.claimed + 1, commitL := x.commitL + w64 d.lines.length })
  let t := s4.taskAt g
  if d.complete && s4.taskDone t then s4.complete t else s4

/-- When the matched launch is ready the guess is claimed (11 R346): it finishes what it has issued, its lines are locked,
its generations and its read set are checked, and it commits; a guess that fails a check ends without a trace. -/
def execGuessClaim (q : Nat) (s : State) : Out State :=
  let d := (s.queueAt q).dealer
  match d.guess, d.matched with
  | some g, some l =>
    if !s.ready (s.taskAt g) then .refused .notEnabled
    else if s.guessBusy g then
      if d.claiming then .refused .notEnabled else .next (s.onDealer q (fun x => { x with claiming := true }))
    else
      let s1 := s.settleGuess g
      let d1 := (s1.queueAt q).dealer
      match (if d1.guess = some g then s1.dropCause q else none) with
      | some c => .next (s1.dropGuess q c)
      | none =>
        if d1.guess ≠ some g then .next s1
        else if d1.gens.any (fun e => (s1.entry e.1 : Entry).gen != e.2) then .next (s1.dropGuess q 35)
        else
          let s2 := s1.onDealer q (fun x => { x with revalL := x.revalL + w64 d1.reads.length })
          if d1.reads.any (fun e => decide (e.2 < mget 0 s2.mem.wts e.1)) then .next (s2.dropGuess q 36)
          else
            match s2.commitVersions (s.qpart q) d1.kkeys d1.floors 0 d1.vers with
            | none => .next (s2.dropGuess q 36)
            | some s3 => .next (s3.promote q g l d1)
  | _, _ => .refused .notEnabled

end Sys2Proof.Machine
end

