-- ==== Sys2Proof/Machine/Faultq.lean ====
section
/-!
DEFINITION. The walkers, the fault queues, the reams and the key slots of the partition and key windows (17 R418 to
R425; 08 R286).
-/

namespace Sys2Proof.Machine

/-! ### Walks (17 R418, R421) -/

/-- A slice walker completes a walk: a translation that passes the checks enters the slice's TLB; an uncorrectable error
in an entry is logged. -/
def execPageWalk (slice part asid : Nat) (va : BitVec 64) (s : State) : Out State :=
  if 72 ≤ slice ∨ 8 ≤ part then .refused .notEnabled
  else match (s.walkAt slice part asid va.toNat).res with
    | .ok t =>
      let s1 := s.walked slice (s.walkAt slice part asid va.toNat)
      .next { s1 with slices := mput s1.slices slice (tlbAdd 8192 (mget [] s1.slices slice) t), free := s1.free + 1 }
    | .err (.walkError pa) => .next (s.logLine pa)
    | .err _ => .next s

/-! ### Requesters held for a translation fault (17 R423) -/

/-- A requester: context key below 0x10000, sidecar from there, copy by number from 0x100000. -/
inductive Requester where
  | ctx (k : Nat)
  | side (n : Nat)
  | copy (core id : Nat)
  deriving DecidableEq, Repr

/-- The requester a number names. -/
def State.requester (s : State) (c : Nat) : Option Requester :=
  if c < 0x10000 then some (.ctx c)
  else if c < 0x100000 then some (.side (c - 0x10000))
  else (s.cores.find? (fun e => e.2.copies.any (fun o => o.id == c - 0x100000))).map (fun e => .copy e.1 (c - 0x100000))

/-- What a requester is held for. -/
def State.holdOf (s : State) (r : Requester) : Option Held :=
  match r with
  | .ctx k => if (s.ctxAt k).st = .live then (s.ctxAt k).sq.held else none
  | .side n => (s.sideAt n).hold
  | .copy core id => (s.copyAt core id).bind (fun o => o.hold)

/-- Changes what a requester is held for. -/
def State.setHold (s : State) (r : Requester) (h : Option Held) : State :=
  match r with
  | .ctx k => s.onCtx k (fun c => { c with sq := { c.sq with held := h } })
  | .side n => s.onSide n (fun x => { x with hold := h })
  | .copy core id => s.onCopy core id (fun o => { o with hold := h })

/-- The core of a requester, and the context it acts for. -/
def State.reqCtx (s : State) (r : Requester) : Nat :=
  match r with
  | .ctx k => k
  | .side n => n / 2
  | .copy core id => ((s.copyAt core id).map (fun o => o.ctx)).getD 0

/-- Every requester that is held. -/
def State.allHeld (s : State) : List (Requester × Held) :=
  let l : List Requester := s.ctxs.map (fun e => .ctx e.1) ++ s.sides.map (fun e => .side e.1) ++
    s.cores.flatMap (fun e => e.2.copies.map (fun o => .copy e.1 o.id))
  l.filterMap (fun r => (s.holdOf r).map (fun h => (r, h)))

/-- A sidecar raises a RISC-V exception (08 R286): it stops, and its context's sidecar-fault trap waits; in a guess the
guess ends. -/
def State.sideStop (s : State) (n : Nat) (mcause mtval : W64) : State :=
  let k := n / 2
  let pc := (s.sideAt n).pc
  if (s.guessOf (s.ctxAt k)).isSome then s.abandon k 14
  else
    let t : Trap := { cls := .async, code := 0x31, detail := w64 (n % 2), x0 := pc, x1 := mcause, x2 := mtval, num := s.seq }
    ({ s with seq := s.seq + 1 }.onSide n (fun x => { x with running := false, hold := none })).onCtx k
      (fun c => { c with sys := { c.sys with asyncs := c.sys.asyncs ++ [t] } })

/-- A held requester takes its fault (17 R423): trap 0x20 with SREPL as frozen, a copy fault of cause 1, or a RISC-V page
fault. -/
def State.refuse (s : State) (r : Requester) (h : Held) : State :=
  match r with
  | .ctx k =>
    let c := s.ctxAt k
    let p : PendTrap := { trap := h.trap, sepc := c.r.pc, srepl := h.srepl, replay := h.replay }
    (s.setHold r none).takeTrap k p
  | .side n => s.sideStop n (if h.access = 1 then 15 else 13) h.va
  | .copy core id =>
    match s.copyAt core id with
    | some o => (s.setHold r none).failCopy core { o with hold := none } 1 h.va.toNat
    | none => s

/-- A held requester goes on: a context replays as `eret` would, a copy reissues whole, a sidecar retries (17 R423). -/
def State.resolve (s : State) (r : Requester) : State :=
  match r with
  | .ctx k => s.onCtx k Ctx.releaseHold
  | .copy core id => (s.setHold r none).onCopy core id (fun o => { o with started := false, done := 0, acc := 0, got := [] })
  | _ => s.setHold r none

/-! ### The fault queues (17 R422) -/

/-- Base of the registers of partition `p`'s fault queue on a die. -/
def fqOff (die : Nat) : Nat := 0x100 + 0x40 * die

/-- The bytes of a fault-queue entry. -/
def fqEntry (s : State) (h : Held) (k id : Nat) : List Byte :=
  let c := s.ctxAt k
  let w0 := w64 (h.asid * 2 ^ 48 + h.agent * 2 ^ 32 + h.access * 2 ^ 30 + h.level * 2 ^ 27 + 1)
  ([w0, h.va, w64 c.task, s.identOf (k / 4), w64 id, s.hub.time, 0, 0] : List W64).flatMap (fun w => leBytes 8 w.toNat)

/-- A write of a fault-queue entry, under its key; a request that the line's home denies changes nothing (17 R420, R422,
R428). -/
def State.fqStore (s : State) (part key pa : Nat) (bs : List Byte) : State :=
  if s.open_ part key pa bs.length then s.physStore pa key bs else s

/-- A translation fault joins the entry of its page, is posted once there is room, or is refused where the queue is off
(17 R422, R423). -/
def execFaultPost (c : Nat) (s : State) : Out State :=
  match s.requester c with
  | none => .refused .notEnabled
  | some r =>
    match s.holdOf r with
    | none => .refused .notEnabled
    | some h =>
      let off := fqOff h.die
      let cfg := s.part h.part (off + 8)
      let slotAt (n : Nat) : Nat := (s.part h.part off).toNat / 4096 * 4096 + 64 * (n % 2 ^ bf cfg 16 4)
      if h.id.isSome then .refused .notEnabled
      else if !bit cfg 0 then .next (s.refuse r h)
      else
        match s.fq.find? (fun e => e.part == h.part && e.die == h.die && e.asid == h.asid && e.page == h.va.toNat / 4096) with
        | some e =>
          let n := min (e.joined + 1) 0xFFFF
          let s1 := s.fqStore h.part (bf cfg 32 10) (slotAt e.slot) (leBytes 2 n)
          let s2 := { s1 with fq := s1.fq.map (fun x => if x = e then { x with joined := n } else x) }
          .next (s2.setHold r (some { h with id := some e.id }))
        | none =>
          let ptr := s.part h.part (off + 0x10)
          let tail := bf ptr 0 32
          if (tail + 2 ^ 32 - bf ptr 32 32) % 2 ^ 32 = 2 ^ bf cfg 16 4 then .refused .notEnabled
          else
            let key := 4 * h.part + h.die
            let id := mget 0 s.fqIds key
            let s1 := s.fqStore h.part (bf cfg 32 10) (slotAt tail) (fqEntry s h (s.reqCtx r) id)
            let s2 := s1.setWin (0x10000 + 0x1000 * h.part + off + 0x10) (setf ptr 0 32 (tail + 1))
            let e : FqEnt := { part := h.part, die := h.die, id := id, asid := h.asid, page := h.va.toNat / 4096, slot := tail, joined := 1 }
            .next ({ s2 with fq := s2.fq ++ [e], fqIds := mset 0 s2.fqIds key ((id + 1) % 2 ^ 32) }.setHold r (some { h with id := some id }))

/-- The requesters that have joined an entry. -/
def State.joinedTo (s : State) (part die id : Nat) : List (Requester × Held) :=
  s.allHeld.filter (fun x => x.2.part == part && x.2.die == die && x.2.id == some id)

/-- A verdict on an entry: 1 lets its requesters go on, 2 makes them take their fault; one that names no posted entry
changes nothing (17 R422, R423). -/
def State.verdict (s : State) (part die id v : Nat) : State :=
  let mine (e : FqEnt) : Bool := e.part == part && e.die == die && e.id == id
  if !s.fq.any mine || (v != 1 && v != 2) then s
  else
    let l := s.joinedTo part die id
    let s1 := { s with fq := s.fq.filter (fun e => !mine e) }
    l.foldl (fun s x => if v = 1 then s.resolve x.1 else s.refuse x.1 x.2) s1

/-- Fault-queue verdict 1 (17 R423). -/
def execVerdictResolve (part die : Nat) (id : BitVec 32) (s : State) : Out State :=
  if 8 ≤ part ∨ 4 ≤ die then .refused .notEnabled else .next (s.verdict part die id.toNat 1)
/-- Fault-queue verdict 2 (17 R423). -/
def execVerdictRefuse (part die : Nat) (id : BitVec 32) (s : State) : Out State :=
  if 8 ≤ part ∨ 4 ≤ die then .refused .notEnabled else .next (s.verdict part die id.toNat 2)

/-! ### Reams (17 R424) -/

/-- The first word of a ream entry, by management address. -/
def reamAddr (part n : Nat) : Nat := 0x10000 + 0x1000 * part + 0x800 + 0x20 * n

/-- The ranges of a ream and of its pool. -/
def ReamReg.ranges (g : ReamReg) : List (Nat × Nat) := [(g.base, g.size), (g.pool, g.poolSize)]

/-- Two ranges share a byte. -/
def rangesMeet (a b : Nat × Nat) : Bool := decide (a.1 < b.1 + b.2) && decide (b.1 < a.1 + a.2) && a.2 != 0 && b.2 != 0

/-- A range lies in stacks that a partition owns. -/
def State.rangeOwned (s : State) (p : Nat) (r : Nat × Nat) : Bool :=
  decide (r.1 + r.2 ≤ 0x8000000000) &&
    (upto 8).all (fun st => !rangesMeet r (st * 0x1000000000, 0x1000000000) || s.owns p st)

/-- The ranges of every valid ream but one. -/
def State.otherReams (s : State) (r : Nat) : List (Nat × Nat) :=
  (s.mem.reams.filter (fun e => e.1 ≠ r)).flatMap (fun e => (s.reamReg (e.1 / 64) (e.1 % 64)).ranges)

/-- A ream's registers allow it to be created. -/
def State.reamOk (s : State) (part n : Nat) : Bool :=
  let g := s.reamReg part n
  g.ranges.all (s.rangeOwned part) && !rangesMeet (g.base, g.size) (g.pool, g.poolSize) &&
    g.ranges.all (fun r => !(s.otherReams (64 * part + n)).any (rangesMeet r)) &&
    decide (2 * g.size ≤ g.poolSize) && s.keyOk part g.key && g.size != 0

/-- A write of the first word of a ream entry: BASE while VALID = 0; setting VALID creates the ream after its checks, or
sets ERR; clearing it keeps the newest versions and frees the pool. -/
def State.writeReam (s : State) (part n : Nat) (v : W64) : State :=
  let a := reamAddr part n
  let w := s.win a
  let base : W64 := v &&& 0x0000FFFFFFE00000
  if bit w 63 then
    if bit v 63 then s
    else { s.setWin a (setf w 63 1 0) with mem := { s.mem with reams := mdel s.mem.reams (64 * part + n) } }
  else if !bit v 63 then s.setWin a (base ||| (w &&& 0x2000000000000000))
  else
    let s1 := s.setWin a base
    if s1.reamOk part n then
      { s1.setWin a (setf base 63 1 1) with mem := { s1.mem with reams := mput s1.mem.reams (64 * part + n) {} } }
    else s1.setWin a (setf base 61 1 1)

/-- Setting VALID creates a ream after its checks, or sets ERR (17 R424). -/
def execReamValidSet (part n : Nat) (val : BitVec 64) (s : State) : Out State :=
  if 8 ≤ part ∨ 64 ≤ n ∨ !bit val 63 then .refused .notEnabled else .next (s.writeReam part n val)

/-- Clearing VALID keeps only newest versions and frees the pool (17 R424). -/
def execReamValidClear (part n : Nat) (val : BitVec 64) (s : State) : Out State :=
  if 8 ≤ part ∨ 64 ≤ n ∨ bit val 63 then .refused .notEnabled else .next (s.writeReam part n val)

/-- The home slices have initialised every line, with quire {0} and floor 0, and set READY (17 R424). -/
def execReamReady (part n : Nat) (s : State) : Out State :=
  match mfind s.mem.reams (64 * part + n) with
  | some r => if r.ready || 64 ≤ n then .refused .notEnabled
    else .next { s with mem := { s.mem with reams := mput s.mem.reams (64 * part + n) { ready := true } } }
  | none => .refused .notEnabled

/-! ### Key slots (17 R419) -/

/-- The lines in HBM under a key turn into what the new key makes of their ciphertext; a line resident at its home stays. -/
def State.rekeyed (s : State) (k : Nat) (old : List Nat) : State :=
  let new := s.keyMat k
  if old = new then s
  else
    let ls := (s.mem.wkey.filter (fun e => e.2 = k ∧ mget 0 s.mem.res e.1 = 0)).map (fun e => e.1)
    { s with mem := { s.mem with bytes := ls.foldl (fun (m : SMap Byte) l =>
        mwrite 0 m (64 * l) (xtsLine true new l (xtsLine false old l (mbytes 0 s.mem.bytes (64 * l) 64)))) s.mem.bytes } }

/-- A write of eight bytes of the key window; slot 0 holds no key. -/
def State.writeKey (s : State) (addr : Nat) (v : W64) : State :=
  let o := addr - 0x20000
  if o < 64 then s
  else { s with mgmt := { s.mgmt with keys := mwrite 0 s.mgmt.keys o (leBytes 8 v.toNat) } }.rekeyed (o / 64) (s.keyMat (o / 64))

/-- Writes an XTS key slot through the key window (17 R419). -/
def execKeySlotWrite (addr : Nat) (val : BitVec 64) (s : State) : Out State :=
  if addr < 0x20000 ∨ 0x30000 ≤ addr ∨ addr % 8 ≠ 0 then .refused .notEnabled else .next (s.writeKey addr val)

end Sys2Proof.Machine
end

