-- ==== Sys2Proof/Machine/Sidecar.lean ====
section
/-!
DEFINITION. The sidecars (01 R30; 08 R283 to R286): the ordinary RISC-V instructions of an image, the `x.` instructions,
and the exceptions they raise.  Exception numbers and the RISC-V instructions are presumed (log entry 9).
-/

namespace Sys2Proof.Machine

/-- What an instruction of a sidecar does: it goes on at an address, stays where it is (a wait, a translation held, or a
run that has ended), or raises an exception with its mcause and mtval. -/
inductive SideRes where
  | go (pc : W64) (s : State)
  | stay (s : State)
  | exc (mcause mtval : W64) (s : State)

/-- Sidecar `n` may execute its next instruction (08 R283, R284).  A halt lets it run on (15 R389); a package fatal error
does not (18 R437). -/
def State.sideCan (s : State) (n : Nat) : Bool :=
  let x := s.sideAt n
  let c := s.ctxAt (n / 2)
  let t := s.taskAt c.task
  !s.mgmt.pfe && x.present && x.running && x.hold.isNone && c.st == .live && !c.sq.exiting && t.ended.isNone && (t.l.gang == 0 || t.started) &&
    (match s.guessOf c with | some q => !(s.queueAt q).dealer.claiming | none => true)

/-- A register of a sidecar; x0 reads zero. -/
def Side.rx (x : Side) (n : BitVec 5) : W64 := if n = 0 then 0 else mget 0 x.x n.toNat

/-- Writes a register; x0 discards. -/
def Side.wx (x : Side) (n : BitVec 5) (v : W64) : Side := if n = 0 then x else { x with x := mset 0 x.x n.toNat v }

/-- A register of sidecar `n`. -/
def State.rx (s : State) (n : Nat) (r : BitVec 5) : W64 := (s.sideAt n).rx r

/-- Writes a register of sidecar `n`. -/
def State.wx (s : State) (n : Nat) (r : BitVec 5) (v : W64) : State := s.onSide n (fun x => x.wx r v)

/-- The instruction after one of `len` bytes. -/
def State.sideNext (s : State) (n len : Nat) : W64 := (s.sideAt n).pc + w64 len

/-- The state a sidecar's instruction leaves. -/
def State.sideEnd (n : Nat) : SideRes → State
  | .go pc s => s.onSide n (fun x => { x with pc := pc })
  | .stay s => s
  | .exc c v s => s.sideStop n c v

/-- Runs an instruction of the selected sidecar. -/
def State.sideRun (s : State) (f : Nat → State → SideRes) : Out State :=
  if s.sideCan s.side then .next (State.sideEnd s.side (f s.side s)) else .refused .noSidecar

/-! ### Ordinary instructions (01 R30) -/

/-- The result of a register operation on `w` bits. -/
def rvCalc {w : Nat} (op : RvAlu) (x y : BitVec w) (sh : Nat) : BitVec w :=
  match op with
  | .add => x + y
  | .sub => x - y
  | .sll => x <<< sh
  | .slt => BitVec.ofNat w (b2n (x.slt y))
  | .sltu => BitVec.ofNat w (b2n (x.ult y))
  | .xor => x ^^^ y
  | .srl => x >>> sh
  | .sra => x.sshiftRight sh
  | .or => x ||| y
  | .and => x &&& y
  | .mul => x * y
  | .mulh => BitVec.ofInt w (x.toInt * y.toInt / 2 ^ w)
  | .mulhsu => BitVec.ofInt w (x.toInt * (y.toNat : Int) / 2 ^ w)
  | .mulhu => BitVec.ofNat w (x.toNat * y.toNat / 2 ^ w)
  | .div => if y = 0 then BitVec.allOnes w else x.sdiv y
  | .divu => if y = 0 then BitVec.allOnes w else x / y
  | .rem => if y = 0 then x else x.srem y
  | .remu => if y = 0 then x else x % y

/-- A register operation of RV64IM; a word form acts on the low 32 bits and sign-extends. -/
def rvAlu (op : RvAlu) (word : Bool) (x y : W64) : W64 :=
  if word then sx (rvCalc op (x.setWidth 32) (y.setWidth 32) (bf y 0 5)) else rvCalc op x y (bf y 0 6)

/-- The comparison of a branch. -/
def rvTaken (op : RvBr) (x y : W64) : Bool :=
  match op with
  | .beq => x == y | .bne => x != y | .blt => x.slt y | .bge => !x.slt y | .bltu => x.ult y | .bgeu => !x.ult y

/-- The control registers a sidecar has: the machine-level trap registers, and identity registers that read zero
(log entry 9). -/
def csrRw (n : Nat) : Bool := [0x300, 0x304, 0x305, 0x340, 0x341, 0x342, 0x343, 0x344].contains n
@[inherit_doc csrRw]
def csrZero (n : Nat) : Bool := [0x301, 0xF11, 0xF12, 0xF13, 0xF14, 0xF15].contains n

/-- A range of a store of a sidecar holds a word with an uncorrectable error. -/
def storeBad (bad : SMap Bool) (a n : Nat) : Bool :=
  !bad.isEmpty && (upto n).any (fun i => (mfind bad ((a + i) / 8)).isSome)

/-- Such an error is logged, with the word's place in the debug window (18 R438, R440); a guess leaves no entry
(11 R352). -/
def State.sideLog (s : State) (n : Nat) (data : Bool) (a : Nat) : State :=
  if (s.guessOf (s.ctxAt (n / 2))).isSome then s
  else s.logError 1 (n / 8) (w64 (debugBase (n / 8) + 0x700000 + 0x40000 * (n % 2) + 0x10000 * b2n data + a / 8 * 8))

/-- An ordinary instruction of sidecar `n`; `len` is its length in bytes. -/
def rvDo (i : RvInstr) (len n : Nat) (s : State) : SideRes :=
  let x := s.sideAt n
  let on : W64 := s.sideNext n len
  let set (r : BitVec 5) (v : W64) : SideRes := .go on (s.wx n r v)
  match i with
  | .lui rd imm => set rd (sx (imm ++ (0 : BitVec 12)))
  | .auipc rd imm => set rd (x.pc + sx (imm ++ (0 : BitVec 12)))
  | .jal rd off => .go (x.pc + sx (off ++ (0 : BitVec 1))) (s.wx n rd on)
  | .jalr rd rs1 imm => .go ((x.rx rs1 + sx imm) &&& ~~~(1 : W64)) (s.wx n rd on)
  | .branch op a b off => .go (if rvTaken op (x.rx a) (x.rx b) then x.pc + sx (off ++ (0 : BitVec 1)) else on) s
  | .load size uns rd rs1 imm =>
    let a := x.rx rs1 + sx imm
    let z := 2 ^ size.toNat
    if 0x4000 < a.toNat + z then .exc 5 a s
    else if storeBad x.dbad a.toNat z then .exc 5 a (s.sideLog n true a.toNat)
    else
      let v := leNat (mbytes 0 x.dmem a.toNat z)
      set rd (if uns then w64 v else w64 (extend true z v))
  | .store size rs1 rs2 imm =>
    let a := x.rx rs1 + sx imm
    let z := 2 ^ size.toNat
    if 0x4000 < a.toNat + z then .exc 7 a s
    else .go on (s.onSide n (fun y => { y with
      dmem := mwrite 0 y.dmem a.toNat (leBytes z ((x.rx rs2).toNat % 2 ^ (8 * z)))
      dbad := if z = 8 ∧ a.toNat % 8 = 0 then mdel y.dbad (a.toNat / 8) else y.dbad }))
  | .aluImm op w rd rs1 imm => set rd (rvAlu op w (x.rx rs1) (sx imm))
  | .alu op w rd rs1 rs2 => set rd (rvAlu op w (x.rx rs1) (x.rx rs2))
  | .fence | .fenceI => .go on s
  | .ecall => .exc 11 0 s
  | .ebreak => .exc 3 x.pc s
  | .wfi => .go on (s.onSide n (fun y => { y with running := false }))
  | .mret => .go (mget 0 x.csr 0x341 &&& ~~~(1 : W64)) s
  | .csr op useImm rd rs1 num =>
    let k := num.toNat
    let old := mget 0 x.csr k
    let v := if useImm then w64 rs1.toNat else x.rx rs1
    let writes := op == .rw || rs1 != 0
    if (!csrRw k && !csrZero k) || (writes && decide (0xC00 ≤ k)) then .exc 2 0 s
    else
      let new := match op with | .rw => v | .rs => old ||| v | .rc => old &&& ~~~v
      let s1 := if writes && csrRw k then s.onSide n (fun y => { y with csr := mset 0 y.csr k new }) else s
      .go on (s1.wx n rd old)
  | .illegal w => .exc 2 (w64 w.toNat) s

/-- A sidecar executes one ordinary instruction of its image (01 R30, 08 R283). -/
def execSidecarRiscvInstruction (i : RvInstr) (short : Bool) (s : State) : Out State :=
  s.sideRun (rvDo i (if short then 2 else 4))

/-! ### Share and global words (08 R285) -/

/-- One access of 8 bytes by sidecar `n`; what it reads goes to a continuation (09 R287, R305). -/
def State.sideAccess (s : State) (n : Nat) (a : Access) (k : State → W64 → SideRes) : SideRes :=
  if s.accessHeld a then .stay s
  else match s.effect (n / 2) a with
    | (s1, _, some _) => .exc 5 a.va s1
    | (s1, v, none) => k s1 (w64 (v.getD 0))

/-- The access to a share word. -/
def shareAccess (off : W64) (st : Option W64) : Access :=
  { id := 0, kind := if st.isSome then .st else .ld, va := off, loc := .share off.toNat, size := 8
    data := BitVec.ofNat 1024 (st.getD 0).toNat }

/-- A share word by its offset: aligned, and in the share (08 R285). -/
def State.sideShare (s : State) (n : Nat) (off : W64) (st : Option W64) (k : State → W64 → SideRes) : SideRes :=
  let c := s.ctxAt (n / 2)
  if off.toNat % 8 ≠ 0 then .exc (if st.isSome then 6 else 4) off s
  else if (s.resvAt c.resv).size < off.toNat + 8 then .exc (if st.isSome then 7 else 5) off s
  else s.sideAccess n (shareAccess off st) k

/-- 8 bytes at a global address: aligned, in the window, translated and permitted; an absent translation waits at the
fault queue (08 R285, 17 R423). -/
def State.sideGlobal (s : State) (n : Nat) (va : W64) (st : Option W64) (k : State → W64 → SideRes) : SideRes :=
  let c := s.ctxAt (n / 2)
  let store := st.isSome
  if va.toNat % 8 ≠ 0 then .exc (if store then 6 else 4) va s
  else match s.xlateCtx (n / 2) false va.toNat (if store then .w else .r) with
    | (s1, .err (.absent l)) =>
      if (s1.guessOf c).isSome then .stay (s1.abandon (n / 2) 2)
      else
        let h : Held := { trap := { cls := .slot, code := 0x20, detail := va }, part := c.part, die := dieOf (n / 2 / 4), asid := c.asid,
                          va := va, level := l, access := b2n store, agent := 2 }
        .stay (s1.onSide n (fun x => { x with hold := some h }))
    | (s1, .err .perm) =>
      if (s1.guessOf c).isSome then .stay (s1.abandon (n / 2) 2) else .exc (if store then 15 else 13) va s1
    | (s1, .err .notReam) => .exc (if store then 15 else 13) va s1
    | (s1, .err (.walkError pa)) => .exc (if store then 7 else 5) va (s1.logPhys c pa)
    | (s1, .err _) => .exc (if store then 7 else 5) va s1
    | (s1, .ok p) =>
      match s1.pagePlace c va (if store then .write else .read) p with
      | .at_ va loc ecw =>
        s1.sideAccess n { id := 0, kind := if store then .st else .ld, va := va, loc := loc, ecw := ecw, size := 8,
                          data := BitVec.ofNat 1024 (st.getD 0).toNat } k
      | .trap _ => .exc (if store then 7 else 5) va s1
      | .drop cause => .stay (s1.abandon (n / 2) cause)

/-- rd := the share word at rs1 (08 R285). -/
def spldDo (rd rs1 : BitVec 5) (n : Nat) (s : State) : SideRes :=
  s.sideShare n (s.rx n rs1) none (fun s1 v => .go (s.sideNext n 4) (s1.wx n rd v))

@[inherit_doc spldDo]
def execXSpld (rd rs1 : BitVec 5) (s : State) : Out State := s.sideRun (spldDo rd rs1)

/-- The share word at rs1 := rs2 (08 R285). -/
def spstDo (rs2 rs1 : BitVec 5) (n : Nat) (s : State) : SideRes :=
  s.sideShare n (s.rx n rs1) (some (s.rx n rs2)) (fun s1 _ => .go (s.sideNext n 4) s1)

@[inherit_doc spstDo]
def execXSpst (rs2 rs1 : BitVec 5) (s : State) : Out State := s.sideRun (spstDo rs2 rs1)

/-- A full/empty operation on a word of the share waits: its tag is not as the operation wants it (08 R248). -/
def State.sideBlocks (s : State) (n : Nat) (off : W64) (full : Bool) : Bool :=
  let r := s.resvAt (s.ctxAt (n / 2)).resv
  decide (off.toNat % 8 = 0) && decide (off.toNat + 8 ≤ r.size) && r.tag (off.toNat / 8) != full

/-- Sets a share word's tag. -/
def State.sideSetTag (s : State) (n : Nat) (off : W64) (full : Bool) : State :=
  s.onResv (s.ctxAt (n / 2)).resv (fun r => r.setTag (off.toNat / 8) full)

/-- Waits for a full word, loads it and empties it (08 R248, R285). -/
def spldfeDo (rd rs1 : BitVec 5) (n : Nat) (s : State) : SideRes :=
  let a := s.rx n rs1
  if s.sideBlocks n a true then .stay s
  else s.sideShare n a none (fun s1 v => .go (s.sideNext n 4) ((s1.sideSetTag n a false).wx n rd v))

@[inherit_doc spldfeDo]
def execXSpldfe (rd rs1 : BitVec 5) (s : State) : Out State := s.sideRun (spldfeDo rd rs1)

/-- Waits for an empty word, stores it and fills it (08 R248, R285). -/
def spsteDo (rs2 rs1 : BitVec 5) (n : Nat) (s : State) : SideRes :=
  let a := s.rx n rs1
  if s.sideBlocks n a false then .stay s
  else s.sideShare n a (some (s.rx n rs2)) (fun s1 _ => .go (s.sideNext n 4) (s1.sideSetTag n a true))

@[inherit_doc spsteDo]
def execXSpste (rs2 rs1 : BitVec 5) (s : State) : Out State := s.sideRun (spsteDo rs2 rs1)

/-- rd := the 8 bytes at global address rs1 (08 R285). -/
def gldDo (rd rs1 : BitVec 5) (n : Nat) (s : State) : SideRes :=
  s.sideGlobal n (s.rx n rs1) none (fun s1 v => .go (s.sideNext n 4) (s1.wx n rd v))

@[inherit_doc gldDo]
def execXGld (rd rs1 : BitVec 5) (s : State) : Out State := s.sideRun (gldDo rd rs1)

/-- The 8 bytes at global address rs1 := rs2 (08 R285). -/
def gstDo (rs2 rs1 : BitVec 5) (n : Nat) (s : State) : SideRes :=
  s.sideGlobal n (s.rx n rs1) (some (s.rx n rs2)) (fun s1 _ => .go (s.sideNext n 4) s1)

@[inherit_doc gstDo]
def execXGst (rs2 rs1 : BitVec 5) (s : State) : Out State := s.sideRun (gstDo rs2 rs1)

/-! ### Copies (08 R285) -/

/-- Waits until every copy tag in the mask rs1[15:0] is set. -/
def tagwaitDo (rs1 : BitVec 5) (n : Nat) (s : State) : SideRes :=
  let m : BitVec 16 := (s.rx n rs1).setWidth 16
  if (s.ctxAt (n / 2)).mem.tagBits &&& m = m then .go (s.sideNext n 4) s else .stay s

@[inherit_doc tagwaitDo]
def execXTagwait (rs1 : BitVec 5) (s : State) : Out State := s.sideRun (tagwaitDo rs1)

/-- rd := d(rs1[3:0]) of the context. -/
def rddDo (rd rs1 : BitVec 5) (n : Nat) (s : State) : SideRes :=
  .go (s.sideNext n 4) (s.wx n rd ((s.ctxAt (n / 2)).r.rd (bf (s.rx n rs1) 0 4)))

@[inherit_doc rddDo]
def execXRdd (rd rs1 : BitVec 5) (s : State) : Out State := s.sideRun (rddDo rd rs1)

/-- The copy operation a command names: its kind, tag, format and modifiers. -/
def copyOf (w : W64) : Option Instr :=
  let f : LC := { g := 0, sdst := 0, ssrc := 0, sdsc := 0, tag := BitVec.ofNat 4 (bf w 4 4), qs := 0, md := BitVec.ofNat 4 (bf w 13 4)
                  fmt := BitVec.ofNat 5 (bf w 8 5), we := 0, sbw := 0, rsv := 0 }
  let i : Option Instr := match bf w 0 3 with
    | 0 => some (.tld f) | 1 => some (.tst f) | 2 => some (.cpy f) | 3 => some (.rgather f) | 4 => some (.rscatter f) | _ => none
  match i with
  | some i => if bf w 17 47 = 0 ∧ bf w 3 1 = 0 ∧ slotViol i = [] then some i else none
  | none => none

/-- The mcause of a copy command's addresses that R255 refuses, with the address. -/
def copyBad (size : Nat) (i : Instr) (dst src desc : W64) : Option (W64 × W64) :=
  let (dg, sg) := match i with | .tld _ => (false, true) | .tst _ => (true, false) | _ => (true, true)
  let img : Option W64 := match i with | .tld _ => some dst | .tst _ => some src | _ => none
  if (copyWin size dg true dst).isSome then some (7, dst)
  else if (copyWin size sg true src).isSome then some (5, src)
  else if size < desc.toNat + 64 then some (5, desc)
  else if desc.toNat % 64 ≠ 0 then some (4, desc)
  else match img with
    | some a => if a.toNat % 64 ≠ 0 then some (4, a) else none
    | none => none

/-- Issues the copy whose command is at share offset rs1; it counts on the context's tag. -/
def copyDoSide (rs1 : BitVec 5) (n : Nat) (s : State) : SideRes :=
  let k := n / 2
  let a := s.rx n rs1
  s.sideShare n a none (fun s1 dst => s1.sideShare n (a + 8) none (fun s2 src => s2.sideShare n (a + 16) none (fun s3 desc =>
    s3.sideShare n (a + 24) none (fun s4 w =>
      match copyOf w with
      | none => .exc 2 w s4
      | some i =>
        let v := s4.resvAt (s4.ctxAt k).resv
        match copyBad v.size i dst src desc with
        | some (c, x) => .exc c x s4
        | none =>
          if 32 ≤ (s4.coreAt (k / 4)).copies.length ∨ 16 ≤ (s4.copiesOf k).length then .stay s
          else
            let d := desc.toNat
            let ws := if (v.badIn d 64).isSome then [] else (upto 8).map (fun j => w64 (leNat (v.read (d + 8 * j) 8)))
            .go (s.sideNext n 4) (s4.issueCopy (k / 4) { id := 0, instr := i, ctx := k, side := n % 2 + 1, dst := dst, src := src,
                                                         desc := d, tag := bf w 4 4, seq := 0, words := ws })))))

@[inherit_doc copyDoSide]
def execXCopy (rs1 : BitVec 5) (s : State) : Out State := s.sideRun (copyDoSide rs1)

/-! ### Rings (08 R250 to R254, R285) -/

/-- Configures sidecar handle rs1 from the descriptor rs2. -/
def cbcfgDo (rs2 rs1 : BitVec 5) (n : Nat) (s : State) : SideRes :=
  let h := s.rx n rs1
  let d := s.rx n rs2
  if 4 ≤ h.toNat then .exc 2 h s
  else match descFault (s.resvAt (s.ctxAt (n / 2)).resv).size d with
    | some t => .exc (if t.code = 0x09 then 5 else 2) d s
    | none =>
      .go (s.sideNext n 4) (s.onSide n (fun x => { x with hs := mset {} x.hs h.toNat (Handle.ofDesc d) }))

@[inherit_doc cbcfgDo]
def execXCbcfg (rs2 rs1 : BitVec 5) (s : State) : Out State := s.sideRun (cbcfgDo rs2 rs1)

/-- A sidecar handle. -/
def Side.handle (x : Side) (h : Nat) : Handle := mget {} x.hs h

/-- A pointer operation on sidecar handle rs1 with the count rs2: the handle exists and is configured, and the count is
from 1 to its depth. -/
def ringDo (rs2 rs1 : BitVec 5) (n : Nat) (s : State) (f : Nat → Handle → Nat → SideRes) : SideRes :=
  let h := s.rx n rs1
  let m := s.rx n rs2
  let hd := (s.sideAt n).handle h.toNat
  if 4 ≤ h.toNat ∨ hd.slot = 0 then .exc 2 h s
  else if m = 0 ∨ 128 < m.toNat ∨ hd.depth < m.toNat then .exc 2 m s
  else f h.toNat hd m.toNat

/-- Every slot a pointer operation names is filled, or free. -/
def State.sideSlots (s : State) (n : Nat) (hd : Handle) (prod : Bool) (m : Nat) : Bool :=
  (cbSlots hd prod m).all (fun o => (s.resvAt (s.ctxAt (n / 2)).resv).tag (o / 8) != prod)

/-- Sets the tags of the slots a pointer operation names, and moves the pointer. -/
def State.sideMove (s : State) (n h : Nat) (hd : Handle) (prod : Bool) (m : Nat) : State :=
  let s1 := s.onResv (s.ctxAt (n / 2)).resv (fun r => (cbSlots hd prod m).foldl (fun r o => r.setTag (o / 8) prod) r)
  let hd1 := if prod then { hd with pp := (hd.pp + m) % hd.depth } else { hd with cp := (hd.cp + m) % hd.depth }
  s1.onSide n (fun x => { x with hs := mput x.hs h hd1 })

/-- Waits until the slots from CP on are filled. -/
def cbwaitDo (rs2 rs1 : BitVec 5) (n : Nat) (s : State) : SideRes :=
  ringDo rs2 rs1 n s (fun _ hd m => if s.sideSlots n hd false m then .go (s.sideNext n 4) s else .stay s)

@[inherit_doc cbwaitDo]
def execXCbwait (rs2 rs1 : BitVec 5) (s : State) : Out State := s.sideRun (cbwaitDo rs2 rs1)

/-- Waits until the slots from PP on are free. -/
def cbresvDo (rs2 rs1 : BitVec 5) (n : Nat) (s : State) : SideRes :=
  ringDo rs2 rs1 n s (fun _ hd m => if s.sideSlots n hd true m then .go (s.sideNext n 4) s else .stay s)

@[inherit_doc cbresvDo]
def execXCbresv (rs2 rs1 : BitVec 5) (s : State) : Out State := s.sideRun (cbresvDo rs2 rs1)

/-- Empties the slots from CP on, and moves CP. -/
def cbpopDo (rs2 rs1 : BitVec 5) (n : Nat) (s : State) : SideRes :=
  ringDo rs2 rs1 n s (fun h hd m => .go (s.sideNext n 4) (s.sideMove n h hd false m))

@[inherit_doc cbpopDo]
def execXCbpop (rs2 rs1 : BitVec 5) (s : State) : Out State := s.sideRun (cbpopDo rs2 rs1)

/-- Fills the slots from PP on, and moves PP. -/
def cbpushDo (rs2 rs1 : BitVec 5) (n : Nat) (s : State) : SideRes :=
  ringDo rs2 rs1 n s (fun h hd m => .go (s.sideNext n 4) (s.sideMove n h hd true m))

@[inherit_doc cbpushDo]
def execXCbpush (rs2 rs1 : BitVec 5) (s : State) : Out State := s.sideRun (cbpushDo rs2 rs1)

/-! ### Fetch, and the exception an instruction raises (08 R286) -/

/-- The bytes at a sidecar's pc, unlisted bytes of the store being zero. -/
def Side.fetch (x : Side) : BitVec 32 := BitVec.ofNat 32 (leNat (mbytes 0 x.imem x.pc.toNat 4))

/-- The next instruction of a sidecar; none where it lies outside the instruction store. -/
def State.sideInstr (s : State) (n : Nat) : Option Instr :=
  let x := s.sideAt n
  let w := x.fetch
  if 0x10000 < x.pc.toNat + (if w.extractLsb' 0 2 = 3 then 4 else 2) then none else some (decSide w)

/-- What an instruction of a sidecar does. -/
def sideMeaning (i : Instr) (n : Nat) (s : State) : SideRes :=
  match i with
  | .xSpld rd rs1 => spldDo rd rs1 n s
  | .xSpst rs2 rs1 => spstDo rs2 rs1 n s
  | .xSpldfe rd rs1 => spldfeDo rd rs1 n s
  | .xSpste rs2 rs1 => spsteDo rs2 rs1 n s
  | .xGld rd rs1 => gldDo rd rs1 n s
  | .xGst rs2 rs1 => gstDo rs2 rs1 n s
  | .xTagwait rs1 => tagwaitDo rs1 n s
  | .xRdd rd rs1 => rddDo rd rs1 n s
  | .xCopy rs1 => copyDoSide rs1 n s
  | .xCbcfg rs2 rs1 => cbcfgDo rs2 rs1 n s
  | .xCbwait rs2 rs1 => cbwaitDo rs2 rs1 n s
  | .xCbresv rs2 rs1 => cbresvDo rs2 rs1 n s
  | .xCbpop rs2 rs1 => cbpopDo rs2 rs1 n s
  | .xCbpush rs2 rs1 => cbpushDo rs2 rs1 n s
  | .sidecarRiscvInstruction i short => rvDo i (if short then 2 else 4) n s
  | _ => .stay s

/-- What the next instruction of sidecar `n` does; a fetch outside the instruction store is an access fault. -/
def State.sideTurn (s : State) (n : Nat) : SideRes :=
  match s.sideInstr n with
  | some i => sideMeaning i n s
  | none => .exc 1 (s.sideAt n).pc s

/-- The selected sidecar raises the exception of its next instruction: it stops, and an asynchronous trap waits at its
context (08 R286). -/
def execSidecarFault (mcause mtval : BitVec 64) (s : State) : Out State :=
  if !s.sideCan s.side then .refused .noSidecar
  else match s.sideTurn s.side with
    | .exc c v s1 => if c = mcause ∧ v = mtval then .next (s1.sideStop s.side c v) else .refused .notEnabled
    | _ => .refused .notEnabled

end Sys2Proof.Machine
end

