-- ==== Sys2Proof/Machine/Window.lean ====
section
/-!
DEFINITION. The management window (18 R429 to R431, R435, R438, R440, R444; 16 R396, R406, R412; 17 R414, R422, R424,
R426): what a read of each register gives, and what a write does, field by field by its access code (00 R5).
-/

namespace Sys2Proof.Machine

/-! ### The map (18 R429, R430) -/

/-- The access-table register that guards an address, where the address lies in a region. -/
def winGuard (a : Nat) : Option Nat :=
  if a < 0x10000 then some 0x480
  else if a < 0x20000 then some 0x488
  else if a < 0x30000 then some 0x490
  else if a < 0x31000 then some 0x498
  else if 0x40000 ≤ a ∧ a < 0x50000 then some 0x4A0
  else if 0x50000 ≤ a ∧ a < 0x60000 then some 0x4A8
  else if 0x60000 ≤ a ∧ a < 0x60200 then some (0x280 + (a - 0x60000) / 8 * 8)
  else if 0x80000 ≤ a ∧ a < 0x180000 then some 0x4B0
  else if 0x100000000 ≤ a ∧ a < 0x580000000 then some 0x4B8
  else none

/-- Reads of an address and writes of it are admitted to a master. -/
def State.winAdmits (s : State) (m a : Nat) : Bool := (winGuard a).all (fun g => s.admits g m)

/-- A register that reads as it is kept. -/
def State.kept (s : State) (a : Nat) : Option W64 := some (s.win a)

/-! ### Package fatal error and reset (18 R437, R443) -/

/-- The package fatal error: every core halts without waiting, and accesses in flight are lost: those of contexts, copies
and collectives, records on their way to the Calender, and the Couch engines' (18 R437). -/
def State.fatal (s : State) : State :=
  { s with
    mgmt := { s.mgmt with pfe := true }
    hub := { s.hub with recs := [], colls := [], couch := s.hub.couch.map (fun (e : Nat × Couch) => (e.1, { e.2 with queue := [], job := none })) }
    cores := (upto 576).map (fun i => (i, { (if (s.coreAt i).halted then s.coreAt i else (s.coreAt i).halt 0xFF 0) with copies := [] }))
    ctxs := s.ctxs.map (fun (e : Nat × Ctx) => (e.1, { e.2 with mem := { e.2.mem with pend := [], recs := 0 } })) }

/-- A field of a firmware image. -/
def imageField (img : List Byte) (o n : Nat) : Nat := leNat ((img.drop o).take n)

/-- The root of trust's checks of an image (18 R441): the key digest, the signature and the body digest, the version, and
the bytes of the header that are zero. -/
def imageGood (img : List Byte) : Bool :=
  imageField img 12 4 == 0 && imageField img 160 96 == 0 && decide (Config.minVersion.toNat ≤ imageField img 4 4) &&
    Config.imageSigned img

/-- The image in flash (18 R441). -/
def State.image (s : State) : List Byte := s.mgmt.flash.getD Config.madeImage

/-- A reset of the package: the root of trust checks the image, every context stops with nothing saved, and every register takes its reset value; the flash
image, the fuses and what the port has sent stay, and the model's schedule and counters go on. -/
def State.rebooted (s : State) : State :=
  let good := imageGood s.image
  { State.reset with
    mgmt := { State.reset.mgmt with
      flash := s.mgmt.flash, fwver := BitVec.ofNat 32 (imageField s.image 4 4), enmap := s.mgmt.enmap, replies := s.mgmt.replies
      recov := !good, booting := good, ready := false, hbmok := false }
    agenda := s.agenda, seq := s.seq, free := s.free }

/-! ### Reads -/

/-- Accepted tasks of a queue that have not completed, saturating (16 R396). -/
def State.qlive (s : State) (q : Nat) : Nat :=
  min 0xFFFF (s.allTasks.filter (fun t => t.q == q && t.order != 0 && !t.stopped)).length

/-- A register of the dispatcher window. -/
def State.readDisp (s : State) (a : Nat) : Option W64 :=
  if 0x20 ≤ a ∧ a < 0x50 then s.kept a
  else if a = 0x50 then some 0
  else if a = 0x58 then s.kept a
  else if 0x1000 ≤ a ∧ a < 0x9000 then
    let q := (a - 0x1000) / 0x80
    match a % 0x80 with
    | 0x30 => some (setf (s.win a) 0 16 (s.qlive q))
    | 0x38 => some 0
    | o => if o ≤ 0x40 then s.kept a else some 0
  else none

/-- A register of the partition window. -/
def State.readPart (s : State) (a : Nat) : Option W64 :=
  let o := a - 0x10000
  if 0x8000 ≤ o then (if o < 0x8040 then s.kept a else none)
  else
    let p := o / 0x1000
    let r := o % 0x1000
    if r < 0x30 then s.kept a
    else if 0x100 ≤ r ∧ r < 0x200 then
      (if r % 0x40 < 0x18 then s.kept a else if r % 0x40 = 0x18 then some 0 else none)
    else if 0x800 ≤ r then
      let n := (r - 0x800) / 0x20
      let m := mfind s.mem.reams (64 * p + n)
      if r % 0x20 = 0 then some (setf (s.win a) 62 1 (b2n (m.any (fun x => x.ready))))
      else if r % 0x20 = 8 then some (setf (s.win a) 32 32 ((m.map (fun x => x.floor)).getD 0))
      else s.kept a
    else none

/-- A word of the enable map of a die. -/
def State.enmapWord (s : State) (d i : Nat) : W64 := w64 (bf (mget 0 s.mgmt.enmap d) (64 * i) 64)

/-- A platform register. -/
def State.readPlat (s : State) (a : Nat) : Option W64 :=
  let o := a - 0x40000
  let m := s.mgmt
  if o = 8 then
    some (w64 (m.fwver.toNat * 2 ^ 32 + 16 * b2n m.pfe + 8 * b2n m.recov + 4 * b2n m.tblock + 2 * b2n m.hbmok + b2n m.ready))
  else if o = 0 then s.kept a
  else if o = 0x10 then some 0
  else if 0x20 ≤ o ∧ o < 0x80 then some (s.enmapWord ((o - 0x20) / 0x18) ((o - 0x20) % 0x18 / 8))
  else if 0x80 ≤ o ∧ o < 0xA0 then s.kept a
  else if o = 0xA0 then some s.hub.time
  else if o = 0xA8 then s.kept a
  else if 0x100 ≤ o ∧ o < 0x130 then some 0
  else if o = 0x130 then some 0
  else if 0x200 ≤ o ∧ o < 0x400 then some (w64 (leNat (mbytes 0 m.attrep (o - 0x200) 8)))
  else if 0x400 ≤ o ∧ o < 0x600 then (if o % 0x40 ≤ 0x20 then s.kept a else some 0)
  else if 0xC00 ≤ o ∧ o < 0x1000 then some (w64 (leNat ((upto 8).map (fun i => Config.certByte (o - 0xC00 + i)))))
  else if 0x2000 ≤ o ∧ o < 0x4000 then s.kept a
  else none

/-- Units of each place that has error counters (18 R438). -/
def unitsOfPlace (p : Nat) : Nat := [8, 649, 576, 581, 8, 9].getD p 0

/-- The entry of the error log in a slot, where one has been written. -/
def State.logAt (s : State) (i : Nat) : Option LogEnt :=
  let n := s.mgmt.log.length
  (upto n).findSome? (fun j => if (s.mgmt.logTail.toNat - n + j) % 256 = i then s.mgmt.log[j]? else none)

/-- A register of the error region. -/
def State.readErr (s : State) (a : Nat) : Option W64 :=
  let o := a - 0x50000
  if o = 0 then some s.mgmt.logHead
  else if o = 8 then some s.mgmt.logTail
  else if o = 0x10 then some s.mgmt.logOver
  else if 0x1000 ≤ o ∧ o < 0x3000 then
    match s.logAt ((o - 0x1000) / 32) with
    | none => some 0
    | some e => some (match o % 32 with
      | 0 => w64 (e.place + 65536 * e.unit_)
      | 8 => e.addr
      | 16 => e.time
      | _ => 0)
  else if 0x4000 ≤ o ∧ o % 0x2000 / 8 < unitsOfPlace ((o - 0x4000) / 0x2000) then some (mget 0 s.mgmt.errs (o - 0x4000))
  else none

/-- The context that holds a core's loader or storer, as a sidecar number (08 R284). -/
def State.sideOn (s : State) (core which : Nat) : Option Nat :=
  ((upto 4).map (fun i => 2 * (4 * core + i) + which)).find? (fun n => (s.sideAt n).present)

/-- Eight bytes of a sidecar's window: its stores, registers and pc. -/
def Side.window (x : Side) (o : Nat) : Option W64 :=
  if o < 0x10000 then some (w64 (leNat (mbytes 0 x.imem o 8)))
  else if o < 0x14000 then some (w64 (leNat (mbytes 0 x.dmem (o - 0x10000) 8)))
  else if o < 0x14100 then some (x.rx (BitVec.ofNat 5 ((o - 0x14000) / 8)))
  else if o = 0x14100 then some x.pc
  else none

/-- Eight bytes of a context slot as its image, every tile whatever its state. -/
def Ctx.window (c : Ctx) (o : Nat) : W64 :=
  if c.st = .free then 0
  else if o < 0x94000 then
    match c.imageUnit false c.control.toArray (o / 64) with
    | some bs => w64 (leNat ((bs.drop (o % 64)).take 8))
    | none => 0
  else
    let t := c.tile ((o - 0x94000) / 0x2000)
    if t.st = .u ∨ c.mx.nTiles ≤ (o - 0x94000) / 0x2000 then 0 else t.get ((o - 0x94000) % 0x2000 / 8)

/-- The reservations of a core with the offsets of their shares in its scratchpad, in the order of their keys (log
entry 20). -/
def State.sharesOn (s : State) (core : Nat) : List (Nat × Resv) :=
  ((s.disp.resvs.filter (fun e => e.2.core == core)).foldl (fun (acc : Nat × List (Nat × Resv)) e =>
    (acc.1 + e.2.size, acc.2 ++ [(acc.1, e.2)])) (0, [])).2

/-- The share at an offset of a core's scratchpad, and the offset in it. -/
def State.shareAt (s : State) (core o : Nat) : Option (Resv × Nat) :=
  ((s.sharesOn core).find? (fun e => decide (e.1 ≤ o) && decide (o < e.1 + e.2.size))).map (fun e => (e.2, o - e.1))

/-- A register of a core's debug window (18 R440).  A write of HALTREQ or RELEASE acts at once, so both bits read as zero
(log entry 27); L1 data is a free value, since the model keeps no copies there. -/
def State.readDebug (s : State) (core o : Nat) : State × Option W64 :=
  let c := s.coreAt core
  if !s.enabled core then (s, some 0)
  else if o = 0x1000000 then (s, some (w64 (c.haltN.toNat * 2 ^ 32 + c.haltSlot % 256 * 256 + b2n c.halted)))
  else if !c.halted then (s, none)
  else if o < 0x350000 then (s, some ((s.ctxAt (4 * core + o / 0xD4000)).window (o % 0xD4000)))
  else if 0x400000 ≤ o ∧ o < 0x500000 then
    (s, some (match s.shareAt core (o - 0x400000) with | some (r, x) => w64 (leNat (r.read x 8)) | none => 0))
  else if 0x500000 ≤ o ∧ o < 0x504000 then
    (s, some (w64 ((upto 64).foldl (fun acc j => match s.shareAt core (8 * (8 * (o - 0x500000) + j)) with
      | some (r, x) => acc + (if r.tag (x / 8) then 2 ^ j else 0)
      | none => acc) 0)))
  else if 0x600000 ≤ o ∧ o < 0x640000 then
    let (v, s1) := s.takeFree 64
    (s1, some v)
  else if 0x700000 ≤ o ∧ o < 0x780000 then
    (s, match s.sideOn core ((o - 0x700000) / 0x40000) with
      | some n => (s.sideAt n).window (o % 0x40000)
      | none => ({} : Side).window (o % 0x40000))
  else (s, none)

/-- The core and the offset of a debug address. -/
def debugPlace (a : Nat) : Nat × Nat :=
  let o := a - 0x100000000
  (o / 0x120000000 * 144 + o % 0x120000000 / 0x2000000, o % 0x2000000)

/-- A read of the management window; none where it is refused with status 2. -/
def State.winRead (s : State) (a : Nat) : State × Option W64 :=
  if a % 8 ≠ 0 then (s, none)
  else if a < 0x10000 then (s, s.readDisp a)
  else if a < 0x20000 then (s, s.readPart a)
  else if a < 0x30000 then (s, some 0)
  else if a < 0x304C0 then (s, s.kept a)
  else if 0x40000 ≤ a ∧ a < 0x50000 then (s, s.readPlat a)
  else if 0x50000 ≤ a ∧ a < 0x60000 then (s, s.readErr a)
  else if 0x60000 ≤ a ∧ a < 0x60200 then (s, some (mget 0 s.hub.mail ((a - 0x60000) / 8)))
  else if 0x80000 ≤ a ∧ a < 0x180000 then
    let w := (a - 0x80000) % 256 / 8
    (s, some (if 30 ≤ w then 0 else (s.entry ((a - 0x80000) / 256)).w w))
  else if 0x100000000 ≤ a ∧ a < 0x580000000 then s.readDebug (debugPlace a).1 (debugPlace a).2
  else (s, none)

/-! ### Writes -/

/-- Sets the bits of a register that a mask names. -/
def State.setMasked (s : State) (a : Nat) (mask v : W64) : State := s.setWin a ((s.win a &&& ~~~mask) ||| (v &&& mask))

/-- A write of QCFG (16 R397). -/
def State.qcfgWrite (s : State) (q : Nat) (v : W64) : State :=
  if !bit (s.qreg q 0) 0 then s.writeQcfg q v
  else if bit v 0 then s
  else
    let s1 := s.setQreg q 0 (setf (s.qreg q 0) 0 1 0)
    if s.qstate q = 0 then s1 else s1.resetQueue q

/-- A write of a queue's register (16 R396, R397, R399). -/
def State.writeQueue (s : State) (q o : Nat) (v : W64) : State :=
  let a := 0x1000 + 0x80 * q + o
  let off := !bit (s.qreg q 0) 0
  match o with
  | 0x00 => s.qcfgWrite q v
  | 0x08 | 0x10 => if off then s.setMasked a 0xFFFFFFFFFFFFF000 v else s
  | 0x18 => if off then s.setMasked a 0xFFFFFFFFFFFFFFFC v else s
  | 0x20 | 0x28 => s.setMasked a 0xFFFFFFFF00000000 v
  | 0x38 => if bit v 1 then s.qctlReset q else if bit v 0 then s.qctlRestart q else s
  | 0x40 => s.writeQspec q v
  | _ => s

/-- A write in the dispatcher window. -/
def State.writeDisp (s : State) (a : Nat) (v : W64) : Option State :=
  if (s.readDisp a).isNone then none
  else if a < 0x40 then some (s.writeDlrcfg ((a - 0x20) / 8) v)
  else if a = 0x40 then some (s.setWin a v)
  else if a = 0x48 then some (s.setMasked a 0xFFFFFFFFFFFFF000 v)
  else if a = 0x50 then some (s.prctl (bf v 0 2))
  else if a = 0x58 then some s
  else some (s.writeQueue ((a - 0x1000) / 0x80) (a % 0x80) v)

/-- STACKS of a partition: no stack in two partitions, and no change while a context of it is live or parked
(17 R414). -/
def State.writeStacks (s : State) (p : Nat) (v : W64) : State :=
  let new := bf v 0 8
  let taken := (upto 8).any (fun r => r != p && bf (s.part r 0) 0 8 &&& new != 0)
  let busy := s.ctxs.any (fun e => e.2.counts && e.2.part == p)
  if taken || (busy && new != bf (s.part p 0) 0 8) then s else s.setWin (0x10000 + 0x1000 * p) (w64 new)

/-- A write of a fault queue's register (17 R422). -/
def State.writeFq (s : State) (p d o : Nat) (v : W64) : State :=
  let a := 0x10000 + 0x1000 * p + fqOff d
  let off := !bit (s.win (a + 8)) 0
  match o with
  | 0x00 => if off then s.setMasked a 0xFFFFFFFFFFFFF000 v else s
  | 0x08 => s.setMasked (a + 8) (if off then 0x000003FF000F0001 else 1) v
  | 0x10 => s.setMasked (a + 0x10) 0xFFFFFFFF00000000 v
  | _ => s.verdict p d (bf v 32 32) (bf v 0 2)

/-- A write of a ream entry (17 R424). -/
def State.writeReamWord (s : State) (p n o : Nat) (v : W64) : State :=
  let a := reamAddr p n
  let off := !bit (s.win a) 63
  match o with
  | 0 => s.writeReam p n v
  | 8 => if off then s.setMasked (a + 8) 0x3FFFFFF v else s
  | 16 => if off then s.setMasked (a + 16) 0xFFFFFFFFFFFFF000 v else s
  | _ => if off then s.setMasked (a + 24) 0xFFFFFFFF v else s

/-- A write in the partition window. -/
def State.writePart (s : State) (a : Nat) (v : W64) : Option State :=
  let o := a - 0x10000
  let p := o / 0x1000
  let r := o % 0x1000
  if (s.readPart a).isNone then none
  else if 0x8000 ≤ o then some (s.setMasked a 0x8000FFFFFFFFF000 v)
  else if 0x800 ≤ r then some (s.writeReamWord p ((r - 0x800) / 0x20) (r % 0x20) v)
  else if 0x100 ≤ r then some (s.writeFq p ((r - 0x100) / 0x40) (r % 0x40) v)
  else some (match r with
    | 0 => s.writeStacks p v
    | 8 => s.setMasked a 0xFFFFFFFFFFFFF000 v
    | 0x10 => s.setMasked a 0x000003FF800003FF v
    | 0x18 => s.setMasked a 0x00001FFF00000FFF v
    | 0x20 => s.setWin a v
    | _ => s.setMasked a 0xFFFF v)

/-- A write of ATTGO starts a report, unless one is being built (18 R445). -/
def State.attGo (s : State) (v : W64) : State :=
  if bit v 0 then { s with mgmt := { s.mgmt with attBusy := true } } else s

/-- A write of a scale-out port's block; its addresses only while EN = 0 (18 R435). -/
def State.writePort (s : State) (a : Nat) (v : W64) : State :=
  let off := !bit (s.win (a / 0x40 * 0x40)) 0
  match a % 0x40 with
  | 0x00 => s.setMasked a 1 v
  | 0x10 => if off then s.setMasked a 0xFFFFFFFFFFFF v else s
  | 0x18 | 0x20 => if off then s.setWin a v else s
  | _ => s

/-- A write of CLKCAP; the clock is never above it (18 R431, R446). -/
def State.writeCap (s : State) (v : W64) : State :=
  let n := bf v 0 6
  if n < 10 ∨ 30 < n then s else (s.setWin 0x40088 (w64 n)).setWin 0x40090 (w64 (min n (s.win 0x40090).toNat))

/-- A write of a platform register; RESET resets the package (18 R431, R435, R443). -/
def State.writePlat (s : State) (a : Nat) (v : W64) : Option State :=
  let o := a - 0x40000
  if (s.readPlat a).isNone then none
  else some (
    if o = 0 then s.setMasked a 0xFFFF v
    else if o = 0x10 then (if bit v 0 then s.rebooted else s)
    else if o = 0x80 then (if 1000 ≤ bf v 0 12 ∧ bf v 0 12 ≤ 3600 then s.setMasked a 0xFFF v else s)
    else if o = 0x88 then s.writeCap v
    else if 0x100 ≤ o ∧ o < 0x130 then s.setWin a v
    else if o = 0x130 then s.attGo v
    else if 0x400 ≤ o ∧ o < 0x600 then s.writePort a v
    else if 0x2000 ≤ o ∧ o < 0x4000 then
      (match o % 32 with
       | 0 => s.setMasked a 0x800000000000FFFF v
       | 8 => s.setMasked a 0xFF v
       | _ => s.setWin a v)
    else s)

/-- HALTREQ and RELEASE of a core's control block: a core halts with slot 0xFF, or its halt ends; a package fatal error
ends only with a reset (18 R437, R440). -/
def State.haltReq (s : State) (core : Nat) : State :=
  if (s.coreAt core).halted then s else s.onCore core (fun c => c.halt 0xFF 0)
@[inherit_doc State.haltReq]
def State.haltEnd (s : State) (core : Nat) : State :=
  if s.mgmt.pfe then s else s.onCore core (fun c => { c with halted := false })

/-- A write of a core's debug window: its control block alone takes one. -/
def State.writeDebug (s : State) (core o : Nat) (v : W64) : Option State :=
  if o ≠ 0x1000000 then none
  else if !s.enabled core then some s
  else
    let s1 := if bit v 1 then s.haltReq core else s
    some (if bit v 2 then s1.haltEnd core else s1)

/-- A write of the management window; none where it is refused with status 2. -/
def State.winWrite (s : State) (a : Nat) (v : W64) : Option State :=
  if a % 8 ≠ 0 then none
  else if a < 0x10000 then s.writeDisp a v
  else if a < 0x20000 then s.writePart a v
  else if a < 0x30000 then some (s.writeKey a v)
  else if a < 0x304C0 then some (s.setMasked a 0x7FFFF v)
  else if 0x40000 ≤ a ∧ a < 0x50000 then s.writePlat a v
  else if 0x50000 ≤ a ∧ a < 0x60000 then
    (if (s.readErr a).isNone then none else if a = 0x50000 then some { s with mgmt := { s.mgmt with logHead := v } } else some s)
  else if 0x60000 ≤ a ∧ a < 0x60200 then some { s with hub := { s.hub with mail := mset 0 s.hub.mail ((a - 0x60000) / 8) v } }
  else if 0x80000 ≤ a ∧ a < 0x180000 then
    let e := (a - 0x80000) / 256
    ((s.entry e).write ((a - 0x80000) % 256 / 8) v).map (fun x => s.putEntry e x)
  else if 0x100000000 ≤ a ∧ a < 0x580000000 then s.writeDebug (debugPlace a).1 (debugPlace a).2 v
  else none

/-! ### Events of registers -/

/-- A write to a register by the Ulven controller, field by field; one that the window refuses changes nothing
(00 R5, 17 R428, 18 R429). -/
def execRegisterWrite (addr : Nat) (val : BitVec 64) (s : State) : Out State :=
  if s.winAdmits 17 addr then .next ((s.winWrite addr val).getD s) else .next s

/-- A write of RESET resets the package (18 R443). -/
def execPackageResetWrite (s : State) : Out State := .next s.rebooted

/-- Power-on reset (18 R443): the firmware is checked, and bring-up starts or the package enters recovery. -/
def execPowerOn (s : State) : Out State := .next s.rebooted

/-- Training, zeroing and the register resets are done: HBMOK and READY rise, and every session expects 0
(18 R433, R443). -/
def execBringupDone (s : State) : Out State :=
  if !s.mgmt.booting then .refused .notEnabled
  else .next { s with mgmt := { s.mgmt with hbmok := true, ready := true, booting := false, sessions := [] } }

/-- A write of ATTGO starts building the attestation report (18 R445). -/
def execAttgo (s : State) : Out State := .next (s.attGo 1)

/-- The registers of the partition window and of the access-table region, in ascending address (18 R445). -/
def attested : List Nat :=
  (upto 8).flatMap (fun p => (
    (upto 6).map (fun i => 8 * i) ++ (upto 4).flatMap (fun d => (upto 4).map (fun i => 0x100 + 0x40 * d + 8 * i)) ++
      (upto 256).map (fun i => 0x800 + 8 * i)).map (fun o => 0x10000 + 0x1000 * p + o)) ++
  (upto 8).map (fun i => 0x18000 + 8 * i) ++ (upto 152).map (fun i => 0x30000 + 8 * i)

/-- The bytes of a word. -/
def wordBytes (w : W64) : List Byte := leBytes 8 w.toNat

/-- The attestation report (18 R445). -/
def State.report (s : State) : List Byte :=
  let nonce := (upto 6).flatMap (fun i => wordBytes (s.win (0x40100 + 8 * i)))
  let ver := wordBytes (w64 (Config.minVersion.toNat * 2 ^ 32 + s.mgmt.fwver.toNat))
  let maps := (upto 4).flatMap (fun d => (upto 3).flatMap (fun i => wordBytes (s.enmapWord d i)))
  let regs := attested.flatMap (fun a => wordBytes (((s.winRead a).2).getD 0))
  let body := nonce ++ ver ++ maps ++ leBytes 48 (Config.sha384 regs).toNat
  body ++ leBytes 96 (Config.attestSign (Config.sha384 body)).toNat

/-- The report is complete (18 R445); ATTGO, which is write-only, reads zero throughout (00 R5). -/
def execAttestDone (s : State) : Out State :=
  if !s.mgmt.attBusy then .refused .notEnabled
  else .next { s with mgmt := { s.mgmt with attBusy := false, attrep := mwrite 0 [] 0 s.report } }

/-- Debug control write that halts a core (18 R440). -/
def execHaltreq (core : Nat) (s : State) : Out State :=
  if 576 ≤ core then .refused .notEnabled else .next (if s.enabled core then s.haltReq core else s)

/-- Debug control write that ends a core halt (18 R440). -/
def execRelease (core : Nat) (s : State) : Out State :=
  if 576 ≤ core then .refused .notEnabled else .next (if s.enabled core then s.haltEnd core else s)

end Sys2Proof.Machine
end

