-- ==== Sys2Proof/Machine/Ports.lean ====
section
/-!
DEFINITION. The command port and its frames (18 R432, R433, R442), time messages (R434), the scale-out ports (R435),
the die links and the checks on each hop (R436 to R438), and the governor (R446).
-/

namespace Sys2Proof.Machine

/-! ### Frames (18 R432, R433) -/

/-- A request whose OP or fields are malformed. -/
def frameBad (f : Frame) : Bool :=
  let op := f.op.toNat
  let n := f.len.toNat
  let sized := n % 8 == 0 && decide (8 ≤ n) && decide (n ≤ 8192)
  let commit := op == 6 && n == 0 && f.addr == BitVec.allOnes 64
  let wr := op == 2 || op == 4 || op == 6
  !([1, 2, 3, 4, 6].contains op) || f.status != 0 || decide (16 ≤ f.session.toNat) || f.zero3 != 0 || f.zero22 != 0 ||
    !(sized || commit) || decide (1024 ≤ f.keyid.toNat) || (op != 3 && op != 4 && f.keyid != 0) ||
    f.data.length != (if wr then n else 0)

/-- A reply to a request: KEYID and the high bits of SESSION are zero in it (18 R432). -/
def replyTo (f : Frame) (status : Nat) (data : List Byte) : Frame :=
  { fcs := true, op := 5, status := BitVec.ofNat 8 status, session := f.session &&& 0x0F, zero3 := 0, seq := f.seq, addr := f.addr
    len := BitVec.ofNat 32 data.length, keyid := 0, zero22 := 0, data := data }

/-- The session of a request. -/
def State.sessionOf (s : State) (f : Frame) : Session := mget {} s.mgmt.sessions f.session.toNat

/-- What the port does with a request: it performs it, sends again the reply it cached, or answers with an error. -/
inductive PortSays where
  | perform
  | again (r : Frame)
  | error (status : Nat)
  deriving DecidableEq, Repr

/-- The port's answer to a request whose frame check holds (18 R433, R442, R443). -/
def State.portSays (s : State) (f : Frame) : PortSays :=
  let u := s.sessionOf f
  let back := (u.exp - f.seq).toNat
  if frameBad f then .error 4
  else if s.mgmt.recov then
    (if f.op != 6 || f.session != 0 then .error 4
     else if f.seq = u.exp then .perform
     else match (if back ≤ 64 then u.cache.find? (fun (e : BitVec 32 × Frame) => e.1 = f.seq) else none) with
       | some e => .again e.2
       | none => .error 5)
  else if f.op = 6 then .error 4
  else if !s.mgmt.ready then .error 2
  else if f.seq = u.exp then .perform
  else match (if back ≤ 64 then u.cache.find? (fun (e : BitVec 32 × Frame) => e.1 = f.seq) else none) with
    | some e => .again e.2
    | none => .error 5

/-- The port sends a frame. -/
def State.send (s : State) (f : Frame) : State := { s with mgmt := { s.mgmt with replies := s.mgmt.replies ++ [f] } }

/-- A request has performed: its reply is sent and cached, and the session expects the next number. -/
def State.portDone (s : State) (f : Frame) (status : Nat) (data : List Byte) : State :=
  let u := s.sessionOf f
  let r := replyTo f status data
  let u1 : Session := { exp := u.exp + 1, cache := ((f.seq, r) :: u.cache).take 64 }
  { s with mgmt := { s.mgmt with sessions := mput s.mgmt.sessions f.session.toNat u1 } }.send r

/-- Takes a request of one OP; what performing it does is given, as a state, or as the state after a package reset. -/
def State.portTake (s : State) (f : Frame) (op : Nat) (act : State → State) : Out State :=
  if !f.fcs || f.op.toNat != op then .refused .notEnabled
  else match s.portSays f with
    | .perform => .next (act s)
    | .again r => .next (s.send r)
    | .error 2 => .next (s.send (replyTo f 2 []))
    | .error _ => .refused .notEnabled

/-! ### The frame on the wire (18 R432) -/

/-- The EtherType of a request, first byte on the wire first. -/
def portType : List Byte := [0x88, 0xB5]

/-- A frame on the wire, from its EtherType on: the header of 32 bytes, little-endian, and the data. -/
def Frame.wire (f : Frame) : List Byte :=
  portType ++ leBytes 1 f.op.toNat ++ leBytes 1 f.status.toNat ++ leBytes 1 f.session.toNat ++ leBytes 1 f.zero3.toNat ++
    leBytes 4 f.seq.toNat ++ leBytes 8 f.addr.toNat ++ leBytes 4 f.len.toNat ++ leBytes 2 f.keyid.toNat ++
    leBytes 10 f.zero22.toNat ++ f.data

/-- The frame that bytes on the wire carry, `fcs` saying whether its frame check holds; none where the EtherType is
another or the header is cut short. -/
def Frame.ofWire (fcs : Bool) (bs : List Byte) : Option Frame :=
  let g (o n : Nat) : Nat := leNat ((bs.drop (2 + o)).take n)
  if bs.take 2 ≠ portType ∨ bs.length < 34 then none
  else some { fcs := fcs, op := BitVec.ofNat 8 (g 0 1), status := BitVec.ofNat 8 (g 1 1), session := BitVec.ofNat 8 (g 2 1)
              zero3 := BitVec.ofNat 8 (g 3 1), seq := BitVec.ofNat 32 (g 4 4), addr := BitVec.ofNat 64 (g 8 8)
              len := BitVec.ofNat 32 (g 16 4), keyid := BitVec.ofNat 16 (g 20 2), zero22 := BitVec.ofNat 80 (g 22 10)
              data := bs.drop 34 }

/-! ### Window requests -/

/-- Reads registers from an address on, or the status of the first that is denied or refused. -/
def State.readRegs (s : State) (a : Nat) : Nat → State × Except Nat (List Byte)
  | 0 => (s, .ok [])
  | n + 1 =>
    if (winGuard a).isNone then (s, .error 2)
    else if !s.winAdmits 8 a then (s, .error 1)
    else match s.winRead a with
      | (s1, none) => (s1, .error 2)
      | (s1, some v) =>
        match s1.readRegs (a + 8) n with
        | (s2, .ok l) => (s2, .ok (wordBytes v ++ l))
        | x => x

/-- Writes registers from an address on until one is denied or refused; none once the package has reset. -/
def State.writeRegs (s : State) (a : Nat) : List Byte → Nat → State × Option Nat
  | _, 0 => (s, some 0)
  | bs, n + 1 =>
    let v := w64 (leNat (bs.take 8))
    if (winGuard a).isNone then (s, some 2)
    else if !s.winAdmits 8 a then (s, some 1)
    else match s.winWrite a v with
      | none => (s, some 2)
      | some s1 => if a = 0x40010 && bit v 0 then (s1, none) else s1.writeRegs (a + 8) (bs.drop 8) n

/-- OP 1: reads management window registers. -/
def execWindowRead (f : Frame) (s : State) : Out State :=
  s.portTake f 1 (fun s => match s.readRegs f.addr.toNat (f.len.toNat / 8) with
    | (s1, .ok bs) => s1.portDone f 0 bs
    | (s1, .error e) => s1.portDone f e [])

/-- OP 2: writes management window registers; the reply of a RESET is not sent (18 R443). -/
def execWindowWrite (f : Frame) (s : State) : Out State :=
  s.portTake f 2 (fun s => match s.writeRegs f.addr.toNat f.data (f.len.toNat / 8) with
    | (s1, some e) => s1.portDone f e []
    | (s1, none) => s1)

/-! ### Memory requests -/

/-- The key under which the port reaches a line: a request under key 0 is not checked against the resident key. -/
def State.portKey (s : State) (line key : Nat) : Nat :=
  let r := mget 0 s.mem.res line
  if key = 0 ∧ r ≠ 0 then r - 1 else key

/-- The status with which a memory request is refused, 0 where it is not. -/
def State.memDenied (s : State) (f : Frame) : Nat :=
  let pa := f.addr.toNat
  let n := f.len.toNat
  let key := f.keyid.toNat
  if 0x8000000000 < pa + n then 2
  else if (linesOf pa n).all (fun l => s.reaches 8 (64 * l) && (key == 0 || !s.keyClash (64 * l) key)) then 0 else 1

/-- A memory request waits while a tile it touches is under re-encoding (10 R327). -/
def State.memHeld (s : State) (f : Frame) : Bool :=
  (linesOf f.addr.toNat f.len.toNat).any (fun l => s.tileHeld (l / 64))

/-- OP 3: reads physical memory as master 8. -/
def execMemoryRead (f : Frame) (s : State) : Out State :=
  if s.portSays f = .perform && s.memHeld f then .refused .notEnabled
  else s.portTake f 3 (fun s =>
    let pa := f.addr.toNat
    let n := f.len.toNat
    let ls := linesOf pa n
    if s.memDenied f ≠ 0 then s.portDone f (s.memDenied f) []
    else match ls.find? (fun l => s.bad (64 * l)) with
      | some l => (s.logLine (64 * l)).portDone f 3 (List.replicate n 0)
      | none =>
        let bs := (upto n).map (fun i => s.byteAt (pa + i) (s.portKey ((pa + i) / 64) f.keyid.toNat))
        (ls.foldl (fun s l => s.fill (64 * l) (s.portKey l f.keyid.toNat)) s).portDone f 0 bs)

/-- OP 4: writes physical memory as master 8, each line in one access. -/
def execMemoryWrite (f : Frame) (s : State) : Out State :=
  if s.portSays f = .perform && s.memHeld f then .refused .notEnabled
  else s.portTake f 4 (fun s =>
    let pa := f.addr.toNat
    let n := f.len.toNat
    if s.memDenied f ≠ 0 then s.portDone f (s.memDenied f) []
    else
      let part (l : Nat) : Nat × List Byte :=
        let a := max pa (64 * l)
        let b := min (pa + n) (64 * l + 64)
        (a, (f.data.drop (a - pa)).take (b - a))
      ((linesOf pa n).foldl (fun s l => s.storeLine (part l).1 (s.portKey l f.keyid.toNat) (part l).2) s).portDone f 0 [])

/-! ### Recovery (18 R441, R442) -/

/-- The image in the staging buffer. -/
def State.staged (s : State) : List Byte := mbytes 0 s.mgmt.staging 0 s.mgmt.stagedLen

/-- A recovery request with data writes into the staging buffer. -/
def execRecoveryStage (f : Frame) (s : State) : Out State :=
  if f.len = 0 then .refused .notEnabled
  else s.portTake f 6 (fun s =>
    let a := f.addr.toNat
    let m := { s.mgmt with staging := mwrite 0 s.mgmt.staging a f.data, stagedLen := max s.mgmt.stagedLen (a + f.data.length) }
    { s with mgmt := m }.portDone f 0 [])

/-- A recovery request with LEN 0 checks the staged image; one that passes goes to flash, and the device resets. -/
def execRecoveryCommit (f : Frame) (s : State) : Out State :=
  if f.len ≠ 0 then .refused .notEnabled
  else s.portTake f 6 (fun s =>
    let img := s.staged
    if imageGood img then
      { s with mgmt := { s.mgmt with flash := some img } }.rebooted
    else s.portDone f 2 [])

/-- A request with a bad OP, field or sequence number, or one that recovery does not take, is answered with an error
(18 R433, R442). -/
def execMalformedFrame (f : Frame) (s : State) : Out State :=
  if !f.fcs then .refused .notEnabled
  else match s.portSays f with
    | .error e => .next (s.send (replyTo f e []))
    | _ => .refused .notEnabled

/-- A frame whose FCS fails is dropped, and counted (18 R433, R438). -/
def execFcsDrop (f : Frame) (s : State) : Out State :=
  if f.fcs then .refused .notEnabled else .next (s.countError 5 0)

/-! ### Time (18 R434) -/

/-- A time message measures an offset from the master in nanoseconds: the first sets the time base once, and the lock
follows its size; otherwise the base is only slewed, which its ticks show (log entry 3). -/
def execPtpMessage (offset : Int) (s : State) : Out State :=
  let m := s.mgmt
  let first := !m.tblock && !m.tbSet
  let lock := if offset.natAbs ≤ 100 then true else if 1000 < offset.natAbs then false else m.tblock
  let s1 := { s with
    mgmt := { m with tbSet := true, tblock := lock }
    hub := { s.hub with time := if first then s.hub.time - BitVec.ofInt 64 offset else s.hub.time } }
  .next (s1.setWin 0x400A8 ((BitVec.ofInt 32 offset).setWidth 64))

/-! ### Scale-out ports (16 R411, 18 R435) -/

/-- A valid peer entry names a package. -/
def State.isPeer (s : State) (pkg : Nat) : Bool :=
  (upto 256).any (fun j => bit (s.win (0x42000 + 32 * j)) 63 && bf (s.win (0x42000 + 32 * j)) 0 16 == pkg)

/-- A gang part's announcement arrives from a peer. -/
def execGangAnnounce (pkg gangid gpart gpkgs : Nat) (s : State) : Out State :=
  if !s.isPeer pkg then .refused .notEnabled
  else
    let x : Announce := { pkg := pkg, gangid := gangid, gpart := gpart, gpkgs := gpkgs }
    .next (if s.mgmt.anns.contains x then s else { s with mgmt := { s.mgmt with anns := s.mgmt.anns ++ [x] } })

/-- The live task of a gang on this package. -/
def State.gangTask (s : State) (gangid : Nat) : Option Task :=
  s.allTasks.find? (fun t => t.l.gang != 0 && t.l.gangid.toNat == gangid && t.placed && !t.guess && t.ended.isNone)

/-- A packet of a gang that has formed arrives: a remote part's arrival at a barrier generation, or its members' runs for
a collective. -/
def execUePacket (p : UePacket) (s : State) : Out State :=
  match p with
  | .barrier gangid part gen =>
    match s.gangTask gangid with
    | none => .refused .notEnabled
    | some t =>
      let key := groupKey t.id 6 0
      if !s.gangMet t.id 6 || t.l.gpkgs.toNat ≤ part || part = t.l.gpart.toNat then .refused .notEnabled
      else
        let rest := s.hub.barRemote.filter (fun r => !(r.1 == key && r.2.1 == part))
        .next { s with hub := { s.hub with barRemote := rest ++ [(key, part, gen)] } }
  | .coll gangid part k args data =>
    match s.gangTask gangid with
    | none => .refused .notEnabled
    | some t =>
      let mine (x : Coll) : Bool := x.task == t.id && x.level == 6 && x.k == k
      let old := s.hub.colls
      if !s.gangMet t.id 6 || t.l.gpkgs.toNat ≤ part || part = t.l.gpart.toNat ||
          old.any (fun x => mine x && x.remote.any (fun r => r.1 == part)) then .refused .notEnabled
      else
        let add (x : Coll) : Coll := { x with remote := x.remote ++ [(part, args, data)] }
        let all := if old.any mine then old.map (fun x => if mine x then add x else x)
          else old ++ [add { task := t.id, level := 6, unit_ := 0, k := k, members := [] }]
        .next { s with hub := { s.hub with colls := all } }

/-- A level-6 transfer cannot be delivered: its collective ends with cause 9 (08 R276). -/
def execLinkLost (task unit_ : Nat) (s : State) : Out State :=
  match s.hub.colls.find? (fun x => x.task == task && x.level == 6 && x.unit_ == unit_ && !x.issued.isEmpty && !x.ended) with
  | some x => if 1 < (s.gangOf task).1 then .next (s.failColl x 9 none) else .refused .notEnabled
  | none => .refused .notEnabled

/-- A scale-out port trains, comes up or goes down; one that is not enabled is down (18 R435). -/
def execPortStateChange (port : Nat) (st : BitVec 2) (s : State) : Out State :=
  let a := 0x40400 + 0x40 * port
  if 8 ≤ port || st == 3 || (st != 0 && !bit (s.win a) 0) then .refused .notEnabled
  else .next (s.setWin (a + 8) (st.setWidth 64))

/-! ### Die links and checks on each hop (18 R436 to R438) -/

/-- A flit of a die link fails its CRC, is counted and replayed; the sixteenth failed replay of one flit is a package fatal
error. -/
def execFlitReplay (link : Nat) (s : State) : Out State :=
  if 8 ≤ link then .refused .notEnabled
  else
    let n := mget 0 s.mgmt.replays link + 1
    let s1 := s.countError 4 link
    if 16 < n then .next ({ s1 with mgmt := { s1.mgmt with replays := mdel s1.mgmt.replays link } }.logError 4 link 0).fatal
    else .next { s1 with mgmt := { s1.mgmt with replays := mput s1.mgmt.replays link n } }

/-- A NoC flit fails parity and is resent once; a second failure is a package fatal error. -/
def execNocParityResend (router : Nat) (second : Bool) (s : State) : Out State :=
  if 581 ≤ router then .refused .notEnabled
  else
    let s1 := s.countError 3 router
    .next (if second then (s1.logError 3 router 0).fatal else s1)

/-! ### Power (18 R446) -/

/-- A die at 115 °C takes the package fatal error. -/
def execDieOvertemp (die : Nat) (s : State) : Out State :=
  if 4 ≤ die then .refused .notEnabled else .next s.fatal

/-- The governor's turn: the power measured, some die at 105 °C (`hot`), every die below 100 °C (`cool`). -/
def execGovernorTick (power : BitVec 32) (hot cool : Bool) (s : State) : Out State :=
  let lim := bf (s.win 0x40080) 0 12
  let cap := bf (s.win 0x40088) 0 6
  let now := bf (s.win 0x40090) 0 6
  let new := if decide (lim < power.toNat) || hot then max 10 (now - 1)
    else if decide (100 * power.toNat < 95 * lim) && cool then min cap (now + 1)
    else now
  .next ((s.setWin 0x40098 (power.setWidth 64)).setWin 0x40090 (w64 new))

end Sys2Proof.Machine
end

