-- ==== Sys2Proof/Machine/Float.lean ====
section
/-!
DEFINITION. Scalar floating point (05 R144 to R149).
-/

namespace Sys2Proof.Machine

/-- sd := round(sa + sb) (05 R145). -/
def semFadd (f : SR) : SlotSem := fWrite f fun t rm d r => t.addr rm d [(t.decode (r.rs f.sa.toNat).toNat), (t.decode (r.rs f.sb.toNat).toNat)]

@[inherit_doc semFadd]
def execFadd (f : SR) (s : State) : Out State := runSlot (.fadd f) (semFadd f) s

/-- sd := round(sa − sb) (05 R145). -/
def semFsub (f : SR) : SlotSem := fWrite f fun t rm d r => t.addr rm d [(t.decode (r.rs f.sa.toNat).toNat), (t.decode (r.rs f.sb.toNat).toNat).neg]

@[inherit_doc semFsub]
def execFsub (f : SR) (s : State) : Out State := runSlot (.fsub f) (semFsub f) s

/-- sd := round(sa × sb) (05 R145). -/
def semFmul (f : SR) : SlotSem := fWrite f fun t rm d r => t.round rm d ((t.decode (r.rs f.sa.toNat).toNat).mul (t.decode (r.rs f.sb.toNat).toNat))

@[inherit_doc semFmul]
def execFmul (f : SR) (s : State) : Out State := runSlot (.fmul f) (semFmul f) s

/-- sd := round(sa × sb + sd), rounded once (05 R145). -/
def semFmadd (f : SR) : SlotSem := fWrite f fun t rm d r => t.addr rm d [(t.decode (r.rs f.sa.toNat).toNat).mul (t.decode (r.rs f.sb.toNat).toNat), (t.decode (r.rs f.sd.toNat).toNat)]

@[inherit_doc semFmadd]
def execFmadd (f : SR) (s : State) : Out State := runSlot (.fmadd f) (semFmadd f) s

/-- sd := round(sa / sb) (05 R145). -/
def semFdiv (f : SR) : SlotSem := fWrite f fun t rm d r => t.div rm d (t.decode (r.rs f.sa.toNat).toNat) (t.decode (r.rs f.sb.toNat).toNat)

@[inherit_doc semFdiv]
def execFdiv (f : SR) (s : State) : Out State := runSlot (.fdiv f) (semFdiv f) s

/-- sd := round(√sa) (05 R145). -/
def semFsqrt (f : SR) : SlotSem := fWrite f fun t rm d r => t.sqrt rm d (t.decode (r.rs f.sa.toNat).toNat)

@[inherit_doc semFsqrt]
def execFsqrt (f : SR) (s : State) : Out State := runSlot (.fsqrt f) (semFsqrt f) s

/-- The lesser operand under the NaN rules of 05 R146. -/
def semFmin (f : SR) : SlotSem := sWrite f.sd fun r => w64 ((flWidth (bit f.fn 0)).minmax false ((r.rs f.sa.toNat).toNat % 2 ^ (flWidth (bit f.fn 0)).width) ((r.rs f.sb.toNat).toNat % 2 ^ (flWidth (bit f.fn 0)).width))

@[inherit_doc semFmin]
def execFmin (f : SR) (s : State) : Out State := runSlot (.fmin f) (semFmin f) s

/-- The greater operand under the NaN rules of 05 R146. -/
def semFmax (f : SR) : SlotSem := sWrite f.sd fun r => w64 ((flWidth (bit f.fn 0)).minmax true ((r.rs f.sa.toNat).toNat % 2 ^ (flWidth (bit f.fn 0)).width) ((r.rs f.sb.toNat).toNat % 2 ^ (flWidth (bit f.fn 0)).width))

@[inherit_doc semFmax]
def execFmax (f : SR) (s : State) : Out State := runSlot (.fmax f) (semFmax f) s

/-- Writes condition bit SD[2:0] with a floating-point relation (05 R147). -/
def semFcmp (f : SR) : SlotSem := cWrite (bf f.sd 0 3) fun r =>
  let t := flWidth (bit f.sd 3)
  fRelation f.fn.toNat (t.decode (r.rs f.sa.toNat).toNat) (t.decode (r.rs f.sb.toNat).toNat)

@[inherit_doc semFcmp]
def execFcmp (f : SR) (s : State) : Out State := runSlot (.fcmp f) (semFcmp f) s

/-- The type a code names (05 R148). -/
def CvtTy.ofCode (n : Nat) : CvtTy :=
  match n with
  | 0 => .fl .fp32 | 1 => .fl .fp64 | 2 => .fl .fp16 | 3 => .fl .bf16
  | 4 => .int ⟨32, true⟩ | 5 => .int ⟨32, false⟩ | 6 => .int ⟨64, true⟩ | _ => .int ⟨64, false⟩

/-- The register image of a converted value: floats and unsigned integers zero-extended, `i32` sign-extended
(05 R148). -/
def CvtTy.write (t : CvtTy) (rm : Rnd) (d : BitVec 32) (x : Num) : W64 :=
  match t with
  | .fl t => w64 (t.round rm d x)
  | .int t => if t.signed then signBits t.bits (w64 (t.round rm d x)) else w64 (t.round rm d x)

/-- Converts sa from type SB[5:3] to type SB[2:0] (05 R148); in SR mode it draws even when exact (03 R96). -/
def semFcvt (f : SR) : SlotSem :=
  { act := fun e s =>
      let rm := Rnd.get (bf f.fn 1 3)
      let (d, s1) := s.drawS e.k rm
      let src := CvtTy.ofCode (bf f.sb 3 3)
      let dst := CvtTy.ofCode (bf f.sb 0 3)
      (s1.wr e.k f.sd.toNat (dst.write rm d (src.dec (e.c.r.rs f.sa.toNat).toNat)), none) }

@[inherit_doc semFcvt]
def execFcvt (f : SR) (s : State) : Out State := runSlot (.fcvt f) (semFcvt f) s

/-- The result of a sign-bit operation (05 R149). -/
def signOp (op : Nat) (t : Fl) (a b : Nat) : Nat :=
  let m := a % t.signBit
  let sa := decide (t.signBit ≤ a % 2 ^ t.width)
  let sb := decide (t.signBit ≤ b % 2 ^ t.width)
  t.withSign (match op with | 0 => sb | 1 => !sb | 2 => sa != sb | 3 => false | _ => !sa) m

/-- Acts on sign bits only, and never rounds (05 R149). -/
def semFmvx (f : SR) : SlotSem := sWrite f.sd fun r => w64 (signOp (bf f.fn 1 3) (flWidth (bit f.fn 0)) (r.rs f.sa.toNat).toNat (r.rs f.sb.toNat).toNat)

@[inherit_doc semFmvx]
def execFmvx (f : SR) (s : State) : Out State := runSlot (.fmvx f) (semFmvx f) s

end Sys2Proof.Machine
end

