-- ==== Sys2Proof/Machine/LMem.lean ====
section
/-!
DEFINITION. Loads, stores, full/empty words, atomics, reductions, prefetch and top-k (08 R245 to R249, R277, R278;
09 R298 to R302), the mailbox operations (05 R153), and the performing of accesses in flight (09 R287).
-/

namespace Sys2Proof.Machine

/-! ### Loads and stores (08 R245 to R247) -/

/-- The windows of `ld` and `st`: all, the mailboxes with 8 bytes only (08 R245). -/
def plainWins (z : Nat) : List Win := if z = 8 then [.share, .acc, .mail, .glob] else [.share, .acc, .glob]

/-- sd := the z bytes at EA, zero- or sign-extended (08 R245). -/
def semLd (f : LM) : SlotSem :=
  lmDo (.ld f) f (plainWins (sizeOf f.sz)) (sizeOf f.sz) .read false oneAddr (goLoad (.ld f) f (sizeOf f.sz))

@[inherit_doc semLd]
def execLd (f : LM) (s : State) : Out State := runSlot (.ld f) (semLd f) s

/-- The z bytes at EA := the low bytes of sa (08 R245). -/
def semSt (f : LM) : SlotSem :=
  lmDo (.st f) f (plainWins (sizeOf f.sz)) (sizeOf f.sz) .write true oneAddr (goStore f (sizeOf f.sz))

@[inherit_doc semSt]
def execSt (f : LM) (s : State) : Out State := runSlot (.st f) (semSt f) s

/-- A vector register or ring slot := the z bytes at EA (08 R245). -/
def semLdv (f : LM) : SlotSem :=
  lmDo (.ldv f) f [.share, .acc, .glob] (sizeOf f.sz) .read false oneAddr (goLoad (.ldv f) f (sizeOf f.sz))

@[inherit_doc semLdv]
def execLdv (f : LM) (s : State) : Out State := runSlot (.ldv f) (semLdv f) s

/-- The z bytes at EA := the low bytes of a vector register or ring slot (08 R245). -/
def semStv (f : LM) : SlotSem :=
  lmDo (.stv f) f [.share, .acc, .glob] (sizeOf f.sz) .write true oneAddr (goStore f (sizeOf f.sz))

@[inherit_doc semStv]
def execStv (f : LM) (s : State) : Out State := runSlot (.stv f) (semStv f) s

/-- Element addresses of a strided operation (08 R246). -/
def strided (f : LM) (e : Env) : List W64 :=
  (upto (128 / sizeOf f.sz)).map (fun i => e.o.addrA + w64 i * sx f.imm)

/-- Element addresses of a gather or scatter: the index register, or what a replay holds of it (08 R247). -/
def gathered (f : LM) (e : Env) : List W64 :=
  let vi := match e.rp with | some r => r.idx | none => e.c.r.rv (bf f.imm 0 11)
  (upto (128 / sizeOf f.sz)).map (fun i => e.o.addrA + w64 (bf vi (32 * i) 32 * sizeOf f.sz))

/-- Element i of the destination := the z bytes at the base + i × stride (08 R246). -/
def semLdvs (f : LM) : SlotSem :=
  lmDo (.ldvs f) f [.share, .glob] (sizeOf f.sz) .read false (strided f) (goLoad (.ldvs f) f (sizeOf f.sz))

@[inherit_doc semLdvs]
def execLdvs (f : LM) (s : State) : Out State := runSlot (.ldvs f) (semLdvs f) s

/-- The z bytes at the base + i × stride := element i of the source, in ascending i (08 R246). -/
def semStvs (f : LM) : SlotSem :=
  lmDo (.stvs f) f [.share, .glob] (sizeOf f.sz) .write true (strided f) (goStore f (sizeOf f.sz))

@[inherit_doc semStvs]
def execStvs (f : LM) (s : State) : Out State := runSlot (.stvs f) (semStvs f) s

/-- Element i of the destination := the z bytes at the base + index i × z (08 R247). -/
def semLdvg (f : LM) : SlotSem :=
  lmDo (.ldvg f) f [.share, .glob] (sizeOf f.sz) .read false (gathered f) (goLoad (.ldvg f) f (sizeOf f.sz))

@[inherit_doc semLdvg]
def execLdvg (f : LM) (s : State) : Out State := runSlot (.ldvg f) (semLdvg f) s

/-- The z bytes at the base + index i × z := element i of the source, in ascending i (08 R247). -/
def semStvg (f : LM) : SlotSem :=
  lmDo (.stvg f) f [.share, .glob] (sizeOf f.sz) .write true (gathered f) (goStore f (sizeOf f.sz))

@[inherit_doc semStvg]
def execStvg (f : LM) (s : State) : Out State := runSlot (.stvg f) (semStvg f) s

/-! ### Full/empty words (08 R248, R249) -/

/-- The share word of a full/empty operation. -/
def Env.word (e : Env) : Nat := e.o.addrA.toNat / 8

/-- A full/empty operation waits until its word's tag is as `full` says, after the context's own earlier accesses to the
line; a tag that an earlier slot of the packet changes is tested as that slot leaves it (08 R248). -/
def wordWait (i : Instr) (f : LM) (full tag : Option Bool) (e : Env) (s : State) : State × Option Wait :=
  let (s1, w) := lmWait i f e s
  let s2 := s1.drainSpans e.k [(8 * e.word, 8)]
  let ok := match full with
    | some b => s2.tagSeen e.c.resv e.word == b
    | none => true
  let s3 := match tag with
    | some b => s2.noteTags b [e.word]
    | none => s2
  (s3, if w.isNone && ok then none else some {})

/-- An operation on one share word: an access performed within the issue, and then its tag (08 R248). -/
def wordDo (i : Instr) (f : LM) (full : Option Bool) (store : Bool) (tag : Option Bool) : SlotSem :=
  { check := lmCheck i f [.share] 8 oneAddr
    wait := wordWait i f full tag
    act := fun e s =>
      let a := lmAccess f e s (if store then .st else .ld) 8 (e.o.addrA, .share e.o.addrA.toNat, none)
      let s1 := s.performNow e.k (if store then { a with data := BitVec.ofNat 1024 (dataIn f e 0 8) }
        else { a with dest := sDest e.c (bf f.data 0 6) })
      (match tag with
       | some b => s1.onResv e.c.resv (fun r => r.setTag e.word b)
       | none => s1, none) }

/-- Waits for a full word and loads it (08 R248). -/
def semLdf (f : LM) : SlotSem := wordDo (.ldf f) f (some true) false none

@[inherit_doc semLdf]
def execLdf (f : LM) (s : State) : Out State := runSlot (.ldf f) (semLdf f) s

/-- Waits for a full word, loads it and empties it (08 R248). -/
def semLdfe (f : LM) : SlotSem := wordDo (.ldfe f) f (some true) false (some false)

@[inherit_doc semLdfe]
def execLdfe (f : LM) (s : State) : Out State := runSlot (.ldfe f) (semLdfe f) s

/-- Waits for an empty word, stores it and fills it (08 R248). -/
def semSte (f : LM) : SlotSem := wordDo (.ste f) f (some false) true (some true)

@[inherit_doc semSte]
def execSte (f : LM) (s : State) : Out State := runSlot (.ste f) (semSte f) s

/-- Stores a word and marks it full (08 R248). -/
def semStf (f : LM) : SlotSem := wordDo (.stf f) f none true (some true)

@[inherit_doc semStf]
def execStf (f : LM) (s : State) : Out State := runSlot (.stf f) (semStf f) s

/-- Sets or clears the tags of a range of words (08 R249). -/
def tagsDo (i : Instr) (f : LM) (full : Bool) : SlotSem :=
  let n (e : Env) : Nat := (e.c.r.rs (bf f.data 0 6)).toNat
  { check := fun _ e =>
      firstTrap [winFault e.share.size (n e) [.share] e.o.addrA,
        if e.o.addrA.toNat % 8 ≠ 0 then trapI 0x0A e.o.addrA.toNat else if n e % 8 ≠ 0 then trapI 0x0A (n e) else none]
    wait := lmWait i f
    act := fun e s =>
      (if n e = 0 then s
       else s.performNow e.k (lmAccess f e s (.tag full) (n e) (e.o.addrA, .share e.o.addrA.toNat, none)), none) }

/-- Sets the tags of a range (08 R249). -/
def semTagset (f : LM) : SlotSem := tagsDo (.tagset f) f true

@[inherit_doc semTagset]
def execTagset (f : LM) (s : State) : Out State := runSlot (.tagset f) (semTagset f) s

/-- Clears the tags of a range (08 R249). -/
def semTagclr (f : LM) : SlotSem := tagsDo (.tagclr f) f false

@[inherit_doc semTagclr]
def execTagclr (f : LM) (s : State) : Out State := runSlot (.tagclr f) (semTagclr f) s

/-! ### Atomics and reductions (09 R298 to R302) -/

/-- Reads the z bytes at EA, writes back the new value with nothing between, and returns the old value (09 R298, R299). -/
def semAmo (f : LM) : SlotSem :=
  lmDo (.amo f) f [.share, .glob] (sizeOf f.sz) .atomic true oneAddr (fun e l s =>
    (s.launch e.k (l.map (fun p =>
      { lmAccess f e s (.amo (bf f.imm 12 4) (e.c.r.rs (bf f.imm 0 6)) (e.c.r.rs (bf f.imm 6 6))) (sizeOf f.sz) p with
        dest := sDest e.c (bf f.data 0 6) })), none))

@[inherit_doc semAmo]
def execAmo (f : LM) (s : State) : Out State := runSlot (.amo f) (semAmo f) s

/-- Combines each element of the source into memory and returns nothing (09 R301, R302). -/
def semRed (f : LM) : SlotSem :=
  lmDo (.red f) f [.share, .glob] (sizeOf f.sz) .atomic true oneAddr (fun e l s =>
    let b := redBytes (bf f.imm 8 4)
    let n := sizeOf f.sz / b
    let part (o : Nat) (loc : Loc) : Loc := match loc with
      | .share a => .share (a + o)
      | .phys a k => .phys (a + o) k
      | x => x
    (s.launch e.k (l.flatMap (fun p => (upto n).map (fun i =>
      { lmAccess f e s (.red (bf f.imm 12 4) (bf f.imm 8 4)) b (p.1 + w64 (b * i), part (b * i) p.2.1, none) with
        data := BitVec.ofNat 1024 (dataIn f e (b * i) b) }))), none))

@[inherit_doc semRed]
def execRed (f : LM) (s : State) : Out State := runSlot (.red f) (semRed f) s

/-! ### Prefetch and top-k (08 R277, R278) -/

/-- Brings the line of EA nearer; an address that cannot be reached is ignored (08 R277). -/
def semPf (f : LM) : SlotSem :=
  { wait := lmWait (.pf f) f
    act := fun e s =>
      let a := e.o.addrA.toNat
      if winOf e.share.size a 1 ≠ some .glob then (s, none)
      else
        match s.xlateCtx e.k e.c.r.sup a .r with
        | (_, .err _) => (s, none)
        | (s1, .ok p) => (s1.fill p.pa p.key, none) }

@[inherit_doc semPf]
def execPf (f : LM) (s : State) : Out State := runSlot (.pf f) (semPf f) s

/-- Does column value `a` rank above `b` (08 R278)? -/
def ranksAbove (a b : Num) : Bool :=
  if a = .nan then false else if b = .nan then true else Num.lt b a

/-- Inserts a column after every column that ranks at least as high. -/
def rankIn (x : Nat × Num) : List (Nat × Num) → List (Nat × Num)
  | [] => [x]
  | y :: t => if ranksAbove x.2 y.2 then x :: y :: t else y :: rankIn x t

/-- The `k` highest of the logits of a row with their columns, and the values in FP32 (08 R278). -/
def topK (t : Fl) (k : Nat) (row : List Nat) : List (Nat × Nat) :=
  let l := row.zipIdx.foldl (fun acc p => rankIn (p.2, t.decode p.1) acc) []
  (l.take k).map (fun p => (p.1, if p.2 = .nan then 0x7FC00000 else
    match t with | .bf16 => row.getD p.1 0 * 65536 | _ => row.getD p.1 0))

/-- The bits of a top-k result over the old destination (08 R278). -/
def topBits (old : VReg) (l : List (Nat × Nat)) : VReg :=
  l.zipIdx.foldl (fun d p => setf (setf d (32 * p.2) 32 p.1.1) (32 * (8 + p.2)) 32 p.1.2) old

/-- Selects the k highest logits of a scratchpad row (08 R278). -/
def semStopk (f : LM) : SlotSem :=
  let z := sizeOf f.sz
  let n := bf f.imm 0 8 + 1
  { check := fun _ e =>
      firstTrap [regCheck e.c (if f.dcl = 1 then [f.data.toNat] else []),
        (vRings (.stopk f) e.o).findSome? (fun x => x.check e.c),
        winFault e.share.size (z * n) [.share] e.o.addrA,
        if e.o.addrA.toNat % z ≠ 0 then trapI 0x0A e.o.addrA.toNat else none]
    wait := lmWait (.stopk f) f
    act := fun e s =>
      let a := lmAccess f e s .ld (z * n) (e.o.addrA, .share e.o.addrA.toNat, none)
      let s1 := s.drainBefore e.k { a with id := s.seq }
      let r := s1.resvAt e.c.resv
      let s2 := match r.badIn e.o.addrA.toNat (z * n) with
      | some o =>
        (s1.logAccess e.k a o).onCtx e.k (fun c => { c with sys := { c.sys with asyncs := c.sys.asyncs ++ [memTrap { a with id := s.seq } o] } })
      | none =>
        let top := topK (if f.sz = 1 then .bf16 else .fp32) (bf f.imm 8 3 + 1) (elems (8 * z) n (leNat (r.read e.o.addrA.toNat (z * n))))
        match vRings (.stopk f) e.o with
        | x :: _ =>
          let off := x.off (e.c.handle x.h) 0
          let v := topBits (BitVec.ofNat 1024 (leNat (e.share.read off 64))) top
          s1.performNow e.k { lmAccess f e s1 .st 64 (w64 off, .share off, none) with data := v }
        | [] => s1.onCtx e.k (fun c => c.onR (fun r => { r with v := mset 0 r.v f.data.toNat (topBits (r.rv f.data.toNat) top) }))
      ({ s2 with seq := s2.seq + 1 }, none) }

@[inherit_doc semStopk]
def execStopk (f : LM) (s : State) : Out State := runSlot (.stopk f) (semStopk f) s

/-! ### Mailboxes (05 R153, 01 R35) -/

/-- One 8-byte access to a mailbox; a guess is abandoned (05 R153). -/
def mailDo (k : Nat) (kind : AccKind) (dest : Env → Dest) (data : Env → W64) : SlotSem :=
  { act := fun e s =>
      if !s.mailOpen e.c.part k then (s, some { cls := .slot, code := 0x23, detail := w64 k })
      else if (s.guessOf e.c).isSome then (s.noteDrop 5, none)
      else (s.launch e.k [{ id := 0, kind := kind, va := w64 (0x2000000 + 8 * k), loc := .mail k, size := 8, dest := dest e,
                            data := (data e).setWidth 1024, pkt := s.issue.pc, pos := e.pos }], none) }

/-- sd := mailbox k (05 R153). -/
def semMbrd (f : SI) : SlotSem := mailDo (bf f.imm 0 6) .ld (fun e => sDest e.c f.sd.toNat) (fun _ => 0)

@[inherit_doc semMbrd]
def execMbrd (f : SI) (s : State) : Out State := runSlot (.mbrd f) (semMbrd f) s

/-- Mailbox k := sa (05 R153). -/
def semMbwr (f : SI) : SlotSem := mailDo (bf f.imm 0 6) .st (fun _ => .none) (fun e => e.c.r.rs f.sa.toNat)

@[inherit_doc semMbwr]
def execMbwr (f : SI) (s : State) : Out State := runSlot (.mbwr f) (semMbwr f) s

/-! ### Accesses perform (09 R287, R302) -/

/-- Does an access return a value? -/
def Access.returns (a : Access) : Bool :=
  match a.kind with
  | .ld | .amo .. | .verld _ | .verle _ | .vernew => true
  | _ => false

/-- Performs an access in flight of context `k` that a condition picks, where nothing that must come first is in
flight. -/
def performEvent (k : Nat) (pick : Access → Bool) (s : State) : Out State :=
  let c := s.ctxAt k
  match c.mem.pend.find? pick with
  | some a => if c.canPerform a && !s.accessHeld a then .next (s.perform k a) else .refused .notEnabled
  | none => .refused .notEnabled

/-- A load or atomic performs: its value is fixed and delivered, or an uncorrectable error is found (09 R287). -/
def execLoadReturn (c id : Nat) (s : State) : Out State := performEvent c (fun a => a.id == id && a.returns) s

/-- A store, or another access that returns nothing, is taken by its home (09 R287). -/
def execStorePerformed (c id : Nat) (s : State) : Out State :=
  performEvent c (fun a => a.id == id && !a.returns && !a.isRed && !a.deferred) s

/-- Element `elem` of reduction `id` combines at its home, or is dropped (09 R302, R303). -/
def execRedCombine (c id elem : Nat) (s : State) : Out State :=
  performEvent c (fun a => a.grp == id && a.id == id + elem && a.isRed) s

end Sys2Proof.Machine
end

