-- ==== Sys2Proof/Machine/Quant.lean ====
section
/-!
DEFINITION. Quantisation and dequantisation of vectors (06 R193 to R197).
-/

namespace Sys2Proof.Machine

/-- The FP32 codes of `r` consecutive registers or ring slots (06 R193). -/
def Env.fp32s (e : Env) (f : VQ) (r : Nat) : List Nat :=
  let w := widthOf f.w
  (upto r).flatMap (fun j => elems 32 (w / 32) (e.part f.ac.toNat f.va.toNat e.o.ringA w j false))

/-- Writes FP32 codes to consecutive registers or ring slots, from the first. -/
def State.putFp32s (s : State) (e : Env) (f : VQ) (l : List Nat) : State :=
  let w := widthOf f.w
  ((blocksOf (w / 32) l.length l).zipIdx).foldl (fun s b =>
    s.wrPart e f.dc.toNat f.vd.toNat e.o.ringD w b.2 (packEl 32 b.1)) s

/-- Writes the code and the scale destination. -/
def State.putCodes (s : State) (e : Env) (f : VQ) (codes scales : Nat) : State :=
  let w := widthOf f.w
  (s.wrPart e f.dc.toNat f.vd.toNat e.o.ringD w 0 codes).wrPart e f.dc.toNat f.vd.toNat e.o.ringD w 1 scales

/-- A quantisation operation: a `CE` of 1 adds the Calender check (06 R181). -/
def vqDo (i : Instr) (f : VQ) (act : Env → State → State) : SlotSem :=
  { vDo i act with
    check := fun s e => (vCheck i e).orElse (fun _ => if f.ce = 1 then s.entryTrap e.c f.cal.toNat else none) }

/-- Quantises W / 8 FP32 elements into a block-scaled format (06 R193, R197). -/
def semVqnt (f : VQ) : SlotSem := vqDo (.vqnt f) f fun e s =>
  let n := widthOf f.w / 8
  let t := fmtTy f.fmt.toNat
  let b := fmtBits f.fmt.toNat
  let l := blkLen f.blk.toNat
  let xs := (e.fp32s f 4).map Fl.fp32.decode
  let (ds, s1) := s.drawsOf e.k f.rm.toNat (vDraws false n)
  let bl := s9Run t l (Rnd.get f.rm.toNat) ds xs
  let s2 := s1.putCodes e f (pkPlace b (bl.flatMap (fun x => x.2))) (packEl 16 (bl.map (fun x => x.1)))
  if f.ce = 1 then
    let qs := bl.flatMap (fun x => x.2.map (fun c => scaled t c x.1))
    let lim := bl.flatMap (fun x => x.2.map (fun _ => (s9Val x.1).mul t.max))
    let clipped := (xs.zip lim).filter (fun p => p.1.isFin && p.2.isFin && !p.2.isZero && Num.lt p.2 p.1.abs)
    s2.sendRecord e.k f.cal.toNat (recordOf (xs.zip qs) clipped.length)
  else s2

@[inherit_doc semVqnt]
def execVqnt (f : VQ) (s : State) : Out State := runSlot (.vqnt f) (semVqnt f) s

/-- Dequantises block-scaled codes to FP32 (06 R194). -/
def semVdq (f : VQ) : SlotSem := vqDo (.vdq f) f fun e s =>
  let w := widthOf f.w
  let t := fmtTy f.fmt.toNat
  let l := blkLen f.blk.toNat
  let codes := pkRead (fmtBits f.fmt.toNat) (w / 8) (e.part f.ac.toNat f.va.toNat e.o.ringA w 0 false)
  let scales := elems 16 (w / 8 / l) (e.part f.ac.toNat f.va.toNat e.o.ringA w 1 false)
  s.putFp32s e f (codes.zipIdx.map (fun c => Fl.fp32.rne (scaled t c.1 (scales.getD (c.2 / l) 0))))

@[inherit_doc semVdq]
def execVdq (f : VQ) (s : State) : Out State := runSlot (.vdq f) (semVdq f) s

/-- Quantises W / 4 FP32 elements to one QC4 group (06 R195, R197). -/
def semVqc4 (f : VQ) : SlotSem := vqDo (.vqc4 f) f fun e s =>
  let n := widthOf f.w / 4
  let xs := (e.fp32s f 8).map Fl.fp32.decode
  let (ds, s1) := s.drawsOf e.k f.rm.toNat (vDraws false n)
  let (g, bs, cs) := qcEncode (Rnd.get f.rm.toNat) ds xs
  let s2 := s1.putCodes e f (packEl 4 cs) (packEl 8 bs + g * 2 ^ 32)
  if f.ce = 1 then
    let qs := cs.zipIdx.map (fun c => qcVal c.1 (bs.getD (c.2 / 64) 0) g)
    let ts := (upto n).map (fun i => qcScale g (bs.getD (i / 64) 0))
    let clipped := (xs.zip ts).filter (fun p => p.1.isFin && p.2.isFin && !p.2.isZero && Num.lt p.2 p.1.abs)
    s2.sendRecord e.k f.cal.toNat (recordOf (xs.zip qs) clipped.length)
  else s2

@[inherit_doc semVqc4]
def execVqc4 (f : VQ) (s : State) : Out State := runSlot (.vqc4 f) (semVqc4 f) s

/-- Dequantises QC4 codes to FP32, rounded once (06 R196). -/
def semVdqc4 (f : VQ) : SlotSem := vqDo (.vdqc4 f) f fun e s =>
  let w := widthOf f.w
  let n := w / 4
  let codes := elems 4 n (e.part f.ac.toNat f.va.toNat e.o.ringA w 0 false)
  let sc := e.part f.ac.toNat f.va.toNat e.o.ringA w 1 false
  let (ds, s1) := s.drawsOf e.k f.rm.toNat (vDraws false n)
  s1.putFp32s e f (List.zipWith (fun d c =>
    Fl.fp32.round (Rnd.get f.rm.toNat) d (qcVal c.1 (fld sc (8 * (c.2 / 64)) 8) (fld sc 32 32))) ds codes.zipIdx)

@[inherit_doc semVdqc4]
def execVdqc4 (f : VQ) (s : State) : Out State := runSlot (.vdqc4 f) (semVdqc4 f) s

end Sys2Proof.Machine
end

