-- ==== Sys2Proof/Machine/Scalar.lean ====
section
/-!
DEFINITION. The integer, constant, comparison and identity operations of the S slots (05 R137 to R143, R150 to R152).
-/

namespace Sys2Proof.Machine

/-- sd := sa + sb (05 R138). -/
def semAdd (f : SR) : SlotSem := sWrite f.sd fun r => (r.rs f.sa.toNat) + (r.rs f.sb.toNat)

@[inherit_doc semAdd]
def execAdd (f : SR) (s : State) : Out State := runSlot (.add f) (semAdd f) s

/-- sd := sa − sb (05 R138). -/
def semSub (f : SR) : SlotSem := sWrite f.sd fun r => (r.rs f.sa.toNat) - (r.rs f.sb.toNat)

@[inherit_doc semSub]
def execSub (f : SR) (s : State) : Out State := runSlot (.sub f) (semSub f) s

/-- sd := sa + the sign-extended immediate (05 R138). -/
def semAddi (f : SI) : SlotSem := sWrite f.sd fun r => (r.rs f.sa.toNat) + sx f.imm

@[inherit_doc semAddi]
def execAddi (f : SI) (s : State) : Out State := runSlot (.addi f) (semAddi f) s

/-- sd := the low 64 bits of sa × sb (05 R138). -/
def semMul (f : SR) : SlotSem := sWrite f.sd fun r => (r.rs f.sa.toNat) * (r.rs f.sb.toNat)

@[inherit_doc semMul]
def execMul (f : SR) (s : State) : Out State := runSlot (.mul f) (semMul f) s

/-- sd := the high 64 bits of the signed product (05 R138). -/
def semMulh (f : SR) : SlotSem := sWrite f.sd fun r => BitVec.ofInt 64 ((r.rs f.sa.toNat).toInt * (r.rs f.sb.toNat).toInt / 2 ^ 64)

@[inherit_doc semMulh]
def execMulh (f : SR) (s : State) : Out State := runSlot (.mulh f) (semMulh f) s

/-- sd := the high 64 bits of the unsigned product (05 R138). -/
def semMulhu (f : SR) : SlotSem := sWrite f.sd fun r => w64 ((r.rs f.sa.toNat).toNat * (r.rs f.sb.toNat).toNat / 2 ^ 64)

@[inherit_doc semMulhu]
def execMulhu (f : SR) (s : State) : Out State := runSlot (.mulhu f) (semMulhu f) s

/-- Signed quotient, rounded toward zero; division by zero gives all ones (05 R139). -/
def semDiv (f : SR) : SlotSem := sWrite f.sd fun r => if (r.rs f.sb.toNat) = 0 then BitVec.allOnes 64 else BitVec.ofInt 64 ((r.rs f.sa.toNat).toInt.tdiv (r.rs f.sb.toNat).toInt)

@[inherit_doc semDiv]
def execDiv (f : SR) (s : State) : Out State := runSlot (.div f) (semDiv f) s

/-- Unsigned quotient; division by zero gives all ones (05 R139). -/
def semDivu (f : SR) : SlotSem := sWrite f.sd fun r => if (r.rs f.sb.toNat) = 0 then BitVec.allOnes 64 else w64 ((r.rs f.sa.toNat).toNat / (r.rs f.sb.toNat).toNat)

@[inherit_doc semDivu]
def execDivu (f : SR) (s : State) : Out State := runSlot (.divu f) (semDivu f) s

/-- Signed remainder with the sign of sa; division by zero gives sa (05 R139). -/
def semRem (f : SR) : SlotSem := sWrite f.sd fun r => if (r.rs f.sb.toNat) = 0 then (r.rs f.sa.toNat) else BitVec.ofInt 64 ((r.rs f.sa.toNat).toInt.tmod (r.rs f.sb.toNat).toInt)

@[inherit_doc semRem]
def execRem (f : SR) (s : State) : Out State := runSlot (.rem f) (semRem f) s

/-- Unsigned remainder; division by zero gives sa (05 R139). -/
def semRemu (f : SR) : SlotSem := sWrite f.sd fun r => if (r.rs f.sb.toNat) = 0 then (r.rs f.sa.toNat) else w64 ((r.rs f.sa.toNat).toNat % (r.rs f.sb.toNat).toNat)

@[inherit_doc semRemu]
def execRemu (f : SR) (s : State) : Out State := runSlot (.remu f) (semRemu f) s

/-- Bitwise AND (05 R138). -/
def semAnd (f : SR) : SlotSem := sWrite f.sd fun r => (r.rs f.sa.toNat) &&& (r.rs f.sb.toNat)

@[inherit_doc semAnd]
def execAnd (f : SR) (s : State) : Out State := runSlot (.and f) (semAnd f) s

/-- Bitwise OR (05 R138). -/
def semOr (f : SR) : SlotSem := sWrite f.sd fun r => (r.rs f.sa.toNat) ||| (r.rs f.sb.toNat)

@[inherit_doc semOr]
def execOr (f : SR) (s : State) : Out State := runSlot (.or f) (semOr f) s

/-- Bitwise XOR (05 R138). -/
def semXor (f : SR) : SlotSem := sWrite f.sd fun r => (r.rs f.sa.toNat) ^^^ (r.rs f.sb.toNat)

@[inherit_doc semXor]
def execXor (f : SR) (s : State) : Out State := runSlot (.xor f) (semXor f) s

/-- sa AND NOT sb (05 R138). -/
def semAndn (f : SR) : SlotSem := sWrite f.sd fun r => (r.rs f.sa.toNat) &&& ~~~(r.rs f.sb.toNat)

@[inherit_doc semAndn]
def execAndn (f : SR) (s : State) : Out State := runSlot (.andn f) (semAndn f) s

/-- Shift left by sb[5:0] (05 R138). -/
def semShl (f : SR) : SlotSem := sWrite f.sd fun r => (r.rs f.sa.toNat) <<< bf (r.rs f.sb.toNat) 0 6

@[inherit_doc semShl]
def execShl (f : SR) (s : State) : Out State := runSlot (.shl f) (semShl f) s

/-- Logical shift right by sb[5:0] (05 R138). -/
def semShr (f : SR) : SlotSem := sWrite f.sd fun r => (r.rs f.sa.toNat) >>> bf (r.rs f.sb.toNat) 0 6

@[inherit_doc semShr]
def execShr (f : SR) (s : State) : Out State := runSlot (.shr f) (semShr f) s

/-- Arithmetic shift right by sb[5:0] (05 R138). -/
def semSra (f : SR) : SlotSem := sWrite f.sd fun r => (r.rs f.sa.toNat).sshiftRight (bf (r.rs f.sb.toNat) 0 6)

@[inherit_doc semSra]
def execSra (f : SR) (s : State) : Out State := runSlot (.sra f) (semSra f) s

/-- Shift left by an immediate amount (05 R138). -/
def semShli (f : SI) : SlotSem := sWrite f.sd fun r => (r.rs f.sa.toNat) <<< bf f.imm 0 6

@[inherit_doc semShli]
def execShli (f : SI) (s : State) : Out State := runSlot (.shli f) (semShli f) s

/-- Logical shift right by an immediate amount (05 R138). -/
def semShri (f : SI) : SlotSem := sWrite f.sd fun r => (r.rs f.sa.toNat) >>> bf f.imm 0 6

@[inherit_doc semShri]
def execShri (f : SI) (s : State) : Out State := runSlot (.shri f) (semShri f) s

/-- Arithmetic shift right by an immediate amount (05 R138). -/
def semSrai (f : SI) : SlotSem := sWrite f.sd fun r => (r.rs f.sa.toNat).sshiftRight (bf f.imm 0 6)

@[inherit_doc semSrai]
def execSrai (f : SI) (s : State) : Out State := runSlot (.srai f) (semSrai f) s

/-- Count of leading zero bits; 64 for zero (05 R138). -/
def semClz (f : SR) : SlotSem := sWrite f.sd fun r => w64 (leadingZeros 64 (r.rs f.sa.toNat).toNat)

@[inherit_doc semClz]
def execClz (f : SR) (s : State) : Out State := runSlot (.clz f) (semClz f) s

/-- Count of trailing zero bits; 64 for zero (05 R138). -/
def semCtz (f : SR) : SlotSem := sWrite f.sd fun r => w64 (trailingZeros 64 (r.rs f.sa.toNat).toNat)

@[inherit_doc semCtz]
def execCtz (f : SR) (s : State) : Out State := runSlot (.ctz f) (semCtz f) s

/-- Count of set bits (05 R138). -/
def semPopc (f : SR) : SlotSem := sWrite f.sd fun r => w64 (setBits 64 (r.rs f.sa.toNat).toNat)

@[inherit_doc semPopc]
def execPopc (f : SR) (s : State) : Out State := runSlot (.popc f) (semPopc f) s

/-- Signed minimum (05 R138). -/
def semMin (f : SR) : SlotSem := sWrite f.sd fun r => if (r.rs f.sa.toNat).toInt ≤ (r.rs f.sb.toNat).toInt then (r.rs f.sa.toNat) else (r.rs f.sb.toNat)

@[inherit_doc semMin]
def execMin (f : SR) (s : State) : Out State := runSlot (.min f) (semMin f) s

/-- Signed maximum (05 R138). -/
def semMax (f : SR) : SlotSem := sWrite f.sd fun r => if (r.rs f.sa.toNat).toInt ≤ (r.rs f.sb.toNat).toInt then (r.rs f.sb.toNat) else (r.rs f.sa.toNat)

@[inherit_doc semMax]
def execMax (f : SR) (s : State) : Out State := runSlot (.max f) (semMax f) s

/-- Unsigned minimum (05 R138). -/
def semMinu (f : SR) : SlotSem := sWrite f.sd fun r => if (r.rs f.sa.toNat).toNat ≤ (r.rs f.sb.toNat).toNat then (r.rs f.sa.toNat) else (r.rs f.sb.toNat)

@[inherit_doc semMinu]
def execMinu (f : SR) (s : State) : Out State := runSlot (.minu f) (semMinu f) s

/-- Unsigned maximum (05 R138). -/
def semMaxu (f : SR) : SlotSem := sWrite f.sd fun r => if (r.rs f.sa.toNat).toNat ≤ (r.rs f.sb.toNat).toNat then (r.rs f.sb.toNat) else (r.rs f.sa.toNat)

@[inherit_doc semMaxu]
def execMaxu (f : SR) (s : State) : Out State := runSlot (.maxu f) (semMaxu f) s

/-- Selects sa where the condition bit XOR FN[3] is 1, and sb otherwise (05 R143). -/
def semSel (f : SR) : SlotSem := sWrite f.sd fun r => if r.rc (bf f.fn 0 3) != bit f.fn 3 then (r.rs f.sa.toNat) else (r.rs f.sb.toNat)

@[inherit_doc semSel]
def execSel (f : SR) (s : State) : Out State := runSlot (.sel f) (semSel f) s

/-- Writes condition bit SD[2:0] with an integer relation (05 R142). -/
def semCmp (f : SR) : SlotSem := cWrite (bf f.sd 0 3) fun r => relation f.fn.toNat (r.rs f.sa.toNat) (r.rs f.sb.toNat)

@[inherit_doc semCmp]
def execCmp (f : SR) (s : State) : Out State := runSlot (.cmp f) (semCmp f) s

/-- sd := the sign-extended immediate (05 R141). -/
def semLi (f : SU) : SlotSem := sWrite f.sd fun _ => sx f.imm

@[inherit_doc semLi]
def execLi (f : SU) (s : State) : Out State := runSlot (.li f) (semLi f) s

/-- sd := sd × 2^16 with a new low halfword (05 R141). -/
def semLui (f : SU) : SlotSem := sWrite f.sd fun r => (r.rs f.sd.toNat <<< 16) ||| f.imm.setWidth 64

@[inherit_doc semLui]
def execLui (f : SU) (s : State) : Out State := runSlot (.lui f) (semLui f) s

/-- sd := sa (05 R138). -/
def semMov (f : SR) : SlotSem := sWrite f.sd fun r => (r.rs f.sa.toNat)

@[inherit_doc semMov]
def execMov (f : SR) (s : State) : Out State := runSlot (.mov f) (semMov f) s

/-- Sign-extends the low n bits, n − 1 being the immediate (05 R138). -/
def semSext (f : SI) : SlotSem := sWrite f.sd fun r => signBits (bf f.imm 0 6 + 1) (r.rs f.sa.toNat)

@[inherit_doc semSext]
def execSext (f : SI) (s : State) : Out State := runSlot (.sext f) (semSext f) s

/-- Zero-extends the low n bits, n − 1 being the immediate (05 R138). -/
def semZext (f : SI) : SlotSem := sWrite f.sd fun r => w64 ((r.rs f.sa.toNat).toNat % 2 ^ (bf f.imm 0 6 + 1))

@[inherit_doc semZext]
def execZext (f : SI) (s : State) : Out State := runSlot (.zext f) (semZext f) s

/-- Extracts the field that sb describes, zero- or sign-extended (05 R140). -/
def semBfx (f : SR) : SlotSem := sWrite f.sd fun r => extractField (bit f.fn 0) (r.rs f.sa.toNat) (r.rs f.sb.toNat)

@[inherit_doc semBfx]
def execBfx (f : SR) (s : State) : Out State := runSlot (.bfx f) (semBfx f) s

/-- Inserts the low bits of sa into the field of sd that sb describes (05 R140). -/
def semBfi (f : SR) : SlotSem := sWrite f.sd fun r => insertField (r.rs f.sd.toNat) (r.rs f.sa.toNat) (r.rs f.sb.toNat)

@[inherit_doc semBfi]
def execBfi (f : SR) (s : State) : Out State := runSlot (.bfi f) (semBfi f) s

/-- sd := the address of the packet's first bundle plus four times the sign-extended immediate (05 R141). -/
def semAddr (f : SU) : SlotSem :=
  { act := fun e s => (s.wr e.k f.sd.toNat (s.issue.pc + sx f.imm * 4), none) }

@[inherit_doc semAddr]
def execAddr (f : SU) (s : State) : Out State := runSlot (.addr f) (semAddr f) s

/-- Reads a dispatch register (05 R150). -/
def semRdd (f : SI) : SlotSem := sWrite f.sd fun r => r.rd (bf f.imm 0 4)

@[inherit_doc semRdd]
def execRdd (f : SI) (s : State) : Out State := runSlot (.rdd f) (semRdd f) s

/-- The value of an `rdsys` selector (05 R151). -/
def sysValue (s : State) (e : Env) (sel : Nat) : W64 :=
  if sel = 0 then s.identOf (e.k / 4)
  else if sel = 1 then (s.coreAt (e.k / 4)).cycles
  else if sel = 2 then e.c.sq.repcnt
  else if sel = 3 then w64 (100 * bf (s.win 0x40090) 0 6)
  else if sel = 4 then w64 (b2n e.c.r.sup)
  else
    match e.c.r.loops.find? (fun l => l.k == sel % 4) with
    | some l => w64 (2 ^ 63 + (if l.while_ then 2 ^ 62 else 0) + bf (mget 0 e.c.r.lc (sel % 4)) 0 24)
    | none => w64 (bf (mget 0 e.c.r.lc (sel % 4)) 0 24)

/-- Reads identity, cycle count, repetition count, clock, mode or loop state (05 R151). -/
def semRdsys (f : SI) : SlotSem :=
  { act := fun e s => (s.wr e.k f.sd.toNat (sysValue s e f.imm.toNat), none) }

@[inherit_doc semRdsys]
def execRdsys (f : SI) (s : State) : Out State := runSlot (.rdsys f) (semRdsys f) s

/-- Reads the package time base: a value from the count at issue to 8 ticks later, and never below the context's last
one (01 R36, 05 R152); which of them is a free value. -/
def semRdtime (f : SR) : SlotSem :=
  { act := fun e s =>
      let (n, s1) := s.takeFree 4
      let t := s.hub.time + w64 (n.toNat % 9)
      let last := (s1.ctxAt e.k).mem.lastTime
      let v := if t.toNat < last.toNat ∧ last.toNat ≤ s.hub.time.toNat + 8 then last else t
      let s2 := { s1 with hub := { s1.hub with lastRead := if s1.hub.lastRead.toNat < v.toNat then v else s1.hub.lastRead } }
      ((s2.wr e.k f.sd.toNat v).onCtx e.k (fun c => { c with mem := { c.mem with lastTime := v } }), none) }

@[inherit_doc semRdtime]
def execRdtime (f : SR) (s : State) : Out State := runSlot (.rdtime f) (semRdtime f) s

end Sys2Proof.Machine
end

