-- ==== Sys2Proof/Machine/Special.lean ====
section
/-!
DEFINITION. The special functions of the vector slots (06 R185, R186): each FP32 or FP64 result is the exact real
value of the function rounded once to nearest even; FP16 and BF16 results are the FP32 result converted.  The value
is enclosed between two fixed-point numbers of `p` fraction bits; when both ends round to one code that code is the
result, and otherwise the precision rises (log entry 7).
-/

namespace Sys2Proof.Machine

/-- The special functions (06 R185). -/
inductive SpecialFn where
  | rsqrt | exp2 | log2 | tanh | erf | sin | cos
  deriving DecidableEq, Repr

/-- Fixed-point product at p fraction bits. -/
def fxMul (p : Nat) (a b : Int) : Int := a * b / (2 ^ p : Nat)

/-- n × 2^e at p fraction bits, rounded down. -/
def fxOf (p n : Nat) (e : Int) : Int :=
  let k := e + p
  if k ≥ 0 then (n : Int) * (2 ^ k.toNat : Nat) else (n : Int) / (2 ^ (-k).toNat : Nat)

/-- Σ 2^p / (i 2^i), the natural logarithm of two. -/
def ln2Sum (p : Nat) : Nat → Nat → Int → Int
  | 0, _, acc => acc
  | k + 1, i, acc => ln2Sum p k (i + 1) (acc + ((2 ^ p / (i * 2 ^ i) : Nat) : Int))

/-- ln 2 at p fraction bits. -/
def fxLn2 (p : Nat) : Int := ln2Sum p (p + 4) 1 0

/-- The alternating series of arctan (1 / k). -/
def atanSum (k : Nat) : Nat → Nat → Nat → Bool → Int → Int
  | 0, _, _, _, acc => acc
  | f + 1, i, t, neg, acc =>
    atanSum k f (i + 1) (t / (k * k)) (!neg) (if neg then acc - (t / (2 * i + 1) : Nat) else acc + (t / (2 * i + 1) : Nat))

/-- π at p fraction bits, by Machin's formula. -/
def fxPi (p : Nat) : Int :=
  16 * atanSum 5 (p / 4 + 4) 0 (2 ^ p / 5) false 0 - 4 * atanSum 239 (p / 15 + 4) 0 (2 ^ p / 239) false 0

/-- The exponential series. -/
def expSum (p : Nat) (r : Int) : Nat → Nat → Int → Int → Int
  | 0, _, _, acc => acc
  | f + 1, i, t, acc => expSum p r f (i + 1) (fxMul p t r / ((i + 1 : Nat) : Int)) (acc + t)

/-- e^r for 0 ≤ r < 1 at p fraction bits. -/
def fxExp (p : Nat) (r : Int) : Int := expSum p r (p / 4 + 64) 0 (2 ^ p : Nat) 0

/-- e^y for y ≥ 0, as a fixed-point number times a power of two already applied. -/
def fxExpBig (p : Nat) (y : Int) : Int :=
  let l := fxLn2 p
  let k := y / l
  fxExp p (y - k * l) * (2 ^ k.toNat : Nat)

/-- The series of artanh. -/
def atanhSum (p : Nat) (z2 : Int) : Nat → Nat → Int → Int → Int
  | 0, _, _, acc => acc
  | f + 1, i, t, acc => atanhSum p z2 f (i + 1) (fxMul p t z2) (acc + t / ((2 * i + 1 : Nat) : Int))

/-- The series of the error function, x Σ (2x²)^n / (1·3·…·(2n+1)). -/
def erfSum (p : Nat) (x2 : Int) : Nat → Nat → Int → Int → Int
  | 0, _, _, acc => acc
  | f + 1, i, t, acc => erfSum p x2 f (i + 1) (fxMul p t (2 * x2) / ((2 * i + 3 : Nat) : Int)) (acc + t)

/-- The Taylor series of sine (start t = r, i = 1) and cosine (start t = 1, i = 0). -/
def trigSum (p : Nat) (r2 : Int) : Nat → Nat → Int → Int → Int
  | 0, _, _, acc => acc
  | f + 1, i, t, acc => trigSum p r2 f (i + 2) (-(fxMul p t r2) / (((i + 1) * (i + 2) : Nat) : Int)) (acc + t)

/-- sin or cos of n × 2^e by reduction modulo π / 2, exact to p bits for an argument of any size. -/
def fxTrig (p : Nat) (wantCos neg : Bool) (n : Nat) (e : Int) : Int :=
  let q := p + (max 0 (e + Nat.log2 n)).toNat + 16
  let h := fxPi q / 2
  let x := fxOf q n e
  let k := (2 * x + h) / (2 * h)
  let r := (x - k * h) / (2 ^ (q - p) : Nat)
  let r2 := fxMul p r r
  let s := trigSum p r2 (p / 6 + 32) 1 r 0
  let c := trigSum p r2 (p / 6 + 32) 0 (2 ^ p : Nat) 0
  let m := (if wantCos then k + 1 else k) % 4
  let v := if m = 0 then s else if m = 1 then c else if m = 2 then -s else -c
  if neg && !wantCos then -v else v

/-- A fixed-point value v / 2^p × 2^sh that lies within 2^14 units of the exact value, for arguments of middle
size. -/
def fxSpecial (op : SpecialFn) (p : Nat) (neg : Bool) (n : Nat) (e : Int) : Int × Int :=
  let one : Int := (2 ^ p : Nat)
  match op with
  | .rsqrt => (0, 0)
  | .exp2 =>
    let x := if neg then -(fxOf p n e) - 1 else fxOf p n e
    (fxExp p (fxMul p (x % one) (fxLn2 p)), x / one)
  | .log2 =>
    let l := Nat.log2 n
    let m := fxOf p n (-(l : Int))
    let z := (m - one) * one / (m + one)
    (((e + l) * one) + (2 * atanhSum p (fxMul p z z) (p / 3 + 16) 0 z 0) * one / fxLn2 p, 0)
  | .tanh =>
    let w := fxExpBig p (2 * fxOf p n e)
    let v := (w - one) * one / (w + one)
    (if neg then -v else v, 0)
  | .erf =>
    let x := fxOf p n e
    let x2 := fxMul p x x
    let s := erfSum p x2 (p / 2 + 400) 0 x 0
    let v := 2 * s * one / fxExpBig p x2 * one / (isqrt (fxPi p * one).toNat : Int)
    (if neg then -v else v, 0)
  | .sin => (fxTrig p false neg n e, 0)
  | .cos => (fxTrig p true neg n e, 0)

/-- The code both ends of an enclosure round to, when they agree. -/
def agree (t : Fl) (lo hi : Int × Nat) : Option Nat :=
  let a := t.roundFrac .rne 0 (decide (lo.1 < 0)) lo.1.natAbs lo.2
  let b := t.roundFrac .rne 0 (decide (hi.1 < 0)) hi.1.natAbs hi.2
  if decide (lo.1 < 0) = decide (hi.1 < 0) ∧ a = b then some a else none

/-- Tries rising precisions. -/
def ziv (t : Fl) (op : SpecialFn) (neg : Bool) (n : Nat) (e : Int) : List Nat → Option Nat
  | [] => none
  | p :: ps =>
    let (v, sh) := fxSpecial op p neg n e
    let k := sh - p
    let sc (v : Int) : Int × Nat :=
      if k ≥ 0 then (v * (2 ^ k.toNat : Nat), 1) else (v, 2 ^ (-k).toNat)
    match agree t (sc (v - 2 ^ 14)) (sc (v + 2 ^ 14)) with
    | some c => some c
    | none => ziv t op neg n e ps

/-- x - x³ and x, between which tanh x and sin x lie for tiny x > 0, in the order of their signs. -/
def tinyEnds (neg : Bool) (n : Nat) (e : Int) : (Int × Nat) × (Int × Nat) :=
  let (a, b) := dyadic n e
  let near : Int × Nat := ((a : Int) * b ^ 2 - (a : Int) ^ 3, b ^ 3)
  let far : Int × Nat := ((a : Int), b)
  if neg then ((-far.1, far.2), (-near.1, near.2)) else (near, far)

/-- 1 / √(n × 2^e), rounded once; exact when the argument is a power of four (06 R185). -/
def rsqrtFin (t : Fl) (n : Nat) (e : Int) : Nat :=
  let e' := if e % 2 = 0 then e else e - 1
  let n' := if e % 2 = 0 then n else 2 * n
  let k := Nat.log2 n' + t.prec + 100
  let w := 2 ^ (2 * k)
  let r := isqrt (w / n')
  let r' := if r * r * n' = w then 2 * r else 2 * r + 1
  let (a, b) := dyadic r' (-(e' / 2) - k - 1)
  t.roundFrac .rne 0 false a b

/-- The result of a special function on a finite nonzero argument that 06 R186 does not list. -/
def specialFin (t : Fl) (op : SpecialFn) (neg : Bool) (n : Nat) (e : Int) : Option Nat :=
  let top := e + Nat.log2 n
  let ps := [192, 512, 1536, 4096]
  match op with
  | .rsqrt => some (rsqrtFin t n e)
  | .exp2 =>
    let (a, b) := dyadic n e
    if top ≥ 12 then some (if neg then 0 else t.overflow .rne false)
    else if a % b = 0 then
      let k : Int := if neg then -((a / b : Nat) : Int) else ((a / b : Nat) : Int)
      let (c, d) := dyadic 1 k
      some (t.roundFrac .rne 0 false c d)
    else ziv t .exp2 neg n e ps
  | .log2 =>
    if 2 ^ Nat.log2 n = n then some (t.rne (Num.ofInt top)) else ziv t .log2 false n e ps
  | .tanh =>
    if top < -30 then let (l, h) := tinyEnds neg n e; agree t l h
    else if top ≥ 5 then some (t.withSign neg (t.roundFrac .rne 0 false 1 1))
    else ziv t .tanh neg n e ps
  | .erf =>
    if top < -30 then
      let c := 2 ^ 1024 / (isqrt (fxPi 512 * (2 ^ 512 : Nat)).toNat)
      let (a, b) := dyadic n e
      let lo : Int × Nat := (((2 * (c - 2 ^ 14) * a * (3 * b ^ 2 - a ^ 2) : Nat) : Int), 3 * b ^ 3 * 2 ^ 512)
      let hi : Int × Nat := (((2 * (c + 2 ^ 14) * a * (30 * b ^ 4 - 10 * a ^ 2 * b ^ 2 + 3 * a ^ 4) : Nat) : Int), 30 * b ^ 5 * 2 ^ 512)
      (if neg then agree t (-hi.1, hi.2) (-lo.1, lo.2) else agree t lo hi).orElse (fun _ => ziv t .erf neg n e [512, 1536, 4096])
    else if top ≥ 3 then some (t.withSign neg (t.roundFrac .rne 0 false 1 1))
    else ziv t .erf neg n e ps
  | .sin => if top < -30 then let (l, h) := tinyEnds neg n e; agree t l h else ziv t .sin neg n e ps
  | .cos => if top < -30 then some (t.roundFrac .rne 0 false 1 1) else ziv t .cos neg n e ps

/-- The index of a function in the table of values past the model's precision (log entry 7). -/
def SpecialFn.index : SpecialFn → Nat
  | .rsqrt => 0 | .exp2 => 1 | .log2 => 2 | .tanh => 3 | .erf => 4 | .sin => 5 | .cos => 6

/-- A value past the model's bound on precision (log entry 7).  Those of `vftanh`, `vferf`, `vfsin` and `vfcos` never
exceed 1 in magnitude (06 R186). -/
def specialRest (t : Fl) (op : SpecialFn) (code : Nat) : Nat :=
  let one := t.roundFrac .rne 0 false 1 1
  let v := Config.specialTail op.index t.width code % 2 ^ t.width
  match op with
  | .tanh | .erf | .sin | .cos => if one < v % 2 ^ (t.width - 1) then one else v
  | .rsqrt | .exp2 | .log2 => v

/-- A special function into FP32 or FP64 (06 R185, R186). -/
def specialWide (t : Fl) (op : SpecialFn) (x : Num) (code : Nat) : Nat :=
  let one := t.roundFrac .rne 0 false 1 1
  match x with
  | .nan => t.nanCode
  | .inf s =>
    match op with
    | .rsqrt => if s then t.nanCode else 0
    | .exp2 => if s then 0 else t.infCode
    | .log2 => if s then t.nanCode else t.infCode
    | .tanh | .erf => t.withSign s one
    | .sin | .cos => t.nanCode
  | .fin s n e =>
    if n = 0 then
      match op with
      | .rsqrt => t.withSign s t.infCode
      | .exp2 => one
      | .log2 => t.withSign true t.infCode
      | .tanh | .erf | .sin => t.withSign s 0
      | .cos => one
    else if s && (decide (op = .rsqrt) || decide (op = .log2)) then t.nanCode
    else (specialFin t op s n e).getD (specialRest t op code)

/-- A special function on a code of one of the four IEEE vector types (06 R185). -/
def special (t : Fl) (op : SpecialFn) (code : Nat) : Nat :=
  let x := t.decode code
  if t = .fp64 ∨ t = .fp32 then specialWide t op x code
  else t.rne (Fl.fp32.decode (specialWide .fp32 op x code))

end Sys2Proof.Machine
end

