-- ==== Sys2Proof/Machine/Vector.lean ====
section
/-!
DEFINITION. Elementwise vector arithmetic: integers (06 R182), floats (R183, R184), the special functions (R185, R186)
and complex products (R187).
-/

namespace Sys2Proof.Machine

/-- The integer format of an operation's element type (03 R81). -/
def intOf (f : VR) : IFmt := tyInt f.et.toNat

/-- The float format of an operation's element type, or of a part of it. -/
def flOf (f : VR) : Fl := tyFl f.et.toNat

/-- Two parts of a complex element as one element (03 R80). -/
def joinParts (t : Fl) (re im : Nat) : Nat := re % 2 ^ t.width + 2 ^ t.width * im

/-- The real and imaginary parts of a complex element. -/
def rePart (t : Fl) (x : Nat) : Nat := x % 2 ^ t.width
@[inherit_doc rePart]
def imPart (t : Fl) (x : Nat) : Nat := x / 2 ^ t.width

/-- A complex element type. -/
def isCplx (et : Nat) : Bool := et == 12 || et == 13

/-- round of a sum of exact values, for a real element or for each part of a complex one. -/
def VIn.addParts (x : VIn) (et : Nat) (neg : Bool) : List Nat :=
  let t := tyFl et
  let sg (v : Num) : Num := if neg then v.neg else v
  let add1 (d : BitVec 32) (a b : Nat) : Nat := t.addr x.rm d [t.decode a, sg (t.decode b)]
  x.rmap2 (fun d d2 a b =>
    if isCplx et then joinParts t (add1 d (rePart t a) (rePart t b)) (add1 d2 (imPart t a) (imPart t b)) else add1 d a b)

/-- a + b, modulo the element width (06 R182). -/
def semVadd (f : VR) : SlotSem := vrOp (.vadd f) f false fun x => x.map2 (fun a b => (intOf f).wrap ((intOf f).decode a + (intOf f).decode b))

@[inherit_doc semVadd]
def execVadd (f : VR) (s : State) : Out State := runSlot (.vadd f) (semVadd f) s

/-- a − b, modulo the element width (06 R182). -/
def semVsub (f : VR) : SlotSem := vrOp (.vsub f) f false fun x => x.map2 (fun a b => (intOf f).wrap ((intOf f).decode a - (intOf f).decode b))

@[inherit_doc semVsub]
def execVsub (f : VR) (s : State) : Out State := runSlot (.vsub f) (semVsub f) s

/-- The low half of a × b (06 R182). -/
def semVmul (f : VR) : SlotSem := vrOp (.vmul f) f false fun x => x.map2 (fun a b => (intOf f).wrap ((intOf f).decode a * (intOf f).decode b))

@[inherit_doc semVmul]
def execVmul (f : VR) (s : State) : Out State := runSlot (.vmul f) (semVmul f) s

/-- The high half of the exact product (06 R182). -/
def semVmulh (f : VR) : SlotSem := vrOp (.vmulh f) f false fun x => x.map2 (fun a b => (intOf f).wrap (((intOf f).decode a * (intOf f).decode b) / (2 ^ (intOf f).bits : Nat)))

@[inherit_doc semVmulh]
def execVmulh (f : VR) (s : State) : Out State := runSlot (.vmulh f) (semVmulh f) s

/-- a × b + d, modulo the element width (06 R182). -/
def semVmadd (f : VR) : SlotSem := vrOp (.vmadd f) f false fun x => x.map3 (fun a b d => (intOf f).wrap ((intOf f).decode a * (intOf f).decode b + (intOf f).decode d))

@[inherit_doc semVmadd]
def execVmadd (f : VR) (s : State) : Out State := runSlot (.vmadd f) (semVmadd f) s

/-- The absolute value; the least value stays itself (06 R182). -/
def semVabs (f : VR) : SlotSem := vrOp (.vabs f) f false fun x => x.map1 (fun a => (intOf f).wrap ((((intOf f).decode a).natAbs : Nat) : Int))

@[inherit_doc semVabs]
def execVabs (f : VR) (s : State) : Out State := runSlot (.vabs f) (semVabs f) s

/-- −a, modulo the element width (06 R182). -/
def semVneg (f : VR) : SlotSem := vrOp (.vneg f) f false fun x => x.map1 (fun a => (intOf f).wrap (-((intOf f).decode a)))

@[inherit_doc semVneg]
def execVneg (f : VR) (s : State) : Out State := runSlot (.vneg f) (semVneg f) s

/-- The lesser operand (06 R182). -/
def semVmin (f : VR) : SlotSem := vrOp (.vmin f) f false fun x => x.map2 (fun a b => minMaxInt (intOf f).bits (intOf f).signed false a b)

@[inherit_doc semVmin]
def execVmin (f : VR) (s : State) : Out State := runSlot (.vmin f) (semVmin f) s

/-- The greater operand (06 R182). -/
def semVmax (f : VR) : SlotSem := vrOp (.vmax f) f false fun x => x.map2 (fun a b => minMaxInt (intOf f).bits (intOf f).signed true a b)

@[inherit_doc semVmax]
def execVmax (f : VR) (s : State) : Out State := runSlot (.vmax f) (semVmax f) s

/-- a + b, saturated (06 R182). -/
def semVsadd (f : VR) : SlotSem := vrOp (.vsadd f) f false fun x => x.map2 (fun a b => (intOf f).sat ((intOf f).decode a + (intOf f).decode b))

@[inherit_doc semVsadd]
def execVsadd (f : VR) (s : State) : Out State := runSlot (.vsadd f) (semVsadd f) s

/-- a − b, saturated (06 R182). -/
def semVssub (f : VR) : SlotSem := vrOp (.vssub f) f false fun x => x.map2 (fun a b => (intOf f).sat ((intOf f).decode a - (intOf f).decode b))

@[inherit_doc semVssub]
def execVssub (f : VR) (s : State) : Out State := runSlot (.vssub f) (semVssub f) s

/-- a shifted left by b modulo the width (06 R182). -/
def semVshl (f : VR) : SlotSem := vrOp (.vshl f) f false fun x => x.map2 (fun a b => a * 2 ^ (b % (intOf f).bits))

@[inherit_doc semVshl]
def execVshl (f : VR) (s : State) : Out State := runSlot (.vshl f) (semVshl f) s

/-- a shifted right, zeros entering (06 R182). -/
def semVshr (f : VR) : SlotSem := vrOp (.vshr f) f false fun x => x.map2 (fun a b => a / 2 ^ (b % (intOf f).bits))

@[inherit_doc semVshr]
def execVshr (f : VR) (s : State) : Out State := runSlot (.vshr f) (semVshr f) s

/-- a shifted right, copies of its top bit entering (06 R182). -/
def semVsra (f : VR) : SlotSem := vrOp (.vsra f) f false fun x => 
  let t : IFmt := ⟨(intOf f).bits, true⟩
  x.map2 (fun a b => t.wrap (t.decode a / (2 ^ (b % t.bits) : Nat)))

@[inherit_doc semVsra]
def execVsra (f : VR) (s : State) : Out State := runSlot (.vsra f) (semVsra f) s

/-- Bitwise AND (06 R182). -/
def semVand (f : VR) : SlotSem := vrOp (.vand f) f false fun x => x.map2 (fun a b => a &&& b)

@[inherit_doc semVand]
def execVand (f : VR) (s : State) : Out State := runSlot (.vand f) (semVand f) s

/-- Bitwise OR (06 R182). -/
def semVor (f : VR) : SlotSem := vrOp (.vor f) f false fun x => x.map2 (fun a b => a ||| b)

@[inherit_doc semVor]
def execVor (f : VR) (s : State) : Out State := runSlot (.vor f) (semVor f) s

/-- Bitwise XOR (06 R182). -/
def semVxor (f : VR) : SlotSem := vrOp (.vxor f) f false fun x => x.map2 (fun a b => a ^^^ b)

@[inherit_doc semVxor]
def execVxor (f : VR) (s : State) : Out State := runSlot (.vxor f) (semVxor f) s

/-- Bitwise NOT (06 R182). -/
def semVnot (f : VR) : SlotSem := vrOp (.vnot f) f false fun x => x.map1 (fun a => 2 ^ x.b - 1 - a)

@[inherit_doc semVnot]
def execVnot (f : VR) (s : State) : Out State := runSlot (.vnot f) (semVnot f) s

/-- Leading zero bits; the width for zero (06 R182). -/
def semVclz (f : VR) : SlotSem := vrOp (.vclz f) f false fun x => x.map1 (fun a => leadingZeros x.b a)

@[inherit_doc semVclz]
def execVclz (f : VR) (s : State) : Out State := runSlot (.vclz f) (semVclz f) s

/-- Set bits (06 R182). -/
def semVpopc (f : VR) : SlotSem := vrOp (.vpopc f) f false fun x => x.map1 (fun a => setBits x.b a)

@[inherit_doc semVpopc]
def execVpopc (f : VR) (s : State) : Out State := runSlot (.vpopc f) (semVpopc f) s

/-- round(a + b); complex types by parts (06 R183). -/
def semVfadd (f : VR) : SlotSem := vrOp (.vfadd f) f true fun x => x.addParts f.et.toNat false

@[inherit_doc semVfadd]
def execVfadd (f : VR) (s : State) : Out State := runSlot (.vfadd f) (semVfadd f) s

/-- round(a − b); complex types by parts (06 R183). -/
def semVfsub (f : VR) : SlotSem := vrOp (.vfsub f) f true fun x => x.addParts f.et.toNat true

@[inherit_doc semVfsub]
def execVfsub (f : VR) (s : State) : Out State := runSlot (.vfsub f) (semVfsub f) s

/-- round(a × b) (06 R183). -/
def semVfmul (f : VR) : SlotSem := vrOp (.vfmul f) f true fun x => x.rmap2 (fun q _ a b => (flOf f).round x.rm q (((flOf f).decode a).mul ((flOf f).decode b)))

@[inherit_doc semVfmul]
def execVfmul (f : VR) (s : State) : Out State := runSlot (.vfmul f) (semVfmul f) s

/-- round(a × b + d), rounded once (06 R183). -/
def semVfma (f : VR) : SlotSem := vrOp (.vfma f) f true fun x => x.rmap3 (fun q _ a b d => (flOf f).addr x.rm q [((flOf f).decode a).mul ((flOf f).decode b), (flOf f).decode d])

@[inherit_doc semVfma]
def execVfma (f : VR) (s : State) : Out State := runSlot (.vfma f) (semVfma f) s

/-- round(d − a × b), rounded once (06 R183). -/
def semVfms (f : VR) : SlotSem := vrOp (.vfms f) f true fun x => x.rmap3 (fun q _ a b d => (flOf f).addr x.rm q [(flOf f).decode d, (((flOf f).decode a).mul ((flOf f).decode b)).neg])

@[inherit_doc semVfms]
def execVfms (f : VR) (s : State) : Out State := runSlot (.vfms f) (semVfms f) s

/-- round(1 / a) (06 R183). -/
def semVfrcp (f : VR) : SlotSem := vrOp (.vfrcp f) f true fun x => x.rmap1 (fun q _ a => (flOf f).div x.rm q (.fin false 1 0) ((flOf f).decode a))

@[inherit_doc semVfrcp]
def execVfrcp (f : VR) (s : State) : Out State := runSlot (.vfrcp f) (semVfrcp f) s

/-- round(√a) (06 R183). -/
def semVfsqrt (f : VR) : SlotSem := vrOp (.vfsqrt f) f true fun x => x.rmap1 (fun q _ a => (flOf f).sqrt x.rm q ((flOf f).decode a))

@[inherit_doc semVfsqrt]
def execVfsqrt (f : VR) (s : State) : Out State := runSlot (.vfsqrt f) (semVfsqrt f) s

/-- The lesser operand under the NaN rules (06 R184). -/
def semVfmin (f : VR) : SlotSem := vrOp (.vfmin f) f false fun x => x.map2 (fun a b => (flOf f).minmax false a b)

@[inherit_doc semVfmin]
def execVfmin (f : VR) (s : State) : Out State := runSlot (.vfmin f) (semVfmin f) s

/-- The greater operand under the NaN rules (06 R184). -/
def semVfmax (f : VR) : SlotSem := vrOp (.vfmax f) f false fun x => x.map2 (fun a b => (flOf f).minmax true a b)

@[inherit_doc semVfmax]
def execVfmax (f : VR) (s : State) : Out State := runSlot (.vfmax f) (semVfmax f) s

/-- Clears the sign bit (06 R183). -/
def semVfabs (f : VR) : SlotSem := vrOp (.vfabs f) f false fun x => x.map1 (fun a => a % (flOf f).signBit)

@[inherit_doc semVfabs]
def execVfabs (f : VR) (s : State) : Out State := runSlot (.vfabs f) (semVfabs f) s

/-- Inverts the sign bit, of both parts of a complex element (06 R183). -/
def semVfneg (f : VR) : SlotSem := vrOp (.vfneg f) f false fun x => 
  x.map1 (fun a => a ^^^ (if isCplx f.et.toNat then joinParts (flOf f) (flOf f).signBit (flOf f).signBit else (flOf f).signBit))

@[inherit_doc semVfneg]
def execVfneg (f : VR) (s : State) : Out State := runSlot (.vfneg f) (semVfneg f) s

/-- 1 / √a (06 R185, R186). -/
def semVfrsqrt (f : VR) : SlotSem := vrOp (.vfrsqrt f) f false fun x => x.map1 (fun a => special (flOf f) .rsqrt a)

@[inherit_doc semVfrsqrt]
def execVfrsqrt (f : VR) (s : State) : Out State := runSlot (.vfrsqrt f) (semVfrsqrt f) s

/-- 2 to the power a (06 R185, R186). -/
def semVfexp2 (f : VR) : SlotSem := vrOp (.vfexp2 f) f false fun x => x.map1 (fun a => special (flOf f) .exp2 a)

@[inherit_doc semVfexp2]
def execVfexp2 (f : VR) (s : State) : Out State := runSlot (.vfexp2 f) (semVfexp2 f) s

/-- log2 a (06 R185, R186). -/
def semVflog2 (f : VR) : SlotSem := vrOp (.vflog2 f) f false fun x => x.map1 (fun a => special (flOf f) .log2 a)

@[inherit_doc semVflog2]
def execVflog2 (f : VR) (s : State) : Out State := runSlot (.vflog2 f) (semVflog2 f) s

/-- tanh a (06 R185, R186). -/
def semVftanh (f : VR) : SlotSem := vrOp (.vftanh f) f false fun x => x.map1 (fun a => special (flOf f) .tanh a)

@[inherit_doc semVftanh]
def execVftanh (f : VR) (s : State) : Out State := runSlot (.vftanh f) (semVftanh f) s

/-- erf a (06 R185, R186). -/
def semVferf (f : VR) : SlotSem := vrOp (.vferf f) f false fun x => x.map1 (fun a => special (flOf f) .erf a)

@[inherit_doc semVferf]
def execVferf (f : VR) (s : State) : Out State := runSlot (.vferf f) (semVferf f) s

/-- sin a (06 R185, R186). -/
def semVfsin (f : VR) : SlotSem := vrOp (.vfsin f) f false fun x => x.map1 (fun a => special (flOf f) .sin a)

@[inherit_doc semVfsin]
def execVfsin (f : VR) (s : State) : Out State := runSlot (.vfsin f) (semVfsin f) s

/-- cos a (06 R185, R186). -/
def semVfcos (f : VR) : SlotSem := vrOp (.vfcos f) f false fun x => x.map1 (fun a => special (flOf f) .cos a)

@[inherit_doc semVfcos]
def execVfcos (f : VR) (s : State) : Out State := runSlot (.vfcos f) (semVfcos f) s

/-- The two exact products of a part of a complex product: ar·br and −ai·bi, or ar·bi and ai·br (06 R187). -/
def cmulTerms (t : Fl) (im : Bool) (a b : Nat) : List Num :=
  let ar := t.decode (rePart t a)
  let ai := t.decode (imPart t a)
  let br := t.decode (rePart t b)
  let bi := t.decode (imPart t b)
  if im then [ar.mul bi, ai.mul br] else [ar.mul br, (ai.mul bi).neg]

/-- The complex product, each part rounded once (06 R187). -/
def semVcmul (f : VR) : SlotSem := vrOp (.vcmul f) f true fun x => 
  x.rmap2 (fun q q2 a b => joinParts (flOf f) ((flOf f).addr x.rm q (cmulTerms (flOf f) false a b))
    ((flOf f).addr x.rm q2 (cmulTerms (flOf f) true a b)))

@[inherit_doc semVcmul]
def execVcmul (f : VR) (s : State) : Out State := runSlot (.vcmul f) (semVcmul f) s

/-- The complex product added to d, each part rounded once (06 R187). -/
def semVcmla (f : VR) : SlotSem := vrOp (.vcmla f) f true fun x => 
  x.rmap3 (fun q q2 a b d =>
    joinParts (flOf f) ((flOf f).addr x.rm q ((flOf f).decode (rePart (flOf f) d) :: cmulTerms (flOf f) false a b))
      ((flOf f).addr x.rm q2 ((flOf f).decode (imPart (flOf f) d) :: cmulTerms (flOf f) true a b)))

@[inherit_doc semVcmla]
def execVcmla (f : VR) (s : State) : Out State := runSlot (.vcmla f) (semVcmla f) s

end Sys2Proof.Machine
end

