-- ==== Sys2Proof/Machine/Shuffle.lean ====
section
/-!
DEFINITION. Vector compares, masks, selection, conversion, data movement, reductions, scans and histograms (06 R188 to
R192, R198 to R209).
-/

namespace Sys2Proof.Machine

/-- The mask bits of the lanes of the enabled elements for which a relation holds (06 R188). -/
def laneMask (m : MaskReg) (b : Nat) : Nat → List Bool → Nat
  | _, [] => 0
  | i, r :: t => (if enabled m b i && r then (2 ^ (b / 8) - 1) * 2 ^ (i * b / 8) else 0) + laneMask m b (i + 1) t

/-- An integer relation of a vector compare (06 R188): eq, ne, lt, le, gt, ge. -/
def vRelation (rel : Nat) (a b : Int) : Bool :=
  match rel with
  | 0 => decide (a = b) | 1 => decide (a ≠ b) | 2 => decide (a < b)
  | 3 => decide (a ≤ b) | 4 => decide (b < a) | _ => decide (b ≤ a)

/-- A float relation of a vector compare (06 R188): eq, ne, lt, le, un, gt, ge. -/
def vfRelation (rel : Nat) (a b : Num) : Bool :=
  if rel ≤ 4 then fRelation rel a b else if rel = 5 then fRelation 2 b a else fRelation 3 b a

/-- Writes the lanes of each element with an integer relation (06 R188). -/
def semVcmp (f : VR) : SlotSem := vrMask (.vcmp f) f fun x =>
  laneMask x.mask x.b 0 (List.zipWith (fun a b => vRelation f.rm.toNat ((intOf f).decode a) ((intOf f).decode b)) x.a x.b')

@[inherit_doc semVcmp]
def execVcmp (f : VR) (s : State) : Out State := runSlot (.vcmp f) (semVcmp f) s

/-- Writes the lanes of each element with a floating-point relation (06 R188). -/
def semVfcmp (f : VR) : SlotSem := vrMask (.vfcmp f) f fun x =>
  laneMask x.mask x.b 0 (List.zipWith (fun a b => vfRelation f.rm.toNat ((flOf f).decode a) ((flOf f).decode b)) x.a x.b')

@[inherit_doc semVfcmp]
def execVfcmp (f : VR) (s : State) : Out State := runSlot (.vfcmp f) (semVfcmp f) s

/-- mA AND mB, ANDed with MK, in the bits below W / 8 (06 R189). -/
def semMand (f : VR) : SlotSem := vrMask (.mand f) f fun x => ((x.r.rm (bf f.va 0 4) &&& x.r.rm (bf f.vb 0 4)) &&& x.mask).toNat

@[inherit_doc semMand]
def execMand (f : VR) (s : State) : Out State := runSlot (.mand f) (semMand f) s

/-- mA OR mB, ANDed with MK, in the bits below W / 8 (06 R189). -/
def semMor (f : VR) : SlotSem := vrMask (.mor f) f fun x => ((x.r.rm (bf f.va 0 4) ||| x.r.rm (bf f.vb 0 4)) &&& x.mask).toNat

@[inherit_doc semMor]
def execMor (f : VR) (s : State) : Out State := runSlot (.mor f) (semMor f) s

/-- mA XOR mB, ANDed with MK, in the bits below W / 8 (06 R189). -/
def semMxor (f : VR) : SlotSem := vrMask (.mxor f) f fun x => ((x.r.rm (bf f.va 0 4) ^^^ x.r.rm (bf f.vb 0 4)) &&& x.mask).toNat

@[inherit_doc semMxor]
def execMxor (f : VR) (s : State) : Out State := runSlot (.mxor f) (semMxor f) s

/-- NOT mA, ANDed with MK, in the bits below W / 8 (06 R189). -/
def semMnot (f : VR) : SlotSem := vrMask (.mnot f) f fun x => ((~~~x.r.rm (bf f.va 0 4)) &&& x.mask).toNat

@[inherit_doc semMnot]
def execMnot (f : VR) (s : State) : Out State := runSlot (.mnot f) (semMnot f) s

/-- The elements that count: enabled by mA and by MK (06 R190). -/
def counted (f : VR) (x : VIn) : List Nat :=
  (upto x.n).filter (fun i => enabled (x.r.rm (bf f.va 0 4)) x.b i && enabled x.mask x.b i)

/-- The number of counted elements (06 R190). -/
def semMpopc (f : VR) : SlotSem := vrScalar (.mpopc f) f false fun x => w64 (counted f x).length

@[inherit_doc semMpopc]
def execMpopc (f : VR) (s : State) : Out State := runSlot (.mpopc f) (semMpopc f) s

/-- The least counted element, or n (06 R190). -/
def semMffs (f : VR) : SlotSem := vrScalar (.mffs f) f false fun x => w64 ((counted f x).headD x.n)

@[inherit_doc semMffs]
def execMffs (f : VR) (s : State) : Out State := runSlot (.mffs f) (semMffs f) s

/-- va where MK enables the element, and vb elsewhere (06 R191). -/
def semVsel (f : VR) : SlotSem := vrAll (.vsel f) f false fun x =>
  List.zipWith (fun i p => if enabled x.mask x.b i then p.1 else p.2) (upto x.n) (x.a.zip x.b')

@[inherit_doc semVsel]
def execVsel (f : VR) (s : State) : Out State := runSlot (.vsel f) (semVsel f) s

/-- One side of a conversion: its type, element width, elements held, and whether it is packed or complex. -/
structure VSide where
  ty : CvtTy
  bits : Nat
  cap : Nat
  pk : Bool
  cplx : Bool

/-- The side that a type code and a packed format name at a width (06 R192). -/
def VSide.of (et pk w : Nat) : VSide :=
  if et = 14 then { ty := fmtTy pk, bits := fmtBits pk, cap := pkCap (fmtBits pk) w, pk := true, cplx := false }
  else { ty := etTy et, bits := tyBits et, cap := w / tyBits et, pk := false, cplx := isCplx et }

/-- The first `n` codes of a side in a register image. -/
def VSide.read (v : VSide) (n x : Nat) : List Nat := if v.pk then pkRead v.bits n x else elems v.bits n x

/-- A register image of codes. -/
def VSide.place (v : VSide) (l : List Nat) : Nat := if v.pk then pkPlace v.bits l else packEl v.bits l

/-- One element converted, a complex one by parts (03 R96, R98). -/
def cvtElem (src dst : VSide) (rm : Rnd) (d d2 : BitVec 32) (a : Nat) : Nat :=
  if dst.cplx then
    let ws := src.ty.bits
    dst.ty.enc rm d (src.ty.dec (a % 2 ^ ws)) + 2 ^ dst.ty.bits * dst.ty.enc rm d2 (src.ty.dec (a / 2 ^ ws))
  else dst.ty.enc rm d (src.ty.dec a)

/-- Converts elements between types; positions past the converted ones are disabled elements (06 R192). -/
def semVcvt (f : VR) : SlotSem := vDo (.vcvt f) fun e s =>
  let w := widthOf f.w
  let src := VSide.of (bf f.vb 0 4) (bf f.vb 4 5) w
  let dst := VSide.of f.et.toNat (bf f.vb 4 5) w
  let n := min src.cap dst.cap
  let a := if f.ac = 2 then List.replicate n ((e.c.r.rs (f.va.toNat % 64)).toNat % 2 ^ src.bits)
    else src.read n (e.part f.ac.toNat f.va.toNat e.o.ringA w 0 false)
  let (ds, s1) := s.drawsOf e.k f.rm.toNat (vDraws dst.cplx n)
  let q := if dst.cplx then evens ds else ds
  let q2 := if dst.cplx then evens (ds.drop 1) else ds
  let res := List.zipWith (fun d a => cvtElem src dst (Rnd.get f.rm.toNat) d.1 d.2 a) (q.zip q2) a
  let old := dst.read dst.cap (e.part f.dc.toNat f.vd.toNat e.o.ringD w 0 true)
  let on (i : Nat) : Bool := decide (i < n) && enabled (e.mask f.mask) (max src.bits dst.bits) i
  let out := (upto dst.cap).map (fun i => if on i then res.getD i 0 else if f.mrg = 1 then old.getD i 0 else 0)
  s1.wrPart e f.dc.toNat f.vd.toNat e.o.ringD w 0 (dst.place out)

@[inherit_doc semVcvt]
def execVcvt (f : VR) (s : State) : Out State := runSlot (.vcvt f) (semVcvt f) s

/-- Seeds the 32 generators of the context (06 R198). -/
def semVsrseed (f : VR) : SlotSem := vDo (.vsrseed f) fun e s =>
  let z := e.o.addrA
  s.onCtx e.k (fun c => c.onR (fun r => { r with gens := (upto 32).map (fun j => (j, genSeed z j)) }))

@[inherit_doc semVsrseed]
def execVsrseed (f : VR) (s : State) : Out State := runSlot (.vsrseed f) (semVsrseed f) s

/-- va, or a broadcast scalar (06 R199). -/
def semVmov (f : VR) : SlotSem := vrOp (.vmov f) f false fun x => x.a

@[inherit_doc semVmov]
def execVmov (f : VR) (s : State) : Out State := runSlot (.vmov f) (semVmov f) s

/-- One element of va in every position (06 R199). -/
def semVbcast (f : VR) : SlotSem := vrOp (.vbcast f) f false fun x => List.replicate x.n (x.a.getD (x.r.rs (bf f.vb 0 6)).toNat 0)

@[inherit_doc semVbcast]
def execVbcast (f : VR) (s : State) : Out State := runSlot (.vbcast f) (semVbcast f) s

/-- An element of vb as an index: its low 64 bits when it is wider. -/
def indexOf (b : Nat) : Nat := b % 2 ^ 64

/-- Elements of va by an index vector; 0 past the table (06 R200). -/
def semVperm (f : VR) : SlotSem := vrOp (.vperm f) f false fun x => x.b'.map (fun j => x.a.getD (indexOf j) 0)

@[inherit_doc semVperm]
def execVperm (f : VR) (s : State) : Out State := runSlot (.vperm f) (semVperm f) s

/-- Elements of a table of two registers by an index vector; 0 past the table (06 R200). -/
def semVshuf (f : VR) : SlotSem := vrWith (.vshuf f) f false fun e x s =>
  let w := widthOf f.w
  let table := x.a ++ elems x.b x.n (e.part f.ac.toNat f.va.toNat e.o.ringA w 1 false)
  let res := x.b'.map (fun j => table.getD (indexOf j) 0)
  s.wrPart e f.dc.toNat f.vd.toNat e.o.ringD w 0 (packEl x.b (maskMerge x.mask x.b (f.mrg == 1) 0 res x.d))

@[inherit_doc semVshuf]
def execVshuf (f : VR) (s : State) : Out State := runSlot (.vshuf f) (semVshuf f) s

/-- va moved by a signed count, zeros entering (06 R201). -/
def semVslide (f : VR) : SlotSem := vrOp (.vslide f) f false fun x => (upto x.n).map (fun (i : Nat) =>
  let j : Int := (i : Int) + (x.r.rs (bf f.vb 0 6)).toInt
  if 0 ≤ j then x.a.getD j.toNat 0 else 0)

@[inherit_doc semVslide]
def execVslide (f : VR) (s : State) : Out State := runSlot (.vslide f) (semVslide f) s

/-- The elements of a list at the positions a mask enables. -/
def pickEnabled (m : MaskReg) (b : Nat) : Nat → List Nat → List Nat
  | _, [] => []
  | i, x :: t => if enabled m b i then x :: pickEnabled m b (i + 1) t else pickEnabled m b (i + 1) t

/-- Puts the elements of a list, in order, at the positions a mask enables, and zero elsewhere. -/
def spreadEnabled (m : MaskReg) (b : Nat) : Nat → Nat → List Nat → List Nat
  | 0, _, _ => []
  | n + 1, i, xs =>
    if enabled m b i then xs.headD 0 :: spreadEnabled m b n (i + 1) (xs.drop 1) else 0 :: spreadEnabled m b n (i + 1) xs

/-- Packs the enabled elements, with the rest of the old destination or zeros, and writes their count (06 R202). -/
def compressTo (i : Instr) (f : VR) (keep : Bool) : SlotSem :=
  vrWith i f false fun e x s =>
    let p := pickEnabled x.mask x.b 0 x.a
    let rest := if keep then x.d.drop p.length else List.replicate (x.n - p.length) 0
    (s.wrPart e f.dc.toNat f.vd.toNat e.o.ringD (widthOf f.w) 0 (packEl x.b (p ++ rest))).wr e.k (bf f.vb 0 6) (w64 p.length)

/-- Packs the enabled elements, zeroes the rest and writes the count (06 R202). -/
def semVcompress (f : VR) : SlotSem := compressTo (.vcompress f) f false

@[inherit_doc semVcompress]
def execVcompress (f : VR) (s : State) : Out State := runSlot (.vcompress f) (semVcompress f) s

/-- Packs the enabled elements, keeps the rest and writes the count (06 R202). -/
def semVcompressKeep (f : VR) : SlotSem := compressTo (.vcompressKeep f) f true

@[inherit_doc semVcompressKeep]
def execVcompressKeep (f : VR) (s : State) : Out State := runSlot (.vcompressKeep f) (semVcompressKeep f) s

/-- Spreads va into the enabled positions, with zero elsewhere (06 R203). -/
def semVexpand (f : VR) : SlotSem := vrAll (.vexpand f) f false fun x => spreadEnabled x.mask x.b x.n 0 x.a

@[inherit_doc semVexpand]
def execVexpand (f : VR) (s : State) : Out State := runSlot (.vexpand f) (semVexpand f) s

/-- Interleaves two lists. -/
def interleave : List Nat → List Nat → List Nat
  | a :: s, b :: t => a :: b :: interleave s t
  | _, _ => []

/-- Interleaves the lower or upper halves of the sources (06 R204). -/
def semVzip (f : VR) : SlotSem := vrOp (.vzip f) f false fun x => 
  let h := if bit f.rm 0 then x.n / 2 else 0
  (interleave (x.a.drop h) (x.b'.drop h)).take x.n

@[inherit_doc semVzip]
def execVzip (f : VR) (s : State) : Out State := runSlot (.vzip f) (semVzip f) s

/-- The even or odd elements of both sources (06 R204). -/
def semVunzip (f : VR) : SlotSem := vrOp (.vunzip f) f false fun x => 
  let o := b2n (bit f.rm 0)
  let pick (l : List Nat) : List Nat := (upto (x.n / 2)).map (fun i => l.getD (2 * i + o) 0)
  pick x.a ++ pick x.b'

@[inherit_doc semVunzip]
def execVunzip (f : VR) (s : State) : Out State := runSlot (.vunzip f) (semVunzip f) s

/-- An element as a scalar: sign-extended for the signed types, zero-extended otherwise. -/
def elemScalar (et code : Nat) : W64 := if et ≤ 7 then BitVec.ofInt 64 ((tyInt et).decode code) else w64 code

/-- Element s(VB) of va as a scalar, or 0 past the last (06 R205). -/
def semVext (f : VR) : SlotSem := vrScalar (.vext f) f false fun x => elemScalar f.et.toNat (x.a.getD (x.r.rs (bf f.vb 0 6)).toNat 0)

@[inherit_doc semVext]
def execVext (f : VR) (s : State) : Out State := runSlot (.vext f) (semVext f) s

/-- Writes the low bits of a scalar into element s(VB) of vd (06 R205). -/
def semVins (f : VR) : SlotSem := vrAll (.vins f) f false fun x =>
  x.d.set (x.r.rs (bf f.vb 0 6)).toNat ((x.r.rs (bf f.va 0 6)).toNat % 2 ^ x.b)

@[inherit_doc semVins]
def execVins (f : VR) (s : State) : Out State := runSlot (.vins f) (semVins f) s

/-- The enabled elements of the first source. -/
def VIn.on (x : VIn) : List Nat := pickEnabled x.mask x.b 0 x.a

/-- An integer reduction (06 R206): add, min, max, and, or, xor. -/
def reduceInt (t : IFmt) (op : Nat) (l : List Nat) : W64 :=
  let v := l.map t.decode
  let ext (c : Nat) : W64 := BitVec.ofInt 64 (t.decode c)
  match op with
  | 0 => BitVec.ofInt 64 (v.foldl (· + ·) 0)
  | 1 => BitVec.ofInt 64 (v.foldl min t.hi)
  | 2 => BitVec.ofInt 64 (v.foldl max t.lo)
  | 3 => ext (l.foldl (fun a x => a &&& x) (2 ^ t.bits - 1))
  | 4 => ext (l.foldl (fun a x => a ||| x) 0)
  | _ => ext (l.foldl (fun a x => a ^^^ x) 0)

/-- Reduces the enabled elements into a scalar (06 R206). -/
def semVred (f : VR) : SlotSem := vrScalar (.vred f) f false fun x => reduceInt (intOf f) f.rm.toNat x.on

@[inherit_doc semVred]
def execVred (f : VR) (s : State) : Out State := runSlot (.vred f) (semVred f) s

/-- One level of the pairwise tree; an absent node leaves its partner (06 R207). -/
def pairLevel (g : Nat → Nat → Nat) : List (Option Nat) → List (Option Nat)
  | some a :: some b :: t => some (g a b) :: pairLevel g t
  | some a :: none :: t => some a :: pairLevel g t
  | none :: b :: t => b :: pairLevel g t
  | l => l

/-- The whole tree; `fuel` bounds its levels. -/
def pairTree (g : Nat → Nat → Nat) : Nat → List (Option Nat) → Option Nat
  | 0, l => (l.headD none)
  | f + 1, l => match l with | [x] => x | _ => pairTree g f (pairLevel g l)

/-- A floating-point reduction: sum, minimum or maximum (06 R207). -/
def reduceFloat (t : Fl) (op : Nat) (rm : Rnd) (l : List (Option Nat)) : Nat :=
  let g (a b : Nat) : Nat :=
    if op = 0 then t.addr rm 0 [t.decode a, t.decode b] else t.minmax (op == 2) a b
  (pairTree g 8 l).getD (if op = 0 then 0 else if op = 1 then t.infCode else t.withSign true t.infCode)

/-- Reduces over the fixed pairwise tree into a scalar (06 R207). -/
def semVfred (f : VR) : SlotSem := vrScalar (.vfred f) f false fun x =>
  w64 (reduceFloat (flOf f) (bf f.vb 0 2) (Rnd.get f.rm.toNat)
    (List.zipWith (fun i a => if enabled x.mask x.b i then some a else none) (upto x.n) x.a))

@[inherit_doc semVfred]
def execVfred (f : VR) (s : State) : Out State := runSlot (.vfred f) (semVfred f) s

/-- Prefix sums from an accumulator that may be absent (06 R208). -/
def scanFrom (ex : Bool) (add : Nat → Nat → Nat) : List (Bool × Nat) → Option Nat → List Nat
  | [], _ => []
  | (on, x) :: t, acc =>
    let acc' := if on then some (match acc with | none => x | some a => add a x) else acc
    (if ex then acc.getD 0 else acc'.getD 0) :: scanFrom ex add t acc'

/-- Inclusive or exclusive prefix sums of the enabled elements (06 R208). -/
def semVscan (f : VR) : SlotSem := vrAll (.vscan f) f false fun x =>
  let add (a b : Nat) : Nat :=
    if f.et.toNat ≤ 7 then (a + b) % 2 ^ x.b
    else (flOf f).addr (Rnd.get f.rm.toNat) 0 [(flOf f).decode a, (flOf f).decode b]
  scanFrom (bit f.vb 0) add (List.zipWith (fun i a => (enabled x.mask x.b i, a)) (upto x.n) x.a) none

@[inherit_doc semVscan]
def execVscan (f : VR) (s : State) : Out State := runSlot (.vscan f) (semVscan f) s

/-- Counts the enabled index elements into 32-bit counters (06 R209). -/
def semVhist (f : VR) : SlotSem := vrWith (.vhist f) f false fun e x s =>
  let w := widthOf f.w
  let counters := elems 32 (w / 32) (e.part 0 f.vd.toNat 0 w 0 true)
  s.wrPart e 0 f.vd.toNat 0 w 0 (packEl 32 (counters.zipIdx.map (fun c => c.1 + (x.on.filter (fun k => k = c.2)).length)))

@[inherit_doc semVhist]
def execVhist (f : VR) (s : State) : Out State := runSlot (.vhist f) (semVhist f) s

end Sys2Proof.Machine
end

