-- ==== Sys2Proof/Machine/Version.lean ====
section
/-!
DEFINITION. Reams: the version operations (08 R279 to R282, 09 R293) and the discarding of versions.
-/

namespace Sys2Proof.Machine

/-- The version an operation names: bits [31:0] of its scalar (08 R279). -/
def verOf (f : LM) (e : Env) : Nat := bf (e.c.r.rs (bf f.imm 0 6)) 0 32

/-- The versions of a line that a context sees: the quire, with those its own guess has made (08 R280, 11 R349). -/
def State.versions (s : State) (c : Ctx) (r line : Nat) : List Nat :=
  (match s.guessOf c with
   | some q => ((s.queueAt q).dealer.vers.filter (fun e => decide (e.1 = line))).map (fun e => e.2.1)
   | none => []) ++ (s.quire r line).map (fun e => e.1)

/-- The ream, line and key an operation acts on, where its address reaches one. -/
def State.verPlace (s : State) (e : Env) (z : Nat) (store : Bool) : Option (Nat × Nat × Nat) :=
  match (s.place e z .version store e.o.addrA).2 with
  | .at_ _ (.phys p key) _ => (s.reamOf e.c.part p).map (fun r => (r, p / 64, key))
  | _ => none

/-- The bytes of the version that a blocked `verld` waited on, once they are there (09 R314). -/
def Env.verGot (e : Env) (r line v : Nat) : Option (List Byte) :=
  (e.c.sq.verAsks.find? (fun a => a.pos == e.pos && a.ream == r && a.line == line && a.ver == v)).bind (fun a => a.got)

/-- A blocked `verld` waits at the line's home for its version. -/
def State.askVer (s : State) (k : Nat) (a : VerAsk) : State :=
  s.onCtx k (fun c => { c with sq := { c.sq with verAsks := c.sq.verAsks.filter (fun x => x.pos ≠ a.pos) ++ [a] } })

/-- A quire has room for one more version, or may be made room in (08 R281). -/
def State.hasRoom (s : State) (c : Ctx) (r line : Nat) : Bool :=
  (decide ((s.versions c r line).length < 8) && s.poolFree r) ||
    (lowestReclaimable (s.reamAt r).floor (s.quire r line)).isSome

/-- The wait of a version operation, after the context's own earlier accesses to the line (08 R280). -/
def verWait (i : Instr) (f : LM) (z : Nat) (store : Bool) (blocked : Env → State → VerAsk → State × Option Wait) (e : Env)
    (s : State) : State × Option Wait :=
  let (s1, w) := lmWait i f e s
  match s1.verPlace e z store with
  | none => (s1, w)
  | some (r, line, key) =>
    let s2 := s1.drainBefore e.k { id := s1.seq, kind := .vernew, va := e.o.addrA, loc := .phys (64 * line) 0, size := 64 }
    let (s3, v) := blocked e s2 { pos := e.pos, ream := r, line := line, key := key, ver := verOf f e }
    (s3, w.orElse (fun _ => v))

/-- A load of a version, with the bytes it found at issue kept, or where it waited those its `verst` made (08 R281,
R280, 09 R314). -/
def verLoad (i : Instr) (f : LM) (kind : Nat → AccKind) (found : Nat → List Nat → Bool) (blocked : Env → State → VerAsk → State × Option Wait) :
    SlotSem :=
  let z := sizeOf f.sz
  { check := lmCheck i f [.glob] z oneAddr
    wait := verWait i f z false blocked
    act := fun e s =>
      match s.place e z .version false e.o.addrA with
      | (s1, .at_ va (.phys p key) _) =>
        let v := verOf f e
        match s1.reamOf e.c.part p with
        | none => (s1, none)
        | some r =>
          let a : Access := { lmAccess f e s1 (kind v) z (va, .phys p key, none) with
            dest := dataDest i f e 0 z, signed := f.dcl == 0 && bit f.data 6 }
          match e.verGot r (p / 64) v with
          | some bs =>
            let got := s1.withArgs e.c va.toNat ((bs.drop (p % 64)).take z)
            ((s1.noteRead e.c va.toNat p z).launch e.k [{ a with data := BitVec.ofNat 1024 (leNat got) }], none)
          | none =>
            if !found v (s1.versions e.c r (p / 64)) then (s1, some { cls := .slot, code := 0x26, detail := w64 v })
            else (s1.launch e.k [{ a with data := BitVec.ofNat 1024 ((s1.effect e.k a).2.1.getD 0) }], none)
      | (s1, .trap t) => (s1, some t)
      | (s1, _) => (s1, none) }

/-- Loads version v; blocks while it lies above every version made, and then returns what its `verst` made
(08 R280, 09 R314). -/
def semVerld (f : LM) : SlotSem :=
  verLoad (.verld f) f .verld (fun v l => l.contains v) (fun e s a =>
    if (e.verGot a.ream a.line a.ver).isNone && decide ((s.versions e.c a.ream a.line).foldl max 0 < a.ver) then
      (s.askVer e.k a, some { cause := 0x1B, detail := w64 a.ver })
    else (s, none))

@[inherit_doc semVerld]
def execVerld (f : LM) (s : State) : Out State := runSlot (.verld f) (semVerld f) s

/-- Loads the highest version at or below v (08 R280). -/
def semVerle (f : LM) : SlotSem :=
  verLoad (.verle f) f .verle (fun v l => l.any (fun u => decide (u ≤ v))) (fun _ s _ => (s, none))

@[inherit_doc semVerle]
def execVerle (f : LM) (s : State) : Out State := runSlot (.verle f) (semVerle f) s

/-- Creates version v from the newest with the bytes at EA replaced; blocks while the quire is full and nothing of it may
be discarded (08 R280, R281).  A guess that finds it so is dropped (11 R344). -/
def semVerst (f : LM) : SlotSem :=
  let z := sizeOf f.sz
  { check := lmCheck (.verst f) f [.glob] z oneAddr
    wait := verWait (.verst f) f z true (fun e s a =>
      (s, if (s.versions e.c a.ream a.line).foldl max 0 < a.ver && !s.hasRoom e.c a.ream a.line && (s.guessOf e.c).isNone then
        some { cause := 0x1C, detail := e.o.addrA }
      else none))
    act := fun e s =>
      match s.place e z .version true e.o.addrA with
      | (s1, .at_ va (.phys p key) _) =>
        let v := verOf f e
        match s1.reamOf e.c.part p with
        | none => (s1, none)
        | some r =>
          if v ≤ (s1.versions e.c r (p / 64)).foldl max 0 then (s1, some { cls := .slot, code := 0x27, detail := w64 v })
          else if !s1.hasRoom e.c r (p / 64) then (s1.noteDrop 15, none)
          else (s1.performNow e.k { lmAccess f e s1 (.verst v) z (va, .phys p key, none) with
              data := BitVec.ofNat 1024 (dataIn f e 0 z) }, none)
      | (s1, .trap t) => (s1, some t)
      | (s1, _) => (s1, none) }

@[inherit_doc semVerst]
def execVerst (f : LM) (s : State) : Out State := runSlot (.verst f) (semVerst f) s

/-- An access to a line's versions that needs no wait. -/
def verPlain (i : Instr) (f : LM) (store : Bool) (kind : Env → AccKind) (dest : Env → Dest) : SlotSem :=
  lmDo i f [.glob] 1 .version store oneAddr (fun e l s =>
    (s.launch e.k (l.map (fun p => { lmAccess f e s (kind e) 1 p with dest := dest e })), none))

/-- Raises the ream's floor to v at least (08 R280). -/
def semVerfl (f : LM) : SlotSem := verPlain (.verfl f) f true (fun e => .verfl (verOf f e)) (fun _ => .none)

@[inherit_doc semVerfl]
def execVerfl (f : LM) (s : State) : Out State := runSlot (.verfl f) (semVerfl f) s

/-- sd := the newest version number of the line (08 R280). -/
def semVernew (f : LM) : SlotSem :=
  verPlain (.vernew f) f false (fun _ => .vernew) (fun e => sDest e.c (bf f.data 0 6))

@[inherit_doc semVernew]
def execVernew (f : LM) (s : State) : Out State := runSlot (.vernew f) (semVernew f) s

/-- A home slice discards a reclaimable version of its own accord (08 R281). -/
def execVersionReclaim (line : Nat) (ver : BitVec 32) (s : State) : Out State :=
  match s.mem.reams.find? (fun e => e.2.ready && reclaimable e.2.floor (s.quire e.1 line) ver.toNat &&
      (s.quire e.1 line).any (fun q => q.1 == ver.toNat)) with
  | some e => .next (s.dropVersion e.1 line ver.toNat)
  | none => .refused .notEnabled

end Sys2Proof.Machine
end

