-- ==== Sys2Proof/Machine/Sems.lean ====
section
/-!
DEFINITION. The slot operation of each instruction apart from when it issues, for packets of several slots, for
repetitions and for replays (04 R106, 15 R383).
-/

namespace Sys2Proof.Machine

/-- The operation of a slot instruction. -/
def slotSem : Instr → Option SlotSem
  | .add f => some (semAdd f)
  | .sub f => some (semSub f)
  | .addi f => some (semAddi f)
  | .mul f => some (semMul f)
  | .mulh f => some (semMulh f)
  | .mulhu f => some (semMulhu f)
  | .div f => some (semDiv f)
  | .divu f => some (semDivu f)
  | .rem f => some (semRem f)
  | .remu f => some (semRemu f)
  | .and f => some (semAnd f)
  | .or f => some (semOr f)
  | .xor f => some (semXor f)
  | .andn f => some (semAndn f)
  | .shl f => some (semShl f)
  | .shr f => some (semShr f)
  | .sra f => some (semSra f)
  | .shli f => some (semShli f)
  | .shri f => some (semShri f)
  | .srai f => some (semSrai f)
  | .clz f => some (semClz f)
  | .ctz f => some (semCtz f)
  | .popc f => some (semPopc f)
  | .min f => some (semMin f)
  | .max f => some (semMax f)
  | .minu f => some (semMinu f)
  | .maxu f => some (semMaxu f)
  | .sel f => some (semSel f)
  | .cmp f => some (semCmp f)
  | .li f => some (semLi f)
  | .lui f => some (semLui f)
  | .mov f => some (semMov f)
  | .sext f => some (semSext f)
  | .zext f => some (semZext f)
  | .bfx f => some (semBfx f)
  | .bfi f => some (semBfi f)
  | .addr f => some (semAddr f)
  | .fadd f => some (semFadd f)
  | .fsub f => some (semFsub f)
  | .fmul f => some (semFmul f)
  | .fmadd f => some (semFmadd f)
  | .fdiv f => some (semFdiv f)
  | .fsqrt f => some (semFsqrt f)
  | .fmin f => some (semFmin f)
  | .fmax f => some (semFmax f)
  | .fcmp f => some (semFcmp f)
  | .fcvt f => some (semFcvt f)
  | .fmvx f => some (semFmvx f)
  | .rdd f => some (semRdd f)
  | .rdsys f => some (semRdsys f)
  | .rdtime f => some (semRdtime f)
  | .mbrd f => some (semMbrd f)
  | .mbwr f => some (semMbwr f)
  | .vadd f => some (semVadd f)
  | .vsub f => some (semVsub f)
  | .vmul f => some (semVmul f)
  | .vmulh f => some (semVmulh f)
  | .vmadd f => some (semVmadd f)
  | .vabs f => some (semVabs f)
  | .vneg f => some (semVneg f)
  | .vmin f => some (semVmin f)
  | .vmax f => some (semVmax f)
  | .vsadd f => some (semVsadd f)
  | .vssub f => some (semVssub f)
  | .vshl f => some (semVshl f)
  | .vshr f => some (semVshr f)
  | .vsra f => some (semVsra f)
  | .vand f => some (semVand f)
  | .vor f => some (semVor f)
  | .vxor f => some (semVxor f)
  | .vnot f => some (semVnot f)
  | .vclz f => some (semVclz f)
  | .vpopc f => some (semVpopc f)
  | .vfadd f => some (semVfadd f)
  | .vfsub f => some (semVfsub f)
  | .vfmul f => some (semVfmul f)
  | .vfma f => some (semVfma f)
  | .vfms f => some (semVfms f)
  | .vfmin f => some (semVfmin f)
  | .vfmax f => some (semVfmax f)
  | .vfabs f => some (semVfabs f)
  | .vfneg f => some (semVfneg f)
  | .vfrcp f => some (semVfrcp f)
  | .vfrsqrt f => some (semVfrsqrt f)
  | .vfsqrt f => some (semVfsqrt f)
  | .vfexp2 f => some (semVfexp2 f)
  | .vflog2 f => some (semVflog2 f)
  | .vftanh f => some (semVftanh f)
  | .vferf f => some (semVferf f)
  | .vfsin f => some (semVfsin f)
  | .vfcos f => some (semVfcos f)
  | .vcmul f => some (semVcmul f)
  | .vcmla f => some (semVcmla f)
  | .vcmp f => some (semVcmp f)
  | .vfcmp f => some (semVfcmp f)
  | .mand f => some (semMand f)
  | .mor f => some (semMor f)
  | .mxor f => some (semMxor f)
  | .mnot f => some (semMnot f)
  | .mpopc f => some (semMpopc f)
  | .mffs f => some (semMffs f)
  | .vsel f => some (semVsel f)
  | .vcvt f => some (semVcvt f)
  | .vqnt f => some (semVqnt f)
  | .vdq f => some (semVdq f)
  | .vqc4 f => some (semVqc4 f)
  | .vdqc4 f => some (semVdqc4 f)
  | .vsrseed f => some (semVsrseed f)
  | .vmov f => some (semVmov f)
  | .vbcast f => some (semVbcast f)
  | .vperm f => some (semVperm f)
  | .vshuf f => some (semVshuf f)
  | .vslide f => some (semVslide f)
  | .vcompress f => some (semVcompress f)
  | .vcompressKeep f => some (semVcompressKeep f)
  | .vexpand f => some (semVexpand f)
  | .vzip f => some (semVzip f)
  | .vunzip f => some (semVunzip f)
  | .vext f => some (semVext f)
  | .vins f => some (semVins f)
  | .vred f => some (semVred f)
  | .vfred f => some (semVfred f)
  | .vscan f => some (semVscan f)
  | .vhist f => some (semVhist f)
  | .arow f => some (semArow f)
  | .acol f => some (semAcol f)
  | .awrow f => some (semAwrow f)
  | .awcol f => some (semAwcol f)
  | .mld f => some (semMld f)
  | .mldw f => some (semMldw f)
  | .mswap f => some (semMswap f)
  | .mma f => some (semMma f)
  | .mmas f => some (semMmas f)
  | .mmac f => some (semMmac f)
  | .mmaC f => some (semMmaC f)
  | .azero f => some (semAzero f)
  | .acvt f => some (semAcvt f)
  | .aadd f => some (semAadd f)
  | .acfg f => some (semAcfg f)
  | .await f => some (semAwait f)
  | .awaitAll f => some (semAwaitAll f)
  | .mpcset f => some (semMpcset f)
  | .mstat f => some (semMstat f)
  | .aclr f => some (semAclr f)
  | .aload f => some (semAload f)
  | .ld f => some (semLd f)
  | .st f => some (semSt f)
  | .ldv f => some (semLdv f)
  | .stv f => some (semStv f)
  | .ldvs f => some (semLdvs f)
  | .stvs f => some (semStvs f)
  | .ldvg f => some (semLdvg f)
  | .stvg f => some (semStvg f)
  | .ldf f => some (semLdf f)
  | .ldfe f => some (semLdfe f)
  | .ste f => some (semSte f)
  | .stf f => some (semStf f)
  | .tagset f => some (semTagset f)
  | .tagclr f => some (semTagclr f)
  | .tld f => some (semTld f)
  | .tst f => some (semTst f)
  | .cpy f => some (semCpy f)
  | .rgather f => some (semRgather f)
  | .rscatter f => some (semRscatter f)
  | .amo f => some (semAmo f)
  | .red f => some (semRed f)
  | .verld f => some (semVerld f)
  | .verle f => some (semVerle f)
  | .verst f => some (semVerst f)
  | .verfl f => some (semVerfl f)
  | .vernew f => some (semVernew f)
  | .stopk f => some (semStopk f)
  | .cbcfg f => some (semCbcfg f)
  | .cbwait f => some (semCbwait f)
  | .cbpop f => some (semCbpop f)
  | .cbresv f => some (semCbresv f)
  | .cbpush f => some (semCbpush f)
  | .coll f => some (semColl f)
  | .pf f => some (semPf f)
  | .br f => some (semBr f)
  | .bt f => some (semBt f)
  | .call f => some (semCall f)
  | .ret f => some (semRet f)
  | .jr f => some (semJr f)
  | .loop f => some (semLoop f)
  | .loopw f => some (semLoopw f)
  | .brk f => some (semBrk f)
  | .trap f => some (semTrap f)
  | .yield f => some (semYield f)
  | .exit f => some (semExit f)
  | .spawn f => some (semSpawn f)
  | .nextr f => some (semNextr f)
  | .waitsb f => some (semWaitsb f)
  | .fence f => some (semFence f)
  | .fenceS f => some (semFenceS f)
  | .bar f => some (semBar f)
  | .barArv f => some (semBarArv f)
  | .barwait f => some (semBarwait f)
  | .tagwaitany f => some (semTagwaitany f)
  | .tagwaitall f => some (semTagwaitall f)
  | .tagffr f => some (semTagffr f)
  | .tlwait f => some (semTlwait f)
  | .tlwaitBind f => some (semTlwaitBind f)
  | .tlwaitRead f => some (semTlwaitRead f)
  | .handreq f => some (semHandreq f)
  | .handrel f => some (semHandrel f)
  | .blend f => some (semBlend f)
  | .bret f => some (semBret f)
  | .cstep f => some (semCstep f)
  | .cset f => some (semCset f)
  | .cpin f => some (semCpin f)
  | .cread f => some (semCread f)
  | .dstat f => some (semDstat f)
  | .dhint f => some (semDhint f)
  | .mtsy f => some (semMtsy f)
  | .mfsy f => some (semMfsy f)
  | .eret f => some (semEret f)
  | .eretEnd f => some (semEretEnd f)
  | .tlbinv f => some (semTlbinv f)
  | .ctxsave f => some (semCtxsave f)
  | .ctxrestore f => some (semCtxrestore f)
  | .halt f => some (semHalt f)
  | _ => none

end Sys2Proof.Machine
end

