-- ==== Sys2Proof/Machine/Sched.lean ====
section
/-!
DEFINITION. What a core issues next (02 R49, R50; 04 R103 to R111; 15 R385): the packet at the current context's pc,
the next repetition of it, or the operations that a replay still owes.
-/

namespace Sys2Proof.Machine

/-- What a step does: run one instruction in a state, or an outcome already reached. -/
inductive Plan where
  | run (i : Instr) (s : State)
  | out (o : Out State)

/-- The next state of a plan that is already complete. -/
def Plan.done (s : State) : Plan := .out (.next s)

/-- The due slots of a set of operations that have a meaning. -/
def duesOf (l : List (Nat × Instr × DueSrc)) : List Due :=
  l.filterMap (fun e => (slotSem e.2.1).map (fun m => { pos := e.1, instr := e.2.1, sem := m, src := e.2.2 : Due }))

/-- The operations a repetition re-issues from the latches (04 R106). -/
def State.stickyDues (s : State) (ps : List Nat) : List Due :=
  let c := s.me
  duesOf (ps.filterMap (fun p => (c.latch p).map (fun l => (p, l.instr, DueSrc.sticky))))

/-- The operations a replay still owes (15 R383). -/
def State.replayDues (s : State) : List Due :=
  duesOf (s.me.sq.replay.map (fun e => (e.1, e.2.lat.instr, DueSrc.replay e.2)))

/-- The issue record of a packet. -/
def issueOf (c : Ctx) (l : List Bundle) : Issue :=
  let pc := c.r.pc
  let len := (l.map (fun b => b.len)).foldl (· + ·) 0
  let last := (l.getLast?.map (fun b => b.hdr)).getD (Header.ofWord 0)
  let present := l.flatMap (fun b => b.slots.map (fun e => e.1))
  let rep := c.sq.rep
  { pc := pc
    next := pc + w64 len
    starts := l.map (fun b => b.addr)
    second := match l with | [_, b] => b.slots.map (fun e => e.1) | _ => []
    bt := btOf l
    rep := rep
    reps := if last.kind = 0 then last.rep.toNat + 1 else 1
    sticky := (upto 9).filter (fun p => bit last.stky p && (decide (1 < rep) || !present.contains p)) }

/-- Slots in slot order. -/
def byPos (l : List Due) : List Due :=
  (upto 9).flatMap (fun p => l.filter (fun d => d.pos == p))

/-- A fetch that does not translate, is denied, or meets an error in its walk: the packet is held or traps, and no slot
of it performs (04 R102, 15 R381, 17 R423).  Where the packet still owes a replay, SREPL and the buffer keep it, so
that no access performs twice (09 R304; log entry 17). -/
def State.fetchFault (s : State) (k : Nat) (va : W64) (e : XErr) : State :=
  let c := s.ctxAt k
  let t := fetchTrap va e
  let s1 := match e with
    | .walkError pa => s.logPhys (s.ctxAt k) pa
    | _ => s
  let p : PendTrap := { trap := t, sepc := c.r.pc, replay := c.sq.replay
                        srepl := if t.cls == .slot then sreplOf c.sq.rep ((upto 9).filter (fun p => c.sq.perf.testBit p)) else c.owed }
  if t.code = 0x20 && (s1.guessOf c).isNone then s1.hold k p else s1.takeTrap k p

/-- Issues from the current context of the core whose turn it is.  The whole packet is fetched before its checks
(04 R129 orders no check against the fetch; log entry 27). -/
def State.issueHere (s : State) : Plan :=
  let k := s.ck
  let c := s.me
  if !c.r.sup && !c.sys.asyncs.isEmpty && c.sq.replay.isEmpty then .done (s.takeAsync k)
  else
    match s.fetchPacket k c.r.pc with
    | (_, .poisoned) => .out (.fault .poisonedFetch)
    | (s1, .fault va e) => .done (s1.fetchFault k va e)
    | (s1, .ok l) =>
      let s2 := { s1 with issue := issueOf c l }
      if !c.sq.replay.isEmpty then .done (s2.runPacket s2.replayDues)
      else
        match (if c.sq.rep = 1 then packetIllegal (fun p => (c.latch p).map (fun x => x.instr)) l else none) with
        | some (p, b, r) => .done (s2.trapIssue k c.r.pc (illegalTrap p b r))
        | none =>
          match l.head? with
          | none => .out (.refused .notEnabled)
          | some b =>
            if b.hdr.kind = 1 then
              .run (.idleRun (b.hdr.toWord.extractLsb' 0 24)) s2
            else if 1 < c.sq.rep then .run .stickyReissue s2
            else
              let ops := (l.flatMap Bundle.ops).filterMap (fun e => e.2.get?.map (fun i => (e.1, i)))
              match ops, s2.issue.sticky with
              | [(p, i)], [] => .run i { s2 with issue := { s2.issue with pos := p } }
              | [], _ :: _ => .run .stickyReissue s2
              | _, st =>
                .done (s2.runPacket (byPos (duesOf (ops.map (fun e => (e.1, e.2, DueSrc.fresh))) ++ s2.stickyDues st)))

/-- Context `k` has issued its `exit`, and all of its accesses have performed since (02 R54). -/
def State.exitDone (s : State) (k : Nat) : Bool :=
  (s.ctxAt k).st == .live && (s.ctxAt k).sq.exiting && !s.exitWaits k

/-- An `exit` that has drained retires its context, or traps at its slot (02 R54, 09 R303, 15 R380). -/
def State.exitEnd (s : State) (k : Nat) : State :=
  let c := s.ctxAt k
  match c.exitTrap with
  | some t => (s.onCtx k (fun c => { c with sq := { c.sq with exiting := false } })).trapIssue k c.r.pc
      { t with pos := 8, bund := c.sq.exitBund }
  | none => s.retire k

/-- A core takes its turn: it retires a context whose accesses have now performed, issues from its current context, or
turns to another that can issue.  An asynchronous trap drops what is left of an idle run (04 R111). -/
def State.issueCore (s : State) (core : Nat) : Plan :=
  let s := { s with core := core }
  let k := s.ck
  match (upto 4).find? (fun i => s.exitDone (4 * core + i)) with
  | some i => .done (s.exitEnd (4 * core + i))
  | none =>
  if s.canIssue k then
    if s.me.sq.idle = 0 then s.issueHere
    else if !s.me.r.sup && !s.me.sys.asyncs.isEmpty then
      .done ((s.onMe (fun c => { c with sq := { c.sq with idle := 0 } })).takeAsync k)
    else .run .idleRunEnd s
  else
    match [1, 2, 3].find? (fun i => s.canIssue (4 * core + ((s.coreAt core).cur + i) % 4)) with
    | some i => .done (s.onCore core (fun c => { c with cur := (c.cur + i) % 4 }))
    | none => .out (.refused .notEnabled)

/-! ### The wait limit (02 R51) -/

/-- What the next packet of context `k` waits for now, with the cause and DETAIL its wait limit names, if it is blocked:
found by trying the packet in a state of its own. -/
def State.blockedNow (s : State) (k : Nat) : Option (Nat × W64 × Nat) :=
  let s1 := (({ s with core := k / 4 }).onCore (k / 4) (fun c => { c with cur := k % 4 })).onCtx k
    (fun c => { c with sq := { c.sq with wait := none } })
  if !s1.canIssue k then none
  else match s1.issueHere with
    | .run i s2 => (((match i with
        | .stickyReissue => s2.runPacket (s2.stickyDues s2.issue.sticky)
        | i => s2.runPacket (duesOf [(s2.issue.pos, i, DueSrc.fresh)])).ctxAt k).sq.wait)
    | .out (.next s2) => (s2.ctxAt k).sq.wait
    | _ => none

/-- A context blocked for 2^SWLOG cycles on one packet, and blocked still, traps at it with the cause its wait names
(02 R51, 15 R379). -/
def execWaitLimitTrap (c : Nat) (s : State) : Out State :=
  let x := s.ctxAt c
  if x.sq.wait.isSome && x.st == .live && !(s.coreAt (c / 4)).halted && decide (2 ^ x.sys.swlog.toNat ≤ x.sq.blocked) then
    match s.blockedNow c with
    | some (cause, detail, at_) =>
      .next (s.trapDue c x.r.pc { cls := .issue, code := cause, detail := detail, pos := at_ % 16, bund := at_ / 16 })
    | none => .refused .notEnabled
  else .refused .notEnabled

/-! ### The rows of the table that issue -/

/-- Sticky operations re-issue in a later repetition of their packet, or where no slot of theirs is encoded
(04 R106). -/
def execStickyReissue (s : State) : Out State :=
  if !s.canIssue s.ck then .refused .noContext else .next (s.runPacket (s.stickyDues s.issue.sticky))

/-- An idle run is a packet by itself: it issues nothing for the stated cycles, and the context stays current
(04 R111, 05 R161). -/
def execIdleRun (n : BitVec 24) (s : State) : Out State :=
  if !s.canIssue s.ck then .refused .noContext
  else
    let k := s.ck
    let s1 := s.settle k []
    .next ((({ s1 with issue := { s1.issue with faults := [], after := none, target := none, retire := false, ret := false,
                                                stop := false, rep := 1, reps := 1 } }).onCtx k
      (fun c => { c with sq := { c.sq with idle := n.toNat + 1, blocked := 0, wait := none } })).finish k [])

/-- The cycles of an idle run have passed and issue resumes (04 R111). -/
def execIdleRunEnd (s : State) : Out State :=
  let k := s.ck
  let n := s.me.sq.idle
  if n = 0 then .refused .notEnabled
  else .next ((s.onCore (k / 4) (fun c => { c with cycles := c.cycles + w64 n })).onMe
    (fun c => { c with sq := { c.sq with idle := 0 } }))

end Sys2Proof.Machine
end

