-- ==== Sys2Proof/Machine/Agents.lean ====
section
/-!
DEFINITION. Which move comes next (log entry 3): the head of the agenda; with an empty agenda, the first engine move
that is enabled, and then the cores and sidecars in turn, with one cycle and one tick of the time base after each round.
-/

namespace Sys2Proof.Machine

/-- Time passes (18 R434, 02 R51): the time base and the cores' cycles; blocked contexts count toward their wait limit,
and every flit that was being replayed has gone through (18 R437).  A context counts only while it is blocked: not once
its condition has cleared and a sibling holds the core. -/
def State.tick (s : State) (n t : Nat) : State :=
  { s.ageTasks n with
    hub := { s.hub with time := s.hub.time + w64 t }
    mgmt := { s.mgmt with replays := [] }
    cores := s.cores.map (fun (e : Nat × Core) => (e.1, { e.2 with cycles := e.2.cycles + w64 n }))
    ctxs := s.ctxs.map (fun (e : Nat × Ctx) => (e.1, if e.2.sq.wait.isSome && e.2.st == .live && !(s.coreAt (e.1 / 4)).halted && (s.blockedNow e.1).isSome then
      { e.2 with sq := { e.2.sq with blocked := e.2.sq.blocked + n } } else e.2)) }

/-- A sidecar's turn: its next instruction, or the exception of a fetch outside its store (08 R283, R286). -/
def State.sidePlan (s : State) (n : Nat) : Plan :=
  let s1 := { s with side := n }
  if !s1.sideCan n then .out (.refused .noSidecar)
  else if storeBad (s1.sideAt n).ibad (s1.sideAt n).pc.toNat 4 then
    .out (.next ((s1.sideLog n false (s1.sideAt n).pc.toNat).sideStop n 1 (s1.sideAt n).pc))
  else match s1.sideInstr n with
    | some i => .run i s1
    | none => .out (.next (s1.sideStop n 1 (s1.sideAt n).pc))

/-- An uncorrectable error strikes a line of memory, or a word of a share (09 R305). -/
def State.strike (s : State) (line : Nat) : State :=
  { s with mem := { s.mem with poison := mput s.mem.poison line true } }
@[inherit_doc State.strike]
def State.strikeShare (s : State) (r word : Nat) : State :=
  if (mfind s.disp.resvs r).isNone then s else s.onResv r (fun v => { v with poison := mput v.poison (word / 8) true })

/-- A line leaves its slice for HBM, under the key it was written under, with an error it has there (17 R420). -/
def State.evictLine (s : State) (line : Nat) : State :=
  { s with mem := { s.mem with
    res := mdel s.mem.res line
    poison := if mfind s.mem.poison line = some false then mput s.mem.poison line true else s.mem.poison } }

/-- Where a word of a context's register file stands in its image (15 R395). -/
def Ctx.wordPlace (c : Ctx) : Dest → Option Nat
  | .s sup n => if sup then (if 56 ≤ n ∧ n < 64 then some (0x240 + 8 * (n - 56)) else none)
    else if 0 < n ∧ n < 64 then some (0x40 + 8 * n) else none
  | .v n lo w => if w = 64 ∧ lo % 64 = 0 ∧ lo < 1024 ∧ n / 256 < c.mx.nBanks then some (0x54000 + 128 * n + lo / 8) else none
  | .m n w => if w = 128 ∧ 0 < n ∧ n < 16 then some (0x300 + 16 * n) else none
  | .c n => if n < 8 then some 0x400 else none
  | .lc n => if n < 4 then some (0x408 + 8 * n) else none
  | .q n => if n < 8 then some (0x4A8 + 8 * n) else none
  | _ => none

/-- An uncorrectable error in a word of a register file or in a full/empty tag: it is logged with its place in the debug
window (18 R438, R440), and as 09 R305 names no access that meets it, what the word then holds is a free value (log entry
31). -/
def State.wordLost (s : State) (c : Ctx) (core place : Nat) (set : BitVec 128 → State → State) : State :=
  let (v, s1) := s.takeFree 128
  let s2 := set v s1
  if (s.guessOf c).isSome then s2 else s2.logError 1 core (w64 (debugBase core + place))

/-- A soft error elsewhere (18 R438). -/
def State.soft (s : State) (f : Flaw) : State :=
  match f with
  | .counted p u => if (p < 2 || p == 5) && decide (u < unitsOfPlace p) then s.countError p u else s
  | .l2 line => { s with mem := { s.mem with poison := mput s.mem.poison line false } }
  | .l1 core line bad => s.onCore core (fun c => { c with l1bad := if bad then mput c.l1bad line true else mdel c.l1bad line })
  | .kitty q line =>
    if (mfind (s.queueAt q).dealer.kitty line).isNone then s
    else s.onDealer q (fun d => { d with kbad := mput d.kbad line true })
  | .acc k n el => if 1024 ≤ el then s else s.onCtx k (fun c => c.onTile n (fun t => { t with bad := mput t.bad el true }))
  | .reg k d =>
    match (s.ctxAt k).wordPlace d with
    | some o =>
      if (s.ctxAt k).st == .free then s
      else s.wordLost (s.ctxAt k) (k / 4) (0xD4000 * (k % 4) + o) (fun v s => s.onCtx k (fun c => c.put d v.toNat))
    | none => s
  | .sreg n r =>
    if r = 0 || 32 ≤ r || !(s.sideAt n).present then s
    else s.wordLost (s.ctxAt (n / 2)) (n / 8) (0x714000 + 0x40000 * (n % 2) + 8 * r)
      (fun v s => s.onSide n (fun x => x.wx (BitVec.ofNat 5 r) (v.setWidth 64)))
  | .tag r w =>
    match mfind s.disp.resvs r with
    | some v =>
      if v.size ≤ 8 * w then s
      else s.wordLost { resv := r, task := v.task } v.core (0x500000 + (s.shareBase v.core r / 8 + w) / 64 * 8)
        (fun x s => s.onResv r (fun v => v.setTag w (x.getLsbD 0)))
    | none => s
  | .side n data w => s.onSide n (fun x => if data then { x with dbad := mput x.dbad w true } else { x with ibad := mput x.ibad w true })

/-! ### Moves the model makes of itself -/

/-- A move that may be enabled: the meaning of a row of the table, or of a copy's next row. -/
abbrev Cand := State → Out State

/-- Moves of a context. -/
def State.ctxMoves (s : State) (k : Nat) : List Cand :=
  let c := s.ctxAt k
  let pend (a : Access) : Cand :=
    if a.deferred then execDeferredPush k a.va.toNat
    else if a.isRed then execRedCombine k a.grp (a.id - a.grp)
    else if a.returns then execLoadReturn k a.id
    else execStorePerformed k a.id
  [(fun s => if (s.ctxAt k).sq.late.isEmpty then .refused .notEnabled else .next (s.land k (fun _ => true))),
   execTrapEntry k, execContextPark k, execWaitLimitTrap k] ++
    (upto c.sys.shadow.length).map (fun i => execShadowLatchDeliver k i) ++
    c.mem.pend.map pend ++
    c.mx.ops.map (fun o => execMOpComplete k o.id) ++
    [execMOpStart k, execHandChangeEffect k,
     execTlbInvalidationComplete k]

/-- Moves of a core's copy engine and hands. -/
def State.coreMoves (s : State) (n : Nat) : List Cand :=
  (s.coreAt n).copies.flatMap (fun o =>
    [execCopyFault n o.id, execCopyComplete n o.id,
     execCopyStart n o.id, fun t => t.rowMove n o.id]) ++
  [execHandGrant n]

/-- The groups that live contexts belong to: task, level and unit. -/
def State.liveGroups (s : State) : List (Nat × Nat × Nat) :=
  s.ctxs.flatMap (fun e => if e.2.counts then [2, 3, 4, 5, 6].map (fun l => (e.2.task, l, unitOf l e.1)) else [])

/-- Moves of the engines of the H-die, and of requesters at the fault queues. -/
def State.hubMoves (s : State) : List Cand :=
  let posts := s.allHeld.filterMap (fun x => if x.2.id.isSome then none else some (match x.1 with
    | .ctx k => k
    | .side n => 0x10000 + n
    | .copy _ id => 0x100000 + id))
  posts.map (fun c => execFaultPost c) ++
  s.hub.couch.flatMap (fun e => [execCouchJobFail e.1, execCouchJobComplete e.1,
    execCouchJobStart e.1]) ++
  s.hub.colls.map (fun x => execCollectiveComplete x.task x.level x.unit_) ++
  s.liveGroups.map (fun x => execBarrierGenerationComplete x.1 x.2.1 x.2.2) ++
  [execStatsRecordAdd 0, execCalenderReadCopyUpdate] ++
  s.mem.reams.map (fun e => execReamReady (e.1 / 64) (e.1 % 64)) ++
  [execBringupDone, execAttestDone]

/-- Moves of the dispatcher and the Dealer; a guess is started only where the agenda says so. -/
def State.dispMoves (s : State) : List Cand :=
  let qs := (s.disp.queues.map (fun e => e.1)) ++ ((upto 256).filter (fun q => s.qstate q = 1 && (mfind s.disp.queues q).isNone))
  let ts := s.disp.tasks.map (fun e => e.1)
  let first (t : Nat) : List Nat := (((s.fitUnits (s.taskAt t)).headD []).take (s.taskAt t).groupCores)
  let old := match s.mgmt.pre with | some p => (s.taskAt p.task).images.map (fun v => v.core) | none => []
  qs.filterMap (fun q => (s.dropCause q).map (fun c => execGuessDrop q c)) ++
  ts.flatMap (fun t => [execTaskEnd t, execTaskComplete t, execGangStart t, execPriorityAge t, execStarvationHold t]) ++
  [execEvictSave, execResumeRestore old] ++
  qs.map (fun q => execRecordWrite q) ++
  (upto 4).map (fun d => execTaskAdmit d) ++
  qs.map (fun q => execGuessClaim q) ++
  ts.map (fun t => execGroupPlace t (first t)) ++
  qs.flatMap (fun q => [execNodeTask q, execNodeCond q, execNodeWhile q,
    execNodeCalstep q, execNodeRerun q, execLaunch q,
    execGraph q, execUnassignedCmd q])

/-- The first move of a list that is enabled. -/
def State.firstEnabled (s : State) : List Cand → Option Plan
  | [] => none
  | c :: t =>
    match c s with
    | .next s1 => some (.done s1)
    | _ => s.firstEnabled t

/-- A core can act: a context of it can issue, or can retire. -/
def State.coreActs (s : State) (core : Nat) : Bool :=
  (upto 4).any (fun i =>
    let k := 4 * core + i
    s.canIssue k || s.exitDone k)

/-- The turn of the next core or sidecar that can act; after the last, time passes. -/
def State.nextTurn (s : State) : Plan :=
  let cores := (s.ctxs.map (fun e => e.1 / 4)).dedup
  match cores.find? (fun n => decide (s.turn ≤ n) && s.coreActs n) with
  | some n => { s with turn := n + 1 }.issueCore n
  | none =>
    match s.sides.find? (fun e => decide (s.turn ≤ 576 + e.1) && s.sideCan e.1) with
    | some e => { s with turn := 577 + e.1 }.sidePlan e.1
    | none => .done ({ s with turn := 0 }.tick 1 1)

/-- The move the model makes when the agenda is empty. -/
def State.ownMove (s : State) : Plan :=
  let l := s.hubMoves ++ s.dispMoves ++ s.ctxs.flatMap (fun e => s.ctxMoves e.1) ++ s.cores.flatMap (fun e => s.coreMoves e.1)
  (s.firstEnabled l).getD s.nextTurn

/-- What the next step does. -/
def State.plan (s : State) : Plan :=
  match s.agenda with
  | [] => s.ownMove
  | m :: t =>
    let s1 := { s with agenda := t }
    match m with
    | .event i => .run i s1
    | .issue core => s1.issueCore core
    | .side core which =>
      match s1.sideOn core (which - 1) with
      | some n => s1.sidePlan n
      | none => .out (.refused .noSidecar)
    | .row core id => .out (s1.rowMove core id)
    | .land k => .done (s1.land k (fun _ => true))
    | .tick n t => .done (s1.tick n t)
    | .poison line => .done (s1.strike line)
    | .poisonShare r w => .done (s1.strikeShare r w)
    | .flaw f => .done (s1.soft f)
    | .evictLine line => .done (s1.evictLine line)
    | .forgetWalks sl => .done { s1 with walks := mdel s1.walks sl }

end Sys2Proof.Machine
end

