-- ==== Sys2Proof/Machine/Dispatch.lean ====
section
/-!
DEFINITION. One arm for each instruction: its meaning.
-/

namespace Sys2Proof.Machine

def exec (i : Instr) (s : State) : Host.Outcome State Fault Refusal :=
  match i with
  | .add f => Sys2Proof.Machine.execAdd f s
  | .sub f => Sys2Proof.Machine.execSub f s
  | .addi f => Sys2Proof.Machine.execAddi f s
  | .mul f => Sys2Proof.Machine.execMul f s
  | .mulh f => Sys2Proof.Machine.execMulh f s
  | .mulhu f => Sys2Proof.Machine.execMulhu f s
  | .div f => Sys2Proof.Machine.execDiv f s
  | .divu f => Sys2Proof.Machine.execDivu f s
  | .rem f => Sys2Proof.Machine.execRem f s
  | .remu f => Sys2Proof.Machine.execRemu f s
  | .and f => Sys2Proof.Machine.execAnd f s
  | .or f => Sys2Proof.Machine.execOr f s
  | .xor f => Sys2Proof.Machine.execXor f s
  | .andn f => Sys2Proof.Machine.execAndn f s
  | .shl f => Sys2Proof.Machine.execShl f s
  | .shr f => Sys2Proof.Machine.execShr f s
  | .sra f => Sys2Proof.Machine.execSra f s
  | .shli f => Sys2Proof.Machine.execShli f s
  | .shri f => Sys2Proof.Machine.execShri f s
  | .srai f => Sys2Proof.Machine.execSrai f s
  | .clz f => Sys2Proof.Machine.execClz f s
  | .ctz f => Sys2Proof.Machine.execCtz f s
  | .popc f => Sys2Proof.Machine.execPopc f s
  | .min f => Sys2Proof.Machine.execMin f s
  | .max f => Sys2Proof.Machine.execMax f s
  | .minu f => Sys2Proof.Machine.execMinu f s
  | .maxu f => Sys2Proof.Machine.execMaxu f s
  | .sel f => Sys2Proof.Machine.execSel f s
  | .cmp f => Sys2Proof.Machine.execCmp f s
  | .li f => Sys2Proof.Machine.execLi f s
  | .lui f => Sys2Proof.Machine.execLui f s
  | .mov f => Sys2Proof.Machine.execMov f s
  | .sext f => Sys2Proof.Machine.execSext f s
  | .zext f => Sys2Proof.Machine.execZext f s
  | .bfx f => Sys2Proof.Machine.execBfx f s
  | .bfi f => Sys2Proof.Machine.execBfi f s
  | .addr f => Sys2Proof.Machine.execAddr f s
  | .fadd f => Sys2Proof.Machine.execFadd f s
  | .fsub f => Sys2Proof.Machine.execFsub f s
  | .fmul f => Sys2Proof.Machine.execFmul f s
  | .fmadd f => Sys2Proof.Machine.execFmadd f s
  | .fdiv f => Sys2Proof.Machine.execFdiv f s
  | .fsqrt f => Sys2Proof.Machine.execFsqrt f s
  | .fmin f => Sys2Proof.Machine.execFmin f s
  | .fmax f => Sys2Proof.Machine.execFmax f s
  | .fcmp f => Sys2Proof.Machine.execFcmp f s
  | .fcvt f => Sys2Proof.Machine.execFcvt f s
  | .fmvx f => Sys2Proof.Machine.execFmvx f s
  | .rdd f => Sys2Proof.Machine.execRdd f s
  | .rdsys f => Sys2Proof.Machine.execRdsys f s
  | .rdtime f => Sys2Proof.Machine.execRdtime f s
  | .mbrd f => Sys2Proof.Machine.execMbrd f s
  | .mbwr f => Sys2Proof.Machine.execMbwr f s
  | .vadd f => Sys2Proof.Machine.execVadd f s
  | .vsub f => Sys2Proof.Machine.execVsub f s
  | .vmul f => Sys2Proof.Machine.execVmul f s
  | .vmulh f => Sys2Proof.Machine.execVmulh f s
  | .vmadd f => Sys2Proof.Machine.execVmadd f s
  | .vabs f => Sys2Proof.Machine.execVabs f s
  | .vneg f => Sys2Proof.Machine.execVneg f s
  | .vmin f => Sys2Proof.Machine.execVmin f s
  | .vmax f => Sys2Proof.Machine.execVmax f s
  | .vsadd f => Sys2Proof.Machine.execVsadd f s
  | .vssub f => Sys2Proof.Machine.execVssub f s
  | .vshl f => Sys2Proof.Machine.execVshl f s
  | .vshr f => Sys2Proof.Machine.execVshr f s
  | .vsra f => Sys2Proof.Machine.execVsra f s
  | .vand f => Sys2Proof.Machine.execVand f s
  | .vor f => Sys2Proof.Machine.execVor f s
  | .vxor f => Sys2Proof.Machine.execVxor f s
  | .vnot f => Sys2Proof.Machine.execVnot f s
  | .vclz f => Sys2Proof.Machine.execVclz f s
  | .vpopc f => Sys2Proof.Machine.execVpopc f s
  | .vfadd f => Sys2Proof.Machine.execVfadd f s
  | .vfsub f => Sys2Proof.Machine.execVfsub f s
  | .vfmul f => Sys2Proof.Machine.execVfmul f s
  | .vfma f => Sys2Proof.Machine.execVfma f s
  | .vfms f => Sys2Proof.Machine.execVfms f s
  | .vfmin f => Sys2Proof.Machine.execVfmin f s
  | .vfmax f => Sys2Proof.Machine.execVfmax f s
  | .vfabs f => Sys2Proof.Machine.execVfabs f s
  | .vfneg f => Sys2Proof.Machine.execVfneg f s
  | .vfrcp f => Sys2Proof.Machine.execVfrcp f s
  | .vfrsqrt f => Sys2Proof.Machine.execVfrsqrt f s
  | .vfsqrt f => Sys2Proof.Machine.execVfsqrt f s
  | .vfexp2 f => Sys2Proof.Machine.execVfexp2 f s
  | .vflog2 f => Sys2Proof.Machine.execVflog2 f s
  | .vftanh f => Sys2Proof.Machine.execVftanh f s
  | .vferf f => Sys2Proof.Machine.execVferf f s
  | .vfsin f => Sys2Proof.Machine.execVfsin f s
  | .vfcos f => Sys2Proof.Machine.execVfcos f s
  | .vcmul f => Sys2Proof.Machine.execVcmul f s
  | .vcmla f => Sys2Proof.Machine.execVcmla f s
  | .vcmp f => Sys2Proof.Machine.execVcmp f s
  | .vfcmp f => Sys2Proof.Machine.execVfcmp f s
  | .mand f => Sys2Proof.Machine.execMand f s
  | .mor f => Sys2Proof.Machine.execMor f s
  | .mxor f => Sys2Proof.Machine.execMxor f s
  | .mnot f => Sys2Proof.Machine.execMnot f s
  | .mpopc f => Sys2Proof.Machine.execMpopc f s
  | .mffs f => Sys2Proof.Machine.execMffs f s
  | .vsel f => Sys2Proof.Machine.execVsel f s
  | .vcvt f => Sys2Proof.Machine.execVcvt f s
  | .vqnt f => Sys2Proof.Machine.execVqnt f s
  | .vdq f => Sys2Proof.Machine.execVdq f s
  | .vqc4 f => Sys2Proof.Machine.execVqc4 f s
  | .vdqc4 f => Sys2Proof.Machine.execVdqc4 f s
  | .vsrseed f => Sys2Proof.Machine.execVsrseed f s
  | .vmov f => Sys2Proof.Machine.execVmov f s
  | .vbcast f => Sys2Proof.Machine.execVbcast f s
  | .vperm f => Sys2Proof.Machine.execVperm f s
  | .vshuf f => Sys2Proof.Machine.execVshuf f s
  | .vslide f => Sys2Proof.Machine.execVslide f s
  | .vcompress f => Sys2Proof.Machine.execVcompress f s
  | .vcompressKeep f => Sys2Proof.Machine.execVcompressKeep f s
  | .vexpand f => Sys2Proof.Machine.execVexpand f s
  | .vzip f => Sys2Proof.Machine.execVzip f s
  | .vunzip f => Sys2Proof.Machine.execVunzip f s
  | .vext f => Sys2Proof.Machine.execVext f s
  | .vins f => Sys2Proof.Machine.execVins f s
  | .vred f => Sys2Proof.Machine.execVred f s
  | .vfred f => Sys2Proof.Machine.execVfred f s
  | .vscan f => Sys2Proof.Machine.execVscan f s
  | .vhist f => Sys2Proof.Machine.execVhist f s
  | .arow f => Sys2Proof.Machine.execArow f s
  | .acol f => Sys2Proof.Machine.execAcol f s
  | .awrow f => Sys2Proof.Machine.execAwrow f s
  | .awcol f => Sys2Proof.Machine.execAwcol f s
  | .mld f => Sys2Proof.Machine.execMld f s
  | .mldw f => Sys2Proof.Machine.execMldw f s
  | .mswap f => Sys2Proof.Machine.execMswap f s
  | .mma f => Sys2Proof.Machine.execMma f s
  | .mmas f => Sys2Proof.Machine.execMmas f s
  | .mmac f => Sys2Proof.Machine.execMmac f s
  | .mmaC f => Sys2Proof.Machine.execMmaC f s
  | .azero f => Sys2Proof.Machine.execAzero f s
  | .acvt f => Sys2Proof.Machine.execAcvt f s
  | .aadd f => Sys2Proof.Machine.execAadd f s
  | .acfg f => Sys2Proof.Machine.execAcfg f s
  | .await f => Sys2Proof.Machine.execAwait f s
  | .awaitAll f => Sys2Proof.Machine.execAwaitAll f s
  | .mpcset f => Sys2Proof.Machine.execMpcset f s
  | .mstat f => Sys2Proof.Machine.execMstat f s
  | .aclr f => Sys2Proof.Machine.execAclr f s
  | .aload f => Sys2Proof.Machine.execAload f s
  | .ld f => Sys2Proof.Machine.execLd f s
  | .st f => Sys2Proof.Machine.execSt f s
  | .ldv f => Sys2Proof.Machine.execLdv f s
  | .stv f => Sys2Proof.Machine.execStv f s
  | .ldvs f => Sys2Proof.Machine.execLdvs f s
  | .stvs f => Sys2Proof.Machine.execStvs f s
  | .ldvg f => Sys2Proof.Machine.execLdvg f s
  | .stvg f => Sys2Proof.Machine.execStvg f s
  | .ldf f => Sys2Proof.Machine.execLdf f s
  | .ldfe f => Sys2Proof.Machine.execLdfe f s
  | .ste f => Sys2Proof.Machine.execSte f s
  | .stf f => Sys2Proof.Machine.execStf f s
  | .tagset f => Sys2Proof.Machine.execTagset f s
  | .tagclr f => Sys2Proof.Machine.execTagclr f s
  | .tld f => Sys2Proof.Machine.execTld f s
  | .tst f => Sys2Proof.Machine.execTst f s
  | .cpy f => Sys2Proof.Machine.execCpy f s
  | .rgather f => Sys2Proof.Machine.execRgather f s
  | .rscatter f => Sys2Proof.Machine.execRscatter f s
  | .amo f => Sys2Proof.Machine.execAmo f s
  | .red f => Sys2Proof.Machine.execRed f s
  | .verld f => Sys2Proof.Machine.execVerld f s
  | .verle f => Sys2Proof.Machine.execVerle f s
  | .verst f => Sys2Proof.Machine.execVerst f s
  | .verfl f => Sys2Proof.Machine.execVerfl f s
  | .vernew f => Sys2Proof.Machine.execVernew f s
  | .stopk f => Sys2Proof.Machine.execStopk f s
  | .cbcfg f => Sys2Proof.Machine.execCbcfg f s
  | .cbwait f => Sys2Proof.Machine.execCbwait f s
  | .cbpop f => Sys2Proof.Machine.execCbpop f s
  | .cbresv f => Sys2Proof.Machine.execCbresv f s
  | .cbpush f => Sys2Proof.Machine.execCbpush f s
  | .coll f => Sys2Proof.Machine.execColl f s
  | .pf f => Sys2Proof.Machine.execPf f s
  | .br f => Sys2Proof.Machine.execBr f s
  | .bt f => Sys2Proof.Machine.execBt f s
  | .call f => Sys2Proof.Machine.execCall f s
  | .ret f => Sys2Proof.Machine.execRet f s
  | .jr f => Sys2Proof.Machine.execJr f s
  | .loop f => Sys2Proof.Machine.execLoop f s
  | .loopw f => Sys2Proof.Machine.execLoopw f s
  | .brk f => Sys2Proof.Machine.execBrk f s
  | .trap f => Sys2Proof.Machine.execTrap f s
  | .yield f => Sys2Proof.Machine.execYield f s
  | .exit f => Sys2Proof.Machine.execExit f s
  | .spawn f => Sys2Proof.Machine.execSpawn f s
  | .nextr f => Sys2Proof.Machine.execNextr f s
  | .waitsb f => Sys2Proof.Machine.execWaitsb f s
  | .fence f => Sys2Proof.Machine.execFence f s
  | .fenceS f => Sys2Proof.Machine.execFenceS f s
  | .bar f => Sys2Proof.Machine.execBar f s
  | .barArv f => Sys2Proof.Machine.execBarArv f s
  | .barwait f => Sys2Proof.Machine.execBarwait f s
  | .tagwaitany f => Sys2Proof.Machine.execTagwaitany f s
  | .tagwaitall f => Sys2Proof.Machine.execTagwaitall f s
  | .tagffr f => Sys2Proof.Machine.execTagffr f s
  | .tlwait f => Sys2Proof.Machine.execTlwait f s
  | .tlwaitBind f => Sys2Proof.Machine.execTlwaitBind f s
  | .tlwaitRead f => Sys2Proof.Machine.execTlwaitRead f s
  | .handreq f => Sys2Proof.Machine.execHandreq f s
  | .handrel f => Sys2Proof.Machine.execHandrel f s
  | .blend f => Sys2Proof.Machine.execBlend f s
  | .bret f => Sys2Proof.Machine.execBret f s
  | .cstep f => Sys2Proof.Machine.execCstep f s
  | .cset f => Sys2Proof.Machine.execCset f s
  | .cpin f => Sys2Proof.Machine.execCpin f s
  | .cread f => Sys2Proof.Machine.execCread f s
  | .dstat f => Sys2Proof.Machine.execDstat f s
  | .dhint f => Sys2Proof.Machine.execDhint f s
  | .mtsy f => Sys2Proof.Machine.execMtsy f s
  | .mfsy f => Sys2Proof.Machine.execMfsy f s
  | .eret f => Sys2Proof.Machine.execEret f s
  | .eretEnd f => Sys2Proof.Machine.execEretEnd f s
  | .tlbinv f => Sys2Proof.Machine.execTlbinv f s
  | .ctxsave f => Sys2Proof.Machine.execCtxsave f s
  | .ctxrestore f => Sys2Proof.Machine.execCtxrestore f s
  | .halt f => Sys2Proof.Machine.execHalt f s
  | .idleRun n => Sys2Proof.Machine.execIdleRun n s
  | .idleRunEnd => Sys2Proof.Machine.execIdleRunEnd s
  | .stickyReissue => Sys2Proof.Machine.execStickyReissue s
  | .xSpld rd rs1 => Sys2Proof.Machine.execXSpld rd rs1 s
  | .xSpst rs2 rs1 => Sys2Proof.Machine.execXSpst rs2 rs1 s
  | .xSpldfe rd rs1 => Sys2Proof.Machine.execXSpldfe rd rs1 s
  | .xSpste rs2 rs1 => Sys2Proof.Machine.execXSpste rs2 rs1 s
  | .xGld rd rs1 => Sys2Proof.Machine.execXGld rd rs1 s
  | .xGst rs2 rs1 => Sys2Proof.Machine.execXGst rs2 rs1 s
  | .xTagwait rs1 => Sys2Proof.Machine.execXTagwait rs1 s
  | .xRdd rd rs1 => Sys2Proof.Machine.execXRdd rd rs1 s
  | .xCopy rs1 => Sys2Proof.Machine.execXCopy rs1 s
  | .xCbcfg rs2 rs1 => Sys2Proof.Machine.execXCbcfg rs2 rs1 s
  | .xCbwait rs2 rs1 => Sys2Proof.Machine.execXCbwait rs2 rs1 s
  | .xCbresv rs2 rs1 => Sys2Proof.Machine.execXCbresv rs2 rs1 s
  | .xCbpop rs2 rs1 => Sys2Proof.Machine.execXCbpop rs2 rs1 s
  | .xCbpush rs2 rs1 => Sys2Proof.Machine.execXCbpush rs2 rs1 s
  | .sidecarRiscvInstruction i1 short => Sys2Proof.Machine.execSidecarRiscvInstruction i1 short s
  | .sidecarFault mcause mtval => Sys2Proof.Machine.execSidecarFault mcause mtval s
  | .loadReturn c id => Sys2Proof.Machine.execLoadReturn c id s
  | .storePerformed c id => Sys2Proof.Machine.execStorePerformed c id s
  | .redCombine c id elem => Sys2Proof.Machine.execRedCombine c id elem s
  | .mOpStart c => Sys2Proof.Machine.execMOpStart c s
  | .mOpComplete c id => Sys2Proof.Machine.execMOpComplete c id s
  | .metadataFetch c => Sys2Proof.Machine.execMetadataFetch c s
  | .statsRecordAdd i1 => Sys2Proof.Machine.execStatsRecordAdd i1 s
  | .handGrant core => Sys2Proof.Machine.execHandGrant core s
  | .handChangeEffect c => Sys2Proof.Machine.execHandChangeEffect c s
  | .copyStart core id => Sys2Proof.Machine.execCopyStart core id s
  | .copyComplete core id => Sys2Proof.Machine.execCopyComplete core id s
  | .copyFault core id => Sys2Proof.Machine.execCopyFault core id s
  | .deferredPush c h => Sys2Proof.Machine.execDeferredPush c h s
  | .collectiveComplete task level unit => Sys2Proof.Machine.execCollectiveComplete task level unit s
  | .barrierGenerationComplete task level unit => Sys2Proof.Machine.execBarrierGenerationComplete task level unit s
  | .versionReclaim line ver => Sys2Proof.Machine.execVersionReclaim line ver s
  | .couchJobStart eng => Sys2Proof.Machine.execCouchJobStart eng s
  | .couchJobComplete eng => Sys2Proof.Machine.execCouchJobComplete eng s
  | .couchJobFail eng => Sys2Proof.Machine.execCouchJobFail eng s
  | .waitLimitTrap c => Sys2Proof.Machine.execWaitLimitTrap c s
  | .trapEntry c => Sys2Proof.Machine.execTrapEntry c s
  | .shadowLatchDeliver c i1 => Sys2Proof.Machine.execShadowLatchDeliver c i1 s
  | .contextPark c => Sys2Proof.Machine.execContextPark c s
  | .gangStart task => Sys2Proof.Machine.execGangStart task s
  | .launch q => Sys2Proof.Machine.execLaunch q s
  | .graph q => Sys2Proof.Machine.execGraph q s
  | .taskAdmit die => Sys2Proof.Machine.execTaskAdmit die s
  | .groupPlace task cores => Sys2Proof.Machine.execGroupPlace task cores s
  | .priorityAge task => Sys2Proof.Machine.execPriorityAge task s
  | .starvationHold task => Sys2Proof.Machine.execStarvationHold task s
  | .taskComplete task => Sys2Proof.Machine.execTaskComplete task s
  | .taskEnd task => Sys2Proof.Machine.execTaskEnd task s
  | .recordWrite q => Sys2Proof.Machine.execRecordWrite q s
  | .nodeTask q => Sys2Proof.Machine.execNodeTask q s
  | .nodeCond q => Sys2Proof.Machine.execNodeCond q s
  | .nodeWhile q => Sys2Proof.Machine.execNodeWhile q s
  | .nodeCalstep q => Sys2Proof.Machine.execNodeCalstep q s
  | .nodeRerun q => Sys2Proof.Machine.execNodeRerun q s
  | .guessStart q cores => Sys2Proof.Machine.execGuessStart q cores s
  | .guessClaim q => Sys2Proof.Machine.execGuessClaim q s
  | .guessDrop q cause => Sys2Proof.Machine.execGuessDrop q cause s
  | .pageWalk slice part asid va => Sys2Proof.Machine.execPageWalk slice part asid va s
  | .faultPost c => Sys2Proof.Machine.execFaultPost c s
  | .verdictResolve part die id => Sys2Proof.Machine.execVerdictResolve part die id s
  | .verdictRefuse part die id => Sys2Proof.Machine.execVerdictRefuse part die id s
  | .qcfgEnSet q val => Sys2Proof.Machine.execQcfgEnSet q val s
  | .qcfgEnClear q val => Sys2Proof.Machine.execQcfgEnClear q val s
  | .qctlRestart q => Sys2Proof.Machine.execQctlRestart q s
  | .qctlReset q => Sys2Proof.Machine.execQctlReset q s
  | .qspecWrite q val => Sys2Proof.Machine.execQspecWrite q val s
  | .dlrcfgWrite die val => Sys2Proof.Machine.execDlrcfgWrite die val s
  | .prctlPark => Sys2Proof.Machine.execPrctlPark s
  | .prctlEvict => Sys2Proof.Machine.execPrctlEvict s
  | .prctlResume => Sys2Proof.Machine.execPrctlResume s
  | .evictSave => Sys2Proof.Machine.execEvictSave s
  | .resumeRestore cores => Sys2Proof.Machine.execResumeRestore cores s
  | .reamValidSet part n val => Sys2Proof.Machine.execReamValidSet part n val s
  | .reamReady part n => Sys2Proof.Machine.execReamReady part n s
  | .reamValidClear part n val => Sys2Proof.Machine.execReamValidClear part n val s
  | .keySlotWrite addr val => Sys2Proof.Machine.execKeySlotWrite addr val s
  | .calenderPreset entry k => Sys2Proof.Machine.execCalenderPreset entry k s
  | .calenderClr entry => Sys2Proof.Machine.execCalenderClr entry s
  | .calenderWindowWrite entry word val => Sys2Proof.Machine.execCalenderWindowWrite entry word val s
  | .registerWrite addr val => Sys2Proof.Machine.execRegisterWrite addr val s
  | .packageResetWrite => Sys2Proof.Machine.execPackageResetWrite s
  | .powerOn => Sys2Proof.Machine.execPowerOn s
  | .bringupDone => Sys2Proof.Machine.execBringupDone s
  | .attgo => Sys2Proof.Machine.execAttgo s
  | .attestDone => Sys2Proof.Machine.execAttestDone s
  | .haltreq core => Sys2Proof.Machine.execHaltreq core s
  | .release core => Sys2Proof.Machine.execRelease core s
  | .windowRead f => Sys2Proof.Machine.execWindowRead f s
  | .windowWrite f => Sys2Proof.Machine.execWindowWrite f s
  | .memoryRead f => Sys2Proof.Machine.execMemoryRead f s
  | .memoryWrite f => Sys2Proof.Machine.execMemoryWrite f s
  | .recoveryStage f => Sys2Proof.Machine.execRecoveryStage f s
  | .recoveryCommit f => Sys2Proof.Machine.execRecoveryCommit f s
  | .malformedFrame f => Sys2Proof.Machine.execMalformedFrame f s
  | .fcsDrop f => Sys2Proof.Machine.execFcsDrop f s
  | .ptpMessage offset => Sys2Proof.Machine.execPtpMessage offset s
  | .gangAnnounce pkg gangid gpart gpkgs => Sys2Proof.Machine.execGangAnnounce pkg gangid gpart gpkgs s
  | .uePacket p => Sys2Proof.Machine.execUePacket p s
  | .linkLost task unit => Sys2Proof.Machine.execLinkLost task unit s
  | .portStateChange port st => Sys2Proof.Machine.execPortStateChange port st s
  | .flitReplay link => Sys2Proof.Machine.execFlitReplay link s
  | .nocParityResend router second => Sys2Proof.Machine.execNocParityResend router second s
  | .dieOvertemp die => Sys2Proof.Machine.execDieOvertemp die s
  | .governorTick power hot cool => Sys2Proof.Machine.execGovernorTick power hot cool s
  | .unassignedCmd q => Sys2Proof.Machine.execUnassignedCmd q s
  | .calenderReadCopyUpdate => Sys2Proof.Machine.execCalenderReadCopyUpdate s
  | .tlbInvalidationComplete c => Sys2Proof.Machine.execTlbInvalidationComplete c s

end Sys2Proof.Machine
end

