-- ==== Sys2Proof/Machine/Step.lean ====
section
/-!
DEFINITION. One step of the package, and the state in which the next step runs one given instruction.
-/

namespace Sys2Proof.Machine

/-- One step: the move that `plan` names, an instruction of `exec` or an outcome already reached. -/
def step (s : State) : Host.Outcome State Fault Refusal :=
  match s.plan with
  | .run i s' => exec i s'
  | .out o => o

/-- The pc at which a placed word stands, and the frame that backs its page. -/
def fetchVa : Nat := 0x1000000000000
@[inherit_doc fetchVa]
def fetchPa : Nat := 0

/-- The context that runs a placed word: live in slot 0 of core 0, of partition 0, with a share, a bank, tiles and a
loader sidecar. -/
def placedCtx : Ctx :=
  { st := .live, task := 1, resv := 1, loader := true
    r := { pc := w64 fetchVa }
    sys := { stvec := 0x1000000000800, swlog := 24 }
    mx := { nTiles := 4, nBanks := 1, hands := [0], hmax := 1 } }

/-- The state with what a fetch at core 0 needs: a placed context of a live task with its reservation, a translation of
its page in the core's TLB, the access masks, and a loader sidecar; `loads` are the bytes at the pc (log entry 21). -/
def State.withContext (s : State) (loads : List Byte) (side : Side) (m : Move) : State :=
  { s with
    ctxs := mput s.ctxs 0 placedCtx
    sides := mput s.sides 0 side
    cores := mput s.cores 0 { tlb := [{ part := 0, asid := 0, vbase := fetchVa / 4096, bits := 12, pa := fetchPa, key := 0, flags := 0x1F }] }
    mem := { s.mem with bytes := mwrite 0 s.mem.bytes fetchPa loads }
    disp := { s.disp with
      tasks := mput s.disp.tasks 1 { id := 1, st := .live, placed := true, started := true, order := 1 }
      resvs := mput s.disp.resvs 1 { core := 0, task := 1, slots := [0], spad := 1 } }
    mgmt := { s.mgmt with win := mput (mput s.mgmt.win 0x30000 1) 0x30040 1 }
    core := 0
    side := 0
    agenda := [m] }

/-- Places an instruction where the next step fetches it: a sidecar's word in the loader's instruction store at its pc, a
bundle of one slot in memory at the pc of a context that is next to issue. -/
def State.withFetchWord (s : State) (nbits w : Nat) : State :=
  let sd : Side := { present := true, running := true }
  if nbits ≤ 32 then
    s.withContext [] { sd with imem := mwrite 0 [] 0 (leBytes 4 (w % 2 ^ 32)) } (.side 0 1)
  else s.withContext (leBytes 12 (w % 2 ^ 96)) sd (.issue 0)

end Sys2Proof.Machine
end

