-- ==== Sys2Proof/Safety.lean ====
section
/-!
DEFINITION. The terms the statements use: when a slot issues and nothing stands in its way, when its packet ends
plainly, and what a packet leaves as it was.
-/

namespace Sys2Proof

/-- A step that answers a next state. -/
def Steps (s t : Machine.State) : Prop := Machine.step s = .next t

namespace Machine

/-- What the slot at issue finds: the context and its share before the packet, and the latch it loads (04 R104,
R106). -/
def State.slotEnv (s : State) (i : Instr) : Env :=
  { k := s.ck, pos := s.issue.pos, c := s.me, share := s.resvAt s.me.resv, o := freshLatch s.me i }

/-- The slot at issue reaches its own checks, but for what its mode may forbid: the context may issue (02 R39, R62; 15
R389), the slot is legal (04 R129), its guard is true (04 R113), the core stalls for nothing the operation names (04
R105; 05 R169; 10 R327; 15 R386), and its results have room (15 R382). -/
def State.slotClear (s : State) (i : Instr) : Bool :=
  let c := s.me
  s.canIssue s.ck &&
    (slotIllegal s.issue.bt (decide (1 < s.issue.reps)) (s.issue.next - s.issue.pc).toNat i).isNone &&
    guardOn c.r s.issue.bt (guardOf i) &&
    c.mx.chg.isNone &&
    !c.mem.pend.any s.accessHeld &&
    !c.mem.pend.any (fun a => c.stallsOn [i] a.dest) &&
    !c.mem.stepWait.any (fun w => c.stallsOn [i] w.1) &&
    (!c.latchesRun || !c.sys.shadow.any (fun x => c.stallsOn [i] x.dest)) &&
    !c.sq.late.any (fun n => c.stallsOn [i] (.v n 0 1024)) && c.roomy [i] &&
    (c.mem.pend.isEmpty || (vRings i (freshLatch c i)).isEmpty)

/-- As `slotClear`, where no asynchronous trap is due (15 R385) and a privileged operation is in supervisor mode (15
R375). -/
def State.slotReady (s : State) (i : Instr) : Bool :=
  s.slotClear i && (s.me.r.sup || (s.me.sys.asyncs.isEmpty && (privOp i).isNone))

/-- As `slotClear`, but the guard is false (04 R109); no asynchronous trap is due. -/
def State.slotOff (s : State) (i : Instr) : Bool :=
  let c := s.me
  s.canIssue s.ck &&
    (slotIllegal s.issue.bt (decide (1 < s.issue.reps)) (s.issue.next - s.issue.pc).toNat i).isNone &&
    !guardOn c.r s.issue.bt (guardOf i) && c.mx.chg.isNone && c.mem.pend.isEmpty && c.mem.stepWait.isEmpty &&
    c.sq.late.isEmpty && (!c.latchesRun || c.sys.shadow.isEmpty) && c.roomy [i] && (c.r.sup || c.sys.asyncs.isEmpty)

/-- The state in which the operation of the slot at issue acts: its waits are over and the bookkeeping of the issue is
done. -/
def State.atAct (s : State) (i : Instr) : State :=
  match slotSem i with
  | some m => (m.wait (s.slotEnv i) s.fresh).1.opened s.ck s.me.sq.perf false [(s.issue.pos, freshLatch s.me i)]
  | none => s

/-- No class-I check of the operation finds a trap (15 R380), the core stalls for nothing of its own (08 R251), and nothing
it waits for is missing (02 R50). -/
def State.slotFree (s : State) (i : Instr) : Bool :=
  match slotSem i with
  | some m => (m.check s.fresh (s.slotEnv i)).isNone && !m.stall (s.slotEnv i) s.fresh && (m.wait (s.slotEnv i) s.fresh).2.isNone
  | none => false

/-- After the packet no hardware loop goes round (05 R161), and no step trap and no class-P trap of an earlier repetition is
taken (15 R379, R386). -/
def State.endsPlain (s : State) : Bool :=
  (s.me.sq.keptTrap s.issue.pc s.me.r.sup).isNone && (s.me.r.sup || !s.me.sys.sstep) && s.me.r.loops.all (fun l => !s.issue.starts.contains l.last)

/-- A context apart from its registers and its sequencing; the count of user issue cycles and the mark of a blocked
barrier are bookkeeping of the issue. -/
def Ctx.rest (c : Ctx) : Ctx :=
  { c with r := {}, sq := {}, sys := { c.sys with ticks := 0 }, mem := { c.mem with barHere := [] } }

/-- What a packet of no agent but the current context leaves of the cores and the management side: every other context,
the TLBs and walkers of the slices, the fault queues, the sidecars and every core, its own core's cycle count apart. -/
def Beyond (s t : State) : Prop :=
  t.mgmt = s.mgmt ∧ t.slices = s.slices ∧ t.walks = s.walks ∧ t.fq = s.fq ∧ t.fqIds = s.fqIds ∧ t.sides = s.sides ∧
    t.core = s.core ∧ t.agenda = s.agenda ∧ (∀ j, j ≠ s.ck → t.ctxAt j = s.ctxAt j) ∧
    ∀ n, { t.coreAt n with cycles := 0 } = { s.coreAt n with cycles := 0 }

/-- As `Beyond`, and the H-die. -/
def Outside (s t : State) : Prop := t.hub = s.hub ∧ Beyond s t

/-- Everything outside the current context is as it was. -/
def Aside (s t : State) : Prop := Outside s t ∧ t.mem = s.mem ∧ t.disp = s.disp

/-- Everything but the registers of the current context is as it was. -/
def Kept (s t : State) : Prop := Aside s t ∧ (t.ctxAt s.ck).rest = s.me.rest

/-- Outside the current context only `n` bytes of its share from an offset have changed; the order of 09 R287 has gone
on. -/
def StoredShare (s t : State) (off n : Nat) : Prop :=
  Outside s t ∧ { t.mem with now := 0 } = { s.mem with now := 0 } ∧ { t.disp with resvs := [] } = { s.disp with resvs := [] } ∧
    (∀ r, r ≠ s.me.resv → t.resvAt r = s.resvAt r) ∧
    { t.resvAt s.me.resv with bytes := [], poison := [] } = { s.resvAt s.me.resv with bytes := [], poison := [] } ∧
    ∀ a, a < off ∨ off + n ≤ a → mget 0 (t.resvAt s.me.resv).bytes a = mget 0 (s.resvAt s.me.resv).bytes a

/-- The scalars of the other mode's copy of s56 to s63 (15 R375). -/
def Regs.hidden (r : Regs) (n : Nat) : W64 := if r.sup then mget 0 r.s n else mget 0 r.ss n

/-- The registers but for the scalars and the pc. -/
def Regs.noS (r : Regs) : Regs := { r with pc := 0, s := [], ss := [] }
/-- The registers but for the vector registers and the pc. -/
def Regs.noV (r : Regs) : Regs := { r with pc := 0, v := [] }
/-- The registers but for the masks and the pc. -/
def Regs.noM (r : Regs) : Regs := { r with pc := 0, m := [] }
/-- The registers but for the condition bits and the pc. -/
def Regs.noC (r : Regs) : Regs := { r with pc := 0, c := 0 }
/-- The registers but for the pc. -/
def Regs.noPc (r : Regs) : Regs := { r with pc := 0 }

/-- The value of the scalar that a field of a slot names. -/
abbrev State.sc (s : State) {w : Nat} (n : BitVec w) : W64 := s.me.r.rs n.toNat

/-- Scalar `sd` alone takes a value, the copies of the other mode kept; s0 discards it (01 R32; 15 R375). -/
def ScalarIs (s t : State) (sd : Nat) (v : W64) : Prop :=
  (t.ctxAt s.ck).r.rs sd = (if sd = 0 then 0 else v) ∧
    (∀ n, n ≠ sd → (t.ctxAt s.ck).r.rs n = s.me.r.rs n) ∧
    ∀ n, 56 ≤ n → (t.ctxAt s.ck).r.hidden n = s.me.r.hidden n

/-- After its last repetition the packet goes to an address; before it, the context stays at the packet (04 R102, R110). -/
def GoesTo (s t : State) (a : W64) : Prop :=
  (t.ctxAt s.ck).r.pc = if s.issue.rep < s.issue.reps then s.me.r.pc else a

/-- The packet takes no transfer: after its last repetition the context is at the next packet (04 R102, R110). -/
def GoesOn (s t : State) : Prop := GoesTo s t s.issue.next

/-- Beside the pc, the one effect is that scalar `sd` takes a value. -/
def SetsS (s t : State) (sd : Nat) (v : W64) : Prop :=
  Kept s t ∧ (t.ctxAt s.ck).r.noS = s.me.r.noS ∧ ScalarIs s t sd v

/-- The one effect is that scalar `sd` takes a value. -/
def WritesS (s t : State) (sd : Nat) (v : W64) : Prop := SetsS s t sd v ∧ GoesOn s t

/-- As `WritesS`, where an operation in SR mode has also drawn once from generator 0 (05 R144, 03 R94). -/
def WritesSD (s t : State) (sd : Nat) (draws : Bool) (v : W64) : Prop :=
  Kept s t ∧ { (t.ctxAt s.ck).r.noS with gens := [] } = { s.me.r.noS with gens := [] } ∧
    (t.ctxAt s.ck).r.gens = (if draws then (s.me.r.draw 0).2.gens else s.me.r.gens) ∧
    ScalarIs s t sd v ∧ GoesOn s t

/-- The one effect is that scalar SD takes a value that the width of FN[0], the mode of FN[3:1] and, in SR mode, one draw
determine (05 R144). -/
def RoundsS (s t : State) (f : SR) (g : Fl → Rnd → BitVec 32 → Nat) : Prop :=
  WritesSD s t f.sd.toNat (decide (Rnd.get (f.fn.toNat / 2) = .sr))
    (BitVec.ofNat 64 (g (flWidth (f.fn.getLsbD 0)) (Rnd.get (f.fn.toNat / 2))
      (if Rnd.get (f.fn.toNat / 2) = .sr then (s.me.r.draw 0).1 else 0)))

/-- The one effect is that condition bit `n` takes a value. -/
def WritesC (s t : State) (n : Nat) (b : Bool) : Prop :=
  Kept s t ∧ GoesOn s t ∧ (t.ctxAt s.ck).r.noC = s.me.r.noC ∧
    (t.ctxAt s.ck).r.rc n = b ∧ ∀ j, j < 8 → j ≠ n → (t.ctxAt s.ck).r.rc j = s.me.r.rc j

/-- In every state where the slot is ready and its packet ends plainly, an instruction answers a next state, and `post`
holds of the states before and after it. -/
def Completes (i : Instr) (post : State → State → Prop) : Prop :=
  ∀ s, s.slotReady i = true → s.endsPlain = true → ∃ t, exec i s = .next t ∧ post s t

/-- As `Completes`, where no class-I check of the instruction finds a trap and nothing it waits for is missing. -/
def CompletesFree (i : Instr) (post : State → State → Prop) : Prop :=
  ∀ s, s.slotReady i = true → s.slotFree i = true → s.endsPlain = true → ∃ t, exec i s = .next t ∧ post s t

/-- As `Completes`, where `pre` holds of the state before. -/
def CompletesIf (i : Instr) (pre : State → Prop) (post : State → State → Prop) : Prop :=
  ∀ s, s.slotReady i = true → s.endsPlain = true → pre s → ∃ t, exec i s = .next t ∧ post s t

/-- The one effect is that bits of mask `n` below `w` take a value; m0 discards it (01 R32). -/
def WritesM (s t : State) (n w : Nat) (v : Nat → Bool) : Prop :=
  Kept s t ∧ GoesOn s t ∧ (t.ctxAt s.ck).r.noM = s.me.r.noM ∧
    (∀ j, j ≠ n → (t.ctxAt s.ck).r.rm j = s.me.r.rm j) ∧
    ∀ l, l < 128 → bit ((t.ctxAt s.ck).r.rm n) l = (if n = 0 then true else if l < w then v l else bit (s.me.r.rm n) l)

/-! ### Vector operands (04 R118, R119; 06 R173 to R176) -/

/-- Element `j` of `b` bits. -/
def lane (b x j : Nat) : Nat := x / 2 ^ (b * j) % 2 ^ b

/-- The share offset of slot `j` of a ring operand: from the consumer pointer for a source, from the producer pointer for a
destination (08 R250). -/
def State.ringAt (s : State) (num j : Nat) (dst : Bool) : Nat :=
  let hd := s.me.handle (num / 128 % 16)
  hd.at ((if dst then hd.pp else hd.cp) + num % 128 + j)

/-- The bits of register or ring slot `j` of an operand of the current context. -/
def State.vBits (s : State) (cls num j w : Nat) (dst : Bool) : Nat :=
  if cls = 0 then (s.me.r.rv (num + j)).toNat % 2 ^ w
  else leNat ((s.resvAt s.me.resv).read (s.ringAt num j dst) (w / 8))

/-- Element `j` of a source operand: of a register, of a ring slot, or the low bits of a scalar in every position. -/
def State.vSrc (s : State) (cls num w b j : Nat) : Nat :=
  if cls = 2 then (s.me.r.rs (num % 64)).toNat % 2 ^ b else lane b (s.vBits cls num 0 w false) j

/-- Elements of the first and the second source and of the old destination of an operation of form VR. -/
def State.va (s : State) (f : VR) (j : Nat) : Nat := s.vSrc f.ac.toNat f.va.toNat (widthOf f.w) (tyBits f.et.toNat) j
@[inherit_doc State.va]
def State.vb (s : State) (f : VR) (j : Nat) : Nat := s.vSrc f.bc.toNat f.vb.toNat (widthOf f.w) (tyBits f.et.toNat) j
@[inherit_doc State.va]
def State.vd (s : State) (f : VR) (j : Nat) : Nat := lane (tyBits f.et.toNat) (s.vBits f.dc.toNat f.vd.toNat 0 (widthOf f.w) true) j

/-- The elements of an operand of form VR. -/
def vCount (f : VR) : Nat := widthOf f.w / tyBits f.et.toNat

/-- An element of an integer type as a number, and a number as an element: the even types are signed (03 R81). -/
def vInt (f : VR) (x : Nat) : Int := if f.et.toNat % 2 = 0 then (BitVec.ofNat (tyBits f.et.toNat) x).toInt else (x : Int)
@[inherit_doc vInt]
def vNat (f : VR) (z : Int) : Nat := (BitVec.ofInt (tyBits f.et.toNat) z).toNat

/-- The least and the greatest value of an integer type (03 R81). -/
def vLeast (f : VR) : Int := if f.et.toNat % 2 = 0 then -2 ^ (tyBits f.et.toNat - 1) else 0
@[inherit_doc vLeast]
def vGreatest (f : VR) : Int := 2 ^ (if f.et.toNat % 2 = 0 then tyBits f.et.toNat - 1 else tyBits f.et.toNat) - 1

/-- Is element `j` of an operation enabled by its mask (06 R174)? -/
def State.lit (s : State) (f : VR) (j : Nat) : Bool := bit (s.me.r.rm f.mask.toNat) (j * tyBits f.et.toNat / 8)

/-- The registers but for the vector registers, the generators and the pc. -/
def Regs.noVG (r : Regs) : Regs := { r with pc := 0, v := [], gens := [] }

/-- The generators that an operation in a rounding mode draws from, in order: none outside SR mode (03 R93, R94). -/
def srGens (rm : Nat) (gens : List Nat) : List Nat := if rm = 4 then gens else []

/-- Draw `i` of a packet that draws from the generators of a list in order. -/
def State.drawAt (s : State) (gens : List Nat) (i : Nat) : BitVec 32 := (s.me.r.drawList gens).1.getD i 0

/-- The generators that an operation of form VR draws from: position i from generator i mod 32, twice for each complex
element (06 R179). -/
def vGens (f : VR) : List Nat := srGens f.rm.toNat (vDraws (isCplx f.et.toNat) (vCount f))

/-- Outside its context's other registers, an operation changes `n` destinations of `w` bits from one on: registers,
whose upper bits stay (04 R119), or ring slots. -/
def Lands (s t : State) (dc vd w n : Nat) : Prop :=
  if dc = 0 then
    Aside s t ∧ (∀ j, j < vd ∨ vd + n ≤ j → (t.ctxAt s.ck).r.rv j = s.me.r.rv j) ∧
      ∀ j, vd ≤ j → j < vd + n → ((t.ctxAt s.ck).r.rv j).toNat / 2 ^ w = (s.me.r.rv j).toNat / 2 ^ w
  else
    Outside s t ∧ { t.mem with now := 0 } = { s.mem with now := 0 } ∧
      { t.disp with resvs := [] } = { s.disp with resvs := [] } ∧ (∀ r, r ≠ s.me.resv → t.resvAt r = s.resvAt r) ∧
      { t.resvAt s.me.resv with bytes := [], poison := [] } = { s.resvAt s.me.resv with bytes := [], poison := [] } ∧
      (∀ a, (∀ j, j < n → a < s.ringAt vd j true ∨ s.ringAt vd j true + w / 8 ≤ a) →
        mget 0 (t.resvAt s.me.resv).bytes a = mget 0 (s.resvAt s.me.resv).bytes a) ∧
      ∀ j, (t.ctxAt s.ck).r.rv j = s.me.r.rv j

/-- A vector operation changes nothing but its destination of `w` bits and the generators it draws from. -/
def VKept (s t : State) (dc vd w : Nat) (gens : List Nat) : Prop :=
  (t.ctxAt s.ck).rest = s.me.rest ∧ (t.ctxAt s.ck).r.noVG = s.me.r.noVG ∧ GoesOn s t ∧
    (t.ctxAt s.ck).r.gens = (s.me.r.drawList gens).2.gens ∧ Lands s t dc vd w 1

/-- The one effect is on the destination: each element that the mask enables takes a value, and the others keep their
bits in the merge form and are zero in the zeroing form (06 R173). -/
def WritesV (s t : State) (f : VR) (gens : List Nat) (v : Nat → Nat) : Prop :=
  VKept s t f.dc.toNat f.vd.toNat (widthOf f.w) gens ∧
    ∀ j, j < vCount f → t.vd f j =
      if s.lit f j then v j % 2 ^ tyBits f.et.toNat else if f.mrg = 1 then s.vd f j else 0

/-- The one effect is that every element of the destination takes a value, whatever the mask. -/
def FillsV (s t : State) (f : VR) (gens : List Nat) (v : Nat → Nat) : Prop :=
  VKept s t f.dc.toNat f.vd.toNat (widthOf f.w) gens ∧ ∀ j, j < vCount f → t.vd f j = v j % 2 ^ tyBits f.et.toNat

/-- As `CompletesFree`, where no ring operand meets an uncorrectable error (09 R305). -/
def CompletesV (i : Instr) (post : State → State → Prop) : Prop :=
  ∀ s, s.slotReady i = true → s.slotFree i = true → (vPoison i (s.slotEnv i)).isNone → s.endsPlain = true →
    ∃ t, exec i s = .next t ∧ post s t

/-- An elementwise operation of every form and type: element j of the destination takes the value of `v`. -/
def Lanes (mk : VR → Instr) (v : VR → State → Nat → Nat) : Prop :=
  ∀ f, CompletesV (mk f) (fun s t => WritesV s t f [] (v f s))

/-- An elementwise operation that rounds in the mode of RM: element j of the destination takes the value of `v`, and in
SR mode the operation draws (06 R179). -/
def RoundLanes (mk : VR → Instr) (v : VR → State → Nat → Nat) : Prop :=
  ∀ f, CompletesV (mk f) (fun s t => WritesV s t f (vGens f) (v f s))

/-- The lesser (`up` false) or the greater of two codes by 05 R146: −0 lies below +0, one NaN gives the other operand, and
two give the canonical NaN. -/
def Fl.Picks (fl : Fl) (up : Bool) (x y v : Nat) : Prop :=
  (fl.decode x = .nan → fl.decode y = .nan → v = fl.nanCode) ∧
  (fl.decode x = .nan → fl.decode y ≠ .nan → v = y) ∧ (fl.decode x ≠ .nan → fl.decode y = .nan → v = x) ∧
  (fl.decode x ≠ .nan → fl.decode y ≠ .nan → (v = x ∨ v = y) ∧
    (if up then !Num.lt (fl.decode v) (fl.decode x) && !Num.lt (fl.decode v) (fl.decode y)
      else !Num.lt (fl.decode x) (fl.decode v) && !Num.lt (fl.decode y) (fl.decode v)) ∧
    ((fl.decode x).isZero → (fl.decode y).isZero →
      (fl.decode v).isNeg = if up then (fl.decode x).isNeg && (fl.decode y).isNeg else (fl.decode x).isNeg || (fl.decode y).isNeg))

/-- The node of a pairwise tree at a level and an index over leaves that may be absent: an absent node leaves its partner
(06 R207). -/
def treeAt (g : Nat → Nat → Nat) (leaf : Nat → Option Nat) : Nat → Nat → Option Nat
  | 0, i => leaf i
  | k + 1, i => match treeAt g leaf k (2 * i), treeAt g leaf k (2 * i + 1) with
    | some a, some b => some (g a b)
    | some a, none => some a
    | none, b => b

/-- The accumulator of a scan before position i (06 R208). -/
def scanAt (add : Nat → Nat → Nat) (leaf : Nat → Option Nat) : Nat → Option Nat
  | 0 => none
  | i + 1 => match leaf i, scanAt add leaf i with
    | some x, some a => some (add a x)
    | some x, none => some x
    | none, a => a

/-- How many of the first `i` elements an operation's mask enables. -/
def State.rank (s : State) (f : VR) (i : Nat) : Nat := (List.range i).countP (s.lit f)

/-- Draw `i` of an operation of form VR, and the two of a complex element (06 R179). -/
def State.vDraw (s : State) (f : VR) (i : Nat) : BitVec 32 := s.drawAt (vGens f) i

/-- Element `i` of a side of a conversion (06 R192). -/
def VSide.at (v : VSide) (x i : Nat) : Nat := if v.pk then x / 2 ^ pkOff v.bits i % 2 ^ v.bits else lane v.bits x i

/-- The value that an operation of form VQ reads or writes as element `i` of width `b` from a register or ring slot on
(06 R193). -/
def State.vqAt (s : State) (cls num w b : Nat) (dst : Bool) (i : Nat) : Nat :=
  lane b (s.vBits cls num (i / (w / b)) w dst) (i % (w / b))

/-- The one record that the current context has sent is on its way to the H-die, or is held by the guess it runs in (10 R320,
11 R344); apart from it the state is `u`. -/
def Sends (s t u : State) (r : Rec) : Prop :=
  match s.guessOf s.me with
  | none => t.hub.recs = s.hub.recs ++ [r] ∧ (t.ctxAt s.ck).mem.recs = s.me.mem.recs + 1 ∧
      { (t.ctxAt s.ck).rest with mem := { (t.ctxAt s.ck).rest.mem with recs := 0 } } =
        { s.me.rest with mem := { s.me.rest.mem with recs := 0 } } ∧ u = { t with hub := { t.hub with recs := s.hub.recs } }
  | some q => (t.queueAt q).dealer.recs = (s.queueAt q).dealer.recs ++ [r] ∧ (∀ p, p ≠ q → t.queueAt p = s.queueAt p) ∧
      { t.queueAt q with dealer := { (t.queueAt q).dealer with recs := [] } } =
        { s.queueAt q with dealer := { (s.queueAt q).dealer with recs := [] } } ∧
      (t.ctxAt s.ck).rest = s.me.rest ∧ u = { t with disp := { t.disp with queues := s.disp.queues } }

/-- A quantising or dequantising operation changes nothing but its `n` destinations and the generators it draws from; one
that feeds a Calender entry also sends it one record, whose first word counts `m` elements (06 R197). -/
def VQKept (s t : State) (f : VQ) (n m : Nat) (gens : List Nat) : Prop :=
  (t.ctxAt s.ck).r.noVG = s.me.r.noVG ∧ GoesOn s t ∧ (t.ctxAt s.ck).r.gens = (s.me.r.drawList gens).2.gens ∧
    if f.ce = 0 then (t.ctxAt s.ck).rest = s.me.rest ∧ Lands s t f.dc.toNat f.vd.toNat (widthOf f.w) n
    else ∃ ws u, ws.head? = some (BitVec.ofNat 64 m) ∧ Sends s t u ⟨s.ck, f.cal.toNat, ws⟩ ∧
      Lands s u f.dc.toNat f.vd.toNat (widthOf f.w) n

/-- Element `i` of the source of an operation of form VQ, as an exact value (06 R193). -/
def State.vqIn (s : State) (f : VQ) (i : Nat) : Num :=
  Fl.fp32.decode (s.vqAt f.ac.toNat f.va.toNat (widthOf f.w) 32 false i)

/-! ### Control -/

/-- Nothing but the pc has changed. -/
def Still (s t : State) : Prop := Kept s t ∧ (t.ctxAt s.ck).r.noPc = s.me.r.noPc

/-- Nothing has changed but that the packet is over. -/
def Quiet (s t : State) : Prop := Still s t ∧ GoesOn s t

/-- The context has become another, its sequencing apart, and nothing else has changed; the packet is over. -/
def Becomes (s t : State) (c : Ctx) : Prop :=
  Aside s t ∧ GoesOn s t ∧ (t.ctxAt s.ck).rest = c.rest ∧ (t.ctxAt s.ck).r.noPc = c.r.noPc

/-- Memory is as it was; only lines that a walk has read may have become resident in their slices (17 R420, R421). -/
def MemKept (s t : State) : Prop := { t.mem with res := [] } = { s.mem with res := [] }

/-- A packet that blocks leaves its context where it was, with every register and everything outside as it was (02 R49,
R50). -/
def Blocks (s t : State) : Prop :=
  (t.ctxAt s.ck).r = s.me.r ∧ (t.ctxAt s.ck).mx = s.me.mx ∧ MemKept s t ∧ t.hub = s.hub ∧ t.disp = s.disp ∧ t.mgmt = s.mgmt ∧
    ∀ j, j ≠ s.ck → t.ctxAt j = s.ctxAt j

/-- A trap of the current context enters its handler at once: it is in user mode, in no guess, and no M-slot operation is
in flight (15 R382, R384; 11 R344); the slot at issue is one of the nine (04 R101). -/
def State.traps (s : State) : Bool :=
  !s.me.r.sup && (s.guessOf s.me).isNone && s.me.mx.ops.isEmpty && decide (s.issue.pos < 9)

/-- The context is at its trap handler (15 R382): in supervisor mode, with the pc at STVEC and every other register as in
`r`; SEPC, SCAUSE, SDETAIL and SREPL tell of the trap, and SSTEP is clear. -/
def Enters (s t : State) (r : Regs) (sepc : W64) (p : Trap) (srepl : W64) : Prop :=
  (t.ctxAt s.ck).r = { r with sup := true, pc := s.me.sys.stvec } ∧
    (t.ctxAt s.ck).sys.sepc = sepc ∧ (t.ctxAt s.ck).sys.sdetail = p.detail ∧ (t.ctxAt s.ck).sys.srepl = srepl ∧
    (t.ctxAt s.ck).sys.scause.toNat % 256 = p.code % 256 ∧ (t.ctxAt s.ck).sys.scause.toNat / 0x10000 % 16 = p.pos % 16 ∧
    (t.ctxAt s.ck).sys.scause.getLsbD 23 = decide (p.cls = .async) ∧
    (t.ctxAt s.ck).sys.sstep = false ∧ (t.ctxAt s.ck).sys.x0 = p.x0

/-- Where `pre` holds, an instruction takes a trap of class I at its packet: no slot performs, and the saved pc is the
packet (15 R379). -/
def FaultsAt (i : Instr) (pre : State → Prop) (p : State → Trap) : Prop :=
  ∀ s, s.slotReady i = true → s.traps = true → pre s →
    ∃ t, exec i s = .next t ∧ Enters s t s.me.r s.issue.pc { p s with cls := .issue, pos := s.issue.pos } 0

/-- Where `pre` holds, the packet of an instruction blocks (02 R50). -/
def BlocksIf (i : Instr) (pre : State → Prop) : Prop :=
  ∀ s, s.slotReady i = true → pre s → ∃ t, exec i s = .next t ∧ Blocks s t

/-- The copy tags that a wait names (09 R306). -/
def State.tagMaskOf (s : State) (f : BG) : Nat := (f.imm.toNat ||| (s.sc f.sa).toNat) % 2 ^ 16

/-- No access that a fence orders is in flight; a fence that drains reductions waits for those too (09 R297). -/
def State.fenced (s : State) (reds : Bool) : Prop := ∀ a ∈ s.me.mem.pend, a.deferred = true ∨ (reds = false ∧ a.isRed = true)

/-- No failed copy on a tag of a mask waits to be reported (08 R259). -/
def State.noFail (s : State) (mask : Nat) : Prop := ∀ x ∈ s.me.mem.cfails, mask.testBit x.tag = false

/-! ### Accesses -/

/-- Does a range of `z` bytes lie in the share, in the global window, or in the accumulator or mailbox window where an operation
takes that (01 R23, R33)? -/
def inWindow (size : Nat) (acc mail : Bool) (z a : Nat) : Bool :=
  decide (a + z ≤ size) || (acc && decide (0x1000000 ≤ a ∧ a + z ≤ 0x1040000)) || (mail && decide (0x2000000 ≤ a ∧ a + z ≤ 0x2000200)) ||
    decide (0x1000000000000 ≤ a ∧ a + z ≤ 0x10000000000000)

/-- The registers that an operation of form LM names are allotted and in the vector class, and its ring slots are there (01 R20,
R21; 06 R176). -/
def State.namesOk (s : State) (i : Instr) (f : LM) : Bool :=
  (regCheck s.me ((if f.dcl = 1 then [f.data.toNat] else []) ++ (indexReg i).toList)).isNone &&
    ((vRings i (freshLatch s.me i)).findSome? (fun x => x.check s.me)).isNone

/-- An operation of form LM on element addresses faults where the first of them that lies in no window, or where all do the
first that is not aligned, is `a` (08 R240, R241, R244). -/
def FaultsLM (mk : LM → Instr) (acc : Bool) (mail : Nat → Bool) (eas : LM → State → List W64) : Prop :=
  ∀ f a, FaultsAt (mk f) (fun s => s.namesOk (mk f) f = true ∧
      (eas f s).find? (fun x => !inWindow (s.resvAt s.me.resv).size acc (mail (sizeOf f.sz)) (sizeOf f.sz) x.toNat) = some a)
      (fun _ => { cls := .issue, code := 0x09, detail := a }) ∧
    FaultsAt (mk f) (fun s => s.namesOk (mk f) f = true ∧
      ((eas f s).all fun x => inWindow (s.resvAt s.me.resv).size acc (mail (sizeOf f.sz)) (sizeOf f.sz) x.toNat) = true ∧
      (eas f s).find? (fun x => x.toNat % sizeOf f.sz != 0) = some a)
      (fun _ => { cls := .issue, code := 0x0A, detail := a })

/-- Where the elements of an L-slot operation lie, as its act finds them: the state after the translations, the first
element that has no place, and the places before it (08 R244). -/
def State.placesOf (s : State) (i : Instr) (z : Nat) (u : Use) (store : Bool) (eas : List W64) :
    State × Option Placed × List (W64 × Loc × Option Nat) :=
  (s.atAct i).placeAll (s.slotEnv i) z u store eas

/-- The one effect is that accesses of one operation are in flight, after those before them in program order, and that the
operation's scoreboard slot counts one more (09 R287, R295). -/
def Launches (s t : State) (se : BitVec 1) (sbs : Nat) (l : List Access) : Prop :=
  (t.ctxAt s.ck).r.noPc = s.me.r.noPc ∧ GoesOn s t ∧
    { (t.ctxAt s.ck).rest with mem := { (t.ctxAt s.ck).rest.mem with pend := [], sb := [] } } =
      { s.me.rest with mem := { s.me.rest.mem with pend := [], sb := [] } } ∧
    (t.ctxAt s.ck).mem.pend = s.me.mem.pend ++ l ∧
    (∀ j a, l[j]? = some a → a.id = s.seq + j ∧ a.grp = s.seq) ∧
    (∀ n, mget 0 (t.ctxAt s.ck).mem.sb n = if se = 1 ∧ n = sbs then mget 0 s.me.mem.sb n + 1 else mget 0 s.me.mem.sb n) ∧
    MemKept s t ∧ t.hub = s.hub ∧ t.disp = s.disp ∧ ∀ j, j ≠ s.ck → t.ctxAt j = s.ctxAt j

/-- An access of `z` bytes of an operation of form LM at a place, with the operation's modifiers (08 R242; 09 R294,
R295). -/
def AccessAt (f : LM) (a : Access) (z : Nat) (p : W64 × Loc × Option Nat) : Prop :=
  a.va = p.1 ∧ a.loc = p.2.1 ∧ a.ecw = p.2.2 ∧ a.size = z ∧ a.acq = f.ord.getLsbD 0 ∧ a.rel = f.ord.getLsbD 1 ∧
    a.sbSet = (if f.se = 1 then some f.sbs.toNat else none) ∧ a.sbWait = if f.we = 1 then some f.sbw.toNat else none

/-- The name that `z` bytes of a data operand from byte `o` deliver to (08 R242). -/
def State.dataTo (s : State) (f : LM) (o z : Nat) : Dest :=
  if f.dcl = 0 then (if f.data.toNat % 64 = 0 then .none else .s (s.me.r.sup && decide (56 ≤ f.data.toNat % 64)) (f.data.toNat % 64))
  else if f.dcl = 1 then .v f.data.toNat (8 * o) (8 * z) else .ring (s.ringAt f.data.toNat 0 true + o)

/-- The data operand of a store from byte `o` on (08 R242). -/
def State.dataFrom (s : State) (f : LM) (o : Nat) : Nat :=
  (if f.dcl = 0 then (s.me.r.rs (f.data.toNat % 64)).toNat
    else if f.dcl = 1 then (s.me.r.rv f.data.toNat).toNat
    else leNat ((s.resvAt s.me.resv).read (s.ringAt f.data.toNat 0 false) 128)) / 2 ^ (8 * o)

/-- The lines of 64 bytes that an aligned access of a size lies in: each is an access of its own (09 R287). -/
def linesIn (z : Nat) : Nat := if z = 128 then 2 else 1

/-- The place `n` bytes further on in the line or lines that an access lies in. -/
def placeUp (p : W64 × Loc × Option Nat) (n : Nat) : W64 × Loc × Option Nat :=
  (p.1 + BitVec.ofNat 64 n,
    match p.2.1, p.2.2 with
    | .share o, _ => .share (o + n) | .phys a key, none => .phys (a + n) key | .acc o, _ => .acc (o + n) | l, _ => l,
    p.2.2.map (fun o => o + n))

/-- A load of form LM completes: with a place for every element address, a load of each of its lines is in flight, bound for
its part of the data operand (08 R245 to R247; 09 R287). -/
def LoadsAt (mk : LM → Instr) (eas : LM → State → List W64) : Prop :=
  ∀ f, CompletesFree (mk f) (fun s t => ∀ z n s1 ps, z = sizeOf f.sz → n = linesIn z →
    s.placesOf (mk f) z .read false (eas f s) = (s1, none, ps) →
    ∃ l, Launches s t f.se f.sbs.toNat l ∧ ps.length = (eas f s).length ∧ l.length = n * ps.length ∧
      ∀ j h a p, h < n → l[n * j + h]? = some a → ps[j]? = some p →
        AccessAt f a (z / n) (placeUp p (64 * h)) ∧ a.kind = .ld ∧ a.dest = s.dataTo f (z * j + 64 * h) (z / n) ∧
          a.signed = (f.dcl == 0 && f.data.getLsbD 6))

/-- A store of form LM completes: with a place for every element address, a store of its part of the data operand is in flight
to each of its lines (08 R245 to R247; 09 R287). -/
def StoresAt (mk : LM → Instr) (eas : LM → State → List W64) : Prop :=
  ∀ f, CompletesFree (mk f) (fun s t => ∀ z n s1 ps, z = sizeOf f.sz → n = linesIn z →
    s.placesOf (mk f) z .write true (eas f s) = (s1, none, ps) →
    ∃ l, Launches s t f.se f.sbs.toNat l ∧ ps.length = (eas f s).length ∧ l.length = n * ps.length ∧
      ∀ j h a p, h < n → l[n * j + h]? = some a → ps[j]? = some p →
        AccessAt f a (z / n) (placeUp p (64 * h)) ∧ a.kind = .st ∧
          a.data.toNat = s.dataFrom f (z * j + 64 * h) % 2 ^ (8 * (z / n)))

/-- The address of an operation with an offset, of a strided element and of a gathered one (08 R241, R246, R247). -/
def State.eaOff (s : State) (f : LM) : List W64 := [s.me.r.rs f.base.toNat + f.imm.signExtend 64]
@[inherit_doc State.eaOff]
def State.eaStride (s : State) (f : LM) : List W64 :=
  (List.range (128 / sizeOf f.sz)).map (fun j => s.me.r.rs f.base.toNat + BitVec.ofNat 64 j * f.imm.signExtend 64)
@[inherit_doc State.eaOff]
def State.eaIndex (s : State) (f : LM) : List W64 :=
  (List.range (128 / sizeOf f.sz)).map (fun j =>
    s.me.r.rs f.base.toNat + BitVec.ofNat 64 (lane 32 (s.me.r.rv (f.imm.toNat % 2048)).toNat j * sizeOf f.sz))

/-- A load or store with an offset into the global window whose page may not be accessed so takes the permission trap, and one
whose translation is absent is held with its packet, no slot of its own performed (08 R244; 15 R381; 17 R418, R422, R423). -/
def DeniesLM (mk : LM → Instr) (store : Bool) : Prop :=
  ∀ f s s1 va e, s.slotReady (mk f) = true → s.slotFree (mk f) = true → s.traps = true → s.eaOff f = [va] → 2 ^ 48 ≤ va.toNat →
    (s.resvAt s.me.resv).size ≤ 2 ^ 48 →
    (s.atAct (mk f)).xlateCtx s.ck s.me.r.sup va.toNat (if store then .w else .r) = (s1, .err e) →
    (e = .perm → ∃ t, exec (mk f) s = .next t ∧ Enters s t s.me.r s.issue.pc
      { cls := .slot, code := 0x21, detail := va, x0 := if store then 1 else 0, pos := s.issue.pos }
      (sreplOf s.issue.rep ((List.range 9).filter (fun p => s.me.sq.perf.testBit p)))) ∧
    ∀ l, e = .absent l → ∃ t h, exec (mk f) s = .next t ∧ (t.ctxAt s.ck).sq.held = some h ∧ h.trap.code = 0x20 ∧ h.va = va ∧
      h.level = l ∧ h.access = (if store then 1 else 0) ∧ h.agent = 0 ∧ h.part = s.me.part ∧ h.asid = s.me.asid ∧ h.id = none ∧
      (t.ctxAt s.ck).r = s.me.r ∧ (t.ctxAt s.ck).mem.pend = s.me.mem.pend

/-- What a read of an access finds at its home, where that is a share, plain memory outside a guess, a mailbox or the
accumulator window (09 R288). -/
def State.found (s : State) (k : Nat) (a : Access) : Nat :=
  match a.loc with
  | .share o => leNat ((s.resvAt (s.ctxAt k).resv).read o a.size)
  | .phys p key => leNat (s.phys p key a.size)
  | .mail n => (mget 0 s.hub.mail n).toNat
  | .acc o => leNat ((List.range a.size).map (fun i => (s.ctxAt k).accByte (o + i)))

/-- The home of an access and the L1's copy of it hold no uncorrectable error, and the access is no part of a guess and reads
no encoded page. -/
def State.plainHome (s : State) (k : Nat) (a : Access) : Bool :=
  a.ecw.isNone && decide (1 ≤ a.size) && decide (a.size ≤ 128) && !s.mgmt.pfe && (s.guessOf (s.ctxAt k)).isNone &&
    match a.loc with
    | .share o => ((s.resvAt (s.ctxAt k).resv).badIn o a.size).isNone
    | .phys p _ => (List.range a.size).all (fun i => !s.bad (p + i) && (mfind (s.coreAt (k / 4)).l1bad ((p + i) / 64)).isNone)
    | .acc o => ((s.ctxAt k).accBad o a.size).isNone
    | _ => true

/-- Access `a` of a context is the one that an event names, and nothing that must come before it is in flight (09 R289; 01
R34; 10 R327). -/
def State.due (s : State) (k : Nat) (pick : Access → Bool) (a : Access) : Prop :=
  (s.ctxAt k).mem.pend.find? pick = some a ∧ (s.ctxAt k).canPerform a = true ∧ s.accessHeld a = false

/-- After an access performs it is no longer in flight, and outside its context, its share and memory nothing has changed but which lines an L1 holds with an error;
its scoreboard slot counts one less once no other access of its operation is in flight (09 R295). -/
def Performed (s t : State) (k : Nat) (a : Access) : Prop :=
  (t.ctxAt k).mem.pend = (s.ctxAt k).mem.pend.filter (fun b => b.id ≠ a.id) ∧ t.mgmt = s.mgmt ∧ t.fq = s.fq ∧ t.sides = s.sides ∧
    (∀ n, { t.coreAt n with l1bad := [] } = { s.coreAt n with l1bad := [] }) ∧ t.slices = s.slices ∧ t.walks = s.walks ∧
    t.agenda = s.agenda ∧ (∀ j, j ≠ k → t.ctxAt j = s.ctxAt j) ∧
    (t.ctxAt k).sys = (s.ctxAt k).sys ∧ (t.ctxAt k).sq = (s.ctxAt k).sq ∧ (∀ r, r ≠ (s.ctxAt k).resv → t.resvAt r = s.resvAt r) ∧
    ∀ n, mget 0 (t.ctxAt k).mem.sb n = mget 0 (s.ctxAt k).mem.sb n -
      (if a.sbSet = some n ∧ (s.ctxAt k).mem.pend.any (fun b => b.id != a.id && b.grp == a.grp) = false then 1 else 0)

/-- The registers of context `k` with a result delivered (08 R242, R245). -/
def Regs.given (r : Regs) (d : Dest) (v : Nat) : Regs :=
  match d with
  | .s sup n => r.wsMode sup n (BitVec.ofNat 64 v)
  | .v n lo w => r.wvBits n lo w v
  | .m n w => r.wm n w v
  | .c n => r.wc n (v % 2 == 1)
  | .lc n => { r with lc := mset 0 r.lc n (BitVec.ofNat 64 (v % 2 ^ 24)) }
  | .q n => { r with q := mset 0 r.q n (BitVec.ofNat 64 v) }
  | _ => r

/-- The bytes of an access's home after a store of `n`: those of the value, least significant first, and every other byte
as before under the access's key; a mailbox takes the whole word (09 R288, 17 R419).  A share keeps its tags (08 R248), and a
tile becomes dirty (01 R34). -/
def StoredAt (s t : State) (k : Nat) (a : Access) (n : Nat) : Prop :=
  match a.loc with
  | .share o =>
    (∀ i, i < a.size → mget 0 (t.resvAt (s.ctxAt k).resv).bytes (o + i) = BitVec.ofNat 8 (n / 2 ^ (8 * i) % 256)) ∧
      (∀ b, b < o ∨ o + a.size ≤ b → mget 0 (t.resvAt (s.ctxAt k).resv).bytes b = mget 0 (s.resvAt (s.ctxAt k).resv).bytes b) ∧
      { t.resvAt (s.ctxAt k).resv with bytes := [], poison := [] } = { s.resvAt (s.ctxAt k).resv with bytes := [], poison := [] } ∧
      t.mem.bytes = s.mem.bytes ∧ t.hub = s.hub
  | .phys p key =>
    (∀ i, i < a.size → t.byteAt (p + i) key = BitVec.ofNat 8 (n / 2 ^ (8 * i) % 256)) ∧
      (∀ b, b < p ∨ p + a.size ≤ b → t.byteAt b key = s.byteAt b key) ∧
      (∀ b key', (∀ i, i < a.size → b / 64 ≠ (p + i) / 64) → t.byteAt b key' = s.byteAt b key') ∧ t.disp = s.disp ∧ t.hub = s.hub
  | .mail m => mget 0 t.hub.mail m = BitVec.ofNat 64 (n % 2 ^ (8 * a.size)) ∧
      (∀ j, j ≠ m → mget 0 t.hub.mail j = mget 0 s.hub.mail j) ∧ t.mem.bytes = s.mem.bytes ∧ t.disp = s.disp
  | .acc o => (∀ b, b % 8 < 4 ∨ (((s.ctxAt k).tile (b / 0x2000)).fmt ≠ 0 ∧ ((s.ctxAt k).tile (b / 0x2000)).fmt ≠ 2) →
        (t.ctxAt k).accByte b = if o ≤ b ∧ b < o + a.size then BitVec.ofNat 8 (n / 2 ^ (8 * (b - o)) % 256) else (s.ctxAt k).accByte b) ∧
      (∀ m e, (∀ i, i < a.size → (m, e) ≠ ((o + i) / 0x2000, (o + i) % 0x2000 / 8)) →
        ((t.ctxAt k).tile m).get e = ((s.ctxAt k).tile m).get e) ∧
      (∀ m, (∀ i, i < a.size → m ≠ (o + i) / 0x2000) → (t.ctxAt k).tile m = (s.ctxAt k).tile m) ∧
      (∀ i, i < a.size → ∀ m, m = (o + i) / 0x2000 → ((t.ctxAt k).tile m).st = .d ∧
        ((t.ctxAt k).tile m).fmt = ((s.ctxAt k).tile m).fmt ∧ ((t.ctxAt k).tile m).pair = ((s.ctxAt k).tile m).pair) ∧
      { (t.ctxAt k).mx with tiles := [] } = { (s.ctxAt k).mx with tiles := [] } ∧
      t.mem.bytes = s.mem.bytes ∧ t.hub = s.hub ∧ t.disp = s.disp

/-- The homes are as they were: no byte of memory, of a share or of a mailbox has changed. -/
def HomesKept (s t : State) : Prop := t.mem.bytes = s.mem.bytes ∧ t.hub = s.hub ∧ t.disp = s.disp

/-- Outside the current context only bytes, tags and errors of its share have changed; the order of 09 R287 has gone on. -/
def ShareOnly (s t : State) : Prop :=
  Outside s t ∧ { t.mem with now := 0 } = { s.mem with now := 0 } ∧ { t.disp with resvs := [] } = { s.disp with resvs := [] } ∧
    (∀ r, r ≠ s.me.resv → t.resvAt r = s.resvAt r) ∧
    { t.resvAt s.me.resv with bytes := [], poison := [], full := [] } = { s.resvAt s.me.resv with bytes := [], poison := [], full := [] }

/-- The bytes of the current share outside a range are as before, and those of the range are the value's (00 R2). -/
def ShareBytes (s t : State) (off n v : Nat) : Prop :=
  (∀ a, a < off ∨ off + n ≤ a → mget 0 (t.resvAt s.me.resv).bytes a = mget 0 (s.resvAt s.me.resv).bytes a) ∧
    ∀ i, i < n → mget 0 (t.resvAt s.me.resv).bytes (off + i) = BitVec.ofNat 8 (v / 2 ^ (8 * i) % 256)

/-- The tags of the words of the current share that a condition names take a value, and the others are as before. -/
def ShareTags (s t : State) (p : Nat → Prop) [DecidablePred p] (full : Bool) : Prop :=
  ∀ w, (t.resvAt s.me.resv).tag w = if p w then full else (s.resvAt s.me.resv).tag w

/-- As `CompletesFree`, where no access of the context is in flight. -/
def CompletesAtOnce (i : Instr) (post : State → State → Prop) : Prop :=
  ∀ s, s.slotReady i = true → s.slotFree i = true → s.endsPlain = true → s.me.mem.pend = [] → ∃ t, exec i s = .next t ∧ post s t

/-- The share offset that an operation with an offset names (08 R241). -/
def State.wordAt (s : State) (f : LM) : Nat := (s.me.r.rs f.base.toNat + f.imm.signExtend 64).toNat

/-- The share word at an offset holds no uncorrectable error. -/
def State.wordOk (s : State) (a : Nat) : Bool := ((s.resvAt s.me.resv).badIn a 8).isNone

/-- The offset is that of an aligned word of the share. -/
def State.isWord (s : State) (a : Nat) : Prop := a % 8 = 0 ∧ a + 8 ≤ (s.resvAt s.me.resv).size

/-- Of the context only a scalar, or nothing, has changed, and outside it only its share. -/
def WordKept (s t : State) : Prop :=
  ShareOnly s t ∧ GoesOn s t ∧ (t.ctxAt s.ck).rest = s.me.rest ∧ (t.ctxAt s.ck).r.noS = s.me.r.noS

/-- The rank order of `stopk`: numbers by value above NaN, and equal ranks by the lower column (08 R278). -/
def ranksBefore (v : Nat → Num) (x y : Nat) : Prop :=
  (v x ≠ .nan ∧ (v y = .nan ∨ Num.lt (v y) (v x) = true)) ∨
    (x < y ∧ (v x = .nan ↔ v y = .nan) ∧ Num.lt (v x) (v y) = false ∧ Num.lt (v y) (v x) = false)

/-- The value that a result name receives of what an access finds: sign- or zero-extended into a scalar (08 R245). -/
def Access.got (a : Access) (v : Nat) : Nat :=
  match a.dest with
  | .s _ _ => if a.signed then ((BitVec.ofNat (8 * a.size) v).signExtend 64).toNat else v % 2 ^ (8 * a.size)
  | _ => v

/-- What an atomic leaves at its home, from what it finds there, its operand and its compare value (09 R299). -/
def AtomicLeaves (op z old x cmp n : Nat) : Prop :=
  (op = 0 → n = x % 2 ^ (8 * z)) ∧ (op = 1 → n = (old + x) % 2 ^ (8 * z)) ∧ (op = 2 → n = old &&& x % 2 ^ (8 * z)) ∧
  (op = 3 → n = old ||| x % 2 ^ (8 * z)) ∧ (op = 4 → n = old ^^^ x % 2 ^ (8 * z)) ∧
  (5 ≤ op → op ≤ 8 → n = old ∨ n = x % 2 ^ (8 * z)) ∧
  (op = 5 → (BitVec.ofNat (8 * z) n).toInt = min (BitVec.ofNat (8 * z) old).toInt (BitVec.ofNat (8 * z) x).toInt) ∧
  (op = 6 → (BitVec.ofNat (8 * z) n).toInt = max (BitVec.ofNat (8 * z) old).toInt (BitVec.ofNat (8 * z) x).toInt) ∧
  (op = 7 → n = min old (x % 2 ^ (8 * z))) ∧ (op = 8 → n = max old (x % 2 ^ (8 * z))) ∧
  (op = 9 → n = if old = cmp % 2 ^ (8 * z) then x % 2 ^ (8 * z) else old) ∧
  (op = 10 → n = (flOfSize z).addr .rne 0 [(flOfSize z).decode old, (flOfSize z).decode (x % 2 ^ (8 * z))]) ∧
  (op = 11 → (flOfSize z).Picks false old (x % 2 ^ (8 * z)) n) ∧ (op = 12 → (flOfSize z).Picks true old (x % 2 ^ (8 * z)) n)

/-- What one element of a reduction leaves at its home, by element type (09 R301, R302). -/
def CombineLeaves (op et z old x n : Nat) : Prop :=
  (op = 0 → et < 10 → n = (old + x) % 2 ^ (8 * z)) ∧ (op = 1 → n = old &&& x) ∧ (op = 2 → n = old ||| x) ∧ (op = 3 → n = old ^^^ x) ∧
  (op = 4 → et < 10 → (n = old ∨ n = x) ∧ if et = 4 ∨ et = 6 then
    (BitVec.ofNat (8 * z) n).toInt = min (BitVec.ofNat (8 * z) old).toInt (BitVec.ofNat (8 * z) x).toInt else n = min old x) ∧
  (op = 5 → et < 10 → (n = old ∨ n = x) ∧ if et = 4 ∨ et = 6 then
    (BitVec.ofNat (8 * z) n).toInt = max (BitVec.ofNat (8 * z) old).toInt (BitVec.ofNat (8 * z) x).toInt else n = max old x) ∧
  (op = 0 → 10 ≤ et → n = (flOfSize z).addr .rne 0 [(flOfSize z).decode old, (flOfSize z).decode x]) ∧
  (op = 4 → 10 ≤ et → (flOfSize z).Picks false old x n) ∧ (op = 5 → 10 ≤ et → (flOfSize z).Picks true old x n)

/-! ### Rings, versions and copies -/

/-- No class-I check of the operation finds a trap (15 R380). -/
def State.slotPass (s : State) (i : Instr) : Bool :=
  match slotSem i with
  | some m => (m.check s.fresh (s.slotEnv i)).isNone
  | none => false

/-- Of the registers only handle `h` has changed, and of the rest of the context nothing (08 R251). -/
def HandleIs (s t : State) (h : Nat) (hd : Handle) : Prop :=
  { (t.ctxAt s.ck).r.noPc with hs := [] } = { s.me.r.noPc with hs := [] } ∧ GoesOn s t ∧
    (t.ctxAt s.ck).handle h = hd ∧ ∀ j, j ≠ h → (t.ctxAt s.ck).handle j = s.me.handle j

/-- Slot `j` of a ring from a pointer on, for `n` slots: the word whose tag it has (08 R250). -/
def inSlots (hd : Handle) (from_ n : Nat) (w : Nat) : Prop := ((List.range n).any (fun j => w == hd.at (from_ + j) / 8)) = true

/-- The version operand of an operation: bits 31 to 0 of its scalar (08 R279). -/
def State.verArg (s : State) (f : LM) : Nat := (s.me.r.rs (f.imm.toNat % 64)).toNat % 2 ^ 32

/-- The address of a version operation reaches `p` under a key, in ream `r` (08 R280). -/
def State.verAt (s : State) (i : Instr) (f : LM) (z : Nat) (store : Bool) (p key r : Nat) : Prop :=
  (∃ s1 x, (s.atAct i).place (s.slotEnv i) z .version store (s.sc f.base) = (s1, .at_ (s.sc f.base) (.phys p key) x)) ∧
    s.reamOf s.me.part p = some r ∧ s.guessOf s.me = none

/-- The copy that a slot issues, with its descriptor's words where those hold no error (08 R255, R256). -/
def State.copyOp (s : State) (i : Instr) (f : LC) : CopyOp :=
  { id := s.seq, instr := i, ctx := s.ck, dst := s.sc f.sdst, src := s.sc f.ssrc, desc := (s.sc f.sdsc).toNat
    tag := f.tag.toNat, sup := s.me.r.sup, seq := s.seq
    sbWait := if f.we = 1 then some f.sbw.toNat else none
    words := if ((s.resvAt s.me.resv).badIn (s.sc f.sdsc).toNat 64).isSome then [] else
      (List.range 8).map (fun j => BitVec.ofNat 64 (leNat ((s.resvAt s.me.resv).read ((s.sc f.sdsc).toNat + 8 * j) 8))) }

/-- A copy has been issued: it is last in the core's engine, its tag is clear and counts one more (08 R257). -/
def Issues (s t : State) (o : CopyOp) : Prop :=
  (t.coreAt s.core).copies = (s.coreAt s.core).copies ++ [o] ∧ (∀ n, n ≠ s.core → (t.coreAt n).copies = (s.coreAt n).copies) ∧
    (∀ g, g < 16 → bit (t.ctxAt s.ck).mem.tagBits g = (bit s.me.mem.tagBits g && decide (g ≠ o.tag))) ∧
    (∀ g, mget 0 (t.ctxAt s.ck).mem.tagCnt g = mget 0 s.me.mem.tagCnt g + if g = o.tag then 1 else 0) ∧
    { (t.ctxAt s.ck).rest with mem := { (t.ctxAt s.ck).rest.mem with tagBits := 0, tagCnt := [], collNo := [] } } =
      { s.me.rest with mem := { s.me.rest.mem with tagBits := 0, tagCnt := [], collNo := [] } } ∧
    (t.ctxAt s.ck).r.noPc = s.me.r.noPc ∧ GoesOn s t ∧ t.mem = s.mem ∧ t.disp = s.disp ∧ ∀ j, j ≠ s.ck → t.ctxAt j = s.ctxAt j

/-- A copy that the engine may work on next: issued, neither held nor waiting for a tile, no collective, and with no index
list and no tracked tensor (08 R258). -/
def State.plainCopy (s : State) (core id : Nat) (o : CopyOp) : Prop :=
  s.copyAt core id = some o ∧ o.isColl = false ∧ o.hold = none ∧ o.waitTile = none ∧ o.trk = false ∧ o.id = id ∧
    s.guessOf (s.ctxAt o.ctx) = none

/-- The row that a copy of no tracked tensor is at. -/
def CopyOp.row (o : CopyOp) : List Seg := (o.steps 0).getD o.done []

/-- The pieces of an access lie in the share of a copy's context and hold no uncorrectable error. -/
def State.sharePieces (s : State) (o : CopyOp) (ps : List Piece) : Prop :=
  ∀ p ∈ ps, p.share = true ∧ p.addr + p.n ≤ (s.resvAt (s.ctxAt o.ctx).resv).size ∧
    ((s.resvAt (s.ctxAt o.ctx).resv).badIn p.addr p.n).isNone

/-- The bytes of the share that pieces name, in order. -/
def State.pieceBytes (s : State) (o : CopyOp) (ps : List Piece) : List Byte :=
  (ps.flatMap (fun p => (List.range p.n).map (fun i => p.addr + i))).map (mget 0 (s.resvAt (s.ctxAt o.ctx).resv).bytes)

/-- The bytes that an access writes lie in the share, each once, and outside the source that the copy reads (08 R258). -/
def State.sharePuts (s : State) (o : CopyOp) (spans : List (Nat × Nat)) (ps : List Put) : Prop :=
  (∀ x ∈ ps, x.share = true ∧ x.addr < (s.resvAt (s.ctxAt o.ctx).resv).size ∧ inSpans spans x.addr = false) ∧
    (ps.map (fun x => x.addr)).Nodup

/-- Of the machine's memories only bytes of one share have changed, each in the bits that an access writes (08 R260). -/
def PutInShare (s t : State) (o : CopyOp) (ps : List Put) : Prop :=
  ∀ r0, r0 = (s.ctxAt o.ctx).resv →
    (∀ x ∈ ps, mget 0 (t.resvAt r0).bytes x.addr =
      BitVec.ofNat 8 (((mget 0 (s.resvAt r0).bytes x.addr).toNat &&& (255 - x.mask)) ||| (x.val &&& x.mask))) ∧
    (∀ a, (∀ x ∈ ps, x.addr ≠ a) → mget 0 (t.resvAt r0).bytes a = mget 0 (s.resvAt r0).bytes a) ∧
    { t.resvAt r0 with bytes := [], poison := [] } = { s.resvAt r0 with bytes := [], poison := [] } ∧
    (∀ r, r ≠ r0 → t.resvAt r = s.resvAt r) ∧ t.mem = s.mem ∧ t.ctxs = s.ctxs ∧ t.hub = s.hub

/-- Where bit 0 of a move comes from and where it goes, as bits of the address space. -/
def Seg.fromBit (g : Seg) : Nat := 8 * g.src.addr + g.src.bit
@[inherit_doc Seg.fromBit]
def Seg.toBit (g : Seg) : Nat := 8 * g.dst.addr + g.dst.bit

/-- A row of a copy takes bit `x` of its source to bit `y` of its destination, inverted or not. -/
def Carries (l : List Seg) (x y : Nat) (flip : Bool) : Prop :=
  ∃ g ∈ l, ∃ i, i < g.bits ∧ x = g.fromBit + i ∧ y = g.toBit + i ∧ flip = g.flip.testBit i ∧ ∀ m, g.keep = some m → m.testBit i = true

/-- The bit at which element `z` of a tensor at `base` begins, for elements of `w` bits: of a packed run or, where the tiles of a
tracked tensor hold `e` elements each, of a run in each tile (08 R260; 10 R326). -/
def elemBit (base w e z : Nat) : Nat := if e = 0 then 8 * base + w * z else 8 * (base + 4096 * (z / e)) + w * (z % e)

/-- The bits at which the entry of the S9 or QC4 block plane, and that of the QC4 group plane, of element (r, c) of a tensor of a
pitch begin (08 R260; 10 R326). -/
def planeBit (base plane w e pitch l b r c : Nat) : Nat :=
  if e = 0 then 8 * plane + b * (r * (pitch / l) + c / l)
  else 8 * (base + 4096 * ((r * pitch + c) / e) + alignUp (runBytes w e) 64) + b * ((r * pitch + c) % e / l)
@[inherit_doc planeBit]
def groupBit (base plane w e pitch r c : Nat) : Nat :=
  if e = 0 then 8 * plane + 32 * (r * cdiv pitch 256 + c / 256)
  else 8 * (base + 4096 * ((r * pitch + c) / e) + alignUp (alignUp (runBytes w e) 64 + e / 64) 64) + 32 * ((r * pitch + c) % e / 256)

/-- The rows of a tile copy, which loads (`ld`) or stores, between a tensor and an image of elements of `w` bits: row `i` of its
destination is the tensor's row r0 + i or, for a transposing load, its column c0 + i; `.h` inverts the top bit of each element
(08 R261, R262). -/
def TileRows (o : CopyOp) (ld : Bool) (f : LC) (e : Nat) : Prop :=
  ∀ w tensor image r0 c0 pitch i, w = fmtBits f.fmt.toNat → tensor = (if ld then o.src.toNat else o.dst.toNat) →
    image = (if ld then o.dst.toNat else o.src.toNat) → r0 = o.d.f (if ld then 1 else 2) 0 32 → c0 = o.d.f (if ld then 1 else 2) 32 32 →
    pitch = o.d.f 0 (if ld then 0 else 32) 32 → i < (if ld && mdT f.md then o.d.cols else o.d.rows) →
    ∀ x y b, Carries ((o.steps e).getD i []) (if ld then x else y) (if ld then y else x) b ↔
      ∃ j k, j < (if ld && mdT f.md then o.d.rows else o.d.cols) ∧ k < w ∧ b = (mdH f.md && decide (k = w - 1)) ∧
        x = elemBit tensor w e (if ld && mdT f.md then (r0 + j) * pitch + (c0 + i) else (r0 + i) * pitch + (c0 + j)) + k ∧
        y = 8 * image + w * (if mdT f.md then (if ld then i else j) * o.d.rows + (if ld then j else i) else i * o.d.cols + j) + k

/-- After its rows a tile copy moves the S9 scales, or the QC4 block codes and group scales, of the tile's blocks (08 R260 to
R262). -/
def TilePlanes (o : CopyOp) (ld : Bool) (f : LC) (e : Nat) : Prop :=
  ∀ w tensor image r0 c0 pitch l p1 p2 nb, w = fmtBits f.fmt.toNat → tensor = (if ld then o.src.toNat else o.dst.toNat) →
    image = (if ld then o.dst.toNat else o.src.toNat) → r0 = o.d.f (if ld then 1 else 2) 0 32 → c0 = o.d.f (if ld then 1 else 2) 32 32 →
    pitch = o.d.f 0 (if ld then 0 else 32) 32 → l = (if f.fmt.toNat = 18 then 64 else blkLen o.d.blk) → nb = o.d.cols / l →
    p1 = alignUp (runBytes w (o.d.rows * o.d.cols)) 64 → p2 = alignUp (p1 + o.d.rows * nb) 64 →
    o.d.sch = (if f.fmt.toNat = 18 then 2 else 1) →
    ∀ x y b, Carries ((o.steps e).getD o.rowCount []) (if ld then x else y) (if ld then y else x) b ↔ b = false ∧ ∃ r j k, r < o.d.rows ∧
      ((j < cdiv o.d.cols l ∧ k < (if f.fmt.toNat = 18 then 8 else 9) ∧
        x = planeBit tensor (o.d.f (if ld then 4 else 6) 0 64) w e pitch l (if f.fmt.toNat = 18 then 8 else 16) (r0 + r) (c0 + j * l) + k ∧
        y = 8 * (image + p1) + (if f.fmt.toNat = 18 then 8 else 16) * (if mdT f.md then j * o.d.rows + r else r * cdiv o.d.cols l + j) + k) ∨
      (f.fmt.toNat = 18 ∧ j < cdiv o.d.cols 256 ∧ k < 32 ∧
        x = groupBit tensor (o.d.f (if ld then 5 else 7) 0 64) w e pitch (r0 + r) (c0 + j * 256) + k ∧
        y = 8 * (image + p2) + 32 * (if mdT f.md then j * o.d.rows + r else r * cdiv o.d.cols 256 + j) + k))

/-- A copy of rows of bytes moves, in row `i`, row `a` of its source to row `b` of its destination (08 R264, R265). -/
def ByteRow (o : CopyOp) (i a b : Nat) : Prop :=
  ∀ x y c, Carries ((o.steps 0).getD i []) x y c ↔ c = false ∧ ∃ k, k < 8 * o.d.cols ∧
    x = 8 * (o.src.toNat + a * o.d.f 0 0 32) + k ∧ y = 8 * (o.dst.toNat + b * o.d.f 0 32 32) + k

/-- Bit `x` of bytes that an address names. -/
def bitOf (m : Nat → Byte) (x : Nat) : Bool := (m (x / 8)).getLsbD (x % 8)

/-- The addresses of a piece of a read, in order. -/
def Piece.addrs (p : Piece) : List Nat := (List.range p.n).map (fun i => p.addr + i)

/-- Parts of the members' elements as a reduction combines them: in FP64, in FP32 or, for integers without scales, exactly
(08 R275). -/
def collPart (a : CollArgs) (r : Run) (i : Nat) : Num :=
  match combineFl a.f with
  | some t => t.decode (t.rne ((r.vals a.f).getD i .nan))
  | none => (r.vals a.f).getD i .nan

/-- What a reduction makes of two values: their sum, the greater (COP 5) or the lesser (COP 6) (08 R275). -/
def collJoin (a : CollArgs) (x y z : Num) : Prop :=
  match combineFl a.f with
  | none => if a.cop = 5 then z = (if Num.lt x y then y else x) else if a.cop = 6 then z = (if Num.lt y x then y else x) else z = sumExact false [x, y]
  | some t => ∃ v, z = t.decode v ∧ (a.cop ≠ 5 → a.cop ≠ 6 → v = t.addr .rne 0 [x, y]) ∧
      (a.cop = 5 → t.Picks true (t.rne x) (t.rne y) v) ∧ (a.cop = 6 → t.Picks false (t.rne x) (t.rne y) v)

/-- `v` is the reduction of the members' parts `i` over the pairwise tree in member order, of which a member alone at a level
goes on to the next (06 R207, 08 R275). -/
def CollSum (a : CollArgs) (rs : List Run) (i : Nat) (v : Num) : Prop :=
  ∃ (tree : Nat → Nat → Num) (top : Nat), rs.length ≤ 2 ^ top ∧ v = tree top 0 ∧
    (∀ m r, rs[m]? = some r → tree 0 m = collPart a r i) ∧
    ∀ d m, 2 ^ (d + 1) * m < rs.length → if 2 ^ d * (2 * m + 1) < rs.length then collJoin a (tree d (2 * m)) (tree d (2 * m + 1)) (tree (d + 1) m)
      else tree (d + 1) m = tree d (2 * m)

/-! ### Blocks, images and products -/

/-- `n` bits of bytes from bit `lo` up. -/
def bitsAt (bs : List Byte) (lo n : Nat) : Nat := leNat bs / 2 ^ lo % 2 ^ n

/-- One S9 block: the scale and the codes of its elements (03 R85). -/
def S9Is (t : CvtTy) (rm : Rnd) (ds : List (BitVec 32)) (xs : List Num) (c : Nat) (es : List Nat) : Prop :=
  ((∃ x ∈ xs, x.isFin = false) → c = 0x1FC ∧ ∀ e ∈ es, e = 0) ∧
  ((∀ x ∈ xs, x.isZero = true) → c = 0 ∧ ∀ (i : Nat) x, xs[i]? = some x → es[i]? = some (t.zero x.isNeg)) ∧
  ((∀ x ∈ xs, x.isFin = true) → (∃ x ∈ xs, x.isZero = false) → 1 ≤ c ∧ c ≤ 0x1FB ∧
    (c = 0x1FB ∨ ∀ x ∈ xs, Num.lt ((s9Val c).mul t.max) x.abs = false) ∧
    (∀ b, 1 ≤ b → b < c → ∃ x ∈ xs, Num.lt ((s9Val b).mul t.max) x.abs = true) ∧
    ∀ (i : Nat) x d, xs[i]? = some x → ds[i]? = some d → es[i]? = some (t.encDiv rm d x (s9Val c)))

/-- How far code `c` of the codebook under a scale lies from a value, without sign; both by 128 (03 R86, R89). -/
def qcDist (x t : Num) (c : Nat) : Num :=
  (sumExact false [(Num.fin (decide (c < 8)) (qcW c).natAbs 0).mul t, (x.mul (.fin false 1 7)).neg]).abs

/-- The code of an element of a QC4 block with scale `t`: the nearest of the codebook, of two as near the smaller one, or in
SR mode one of its two neighbours as the draw decides (03 R89, R94). -/
def QcPicks (rm : Rnd) (d : BitVec 32) (x t : Num) (c : Nat) : Prop :=
  c < 16 ∧
  (rm ≠ .sr → (x.isZero = true → c = if x.isNeg then 7 else 8) ∧
    ∀ b, b < 16 → Num.lt (qcDist x t b) (qcDist x t c) = false ∧
      (Num.eqv (qcDist x t b) (qcDist x t c) = true → (qcW c).natAbs ≤ (qcW b).natAbs)) ∧
  (rm = .sr →
    let y : Num := x.mul (.fin false 1 7)
    let at_ (b : Nat) : Num := (Num.fin (decide (b < 8)) (qcW b).natAbs 0).mul t
    (Num.lt y (at_ 0) = true → c = 0) ∧ (Num.lt y (at_ 15) = false → c = 15) ∧
    ∀ lo, lo < 15 → Num.lt y (at_ lo) = false → Num.lt y (at_ (lo + 1)) = true →
      c = if Num.lt ((sumExact false [y, (at_ lo).neg]).mul (.fin false 1 32))
          ((Num.fin false ((d.toNat + 1) * (qcW (lo + 1) - qcW lo).natAbs) 0).mul t) then lo else lo + 1)

/-- One QC4 group: its scale, its block codes and the codes of its elements (03 R89). -/
def QcIs (rm : Rnd) (ds : List (BitVec 32)) (xs : List Num) (g : Nat) (bs cs : List Nat) : Prop :=
  ((∃ x ∈ xs, x.isFin = false) → g = 0x7FC00000 ∧ (∀ b ∈ bs, b = 0) ∧ ∀ c ∈ cs, c = 8) ∧
  ((∀ x ∈ xs, x.isFin = true) → xs ≠ [] →
    (∃ a ∈ xs, (∀ x ∈ xs, Num.lt a.abs x.abs = false) ∧ g = (if Fl.fp32.round .rup 0 a.abs = 0x7F800000 then 0x7F7FFFFF else Fl.fp32.round .rup 0 a.abs)) ∧
    (∀ (j : Nat) b, bs[j]? = some b → b ≤ 255 ∧
      (b = 255 ∨ ∀ x ∈ (xs.drop (64 * j)).take 64, Num.lt (qcScale g b) x.abs = false) ∧
      (b = 0 ∨ ∃ x ∈ (xs.drop (64 * j)).take 64, Num.lt (qcScale g (b - 1)) x.abs = true)) ∧
    ∀ (i : Nat) x d, xs[i]? = some x → ds[i]? = some d →
      ∃ b c, bs[i / 64]? = some b ∧ cs[i]? = some c ∧ QcPicks rm d x (if g = 0 then .fin false 1 0 else qcScale g b) c)

/-- A run holds values in a format: their codes, or blocks of them with scales; a complex element holds two (03 R84, R85, R88,
R89, R96). -/
def RunHolds (f : FmtWord) (xs : List Num) (r : Run) : Prop :=
  (f.sch = 0 → r.scales = [] ∧ r.groups = [] ∧
    (fmtCplx f.fmt = false → r.codes = xs.map ((fmtTy f.fmt).enc (Rnd.get f.rnd) 0)) ∧
    (fmtCplx f.fmt = true → r.codes.length = xs.length / 2 ∧ ∀ (i : Nat) x y, xs[2 * i]? = some x → xs[2 * i + 1]? = some y →
      r.codes[i]? = some ((fmtTy f.fmt).enc (Rnd.get f.rnd) 0 x + 2 ^ (fmtTy f.fmt).bits * (fmtTy f.fmt).enc (Rnd.get f.rnd) 0 y))) ∧
  (f.sch = 1 → r.codes.length = xs.length ∧ r.scales.length = cdiv xs.length (blkLen f.blk) ∧ r.groups = [] ∧
    ∀ (j : Nat) c, r.scales[j]? = some c → S9Is (fmtTy f.fmt) (Rnd.get f.rnd) (List.replicate (blkLen f.blk) 0)
      ((xs.drop (blkLen f.blk * j)).take (blkLen f.blk)) c ((r.codes.drop (blkLen f.blk * j)).take (blkLen f.blk))) ∧
  (f.sch = 2 → r.codes.length = xs.length ∧ r.scales.length = cdiv xs.length 64 ∧ r.groups.length = cdiv xs.length 256 ∧
    ∀ (j : Nat) g, r.groups[j]? = some g → QcIs (Rnd.get f.rnd) (List.replicate 256 0) ((xs.drop (256 * j)).take 256) g
      ((r.scales.drop (4 * j)).take 4) ((r.codes.drop (256 * j)).take 256))

/-- Moves with their values set bit `z` of the address space to `b`. -/
def SetsBit (l : List (Seg × Nat)) (z : Nat) (b : Bool) : Prop :=
  ∃ p ∈ l, p.1.toBit ≤ z ∧ z < p.1.toBit + p.1.bits ∧ b = p.2.testBit (z - p.1.toBit)

/-- A plane of entries of `w` bits at an address sets bit `z` to `b`. -/
def PlaneSets (base w : Nat) (l : List Nat) (z : Nat) (b : Bool) : Prop :=
  ∃ i c k, l[i]? = some c ∧ k < w ∧ z = 8 * base + w * i + k ∧ b = c.testBit k

/-- Accesses each of which lies in one line: their pieces cover some addresses in turn (09 R287). -/
def LineReads (gs : List (List Piece)) (as : List Nat) : Prop :=
  gs.flatten.flatMap Piece.addrs = as ∧
    ∀ ps ∈ gs, ps ≠ [] ∧ ∀ p ∈ ps, 1 ≤ p.n ∧ ∀ q ∈ ps, q.addr / 64 = p.addr / 64 ∧ (q.addr + q.n - 1) / 64 = p.addr / 64

/-- The addresses of a range. -/
def rangeAddrs (r : Nat × Nat) : List Nat := (List.range r.2).map (fun i => r.1 + i)

/-- The value of an element from its code and its plane entries; `im` picks the imaginary part of a complex one (03 R84, R88). -/
def codeNum (fmt blk c scale group : Nat) (im : Bool) : Num :=
  if fmt = 18 then qcVal c scale group
  else if blk = 0 then (fmtTy fmt).dec (if im then c / 2 ^ (fmtTy fmt).bits else c % 2 ^ (fmtTy fmt).bits)
  else scaled (fmtTy fmt) c scale

/-- An element of an operand image of 32 × K elements, from its number in the run and in the planes (07 R213). -/
def imgNum (fmt blk k : Nat) (bs : List Byte) (im : Bool) (i e g : Nat) : Num :=
  let p1 := alignUp (runBytes (fmtBits fmt) (32 * k)) 64
  let p2 := alignUp (p1 + 32 * (k / 64)) 64
  codeNum fmt blk (bitsAt bs (fmtBits fmt * i) (fmtBits fmt))
    (if fmt = 18 then bitsAt bs (8 * (p1 + e)) 8 else bitsAt bs (8 * p1 + 16 * e) 16) (bitsAt bs (8 * p2 + 32 * g) 32) im

/-- A(i, j) of an image, and B(j, n) of one in the order of `mld` (07 R213). -/
def aNum (fmt blk k : Nat) (bs : List Byte) (im : Bool) (i j : Nat) : Num :=
  let l := if fmt = 18 then 64 else if blk = 0 then 1 else blkLen blk
  imgNum fmt blk k bs im (i * k + j) (i * (k / l) + j / l) (i * cdiv k 256 + j / 256)
@[inherit_doc aNum]
def bNum (fmt blk k : Nat) (bs : List Byte) (im : Bool) (j n : Nat) : Num :=
  let l := if fmt = 18 then 64 else if blk = 0 then 1 else blkLen blk
  imgNum fmt blk k bs im (32 * j + n) (32 * (j / l) + n) (32 * (j / 256) + n)

/-- The two positions of four that a metadata code keeps (07 R220). -/
def patternOf (code : Nat) : Nat × Nat := [(0, 1), (0, 2), (0, 3), (1, 2), (1, 3), (2, 3)].getD code (2, 3)

/-- The terms that dense position `j` of the reduction adds to the sum of element (i, n), or to its imaginary part (07 R219,
R220, R223). -/
def MOp.terms (o : MOp) (f : MX) (cplx sparse : Bool) (i n : Nat) (im : Bool) (j : Nat) : List Num :=
  let kb := if sparse then 2 * o.k else o.k
  let p := patternOf (o.meta_.toNat / 2 ^ (4 * (j / 4 % 16)) % 16)
  let at_ : Option Nat := if sparse then (if j % 4 = p.1 then some (2 * (j / 4)) else if j % 4 = p.2 then some (2 * (j / 4) + 1) else none) else some j
  let a (im : Bool) (m : Nat) : Num := aNum f.fa.toNat f.ba.toNat o.k o.img im i m
  let b (im : Bool) : Num := if o.buf.empty then .fin false 0 0 else bNum o.buf.fb o.buf.blk kb o.buf.data im j n
  let cj (c : Bool) (x : Num) : Num := if c then x.neg else x
  match at_ with
  | none => []
  | some m =>
    if cplx = false then [(a false m).mul (b false)]
    else if im then [(a false m).mul (cj (f.cb == 1) (b true)), (cj (f.ca == 1) (a true m)).mul (b false)]
    else [(a false m).mul (b false), ((cj (f.ca == 1) (a true m)).mul (cj (f.cb == 1) (b true))).neg]

/-- `col` after the first groups: from −0, each group's exact sum is added with one rounding (07 R219). -/
def colAfter (t : Fl) (terms : Nat → List Num) : Nat → Num
  | 0 => .fin true 0 0
  | g + 1 => t.decode (t.addr .rne 0 [colAfter t terms g, sumExact false (terms g)])

/-- Column sum (i, n) of a product, or its imaginary part: rounded group by group in the class's column format, or exact for
integers (07 R212, R219). -/
def MOp.colIs (o : MOp) (f : MX) (cplx sparse : Bool) (i n : Nat) (im : Bool) (v : Num) : Prop :=
  ∀ p kb c, p = pipWidth f.fa.toNat * pipWidth o.buf.fb → kb = (if sparse then 2 * o.k else o.k) →
    c = (if 128 < p then 1 else 128 / p * if sparse then 2 else 1) →
    let terms (g : Nat) : List Num := (List.range c).flatMap (fun j => o.terms f cplx sparse i n im (g * c + j))
    let groups : Nat := if 128 < p then kb else 4 * o.h
    if fmtClass f.fa.toNat f.ba.toNat = 3 then v = sumExact false ((List.range groups).flatMap terms)
    else v = colAfter (if fmtClass f.fa.toNat f.ba.toNat = 2 then .fp32 else .fp64) terms groups

/-- The value of part `i` of a packed run of `n` elements with its planes, each from the next multiple of 64 bytes; a complex
element is two parts (07 R213, 10 R326). -/
def runNum (f : FmtWord) (n : Nat) (bs : List Byte) (i : Nat) : Num :=
  let p1 := alignUp (runBytes (fmtBits f.fmt) n) 64
  let p2 := alignUp (p1 + cdiv n 64) 64
  codeNum f.fmt f.blk (bitsAt bs ((fmtTy f.fmt).bits * i) (fmtTy f.fmt).bits)
    (if f.fmt = 18 then bitsAt bs (8 * (p1 + i / 64)) 8 else bitsAt bs (8 * p1 + 16 * (i / blkLen f.blk)) 16) (bitsAt bs (8 * p2 + 32 * (i / 256)) 32) false

/-- A block of an S9 target keeps scale `c`: without it every element lies in the target's grid (10 R329). -/
def keepsScale (a b : FmtWord) (n : Nat) (bs : List Byte) (j c : Nat) : Prop :=
  a.sch = 1 ∧ a.blk = b.blk ∧ c = bitsAt bs (8 * alignUp (runBytes (fmtBits a.fmt) n) 64 + 16 * j) 9 ∧ 1 ≤ c ∧ c < 0x1FC ∧
    ∀ i, i < blkLen b.blk → ∃ v, v = (fmtTy a.fmt).dec (bitsAt bs ((fmtTy a.fmt).bits * (j * blkLen b.blk + i)) (fmtTy a.fmt).bits) ∧ v.isFin = true ∧
      Num.eqv ((fmtTy b.fmt).dec ((fmtTy b.fmt).enc .rne 0 v)) v = true

/-- The bytes of a tile of `n` elements re-encoded from one encoding to another (10 R326, R329). -/
def Reencodes (a b : FmtWord) (n : Nat) (ds : List (BitVec 32)) (bs out : List Byte) : Prop :=
  ∀ t w p1 p2 l, t = fmtTy b.fmt → w = t.bits → p1 = alignUp (runBytes (fmtBits b.fmt) n) 64 → p2 = alignUp (p1 + cdiv n 64) 64 → l = blkLen b.blk →
    out.length = 4096 ∧
    (b.sch = 0 → (∀ i, i < (if fmtCplx b.fmt then 2 * n else n) → bitsAt out (w * i) w = t.enc (Rnd.get b.rnd) (ds.getD i 0) (runNum a n bs i) % 2 ^ w) ∧
      ∀ i, runBytes (fmtBits b.fmt) n ≤ i → out.getD i 0 = 0) ∧
    (b.sch = 1 → (∀ j, j < n / l → ∃ c es, c = bitsAt out (8 * p1 + 16 * j) 16 ∧ es = (List.range l).map (fun i => bitsAt out (w * (j * l + i)) w) ∧
        ((∃ c0, keepsScale a b n bs j c0) → keepsScale a b n bs j c ∧ ∀ i, i < l →
          es.getD i 0 = t.enc .rne 0 ((fmtTy a.fmt).dec (bitsAt bs ((fmtTy a.fmt).bits * (j * l + i)) (fmtTy a.fmt).bits)) % 2 ^ w) ∧
        ((¬ ∃ c0, keepsScale a b n bs j c0) → ∃ es0, S9Is t (Rnd.get b.rnd) ((ds.drop (j * l)).take l)
          ((List.range l).map (fun i => runNum a n bs (j * l + i))) c es0 ∧ es = es0.map (· % 2 ^ w))) ∧
      ∀ i, p1 + 2 * (n / l) ≤ i → out.getD i 0 = 0) ∧
    (b.sch = 2 → (∀ j, j < n / 256 → QcIs (Rnd.get b.rnd) ((ds.drop (256 * j)).take 256) ((List.range 256).map (fun i => runNum a n bs (256 * j + i)))
        (bitsAt out (8 * p2 + 32 * j) 32) ((List.range 4).map (fun i => bitsAt out (8 * (p1 + 4 * j + i)) 8))
        ((List.range 256).map (fun i => bitsAt out (4 * (256 * j + i)) 4))) ∧
      ∀ i, p2 + 4 * (n / 256) ≤ i → out.getD i 0 = 0)

/-! ### The matrix engine -/

/-- Where in the share an operand image in a ring slot or at an address lies (07 R214). -/
def State.imgOff (s : State) (f : MX) : Nat :=
  if f.scl = 1 then s.ringAt f.src.toNat 0 false else (s.me.r.rs (f.src.toNat % 64)).toNat

/-- Byte `i` of an operand image: of consecutive registers, of a ring slot or of the share (07 R214). -/
def State.imgByte (s : State) (f : MX) (i : Nat) : Byte :=
  if f.scl = 0 then BitVec.ofNat 8 ((s.me.r.rv (f.src.toNat + i / 128)).toNat / 2 ^ (8 * (i % 128)) % 256)
  else mget 0 (s.resvAt s.me.resv).bytes (s.imgOff f + i)

/-- An operand image of a size meets no uncorrectable error. -/
def State.imgClean (s : State) (f : MX) (size : Nat) : Bool := f.scl == 0 || ((s.resvAt s.me.resv).badIn (s.imgOff f) size).isNone

/-- An operation joins the queue of the matrix engine after those before it; beside it only tiles, the shapes of the
buffers and, of the registers, mpc and the generators may have changed (07 R226). -/
def Queues (s t : State) (i : Instr) (o : MOp) : Prop :=
  { (t.ctxAt s.ck).rest with mx := {} } = { s.me.rest with mx := {} } ∧
    { (t.ctxAt s.ck).r.noPc with mpc := 0, gens := [] } = { s.me.r.noPc with mpc := 0, gens := [] } ∧ GoesOn s t ∧
    (t.ctxAt s.ck).mx.ops = s.me.mx.ops ++ [o] ∧ o.id = s.seq ∧ o.lat = freshLatch s.me i ∧ o.started = false ∧
    o.pkt = s.issue.pc ∧ o.pos = s.issue.pos ∧
    { (t.ctxAt s.ck).mx with ops := [], tiles := [], front := {}, back := {}, metaW := none } =
      { s.me.mx with ops := [], tiles := [], front := {}, back := {}, metaW := none } ∧
    t.mem.bytes = s.mem.bytes ∧ t.hub = s.hub ∧ ∀ j, j ≠ s.ck → t.ctxAt j = s.ctxAt j

/-- An operation's image is the one its operand names. -/
def State.images (s : State) (f : MX) (size : Nat) (o : MOp) : Prop :=
  o.img.length = size ∧ ∀ i, i < size → o.img[i]? = some (s.imgByte f i)

/-- Tiles outside a list are as they were. -/
def TilesKept (s t : State) (k : Nat) (l : List Nat) : Prop := ∀ n, n ∉ l → (t.ctxAt k).tile n = (s.ctxAt k).tile n

/-- An operation leaves the matrix engine of context `k`; the tiles it does not write, and all but the engine and the
context's traps, are as they were (07 R227). -/
def Leaves (s t : State) (k : Nat) (o : MOp) (l : List Nat) : Prop :=
  (t.ctxAt k).mx.ops = (s.ctxAt k).mx.ops.filter (fun x => x.id ≠ o.id) ∧ TilesKept s t k l ∧ (t.ctxAt k).r = (s.ctxAt k).r ∧
    t.mem = s.mem ∧ t.disp = s.disp ∧ t.mgmt = s.mgmt ∧ ∀ j, j ≠ k → t.ctxAt j = s.ctxAt j

/-- Operation `o` of context `k` may land: it has started, neither its reads nor the tile it adds to hold an error, and no
earlier one writes a tile of its (07 R227, 18 R438). -/
def State.lands (s : State) (k : Nat) (o : MOp) : Prop :=
  (s.ctxAt k).mx.ops.find? (fun x => x.id = o.id) = some o ∧ o.started = true ∧ o.poison = none ∧
    (o.adds = true → ∀ n ∈ o.tiles, ((s.ctxAt k).tile n).bad = []) ∧
    ∀ x ∈ (s.ctxAt k).mx.ops, x.id < o.id → ∀ n ∈ x.tiles, n ∉ o.tiles

/-- The tile's format and its place in a pair agree, and the second slot of a pair has the pair's format (07 R233). -/
def Ctx.wholeTile (c : Ctx) (n : Nat) : Prop :=
  ((c.tile n).pair = 1 ↔ (c.tile n).fmt = 4) ∧ ((c.tile n).fmt = 4 → (c.tile (n + 1)).fmt = 4)

/-- Of the tiles, those of a list are marked with a state and keep the rest; of the context's engine nothing else but the
queue has changed. -/
def Marks (s t : State) (l : List Nat) (st : TileSt) : Prop :=
  (∀ n, (t.ctxAt s.ck).tile n = if n ∈ l then { s.me.tile n with st := st } else s.me.tile n) ∧
    (t.ctxAt s.ck).mx.front = s.me.mx.front ∧ (t.ctxAt s.ck).mx.back = s.me.mx.back

/-- A tile, and its pair for CF64, has a format and a state; a pair that a tile belonged to is broken, and no other tile has
changed (07 R233). -/
def Configures (s t : State) (n af : Nat) (st : TileSt) : Prop :=
  TilesKept s t s.ck [n - 1, n, n + 1, n + 2] ∧ (af ≠ 4 → TilesKept s t s.ck [n - 1, n, n + 1]) ∧
    ((t.ctxAt s.ck).tile n).st = st ∧ ((t.ctxAt s.ck).tile n).fmt = af ∧
    ((t.ctxAt s.ck).tile n).pair = (if af = 4 then 1 else 0) ∧
    (af = 4 → ((t.ctxAt s.ck).tile (n + 1)).st = st ∧ ((t.ctxAt s.ck).tile (n + 1)).fmt = 4 ∧
      ((t.ctxAt s.ck).tile (n + 1)).pair = 2) ∧
    (af ≠ 4 → (s.me.tile n).pair = 1 → ((t.ctxAt s.ck).tile (n + 1)).st = .u) ∧
    (0 < n → (s.me.tile n).pair = 2 → ((t.ctxAt s.ck).tile (n - 1)).st = .u) ∧
    (t.ctxAt s.ck).mx.front = s.me.mx.front ∧ (t.ctxAt s.ck).mx.back = s.me.mx.back

/-- The registers but for mpc, the generators and the pc are as they were, and mpc and the generators too. -/
def MKept (s t : State) : Prop := (t.ctxAt s.ck).r.noPc = s.me.r.noPc ∧ (t.ctxAt s.ck).mx.metaW = s.me.mx.metaW

/-- A product has joined the queue: K is whole for the pip cost and the hands, its tile is marked dirty, and its formats and
its buffer are those of the issue (01 R28; 07 R218, R226, R232). -/
def Multiplies (s t : State) (i : Instr) (f : MX) (o : MOp) : Prop :=
  Queues s t i o ∧ o.h = s.me.mx.hands.length ∧ o.k * (pipWidth f.fa.toNat * pipWidth s.me.frontFmt.1) = 512 * o.h ∧
    o.tiles = s.me.slotsOf f.acc.toNat ∧ o.af = (s.me.tile f.acc.toNat).fmt ∧ o.poison = none ∧
    o.buf.fb = s.me.frontFmt.1 ∧ o.buf.blk = s.me.frontFmt.2 ∧ Marks s t (s.me.slotsOf f.acc.toNat) .d

/-- The generators that an operation on every element of a tile draws from in SR mode: element (i, j) from generator j,
twice for a complex one (07 R234, R235). -/
def tileGens (cplx : Bool) : List Nat := (List.range 32).flatMap (fun _ => (List.range 32).flatMap (fun j => if cplx then [j, j] else [j]))

/-- An operation has taken its draws at issue: from a list of generators in SR mode, and none otherwise (03 R95). -/
def Draws (s t : State) (rm : Nat) (gens : List Nat) (o : MOp) : Prop :=
  (t.ctxAt s.ck).r.gens = (s.me.r.drawList (srGens rm gens)).2.gens ∧ (t.ctxAt s.ck).r.mpc = s.me.r.mpc ∧
    (rm = 4 → o.draws = (s.me.r.drawList gens).1) ∧ (t.ctxAt s.ck).mx.metaW = s.me.mx.metaW

/-- The parts of element `i` of a tile after an operation lands there (03 R90, 07 R233): one value, or two for a complex
format. -/
def PartsAre (t : State) (k n af i : Nat) (v : Nat × Nat) : Prop :=
  (t.ctxAt k).accGet n af i = if accCplx af then v else (v.1, 0)

/-- Element `j` of a row or column as the V slots see it: one word of the tile, or one of each slot of a CF64 pair
(06 R210). -/
def Ctx.tileEl (c : Ctx) (n i : Nat) : Nat :=
  if (c.tile n).fmt = 4 then ((c.tile n).get i).toNat + 2 ^ 64 * ((c.tile (n + 1)).get i).toNat
  else if (c.tile n).fmt = 0 ∨ (c.tile n).fmt = 2 then ((c.tile n).get i).toNat % 2 ^ 32 else ((c.tile n).get i).toNat

/-! ### The Calender -/

/-- Nothing that the current context has sent to an entry that a condition names, or holds for it in its guess, is still on its
way, and no M-slot operation of it will send more (10 R323). -/
def State.recordsIn (s : State) (p : Nat → Prop) : Prop :=
  (∀ r ∈ s.hub.recs, r.ctx = s.ck → ¬ p r.entry) ∧ (∀ o ∈ s.me.mx.ops, ∀ n ∈ o.cal, ¬ p n) ∧
    ∀ q, s.guessOf s.me = some q → ∀ r ∈ (s.queueAt q).dealer.recs, ¬ p r.entry

/-- The quotient of two FP64 codes, and a count, rounded once to nearest even. -/
def quot64 (a b : Nat) : Nat := Fl.fp64.div .rne 0 (Fl.fp64.decode a) (Fl.fp64.decode b)
@[inherit_doc quot64]
def count64 (n : Nat) : Nat := Fl.fp64.rne (.fin false n 0)

/-- `n` bits of word `i` of an entry from bit `lo` up. -/
def Entry.bits (x : Entry) (i lo n : Nat) : Nat := (x.getD i 0).toNat / 2 ^ lo % 2 ^ n

/-- What one evaluation makes of a valid entry that is not pinned, has no re-run set and has counted elements (10 R319, R321). -/
def Entry.Evaluates (x y : Entry) : Prop :=
  ∀ m1 m2 err clip noise rung up, m1 = quot64 (x.bits 18 0 64) (count64 (x.bits 17 0 64)) →
    m2 = quot64 (x.bits 19 0 64) (count64 (x.bits 17 0 64)) →
    err = (if (Fl.fp64.decode (x.bits 14 0 64)).isZero then 0 else quot64 (x.bits 15 0 64) (x.bits 14 0 64)) →
    clip = quot64 (count64 (x.bits 16 0 32)) (count64 (x.bits 12 0 64)) →
    noise = (if x.bits 17 0 64 < 2 ∨ (Fl.fp64.decode m2).isZero then 0
      else quot64 (Fl.fp64.addr .rne 0 [Fl.fp64.decode m2, (Fl.fp64.decode (Fl.fp64.rne ((Fl.fp64.decode m1).mul (Fl.fp64.decode m1)))).neg]) m2) →
    let past (v t : Nat) : Bool := Num.lt (Fl.fp32.decode t) (Fl.fp64.decode v)
    let hard := !(Fl.fp32.decode (x.bits 11 32 32)).isZero &&
      (past clip (x.bits 11 32 32) || Num.eqv (Fl.fp64.decode clip) (Fl.fp32.decode (x.bits 11 32 32)))
    let wide := hard || past err (x.bits 9 0 32) || past clip (x.bits 10 0 32)
    let narrow := !wide && Num.lt (Fl.fp64.decode err) (Fl.fp32.decode (x.bits 9 32 32)) && past noise (x.bits 10 32 32)
    up = (narrow && decide (x.bits 0 19 3 < x.bits 0 22 3) && decide (x.bits 11 16 16 ≤ min (x.bits 0 0 16 + 1) 65535)) →
    rung = (if wide && !hard then x.bits 0 19 3 - 1 else if up then x.bits 0 19 3 + 1 else x.bits 0 19 3) →
    y.bits 0 19 3 = rung ∧ y.bits 0 26 1 = (if hard && decide (0 < x.bits 0 19 3) then 1 else 0) ∧
      y.bits 0 0 16 = (if narrow && !up then (if x.bits 0 19 3 < x.bits 0 22 3 then min (x.bits 0 0 16 + 1) 65535 else x.bits 0 0 16) else 0) ∧
      y.bits 0 48 16 = (if x.bits (1 + rung) 0 10 = x.bits (1 + x.bits 0 19 3) 0 10 then x.bits 0 48 16
        else if x.bits 0 48 16 = 65535 then 1 else x.bits 0 48 16 + 1) ∧
      y.bits 0 16 3 = x.bits 0 16 3 ∧ y.bits 0 22 4 = x.bits 0 22 4 ∧ y.bits 0 27 21 = x.bits 0 27 21 ∧
      y.getD 20 0 = BitVec.ofNat 64 (Fl.fp32.rne (Fl.fp64.decode err) * 2 ^ 32 + Fl.fp32.rne (Fl.fp64.decode noise)) ∧
      y.getD 21 0 = BitVec.ofNat 64 (Fl.fp32.rne (Fl.fp64.decode clip) * 2 ^ 32) ∧ (∀ i, 12 ≤ i → i < 20 → y.getD i 0 = 0) ∧
      ∀ i, 1 ≤ i → i < 12 ∨ 22 ≤ i → y.getD i 0 = x.getD i 0

/-! ### Sidecars -/

/-- Wherever the selected sidecar may execute an instruction and `pre` holds, the instruction answers a next state, and
`post` holds of the states before and after it and of the sidecar's number (08 R283). -/
def SideDoes (i : Instr) (pre : State → Nat → Prop) (post : State → State → Nat → Prop) : Prop :=
  ∀ s, s.sideCan s.side = true → pre s s.side → ∃ t, exec i s = .next t ∧ post s t s.side

/-- Sidecar `n` alone has changed: it has become `x`. -/
def SideIs (s t : State) (n : Nat) (x : Side) : Prop :=
  { t with sides := [] } = { s with sides := [] } ∧ t.sideAt n = x ∧ ∀ m, m ≠ n → t.sideAt m = s.sideAt m

/-- A sidecar after an instruction that writes one register and goes on to an address; x0 discards it. -/
def Side.sets (x : Side) (rd : BitVec 5) (v pc : W64) : Side := { x.wx rd v with pc := pc }

/-- An instruction whose one effect is a register and the way on, by 4 bytes. -/
def SideSets (i : Instr) (pre : State → Nat → Prop) (rd : BitVec 5) (v : State → Nat → W64) : Prop :=
  SideDoes i pre (fun s t n => SideIs s t n ((s.sideAt n).sets rd (v s n) ((s.sideAt n).pc + 4)))

/-- A share word that an `x.` instruction may access: aligned, inside the share, with no uncorrectable error (08 R285). -/
def State.sideWord (s : State) (n : Nat) (a : W64) : Bool :=
  decide (a.toNat % 8 = 0) && decide (a.toNat + 8 ≤ (s.resvAt (s.ctxAt (n / 2)).resv).size) &&
    ((s.resvAt (s.ctxAt (n / 2)).resv).badIn a.toNat 8).isNone

/-- The share word at an offset, as a sidecar reads it. -/
def State.sideAtWord (s : State) (n : Nat) (a : W64) : W64 :=
  BitVec.ofNat 64 (leNat ((s.resvAt (s.ctxAt (n / 2)).resv).read a.toNat 8))

/-- Sidecar `n` has become `x`, and beside it only the share of its context has changed: bytes `off` to `off + len` are the
value's, and the tags of the words a condition names are `full`. -/
def SideShares (s t : State) (n : Nat) (x : Side) (off len v : Nat) (p : Nat → Prop) [DecidablePred p] (full : Bool) : Prop :=
  { t with sides := [], disp := {} } = { s with sides := [], disp := {} } ∧ t.sideAt n = x ∧
    (∀ m, m ≠ n → t.sideAt m = s.sideAt m) ∧ { t.disp with resvs := [] } = { s.disp with resvs := [] } ∧
    ∀ r0, r0 = (s.ctxAt (n / 2)).resv → (∀ r, r ≠ r0 → t.resvAt r = s.resvAt r) ∧
      { t.resvAt r0 with bytes := [], poison := [], full := [] } = { s.resvAt r0 with bytes := [], poison := [], full := [] } ∧
      (∀ a, a < off ∨ off + len ≤ a → mget 0 (t.resvAt r0).bytes a = mget 0 (s.resvAt r0).bytes a) ∧
      (∀ i, i < len → mget 0 (t.resvAt r0).bytes (off + i) = BitVec.ofNat 8 (v / 2 ^ (8 * i) % 256)) ∧
      ∀ w, (t.resvAt r0).tag w = if p w then full else (s.resvAt r0).tag w

/-- Sidecar `n` has raised an exception: it has stopped, and an asynchronous trap 0x31 waits at its context with the
sidecar's number in it, the pc, mcause and mtval; registers and memory are as they were (08 R286). -/
def SideStops (s t : State) (n : Nat) (mcause mtval : W64) : Prop :=
  (t.sideAt n).running = false ∧ (t.sideAt n).x = (s.sideAt n).x ∧ (t.sideAt n).pc = (s.sideAt n).pc ∧
    (t.ctxAt (n / 2)).r = (s.ctxAt (n / 2)).r ∧ t.mem.bytes = s.mem.bytes ∧ t.disp = s.disp ∧
    ∃ p, (t.ctxAt (n / 2)).sys.asyncs = (s.ctxAt (n / 2)).sys.asyncs ++ [p] ∧ p.cls = .async ∧ p.code = 0x31 ∧
      p.detail = BitVec.ofNat 64 (n % 2) ∧ p.x0 = (s.sideAt n).pc ∧ p.x1 = mcause ∧ p.x2 = mtval

/-- The words that `m` slots of a ring from a pointer on begin with. -/
abbrev onSlots (hd : Handle) (from_ m : Nat) (w : Nat) : Prop := ((List.range m).any (fun j => w == hd.at (from_ + j) / 8)) = true

/-- The pointer operation names a configured handle of the sidecar and a count from 1 to its depth (08 R252, R285). -/
def State.sideRing (s : State) (n : Nat) (rs2 rs1 : BitVec 5) (h m : Nat) (hd : Handle) : Prop :=
  h = (s.rx n rs1).toNat ∧ m = (s.rx n rs2).toNat ∧ hd = (s.sideAt n).handle h ∧ h < 4 ∧ hd.slot ≠ 0 ∧ 1 ≤ m ∧ m ≤ 128 ∧ m ≤ hd.depth

/-- The result of a register operation of a RISC-V integer or multiply instruction (presumed, log entry 9). -/
def rvValue {w : Nat} (op : RvAlu) (x y : BitVec w) (sh : Nat) : BitVec w :=
  match op with
  | .add => BitVec.ofNat w (x.toNat + y.toNat) | .sub => BitVec.ofInt w (x.toInt - y.toInt)
  | .sll => BitVec.ofNat w (x.toNat * 2 ^ sh) | .srl => BitVec.ofNat w (x.toNat / 2 ^ sh) | .sra => BitVec.ofInt w (x.toInt / 2 ^ sh)
  | .slt => if x.toInt < y.toInt then 1 else 0 | .sltu => if x.toNat < y.toNat then 1 else 0
  | .xor => x ^^^ y | .or => x ||| y | .and => x &&& y
  | .mul => BitVec.ofInt w (x.toInt * y.toInt) | .mulh => BitVec.ofInt w (x.toInt * y.toInt / 2 ^ w)
  | .mulhsu => BitVec.ofInt w (x.toInt * (y.toNat : Int) / 2 ^ w) | .mulhu => BitVec.ofNat w (x.toNat * y.toNat / 2 ^ w)
  | .div => BitVec.ofInt w (if y = 0 then -1 else x.toInt.tdiv y.toInt)
  | .divu => if y = 0 then BitVec.allOnes w else BitVec.ofNat w (x.toNat / y.toNat)
  | .rem => BitVec.ofInt w (if y = 0 then x.toInt else x.toInt.tmod y.toInt)
  | .remu => BitVec.ofNat w (if y = 0 then x.toNat else x.toNat % y.toNat)

/-- A register operation on 64 bits, or on the low 32 with its result sign-extended. -/
def rvResult (op : RvAlu) (word : Bool) (x y : W64) : W64 :=
  if word then (rvValue op (x.setWidth 32) (y.setWidth 32) (y.toNat % 32)).signExtend 64 else rvValue op x y (y.toNat % 64)

/-- An ordinary instruction whose one effect is a register, going on by its length. -/
def RvSets (i : RvInstr) (rd : BitVec 5) (v : State → Nat → W64 → W64) : Prop :=
  ∀ short, SideDoes (.sidecarRiscvInstruction i short) (fun _ _ => True) fun s t n =>
    ∃ on, on = (s.sideAt n).pc + (if short then 2 else 4) ∧ SideIs s t n ((s.sideAt n).sets rd (v s n on) on)

/-- Outside a guess, where `pre` holds an ordinary instruction raises an exception (08 R286). -/
def RvRaises (i : RvInstr) (pre : State → Nat → Prop) (c v : State → Nat → W64) : Prop :=
  ∀ short, SideDoes (.sidecarRiscvInstruction i short) (fun s n => s.guessOf (s.ctxAt (n / 2)) = none ∧ pre s n) fun s t n =>
    SideStops s t n (c s n) (v s n)

/-! ### Events -/

/-- Context `k` alone has changed: it has become `c`. -/
def CtxIs (s t : State) (k : Nat) (c : Ctx) : Prop :=
  { t with ctxs := [] } = { s with ctxs := [] } ∧ t.ctxAt k = c ∧ ∀ j, j ≠ k → t.ctxAt j = s.ctxAt j

/-- Context `k` has entered its trap handler, as `Enters` says it of the current one (15 R382). -/
def EntersAt (s t : State) (k : Nat) (p : PendTrap) : Prop :=
  (t.ctxAt k).r = { (s.ctxAt k).r with sup := true, pc := (s.ctxAt k).sys.stvec } ∧
    (t.ctxAt k).sys.sepc = p.sepc ∧ (t.ctxAt k).sys.sdetail = p.trap.detail ∧ (t.ctxAt k).sys.srepl = p.srepl ∧
    (t.ctxAt k).sys.scause.toNat % 256 = p.trap.code % 256 ∧ (t.ctxAt k).sys.scause.toNat / 0x10000 % 16 = p.trap.pos % 16 ∧
    (t.ctxAt k).sys.x0 = p.trap.x0 ∧ (t.ctxAt k).sys.sstep = false ∧ (t.ctxAt k).sys.trapPend = none ∧ (t.ctxAt k).sq.wait = none

/-- One sticky operation is due from its latch, with its guard true or false, and nothing stands in its way (04 R106,
R109). -/
def State.stickyReady (s : State) (p : Nat) (l : Latch) (on : Bool) : Prop :=
  s.canIssue s.ck = true ∧ s.issue.sticky = [p] ∧ s.me.latch p = some l ∧ guardOn s.me.r s.issue.bt (guardOf l.instr) = on ∧
    s.me.mx.chg = none ∧ s.me.mem.pend = [] ∧ s.me.mem.stepWait = [] ∧ s.me.sys.shadow = [] ∧ s.me.sq.late = [] ∧
    s.me.sys.asyncs = [] ∧ s.endsPlain = true

/-- One step of a latch (04 R108): ring offsets rise by 1, addresses by q[QS] (a copy's by its two signed halves), and a
tile number by the slots of its tile. -/
def Stepped (c : Ctx) (l l1 : Latch) : Prop :=
  let q {w : Nat} (n : BitVec w) : W64 := c.r.rq n.toNat
  let slots (n : Nat) : Nat := if (c.tile n).pair = 1 then 2 else 1
  l1.instr = l.instr ∧
  (∀ f, formOf l.instr = .vr f → l1.ringD = l.ringD + f.dc.toNat ∧ l1.ringA = l.ringA + (if f.ac = 1 then 1 else 0) ∧
    l1.ringB = l.ringB + if f.bc = 1 then 1 else 0) ∧
  (∀ f, formOf l.instr = .vq f → l1.ringD = l.ringD + f.dc.toNat ∧ l1.ringA = l.ringA + f.ac.toNat) ∧
  (∀ f, formOf l.instr = .mx f → (f.scl = 2 → l1.addrA = l.addrA + q f.qs) ∧ (f.scl = 1 → l1.ringD = l.ringD + 1)) ∧
  (∀ f, l.instr = .mma f ∨ l.instr = .mmaC f ∨ l.instr = .mmas f ∨ l.instr = .mmac f → l1.acc = l.acc + slots l.acc) ∧
  (∀ f, l.instr = .azero f ∨ l.instr = .acfg f ∨ l.instr = .aload f ∨ l.instr = .acvt f ∨ l.instr = .aadd f ∨
    l.instr = .await f → l1.acc = l.acc + slots l.acc ∧ l1.acb = l.acb + slots l.acb) ∧
  (∀ f, formOf l.instr = .lm f → (noAddress l.instr = false → l1.addrA = l.addrA + q f.qs) ∧ (f.dcl = 2 → l1.ringD = l.ringD + 1)) ∧
  ∀ f, formOf l.instr = .lc f → l1.addrA = l.addrA + BitVec.ofInt 64 ((q f.qs).setWidth 32).toInt ∧
    l1.addrB = l.addrB + BitVec.ofInt 64 ((q f.qs).extractLsb' 32 32).toInt

/-- A context may be parked: it was asked to, it is live, and no exit, no waiting trap and no M-slot operation holds it
(15 R390). -/
def State.mayPark (s : State) (k : Nat) : Prop :=
  (s.ctxAt k).sq.parkReq = true ∧ (s.ctxAt k).st = .live ∧ (s.ctxAt k).sq.exiting = false ∧ (s.ctxAt k).sys.trapPend = none ∧
    (s.ctxAt k).mx.ops = [] ∧ (s.taskAt (s.ctxAt k).task).ended = none

/-- Where a trap is due at a context's next boundary, it is taken before the context parks: an asynchronous trap in user mode,
with no replay to complete and no packet held (15 R385, R386). -/
def Ctx.asyncDue (c : Ctx) (p : Trap) : Prop :=
  c.r.sup = false ∧ c.sys.asyncs = [p] ∧ p.code < 256 ∧ c.sq.replay = [] ∧ c.sq.held = none

/-- The dispatcher's state alone has changed, and beside it only registers of the management window. -/
def DispOnly (s t : State) : Prop := { t with disp := {}, mgmt := {} } = { s with disp := {}, mgmt := {} }

/-- A queue has one more record waiting, with a kind, a cause, a task and a DETAIL (02 R63). -/
def Records (s t : State) (q kind cause : Nat) (task : Nat) (detail : W64) : Prop :=
  ∃ ws, (t.queueAt q).recs = (s.queueAt q).recs ++ [({ words := ws } : QRec)] ∧ (ws.getD 0 0).toNat % 256 = kind ∧
    (ws.getD 0 0).toNat / 256 % 256 = cause % 256 ∧ ws.getD 1 0 = BitVec.ofNat 64 task ∧ ws.getD 3 0 = detail

/-- STATE and ERR of a queue (16 R396). -/
def State.queueSays (s : State) (q st err : Nat) : Prop := s.qstate q = st ∧ (s.qreg q 0x30).toNat / 2 ^ 40 % 256 = err

/-- `n` bits of word `i` of a record in memory, from bit `lo` up. -/
def word (w : List W64) (i lo n : Nat) : Nat := (w.getD i 0).toNat / 2 ^ lo % 2 ^ n

/-- A running queue with neither a walk nor a launch under way holds a command whose words are `w` (16 R398). -/
def State.command (s : State) (q : Nat) (w : List W64) : Prop :=
  q < 256 ∧ s.qstate q = 1 ∧ (s.queueAt q).walk = none ∧ (s.queueAt q).wait = none ∧ 1 ≤ s.cmds q ∧ s.cmds q ≤ 2 ^ s.qclog q ∧
    s.readList q ((s.qreg q 8).toNat + 64 * (s.chead q % 2 ^ s.qclog q)) 8 = .ok w

/-- The command is a LAUNCH with its reserved bits zero (16 R401), and its numbers of ranges. -/
def isLaunch (w : List W64) (nrd nwr : Nat) : Prop :=
  word w 0 0 8 = 1 ∧ word w 0 24 8 = 0 ∧ word w 0 14 2 = 0 ∧ word w 0 11 1 = 0 ∧ nrd = word w 0 16 4 ∧ nwr = word w 0 20 4

/-- CHEAD has moved past one command (16 R398). -/
def Takes (s t : State) (q : Nat) : Prop := t.chead q = (s.chead q + 1) % 2 ^ 32 ∧ t.ctail q = s.ctail q

/-- A task with the next id and order has been made of a checked launch, and waits for the dependence table; no other task
has changed (02 R47, 16 R403). -/
def Accepts (s t : State) (q : Nat) (c : Checked) (walk : Nat) : Prop :=
  t.taskAt s.disp.nextTask = { id := s.disp.nextTask, q := q, l := c.l, desc := c.desc, side := c.side, order := s.disp.order + 1
                               entries := max 1 (c.l.reads.length + c.l.writes.length), walk := walk } ∧
    (∀ j, j ≠ s.disp.nextTask → t.taskAt j = s.taskAt j) ∧ t.disp.nextTask = s.disp.nextTask + 1 ∧ t.disp.order = s.disp.order + 1 ∧
    (t.queueAt q).wait = some s.disp.nextTask ∧ (t.queueAt q).recs = (s.queueAt q).recs ∧
    (t.queueAt q).dealer.hist.getLast? = some c.l ∧ DispOnly s t

/-- A walk has moved to a node, or has ended there (02 R57). -/
def WalksTo (t : State) (q : Nat) (w : Walk) (node : Nat) : Prop :=
  (t.queueAt q).walk = if node = 2 ^ 32 - 1 then none else some { w with node := node, task := none, calNext := none }

/-- The walk of a queue is about to act on a node of a kind that may be acted on; no re-walk is under way (02 R57, R61). -/
def State.nodeReady (s : State) (q : Nat) (w : Walk) (n : Node) (kind : Nat) : Prop :=
  s.atNode q = some (w, .ok n) ∧ n.kind = kind ∧ w.node < w.count ∧ n.reason w.count = none ∧ w.rerun = none

/-- A graph error has stopped the walk and the queue, with a record of KIND 3 (02 R61, R63). -/
def GraphStops (s t : State) (q : Nat) (w : Walk) (reason : Nat) (detail : W64) : Prop :=
  (t.queueAt q).walk = none ∧ Records s t q 3 reason w.node detail ∧ t.queueSays q 2 0 ∧ DispOnly s t

/-- Of the dispatcher only one task has changed, and of the machine only the dispatcher. -/
def TaskIs (s t : State) (task : Nat) (x : Task) : Prop :=
  t.taskAt task = x ∧ (∀ j, j ≠ task → t.taskAt j = s.taskAt j) ∧ { t with disp := {} } = { s with disp := {} } ∧
    { t.disp with tasks := [] } = { s.disp with tasks := [] }

/-- The reservations of a task are gone, with their slots and sidecars (02 R54). -/
def Releases (s t : State) (task : Nat) : Prop :=
  ∀ r ∈ s.resvsOf task, mfind t.disp.resvs r = none ∧ ∀ k ∈ (s.resvAt r).slots, (t.ctxAt k).st = .free ∧
    (t.sideAt (2 * k)).present = false ∧ (t.sideAt (2 * k + 1)).present = false

/-- No task of a queue that counts for its reset is left (16 R399). -/
def State.queueEmpty (s : State) (q : Nat) : Prop := ∀ x ∈ s.allTasks, x.q = q → x.order = 0

/-- A request frame whose check holds arrives with an OP and the port performs it (18 R433). -/
def State.portTakes (s : State) (f : Frame) (op : Nat) : Prop := f.fcs = true ∧ f.op.toNat = op ∧ s.portSays f = .perform

/-- The port has sent one reply to a request, with a status and data, and kept it, and the session expects the next number
(18 R433). -/
def Replies (s t : State) (f : Frame) (status : Nat) (data : List Byte) : Prop :=
  t.mgmt.replies = s.mgmt.replies ++ [{ fcs := true, op := 5, status := BitVec.ofNat 8 status, session := f.session &&& 0x0F, zero3 := 0
                                        seq := f.seq, addr := f.addr, len := BitVec.ofNat 32 data.length, keyid := 0
                                        zero22 := 0, data := data }] ∧
    (t.sessionOf f).exp = (s.sessionOf f).exp + 1 ∧
    ∀ g : Frame, g.session ≠ f.session → t.sessionOf g = s.sessionOf g

/-- Every core has halted, and every access in flight is lost: of contexts, copies, collectives, records and Couch engines
(18 R437). -/
def Fatal (t : State) : Prop :=
  t.mgmt.pfe = true ∧ (∀ n, n < 576 → (t.coreAt n).halted = true ∧ (t.coreAt n).copies = []) ∧
    (∀ k, (t.ctxAt k).mem.pend = []) ∧ t.hub.recs = [] ∧ t.hub.colls = [] ∧
    ∀ e ∈ t.hub.couch, e.2.job = none ∧ e.2.queue = []

/-- The package has been reset: no context, no task, memory and the H-die as after reset; the fuses and the image in flash
stay, and the package boots or recovers as the root of trust finds that image, whose version it takes (18 R441, R443). -/
def Rebooted (s t : State) : Prop :=
  t.ctxs = [] ∧ t.cores = State.reset.cores ∧ t.mem = State.reset.mem ∧ t.hub = State.reset.hub ∧ t.disp = State.reset.disp ∧
    t.mgmt.win = [] ∧ t.mgmt.pfe = false ∧ t.mgmt.ready = false ∧ t.mgmt.booting = imageGood s.image ∧
    t.mgmt.recov = !imageGood s.image ∧ t.mgmt.enmap = s.mgmt.enmap ∧ t.mgmt.flash = s.mgmt.flash ∧
    t.mgmt.fwver = BitVec.ofNat 32 (imageField s.image 4 4)

/-- One more correctable error of a unit is counted, up to the greatest count (18 R438). -/
def Counts (s t : State) (place unit_ : Nat) : Prop :=
  mget 0 t.mgmt.errs (0x2000 * place + 8 * unit_) =
    if mget 0 s.mgmt.errs (0x2000 * place + 8 * unit_) = BitVec.allOnes 64 then BitVec.allOnes 64
    else mget 0 s.mgmt.errs (0x2000 * place + 8 * unit_) + 1

/-- Only the registers of the management side have changed. -/
def MgmtOnly (s t : State) : Prop := { t with mgmt := {} } = { s with mgmt := {} }

/-- Of the Calender only one entry has changed, and of the machine only the Calender. -/
def EntryOnly (s t : State) (e : Nat) : Prop :=
  { t with hub := {} } = { s with hub := {} } ∧ { t.hub with cal := [] } = { s.hub with cal := [] } ∧
    ∀ j i, j ≠ e → i < 32 → mget 0 t.hub.cal (32 * j + i) = mget 0 s.hub.cal (32 * j + i)

end Machine

end Sys2Proof
end

