-- ==== Sys2Proof/Certificates/Slice0/Obligations.lean ====
section
/-!
DEFINITION. The statements about the model, family by family.
-/

open Sys2Proof Sys2Proof.Machine

/-! ### S slots -/

/-- 05 R138: sums, differences and products wrap modulo 2^64; `mulh` and `mulhu` give the high half of the exact signed
and unsigned product. -/
def Obligations.ScalarSumsAndProducts : Prop :=
  (∀ f, Completes (.add f) fun s t => WritesS s t f.sd.toNat (BitVec.ofNat 64 ((s.sc f.sa).toNat + (s.sc f.sb).toNat))) ∧
  (∀ f, Completes (.sub f) fun s t => WritesS s t f.sd.toNat (BitVec.ofInt 64 ((s.sc f.sa).toNat - (s.sc f.sb).toNat : Int))) ∧
  (∀ f, Completes (.addi f) fun s t => WritesS s t f.sd.toNat (BitVec.ofInt 64 ((s.sc f.sa).toInt + f.imm.toInt))) ∧
  (∀ f, Completes (.mul f) fun s t => WritesS s t f.sd.toNat (BitVec.ofNat 64 ((s.sc f.sa).toNat * (s.sc f.sb).toNat))) ∧
  (∀ f, Completes (.mulh f) fun s t => WritesS s t f.sd.toNat (BitVec.ofInt 64 ((s.sc f.sa).toInt * (s.sc f.sb).toInt / 2 ^ 64))) ∧
  ∀ f, Completes (.mulhu f) fun s t => WritesS s t f.sd.toNat (BitVec.ofNat 64 ((s.sc f.sa).toNat * (s.sc f.sb).toNat / 2 ^ 64))

/-- 05 R139: quotients round toward zero, a remainder is sa − sb × quotient, division by zero gives all ones and sa, and
the one signed overflow gives −2^63 and 0; and the four operation codes. -/
def Obligations.ScalarDivision : Prop :=
  (∀ f, Completes (.div f) fun s t => WritesS s t f.sd.toNat
    (if s.sc f.sb = 0 then BitVec.allOnes 64
      else if s.sc f.sa = BitVec.ofInt 64 (-2 ^ 63) ∧ s.sc f.sb = BitVec.ofInt 64 (-1) then BitVec.ofInt 64 (-2 ^ 63)
      else BitVec.ofInt 64 ((s.sc f.sa).toInt.tdiv (s.sc f.sb).toInt))) ∧
  (∀ f, Completes (.divu f) fun s t => WritesS s t f.sd.toNat
    (if s.sc f.sb = 0 then BitVec.allOnes 64 else BitVec.ofNat 64 ((s.sc f.sa).toNat / (s.sc f.sb).toNat))) ∧
  (∀ f, Completes (.rem f) fun s t => WritesS s t f.sd.toNat
    (if s.sc f.sb = 0 then s.sc f.sa
      else if s.sc f.sa = BitVec.ofInt 64 (-2 ^ 63) ∧ s.sc f.sb = BitVec.ofInt 64 (-1) then 0
      else BitVec.ofInt 64 ((s.sc f.sa).toInt - (s.sc f.sb).toInt * (s.sc f.sa).toInt.tdiv (s.sc f.sb).toInt))) ∧
  (∀ f, Completes (.remu f) fun s t => WritesS s t f.sd.toNat
    (if s.sc f.sb = 0 then s.sc f.sa
      else BitVec.ofInt 64 ((s.sc f.sa).toNat - (s.sc f.sb).toNat * ((s.sc f.sa).toNat / (s.sc f.sb).toNat) : Int))) ∧
  ∀ f, decSlot .s (f.toWord 7 |>.setWidth 64) = .ok (.div f) ∧ decSlot .s (f.toWord 8 |>.setWidth 64) = .ok (.divu f) ∧
    decSlot .s (f.toWord 9 |>.setWidth 64) = .ok (.rem f) ∧ decSlot .s (f.toWord 10 |>.setWidth 64) = .ok (.remu f)

/-- 05 R138: the bitwise operations and the shifts, bit by bit; a shift amount is six bits.
05 R138: counts of bits, minima and maxima, the copy and the extensions of the low bits. -/
def Obligations.ScalarLogicShiftsAndCounts : Prop :=
  (
  (∀ f, Completes (.and f) fun s t => ∀ v, (∀ i, v.getLsbD i = ((s.sc f.sa).getLsbD i && (s.sc f.sb).getLsbD i)) → WritesS s t f.sd.toNat v) ∧
  (∀ f, Completes (.or f) fun s t => ∀ v, (∀ i, v.getLsbD i = ((s.sc f.sa).getLsbD i || (s.sc f.sb).getLsbD i)) → WritesS s t f.sd.toNat v) ∧
  (∀ f, Completes (.xor f) fun s t => ∀ v, (∀ i, v.getLsbD i = ((s.sc f.sa).getLsbD i ^^ (s.sc f.sb).getLsbD i)) → WritesS s t f.sd.toNat v) ∧
  (∀ f, Completes (.andn f) fun s t => ∀ v, (∀ i, v.getLsbD i = ((s.sc f.sa).getLsbD i && !(s.sc f.sb).getLsbD i)) → WritesS s t f.sd.toNat v) ∧
  (∀ f, Completes (.shl f) fun s t => WritesS s t f.sd.toNat (BitVec.ofNat 64 ((s.sc f.sa).toNat * 2 ^ ((s.sc f.sb).toNat % 64)))) ∧
  (∀ f, Completes (.shr f) fun s t => WritesS s t f.sd.toNat (BitVec.ofNat 64 ((s.sc f.sa).toNat / 2 ^ ((s.sc f.sb).toNat % 64)))) ∧
  (∀ f, Completes (.sra f) fun s t => WritesS s t f.sd.toNat (BitVec.ofInt 64 ((s.sc f.sa).toInt / 2 ^ ((s.sc f.sb).toNat % 64)))) ∧
  (∀ f, Completes (.shli f) fun s t => WritesS s t f.sd.toNat (BitVec.ofNat 64 ((s.sc f.sa).toNat * 2 ^ (f.imm.toNat % 64)))) ∧
  (∀ f, Completes (.shri f) fun s t => WritesS s t f.sd.toNat (BitVec.ofNat 64 ((s.sc f.sa).toNat / 2 ^ (f.imm.toNat % 64)))) ∧
  ∀ f, Completes (.srai f) fun s t => WritesS s t f.sd.toNat (BitVec.ofInt 64 ((s.sc f.sa).toInt / 2 ^ (f.imm.toNat % 64)))) ∧
  (
  (∀ f, Completes (.clz f) fun s t => ∃ n, WritesS s t f.sd.toNat (BitVec.ofNat 64 n) ∧ n ≤ 64 ∧
    (n = 64 ↔ s.sc f.sa = 0) ∧ (n < 64 → (s.sc f.sa).getLsbD (63 - n) = true) ∧ (s.sc f.sa).toNat < 2 ^ (64 - n)) ∧
  (∀ f, Completes (.ctz f) fun s t => ∃ n, WritesS s t f.sd.toNat (BitVec.ofNat 64 n) ∧ n ≤ 64 ∧
    (n = 64 ↔ s.sc f.sa = 0) ∧ (n < 64 → (s.sc f.sa).getLsbD n = true) ∧ ∀ i, i < n → (s.sc f.sa).getLsbD i = false) ∧
  (∀ f, Completes (.popc f) fun s t => WritesS s t f.sd.toNat
    (BitVec.ofNat 64 ((List.range 64).countP (fun i => (s.sc f.sa).getLsbD i)))) ∧
  (∀ f, Completes (.min f) fun s t => WritesS s t f.sd.toNat (BitVec.ofInt 64 (min (s.sc f.sa).toInt (s.sc f.sb).toInt))) ∧
  (∀ f, Completes (.max f) fun s t => WritesS s t f.sd.toNat (BitVec.ofInt 64 (max (s.sc f.sa).toInt (s.sc f.sb).toInt))) ∧
  (∀ f, Completes (.minu f) fun s t => WritesS s t f.sd.toNat (BitVec.ofNat 64 (min (s.sc f.sa).toNat (s.sc f.sb).toNat))) ∧
  (∀ f, Completes (.maxu f) fun s t => WritesS s t f.sd.toNat (BitVec.ofNat 64 (max (s.sc f.sa).toNat (s.sc f.sb).toNat))) ∧
  (∀ f, Completes (.mov f) fun s t => WritesS s t f.sd.toNat (s.sc f.sa)) ∧
  (∀ f, Completes (.sext f) fun s t => WritesS s t f.sd.toNat
    (BitVec.ofInt 64 (BitVec.ofNat (f.imm.toNat % 64 + 1) (s.sc f.sa).toNat).toInt)) ∧
  ∀ f, Completes (.zext f) fun s t => WritesS s t f.sd.toNat (BitVec.ofNat 64 ((s.sc f.sa).toNat % 2 ^ (f.imm.toNat % 64 + 1))))

/-- 05 R140, R141: fields are extracted with bits beyond 63 read as zero and inserted with bits above 63 lost; the three
operations that place a 16-bit immediate, `addr` from the address of the packet's first bundle. -/
def Obligations.ScalarFieldsAndConstants : Prop :=
  (∀ f, Completes (.bfx f) fun s t =>
    let p := (s.sc f.sb).toNat % 64
    let l := (s.sc f.sb).toNat / 256 % 64 + 1
    let x : BitVec l := BitVec.ofNat l ((s.sc f.sa).toNat / 2 ^ p)
    WritesS s t f.sd.toNat (if f.fn.getLsbD 0 then BitVec.ofInt 64 x.toInt else BitVec.ofNat 64 x.toNat)) ∧
  (∀ f, Completes (.bfi f) fun s t =>
    let p := (s.sc f.sb).toNat % 64
    let l := (s.sc f.sb).toNat / 256 % 64 + 1
    ∀ v : W64, (∀ i, i < 64 → v.getLsbD i = if p ≤ i ∧ i < p + l then (s.sc f.sa).getLsbD (i - p) else (s.sc f.sd).getLsbD i) →
      WritesS s t f.sd.toNat v) ∧
  (∀ f, Completes (.li f) fun s t => WritesS s t f.sd.toNat (BitVec.ofInt 64 f.imm.toInt)) ∧
  (∀ f, Completes (.lui f) fun s t => WritesS s t f.sd.toNat (BitVec.ofNat 64 ((s.sc f.sd).toNat * 2 ^ 16 + f.imm.toNat))) ∧
  ∀ f, Completes (.addr f) fun s t => WritesS s t f.sd.toNat (s.issue.pc + BitVec.ofInt 64 (4 * f.imm.toInt))

/-- 05 R142: `cmp` writes the condition bit of SD[2:0] with the relation of FN, and nothing else. -/
def Obligations.ScalarCompare : Prop :=
  ∀ f, Completes (.cmp f) fun s t => ∃ b, WritesC s t (f.sd.toNat % 8) b ∧
    (f.fn = 0 → (b = true ↔ s.sc f.sa = s.sc f.sb)) ∧ (f.fn = 1 → (b = true ↔ s.sc f.sa ≠ s.sc f.sb)) ∧
    (f.fn = 2 → (b = true ↔ (s.sc f.sa).toInt < (s.sc f.sb).toInt)) ∧ (f.fn = 3 → (b = true ↔ (s.sc f.sb).toInt ≤ (s.sc f.sa).toInt)) ∧
    (f.fn = 4 → (b = true ↔ (s.sc f.sa).toNat < (s.sc f.sb).toNat)) ∧ (f.fn = 5 → (b = true ↔ (s.sc f.sb).toNat ≤ (s.sc f.sa).toNat)) ∧
    f.fn.toNat ≤ 5

/-- 05 R143: `sel` takes sa where the condition bit XOR FN[3] is 1, and sb otherwise; and its operation code. -/
def Obligations.ScalarSelect : Prop :=
  (∀ f, Completes (.sel f) fun s t => WritesS s t f.sd.toNat
    (if (s.me.r.rc (f.fn.toNat % 8) ^^ f.fn.getLsbD 3) then s.sc f.sa else s.sc f.sb)) ∧
  ∀ f, decSlot .s (f.toWord 0x1C |>.setWidth 64) = .ok (.sel f)

/-- 05 R144, R145: the arithmetic operations round one exact value once, into the width of FN[0] and in the mode of
FN[3:1]; in SR mode they draw once from generator 0. -/
def Obligations.ScalarFloatArithmetic : Prop :=
  (∀ f, Completes (.fadd f) fun s t => RoundsS s t f fun fl rm d =>
    fl.round rm d (sumExact (decide (rm = .rdn)) [fl.decode (s.sc f.sa).toNat, fl.decode (s.sc f.sb).toNat])) ∧
  (∀ f, Completes (.fsub f) fun s t => RoundsS s t f fun fl rm d =>
    fl.round rm d (sumExact (decide (rm = .rdn)) [fl.decode (s.sc f.sa).toNat, (fl.decode (s.sc f.sb).toNat).neg])) ∧
  (∀ f, Completes (.fmul f) fun s t => RoundsS s t f fun fl rm d =>
    fl.round rm d ((fl.decode (s.sc f.sa).toNat).mul (fl.decode (s.sc f.sb).toNat))) ∧
  (∀ f, Completes (.fmadd f) fun s t => RoundsS s t f fun fl rm d =>
    fl.round rm d (sumExact (decide (rm = .rdn))
      [(fl.decode (s.sc f.sa).toNat).mul (fl.decode (s.sc f.sb).toNat), fl.decode (s.sc f.sd).toNat])) ∧
  (∀ f, Completes (.fdiv f) fun s t => RoundsS s t f fun fl rm d => fl.div rm d (fl.decode (s.sc f.sa).toNat) (fl.decode (s.sc f.sb).toNat)) ∧
  ∀ f, Completes (.fsqrt f) fun s t => RoundsS s t f fun fl rm d => fl.sqrt rm d (fl.decode (s.sc f.sa).toNat)

/-- 05 R146, R147, R149: `fmin` and `fmax` under the NaN rules, the comparisons, and the operations on sign bits.
05 R148: `fcvt` converts sa from type SB[5:3] to type SB[2:0], rounding once; floats and unsigned integers are
zero-extended and `i32` sign-extended; in SR mode it draws even where it is exact (03 R96). -/
def Obligations.ScalarFloatOrderAndConvert : Prop :=
  (
  (∀ f, Completes (.fmin f) fun s t => ∃ v, WritesS s t f.sd.toNat (BitVec.ofNat 64 v) ∧
    (flWidth (f.fn.getLsbD 0)).Picks false ((s.sc f.sa).toNat % 2 ^ (flWidth (f.fn.getLsbD 0)).width)
      ((s.sc f.sb).toNat % 2 ^ (flWidth (f.fn.getLsbD 0)).width) v) ∧
  (∀ f, Completes (.fmax f) fun s t => ∃ v, WritesS s t f.sd.toNat (BitVec.ofNat 64 v) ∧
    (flWidth (f.fn.getLsbD 0)).Picks true ((s.sc f.sa).toNat % 2 ^ (flWidth (f.fn.getLsbD 0)).width)
      ((s.sc f.sb).toNat % 2 ^ (flWidth (f.fn.getLsbD 0)).width) v) ∧
  (∀ f, Completes (.fcmp f) fun s t =>
    let fl := flWidth (f.sd.getLsbD 3)
    let x := fl.decode (s.sc f.sa).toNat
    let y := fl.decode (s.sc f.sb).toNat
    ∃ b, WritesC s t (f.sd.toNat % 8) b ∧ (x = .nan ∨ y = .nan → (b = true ↔ f.fn = 1 ∨ f.fn = 4)) ∧
      (x ≠ .nan → y ≠ .nan → (f.fn = 0 → b = (!Machine.Num.lt x y && !Machine.Num.lt y x)) ∧ (f.fn = 1 → b = (Machine.Num.lt x y || Machine.Num.lt y x)) ∧
        (f.fn = 2 → b = Machine.Num.lt x y) ∧ (f.fn = 3 → b = !Machine.Num.lt y x) ∧ (f.fn = 4 → b = false))) ∧
  ∀ f, Completes (.fmvx f) fun s t =>
    let w := (flWidth (f.fn.getLsbD 0)).width
    ∃ v, WritesS s t f.sd.toNat v ∧ (∀ i, i < w - 1 → v.getLsbD i = (s.sc f.sa).getLsbD i) ∧ (∀ i, w ≤ i → v.getLsbD i = false) ∧
      (f.fn.toNat / 2 = 0 → v.getLsbD (w - 1) = (s.sc f.sb).getLsbD (w - 1)) ∧
      (f.fn.toNat / 2 = 1 → v.getLsbD (w - 1) = !(s.sc f.sb).getLsbD (w - 1)) ∧
      (f.fn.toNat / 2 = 2 → v.getLsbD (w - 1) = ((s.sc f.sa).getLsbD (w - 1) ^^ (s.sc f.sb).getLsbD (w - 1))) ∧
      (f.fn.toNat / 2 = 3 → v.getLsbD (w - 1) = false) ∧ (f.fn.toNat / 2 = 4 → v.getLsbD (w - 1) = !(s.sc f.sa).getLsbD (w - 1))) ∧
  (
  ∀ f, Completes (.fcvt f) fun s t =>
    let rm := Rnd.get (f.fn.toNat / 2)
    let d : BitVec 32 := if rm = .sr then (s.me.r.draw 0).1 else 0
    let src := f.sb.toNat / 8
    let x : Machine.Num := match src with
      | 0 => Fl.fp32.decode (s.sc f.sa).toNat
      | 1 => Fl.fp64.decode (s.sc f.sa).toNat
      | 2 => Fl.fp16.decode (s.sc f.sa).toNat
      | 3 => Fl.bf16.decode (s.sc f.sa).toNat
      | 4 => .ofInt (BitVec.ofNat 32 (s.sc f.sa).toNat).toInt
      | 5 => .ofInt ((s.sc f.sa).toNat % 2 ^ 32 : Nat)
      | 6 => .ofInt (s.sc f.sa).toInt
      | _ => .ofInt (s.sc f.sa).toNat
    WritesSD s t f.sd.toNat (decide (rm = .sr)) (match f.sb.toNat % 8 with
      | 0 => BitVec.ofNat 64 (Fl.fp32.round rm d x)
      | 1 => BitVec.ofNat 64 (Fl.fp64.round rm d x)
      | 2 => BitVec.ofNat 64 (Fl.fp16.round rm d x)
      | 3 => BitVec.ofNat 64 (Fl.bf16.round rm d x)
      | 4 => BitVec.ofInt 64 (BitVec.ofNat 32 ((IFmt.mk 32 true).round rm d x)).toInt
      | 5 => BitVec.ofNat 64 ((IFmt.mk 32 false).round rm d x)
      | 6 => BitVec.ofNat 64 ((IFmt.mk 64 true).round rm d x)
      | _ => BitVec.ofNat 64 ((IFmt.mk 64 false).round rm d x)))

/-- 05 R150 to R152: `rdd` reads a dispatch register, `rdsys` what its selector names (the cycle count as the packet leaves it;
the clock of 18 R431), and `rdtime` a value from the time
base at issue to 8 ticks later, or the context's last one where that is later (01 R36). -/
def Obligations.ScalarSystemReads : Prop :=
  (∀ f, Completes (.rdd f) fun s t => WritesS s t f.sd.toNat (s.me.r.rd (f.imm.toNat % 16))) ∧
  (∀ f, Completes (.rdsys f) fun s t => ∃ v, WritesS s t f.sd.toNat v ∧
    (f.imm.toNat = 0 → v = s.identOf s.core) ∧ (f.imm.toNat = 1 → v = (t.coreAt s.core).cycles) ∧
    (f.imm.toNat = 2 → v = s.me.sq.repcnt) ∧ (f.imm.toNat = 3 → v.toNat = 100 * ((s.win 0x40090).toNat % 2 ^ 6)) ∧
    (f.imm.toNat = 4 → v = if s.me.r.sup then 1 else 0) ∧
    (8 ≤ f.imm.toNat → f.imm.toNat ≤ 11 → v.toNat % 2 ^ 24 = (mget 0 s.me.r.lc (f.imm.toNat - 8)).toNat % 2 ^ 24 ∧
      v.toNat / 2 ^ 24 % 2 ^ 38 = 0 ∧ v.getLsbD 63 = s.me.r.loops.any (fun l => l.k == f.imm.toNat - 8) ∧
      v.getLsbD 62 = (s.me.r.loops.find? (fun l => l.k == f.imm.toNat - 8)).any (fun l => l.while_)) ∧
    (f.imm.toNat ≤ 4 ∨ (8 ≤ f.imm.toNat ∧ f.imm.toNat ≤ 11))) ∧
  ∀ f, Completes (.rdtime f) fun s t => ∃ v, s.me.mem.lastTime.toNat ≤ s.hub.time.toNat + 8 → s.hub.time.toNat + 8 < 2 ^ 64 →
    ScalarIs s t f.sd.toNat v ∧ (t.ctxAt s.ck).r.noS = s.me.r.noS ∧ GoesOn s t ∧ Beyond s t ∧ t.mem = s.mem ∧ t.disp = s.disp ∧
      { t.hub with lastRead := 0 } = { s.hub with lastRead := 0 } ∧
      s.hub.time.toNat ≤ v.toNat ∧ v.toNat ≤ s.hub.time.toNat + 8 ∧ s.me.mem.lastTime.toNat ≤ v.toNat ∧
      { (t.ctxAt s.ck).rest with mem := { (t.ctxAt s.ck).rest.mem with lastTime := 0 } } =
        { s.me.rest with mem := { s.me.rest.mem with lastTime := 0 } }

/-! ### The B slot -/

/-- 05 R154, R155, R157: where each transfer goes and what it links; `bt` takes the leaf of its first test that holds, and
otherwise falls through.
05 R156, 15 R382: a register target whose bits [1:0] are not zero raises the branch-target fault at the packet, with the
target in DETAIL; nothing of the packet performs. -/
def Obligations.ControlTransfers : Prop :=
  (
  (∀ f, Completes (.br f) fun s t => Still s t ∧ GoesTo s t (s.issue.pc + BitVec.ofInt 64 (4 * f.off.toInt))) ∧
  (∀ f, Completes (.call f) fun s t => SetsS s t f.sd.toNat s.issue.next ∧
    GoesTo s t (s.issue.pc + BitVec.ofInt 64 (4 * f.off.toInt))) ∧
  (∀ f, CompletesIf (.ret f) (fun s => (s.sc f.sa).toNat % 4 = 0) fun s t => Still s t ∧ GoesTo s t (s.sc f.sa)) ∧
  (∀ f, CompletesIf (.jr f) (fun s => (s.sc f.sa).toNat % 4 = 0) fun s t => SetsS s t f.sd.toNat s.issue.next ∧
    GoesTo s t (s.sc f.sa + BitVec.ofInt 64 (4 * f.off.toInt))) ∧
  ∀ f, Completes (.bt f) fun s t => Still s t ∧
    let tests := [f.t0, f.t1, f.t2, f.t3].take (f.nt.toNat + 1)
    GoesTo s t (match tests.findIdx? (fun x => s.me.r.rc (x.toNat % 8) ^^ x.getLsbD 3) with
      | some i => s.issue.pc + BitVec.ofInt 64 (4 * ([f.l0, f.l1, f.l2, f.l3].getD i 0).toInt)
      | none => s.issue.next)) ∧
  (
  (∀ f, FaultsAt (.ret f) (fun s => (s.sc f.sa).toNat % 4 ≠ 0) fun s =>
    { cls := .issue, code := 0x0C, detail := s.sc f.sa }) ∧
  ∀ f, FaultsAt (.jr f) (fun s => (s.sc f.sa).toNat % 4 ≠ 0) fun s =>
    { cls := .issue, code := 0x0C, detail := s.sc f.sa + BitVec.ofInt 64 (4 * f.off.toInt) })

/-- 05 R159, R160: `loop` sets its counter and activates its record as the most recent, skips a body of no trips, and takes
the loop-limit trap beyond its maximum; `loopw` starts its counter at zero.
05 R161: after a packet that holds the end of the most recent loop and takes no transfer, a counted loop counts down
and goes round or ends, and a while loop counts up and goes round, ends on its condition, or is trapped at its maximum.  The
packet here is a `mov`, in user mode with SSTEP clear. -/
def Obligations.Loops : Prop :=
  (
  (∀ f, CompletesIf (.loop f)
    (fun s => (s.sc f.sa).toNat ≤ f.max.toNat ∧ (s.sc f.sa) ≠ 0 ∧ ¬ s.issue.starts.contains (s.issue.pc + BitVec.ofInt 64 (4 * f.last.toInt)))
    fun s t => Kept s t ∧ GoesOn s t ∧
      { (t.ctxAt s.ck).r.noPc with lc := [], loops := [] } = { s.me.r.noPc with lc := [], loops := [] } ∧
      (∀ k, mget 0 (t.ctxAt s.ck).r.lc k = if k = f.lc.toNat then s.sc f.sa else mget 0 s.me.r.lc k) ∧
      (t.ctxAt s.ck).r.loops =
        ⟨f.lc.toNat, false, 0, false, f.max.toNat, s.issue.next, s.issue.pc + BitVec.ofInt 64 (4 * f.last.toInt)⟩ ::
          s.me.r.loops.filter (fun l => l.k ≠ f.lc.toNat)) ∧
  (∀ f, CompletesFree (.loop f) fun s t => s.sc f.sa = 0 → ∀ u a,
    (s.atAct (.loop f)).afterEnd s.ck (s.issue.pc + BitVec.ofInt 64 (4 * f.last.toInt)) = (u, .ok a) →
      (t.ctxAt s.ck).r.noPc = s.me.r.noPc ∧ GoesTo s t a) ∧
  (∀ f, FaultsAt (.loop f) (fun s => f.max.toNat < (s.sc f.sa).toNat) fun s =>
    { cls := .issue, code := 0x17, detail := s.sc f.sa, x0 := BitVec.ofNat 64 f.lc.toNat }) ∧
  ∀ f, CompletesIf (.loopw f) (fun s => ¬ s.issue.starts.contains (s.issue.pc + BitVec.ofInt 64 (4 * f.last.toInt)))
    fun s t => Kept s t ∧ GoesOn s t ∧
      { (t.ctxAt s.ck).r.noPc with lc := [], loops := [] } = { s.me.r.noPc with lc := [], loops := [] } ∧
      (∀ k, mget 0 (t.ctxAt s.ck).r.lc k = if k = f.lc.toNat then 0 else mget 0 s.me.r.lc k) ∧
      (t.ctxAt s.ck).r.loops = ⟨f.lc.toNat, true, f.cc.toNat, f.neg == 1, f.max.toNat, s.issue.next,
        s.issue.pc + BitVec.ofInt 64 (4 * f.last.toInt)⟩ ::
          s.me.r.loops.filter (fun l => l.k ≠ f.lc.toNat)) ∧
  (
  ∀ (f : SR) (s : State) (l : LoopRec) (rest : List LoopRec), s.slotReady (.mov f) = true → s.issue.reps ≤ s.issue.rep →
    s.me.sys.sstep = false → s.me.sq.keptTrap s.issue.pc s.me.r.sup = none → s.me.r.loops = l :: rest → s.issue.starts.contains l.last = true →
    (∀ x ∈ rest, x.k ≠ l.k ∧ s.issue.starts.contains x.last = false) →
    let n := mget 0 s.me.r.lc l.k
    let holds := s.me.r.rc l.cc ^^ l.neg
    ∃ t, exec (.mov f) s = .next t ∧
      (l.while_ = false → n ≠ 1 → (t.ctxAt s.ck).r.pc = l.start ∧ (t.ctxAt s.ck).r.loops = l :: rest ∧ mget 0 (t.ctxAt s.ck).r.lc l.k = n - 1) ∧
      (l.while_ = false → n = 1 → (t.ctxAt s.ck).r.pc = s.issue.next ∧ (t.ctxAt s.ck).r.loops = rest ∧ mget 0 (t.ctxAt s.ck).r.lc l.k = 0) ∧
      (l.while_ = true → holds = true → mget 0 (t.ctxAt s.ck).r.lc l.k = n + 1 ∧ (t.ctxAt s.ck).r.pc = s.issue.next ∧ (t.ctxAt s.ck).r.loops = rest) ∧
      (l.while_ = true → holds = false → (n + 1).toNat ≠ l.max → mget 0 (t.ctxAt s.ck).r.lc l.k = n + 1 ∧
        (t.ctxAt s.ck).r.pc = l.start ∧ (t.ctxAt s.ck).r.loops = l :: rest) ∧
      (l.while_ = true → holds = false → (n + 1).toNat = l.max → s.traps = true →
        (t.ctxAt s.ck).r.loops = rest ∧ (t.ctxAt s.ck).r.pc = s.me.sys.stvec ∧ (t.ctxAt s.ck).sys.sepc = s.issue.next ∧
        (t.ctxAt s.ck).sys.scause.toNat % 256 = 0x17 ∧ (t.ctxAt s.ck).sys.sdetail = BitVec.ofNat 64 l.max ∧
        (t.ctxAt s.ck).sys.x0 = BitVec.ofNat 64 l.k))

/-- 05 R164: `brk` raises the breakpoint fault before any slot of its packet performs: the saved pc is the packet and
DETAIL is the immediate.
05 R163, R165, R166; 02 R53, R54: the software trap is raised after its packet with the next packet as the saved pc;
`yield` blocks once and then changes nothing; `exit` retires a context whose accesses have performed; `spawn` starts an idle
slot at its entry with eight arguments and an empty chunk, and faults at its packet on an entry that is not aligned or a target
that is no idle slot of its reservation (05 R167).
05 R168, 02 R46: `nextr` takes a chunk from the pool of its task.  The chunk and what stays in the pool are disjoint and
together cover what the pool held; an empty pool gives the empty chunk at the end of the range. -/
def Obligations.TrapsYieldsExitsAndSpawns : Prop :=
  (
  ∀ f, FaultsAt (.brk f) (fun _ => True) fun _ => { cls := .issue, code := 0x18, detail := BitVec.ofNat 64 f.imm.toNat }) ∧
  (
  (∀ f s, s.slotReady (.trap f) = true → s.endsPlain = true → s.traps = true → s.issue.reps ≤ s.issue.rep →
    ∃ t, exec (.trap f) s = .next t ∧
      Enters s t s.me.r s.issue.next { cls := .after, code := 0x19, detail := BitVec.ofNat 64 f.imm.toNat, pos := 8 } 0) ∧
  (∀ f, CompletesIf (.yield f) (fun s => s.me.sq.yielded = true) Quiet) ∧
  (∀ f, BlocksIf (.yield f) (fun s => s.me.sq.yielded = false)) ∧
  (∀ f, CompletesIf (.exit f) (fun s => s.exitWaits s.ck = false ∧ s.me.exitTrap = none)
    fun s t => (t.ctxAt s.ck).st ≠ .live ∧ t.sideAt (2 * s.ck) = {} ∧ t.sideAt (2 * s.ck + 1) = {} ∧ t.mem = s.mem ∧ t.hub = s.hub ∧
      ((s.resvAt s.me.resv).slots.any (fun j => decide (j ≠ s.ck) && (s.ctxAt j).counts) = true →
        (t.ctxAt s.ck).st = .idle ∧ (t.ctxAt s.ck).task = s.me.task ∧ (t.ctxAt s.ck).resv = s.me.resv ∧
          (t.ctxAt s.ck).mx.hands = s.me.mx.hands ∧ ∀ j, j ≠ s.ck → t.ctxAt j = s.ctxAt j) ∧
      ∀ j, j ≠ s.ck → j ∉ (s.resvAt s.me.resv).slots → t.ctxAt j = s.ctxAt j) ∧
  ∀ f, CompletesIf (.spawn f) (fun s => (s.sc f.sa).toNat % 4 = 0 ∧ s.me.mem.pend = [] ∧
      let k := s.ck / 4 * 4 + f.imm.toNat % 4
      k ≠ s.ck ∧ (s.ctxAt k).st = .idle ∧ (s.ctxAt k).task = s.me.task ∧ (s.ctxAt k).resv = s.me.resv)
    fun s t =>
      let k := s.ck / 4 * 4 + f.imm.toNat % 4
      (t.ctxAt k).st = .live ∧ (t.ctxAt k).r.pc = s.sc f.sa ∧ (t.ctxAt k).r.sup = false ∧
        (∀ j, 1 ≤ j → j ≤ 8 → (t.ctxAt k).r.rs j = s.me.r.rs (f.sb.toNat + (j - 1))) ∧ (∀ j, 9 ≤ j → (t.ctxAt k).r.rs j = 0) ∧
        (t.ctxAt k).r.rd 0 = s.me.r.rd 12 ∧ (t.ctxAt k).r.rd 1 = s.me.r.rd 12 ∧
        (t.ctxAt k).task = s.me.task ∧ (t.ctxAt k).resv = s.me.resv ∧
        (t.ctxAt s.ck).r.noPc = s.me.r.noPc ∧ GoesOn s t ∧ t.mem = s.mem ∧ ∀ j, j ≠ k → j ≠ s.ck → t.ctxAt j = s.ctxAt j) ∧
  (
  (∀ f, FaultsAt (.spawn f) (fun s => (s.sc f.sa).toNat % 4 ≠ 0) fun s => { cls := .issue, code := 0x0C, detail := s.sc f.sa }) ∧
  ∀ f, FaultsAt (.spawn f) (fun s => (s.sc f.sa).toNat % 4 = 0 ∧
      let k := s.ck / 4 * 4 + f.imm.toNat % 4
      ¬ ((s.ctxAt k).st = .idle ∧ (s.ctxAt k).task = s.me.task ∧ (s.ctxAt k).resv = s.me.resv))
    fun _ => { cls := .issue, code := 0x16, detail := BitVec.ofNat 64 (f.imm.toNat % 4) }) ∧
  (
  ∀ f, Completes (.nextr f) fun s t =>
    let old := s.taskAt s.me.task
    let new := t.taskAt s.me.task
    let lo := (t.ctxAt s.ck).r.rd 0
    let hi := (t.ctxAt s.ck).r.rd 1
    (t.ctxAt s.ck).r.rc (f.sd.toNat % 8) = (lo != hi) ∧ (∀ n, n < 8 → n ≠ f.sd.toNat % 8 → (t.ctxAt s.ck).r.rc n = s.me.r.rc n) ∧
    (∀ n, 2 ≤ n → (t.ctxAt s.ck).r.rd n = s.me.r.rd n) ∧
    { (t.ctxAt s.ck).r.noC with d := [] } = { s.me.r.noC with d := [] } ∧ (t.ctxAt s.ck).rest = s.me.rest ∧ t.mem = s.mem ∧
    GoesOn s t ∧ Outside s t ∧ { new with pieces := [] } = { old with pieces := [] } ∧ (∀ j, j ≠ s.me.task → t.taskAt j = s.taskAt j) ∧
    (old.pieces = [] → lo = old.l.hi ∧ hi = old.l.hi ∧ new.pieces = []) ∧
    ((∀ p ∈ old.pieces, p.1 < p.2.1 ∧ p.2.1 < 2 ^ 64) → old.pieces.Pairwise (fun p q => p.2.1 ≤ q.1 ∨ q.2.1 ≤ p.1) →
      old.l.grain.toNat ≠ 0 → ∀ x, (∃ p ∈ old.pieces, p.1 ≤ x ∧ x < p.2.1) ↔
        ((lo.toNat ≤ x ∧ x < hi.toNat) ∧ ¬ ∃ p ∈ new.pieces, p.1 ≤ x ∧ x < p.2.1) ∨
        (¬ (lo.toNat ≤ x ∧ x < hi.toNat) ∧ ∃ p ∈ new.pieces, p.1 ≤ x ∧ x < p.2.1)))

/-- 05 R169, R172: what `handreq` and `handrel` leave to take effect, the two moves of a bank between classes, and their faults:
a window past the allotment, and a bank toward which a result is in flight.
05 R169 to R171: the head of a core's queue is granted all the hands it asks for and no others; a change of hands takes
effect once earlier M-slot operations have completed, and leaves both stationary buffers empty. -/
def Obligations.HandsAndBankClasses : Prop :=
  (
  (∀ f, CompletesIf (.handreq f) (fun s => f.imm.toNat % 16 ≤ s.me.mx.hands.length) Quiet) ∧
  (∀ f, CompletesIf (.handreq f) (fun s => s.me.mx.hands.length < f.imm.toNat % 16 ∧ s.me.sq.handGot = [] ∧
      (s.me.sq.handAsk = none ∨ s.me.sq.handAsk = some (f.imm.toNat % 16)) ∧ s.slotFree (.handreq f) = true)
    fun s t => (t.ctxAt s.ck).r.noPc = s.me.r.noPc ∧ GoesOn s t ∧ t.mem = s.mem ∧ t.disp = s.disp ∧
      ∃ h, (t.ctxAt s.ck).mx = { s.me.mx with chg := some h } ∧
      h.n = f.imm.toNat % 16 ∧ h.add.length = f.imm.toNat % 16 - s.me.mx.hands.length ∧ ∀ x ∈ h.add, x ∈ s.freeHands (s.ck / 4)) ∧
  (∀ f, FaultsAt (.handreq f) (fun s => s.me.mx.hands.length < f.imm.toNat % 16 ∧
      ((s.me.mx.hmax < f.imm.toNat % 16 ∧ s.me.mx.ktgt = 0) ∨ (f.imm.toNat % 2 = 1 ∧ s.me.mx.heven = true)))
    fun _ => { cls := .issue, code := 0x12, detail := BitVec.ofNat 64 (f.imm.toNat % 16) }) ∧
  (∀ f, CompletesIf (.handrel f) (fun s => s.me.mx.hands.length ≤ f.imm.toNat % 16) Quiet) ∧
  (∀ f, CompletesIf (.handrel f) (fun s => f.imm.toNat % 16 < s.me.mx.hands.length ∧ (f.imm.toNat % 2 = 1 → s.me.mx.heven = false))
    fun s t => (t.ctxAt s.ck).r.noPc = s.me.r.noPc ∧ GoesOn s t ∧ Aside s t ∧ ∃ h, (t.ctxAt s.ck).mx = { s.me.mx with chg := some h } ∧
      h.n = f.imm.toNat % 16 ∧ h.add = []) ∧
  (∀ f, FaultsAt (.handrel f) (fun s => f.imm.toNat % 16 < s.me.mx.hands.length ∧ f.imm.toNat % 2 = 1 ∧ s.me.mx.heven = true)
    fun _ => { cls := .issue, code := 0x12, detail := BitVec.ofNat 64 (f.imm.toNat % 16) }) ∧
  (∀ f, CompletesIf (.blend f) (fun s => f.imm.toNat % 8 < s.me.mx.nBanks ∧
      (bit s.me.mx.bankMat (f.imm.toNat % 8) = true ∨ s.me.bankBusy (f.imm.toNat % 8) = false))
    fun s t => Becomes s t { s.me with mx := { s.me.mx with bankMat := (t.ctxAt s.ck).mx.bankMat } } ∧
      ∀ w, w < 8 → bit (t.ctxAt s.ck).mx.bankMat w = (bit s.me.mx.bankMat w || decide (w = f.imm.toNat % 8))) ∧
  (∀ f, FaultsAt (.blend f) (fun s => s.me.mx.nBanks ≤ f.imm.toNat % 8)
    fun _ => { cls := .issue, code := 0x03, detail := BitVec.ofNat 64 (256 * (f.imm.toNat % 8)) }) ∧
  (∀ f, FaultsAt (.bret f) (fun s => s.me.mx.nBanks ≤ f.imm.toNat % 8)
    fun _ => { cls := .issue, code := 0x03, detail := BitVec.ofNat 64 (256 * (f.imm.toNat % 8)) }) ∧
  (∀ f, FaultsAt (.blend f) (fun s => let w := f.imm.toNat % 8
      w < s.me.mx.nBanks ∧ bit s.me.mx.bankMat w = false ∧
        ((∃ a ∈ s.me.mem.pend, ∃ n lo z, a.dest = .v n lo z ∧ n / 256 = w) ∨ ∃ n ∈ s.me.sq.late, n / 256 = w))
    fun _ => { cls := .issue, code := 0x05, detail := BitVec.ofNat 64 (f.imm.toNat % 8) }) ∧
  ∀ f, CompletesIf (.bret f) (fun s => f.imm.toNat % 8 < s.me.mx.nBanks ∧ ∀ o ∈ s.me.mx.ops, o.inBank (f.imm.toNat % 8) = false)
    fun s t => Becomes s t { s.me with mx := { s.me.mx with bankMat := (t.ctxAt s.ck).mx.bankMat } } ∧
      ∀ w, w < 8 → bit (t.ctxAt s.ck).mx.bankMat w = (bit s.me.mx.bankMat w && decide (w ≠ f.imm.toNat % 8))) ∧
  (
  (∀ s core k hs, s.headGrant core = some (k, hs) → ∃ t, exec (.handGrant core) s = .next t ∧
    (t.ctxAt k).sq.handGot = hs ∧ (∀ x ∈ hs, x ∈ s.freeHands core) ∧ hs.length = (s.ctxAt k).sq.handAsk.getD 0 - (s.ctxAt k).mx.hands.length ∧
    (t.ctxAt k).r = (s.ctxAt k).r ∧ (t.ctxAt k).mx = (s.ctxAt k).mx ∧ (∀ j, j ≠ k → t.ctxAt j = s.ctxAt j) ∧
    k ∉ (t.coreAt core).handQ ∧ t.mem = s.mem ∧ t.disp = s.disp) ∧
  ∀ s k h, (s.ctxAt k).mx.chg = some h → (∀ o ∈ (s.ctxAt k).mx.ops, h.after < o.id) →
    ∃ t c, exec (.handChangeEffect k) s = .next t ∧ CtxIs s t k c ∧ c.mx.chg = none ∧ c.mx.front = {} ∧ c.mx.back = {} ∧
      c.mx.frontD = [] ∧ c.mx.backD = [] ∧ c.mx.tiles = (s.ctxAt k).mx.tiles ∧ c.mx.bankMat = (s.ctxAt k).mx.bankMat ∧
      (h.add = [] → c.mx.hands = (s.ctxAt k).mx.hands.take h.n) ∧
      (h.add ≠ [] → ∀ x, x ∈ c.mx.hands ↔ x ∈ (s.ctxAt k).mx.hands ∨ x ∈ h.add) ∧
      { c.r with d := [] } = { (s.ctxAt k).r with d := [] })

/-- 09 R296, R297, R306: what the waits of the B slot wait for.  A wait that is met changes nothing but a named result;
`tagffr` returns the lowest set tag of its mask and clears it alone; one that is not met blocks. -/
def Obligations.WaitsAndFences : Prop :=
  (∀ f, CompletesIf (.waitsb f) (fun s => ∀ n, n < 16 → f.imm.getLsbD n = true → mget 0 s.me.mem.sb n = 0) Quiet) ∧
  (∀ f, BlocksIf (.waitsb f) (fun s => ∃ n, n < 16 ∧ f.imm.getLsbD n = true ∧ mget 0 s.me.mem.sb n ≠ 0)) ∧
  (∀ f, CompletesIf (.fence f) (fun s => s.fenced false) Quiet) ∧ (∀ f, BlocksIf (.fence f) (fun s => ¬ s.fenced false)) ∧
  (∀ f, CompletesIf (.fenceS f) (fun s => s.fenced true ∧ s.me.sys.rlost = false) Quiet) ∧
  (∀ f, BlocksIf (.fenceS f) (fun s => ¬ s.fenced true)) ∧
  (∀ f s, s.slotReady (.fenceS f) = true → s.endsPlain = true → s.traps = true → s.issue.reps ≤ s.issue.rep → s.fenced true →
    s.me.sys.rlost = true → ∃ t, exec (.fenceS f) s = .next t ∧ (t.ctxAt s.ck).sys.rlost = false ∧
      Enters s t s.me.r s.issue.next { cls := .after, code := 0x2B, detail := s.me.sys.rlostAddr, pos := 8 } 0) ∧
  (∀ f, CompletesIf (.tagwaitany f) (fun s => s.noFail (s.tagMaskOf f) ∧ (s.tagMaskOf f = 0 ∨
    ∃ g, g < 16 ∧ (s.tagMaskOf f).testBit g = true ∧ bit s.me.mem.tagBits g = true)) Quiet) ∧
  (∀ f, CompletesIf (.tagwaitall f) (fun s => s.noFail (s.tagMaskOf f) ∧
    ∀ g, g < 16 → (s.tagMaskOf f).testBit g = true → bit s.me.mem.tagBits g = true) Quiet) ∧
  (∀ f, CompletesIf (.tagffr f) (fun s => s.noFail 0xFFFF ∧ s.tagMaskOf f = 0) fun s t => WritesS s t f.sd.toNat 16) ∧
  (∀ f, BlocksIf (.tagwaitany f) (fun s => s.noFail (s.tagMaskOf f) ∧ s.tagMaskOf f ≠ 0 ∧
    ∀ g, g < 16 → (s.tagMaskOf f).testBit g = true → bit s.me.mem.tagBits g = false)) ∧
  (∀ f, BlocksIf (.tagwaitall f) (fun s => s.noFail (s.tagMaskOf f) ∧
    ∃ g, g < 16 ∧ (s.tagMaskOf f).testBit g = true ∧ bit s.me.mem.tagBits g = false)) ∧
  (∀ f, BlocksIf (.tagffr f) (fun s => s.noFail (s.tagMaskOf f) ∧ s.tagMaskOf f ≠ 0 ∧
    ∀ g, g < 16 → (s.tagMaskOf f).testBit g = true → bit s.me.mem.tagBits g = false)) ∧
  ∀ f g, CompletesIf (.tagffr f) (fun s => s.noFail (s.tagMaskOf f) ∧ g < 16 ∧ (s.tagMaskOf f).testBit g = true ∧
      bit s.me.mem.tagBits g = true ∧ ∀ j, j < g → (s.tagMaskOf f).testBit j = true → bit s.me.mem.tagBits j = false)
    fun s t => ScalarIs s t f.sd.toNat (BitVec.ofNat 64 g) ∧ (t.ctxAt s.ck).r.noS = s.me.r.noS ∧ GoesOn s t ∧ Aside s t ∧
      (∀ j, j < 16 → bit (t.ctxAt s.ck).mem.tagBits j = (bit s.me.mem.tagBits j && decide (j ≠ g))) ∧
      { (t.ctxAt s.ck).rest with mem := { (t.ctxAt s.ck).rest.mem with tagBits := 0 } } =
        { s.me.rest with mem := { s.me.rest.mem with tagBits := 0 } }

/-- 09 R309 to R312: a barrier arrives at the generation after the last one and returns it; `bar` blocks until that generation
completes, and a third arrival blocks; `barwait` waits for a token that the context holds and traps on one it cannot hold; a
timeline handle is bound, waited on and read, and faults unbound or outside the partition. -/
def Obligations.BarriersAndTimelines : Prop :=
  (∀ f, CompletesIf (.barArv f) (fun s => 2 ≤ f.imm.toNat % 8 ∧ mfind s.me.mem.barHere (b2n s.me.r.sup) = none ∧ s.fenced true ∧
      (mget 0 s.me.mem.arr (f.imm.toNat % 8)).toNat < (s.barDone s.ck (f.imm.toNat % 8)).toNat + 2)
    fun s t => let l := f.imm.toNat % 8
      ScalarIs s t f.sd.toNat (mget 0 s.me.mem.arr l + 1) ∧ (t.ctxAt s.ck).r.noS = s.me.r.noS ∧ GoesOn s t ∧ Aside s t ∧
      (∀ j, mget 0 (t.ctxAt s.ck).mem.arr j = if j = l then mget 0 s.me.mem.arr l + 1 else mget 0 s.me.mem.arr j) ∧
      { (t.ctxAt s.ck).rest with mem := { (t.ctxAt s.ck).rest.mem with arr := [] } } =
        { s.me.rest with mem := { s.me.rest.mem with arr := [] } }) ∧
  (∀ f, BlocksIf (.barArv f) (fun s => let l := f.imm.toNat % 8
    mfind s.me.mem.barHere (b2n s.me.r.sup) = none ∧ s.fenced true ∧ (s.barDone s.ck l).toNat + 2 ≤ (mget 0 s.me.mem.arr l).toNat)) ∧
  (∀ f s, let l := f.imm.toNat % 8
    s.slotReady (.bar f) = true → 2 ≤ l → mfind s.me.mem.barHere (b2n s.me.r.sup) = none → s.fenced true →
    (mget 0 s.me.mem.arr l).toNat < (s.barDone s.ck l).toNat + 2 → (s.barDone s.ck l).toNat < (mget 0 s.me.mem.arr l + 1).toNat →
    ∃ t, exec (.bar f) s = .next t ∧ Blocks s t ∧ (t.ctxAt s.ck).arrivedHere l s.issue.pc = some (mget 0 s.me.mem.arr l + 1) ∧
      ∀ j, mget 0 (t.ctxAt s.ck).mem.arr j = if j = l then mget 0 s.me.mem.arr l + 1 else mget 0 s.me.mem.arr j) ∧
  (∀ f g, BlocksIf (.bar f) (fun s => s.me.arrivedHere (f.imm.toNat % 8) s.issue.pc = some g ∧
    (s.barDone s.ck (f.imm.toNat % 8)).toNat < g.toNat)) ∧
  (∀ f g, CompletesIf (.bar f) (fun s => s.me.arrivedHere (f.imm.toNat % 8) s.issue.pc = some g ∧
      mget 0 s.me.mem.arr (f.imm.toNat % 8) = g ∧ g.toNat ≤ (s.barDone s.ck (f.imm.toNat % 8)).toNat)
    fun s t => WritesS s t f.sd.toNat g) ∧
  (∀ f, CompletesIf (.bar f) (fun s => f.imm.toNat % 8 = 1 ∧ s.slotFree (.bar f) = true ∧ mfind s.me.mem.barHere (b2n s.me.r.sup) = none)
    fun s t => ScalarIs s t f.sd.toNat (mget 0 s.me.mem.arr 1 + 1) ∧ GoesOn s t ∧ mget 0 (t.ctxAt s.ck).mem.arr 1 = mget 0 s.me.mem.arr 1 + 1 ∧
      t.barDone s.ck 1 = mget 0 s.me.mem.arr 1 + 1) ∧
  (∀ f, CompletesIf (.barwait f) (fun s => (s.sc f.sa).toNat ≤ (mget 0 s.me.mem.arr (f.imm.toNat % 8)).toNat ∧
    (s.sc f.sa).toNat ≤ (s.barDone s.ck (f.imm.toNat % 8)).toNat) Quiet) ∧
  (∀ f, BlocksIf (.barwait f) (fun s => (s.sc f.sa).toNat ≤ (mget 0 s.me.mem.arr (f.imm.toNat % 8)).toNat ∧
    (s.barDone s.ck (f.imm.toNat % 8)).toNat < (s.sc f.sa).toNat)) ∧
  (∀ f, FaultsAt (.barwait f) (fun s => (mget 0 s.me.mem.arr (f.imm.toNat % 8)).toNat < (s.sc f.sa).toNat)
    fun s => { cls := .issue, code := 0x2C, detail := s.sc f.sa }) ∧
  (∀ f, CompletesIf (.tlwaitBind f) (fun s => s.tlOk s.me (s.sc f.sa).toNat = true) fun s t =>
    Becomes s t { s.me with mem := { s.me.mem with tl := (t.ctxAt s.ck).mem.tl } } ∧
      (∀ h, mfind (t.ctxAt s.ck).mem.tl h = if h = f.imm.toNat % 8 then some (s.sc f.sa).toNat else mfind s.me.mem.tl h)) ∧
  (∀ f, FaultsAt (.tlwaitBind f) (fun s => s.tlOk s.me (s.sc f.sa).toNat = false) fun s => { cls := .issue, code := 0x2D, detail := s.sc f.sa }) ∧
  (∀ f sel, CompletesIf (.tlwait f) (fun s => mfind s.me.mem.tl (f.imm.toNat % 8) = some sel ∧ s.tlOk s.me sel = true ∧
    (s.sc f.sa).toNat ≤ (s.tlCount s.ck sel).toNat) Quiet) ∧
  (∀ f sel, BlocksIf (.tlwait f) (fun s => mfind s.me.mem.tl (f.imm.toNat % 8) = some sel ∧ s.tlOk s.me sel = true ∧
    (s.tlCount s.ck sel).toNat < (s.sc f.sa).toNat)) ∧
  (∀ f sel, CompletesIf (.tlwaitRead f) (fun s => mfind s.me.mem.tl (f.imm.toNat % 8) = some sel ∧ s.tlOk s.me sel = true)
    fun s t => WritesS s t f.sd.toNat (s.tlCount s.ck sel)) ∧
  ∀ i f, i = .tlwait f ∨ i = .tlwaitRead f → FaultsAt i (fun s =>
      ∀ sel, mfind s.me.mem.tl (f.imm.toNat % 8) = some sel → s.tlOk s.me sel = false)
    fun _ => { cls := .issue, code := 0x2D, detail := BitVec.ofNat 64 (f.imm.toNat % 8) }

/-- 04 R109, R113, R129; 15 R375; 07 R220: a slot whose guard is false does nothing, but that `mmas` moves mpc on; an illegal
slot raises the illegal-bundle trap with its place and reason; and a privileged operation in user mode raises the privileged
trap with its OP. -/
def Obligations.SlotsThatDoNotPerform : Prop :=
  (∀ i s, (slotSem i).isSome = true → (∀ f, i ≠ .mmas f) → s.slotOff i = true → s.endsPlain = true →
    ∃ t, exec i s = .next t ∧ Quiet s t) ∧
  (∀ f s, s.slotOff (.mmas f) = true → s.endsPlain = true → ∃ t, exec (.mmas f) s = .next t ∧ Aside s t ∧ GoesOn s t ∧
    (t.ctxAt s.ck).r.noPc = { s.me.r.noPc with mpc := s.me.r.mpc + 8 } ∧
      { (t.ctxAt s.ck).rest with mx := {} } = { s.me.rest with mx := {} } ∧
      (t.ctxAt s.ck).mx = { s.me.mx with metaW := none }) ∧
  (∀ i s r, (slotSem i).isSome = true → s.canIssue s.ck = true → s.traps = true →
    slotIllegal s.issue.bt (decide (1 < s.issue.reps)) (s.issue.next - s.issue.pc).toNat i = some r →
    ∃ t, exec i s = .next t ∧ Enters s t s.me.r s.issue.pc
      { cls := .issue, code := 0x01, pos := s.issue.pos
        detail := BitVec.ofNat 64 (s.issue.pos + (if s.issue.second.contains s.issue.pos then 16 else 0) + 256 * r) } 0) ∧
  ∀ i s n, privOp i = some n → s.slotClear i = true → s.traps = true → s.me.sys.asyncs = [] →
    ∃ t, exec i s = .next t ∧ Enters s t s.me.r s.issue.pc
      { cls := .issue, code := 0x02, pos := s.issue.pos, detail := BitVec.ofNat 64 n } 0

/-- 10 R315 to R323: `cread` reads a word of an entry, `cset` writes one of an entry that is not valid, `cpin` sets the pin and
the rung, and each faults on a bad selector or an entry of another partition.  A record that the context has sent to the entry reaches it first.
10 R319 to R322: `cstep` evaluates its run of entries, raises the step count by one and gives it to sd once the read copies
hold the results; what the evaluation of an entry does. -/
def Obligations.CalenderWordsAndSteps : Prop :=
  (
  (∀ f n w, CompletesIf (.cread f) (fun s => (s.sc f.sa).toNat = n + 65536 * w ∧ n < 4096 ∧ w < 32 ∧ s.ownsEntry s.me.part n = true ∧
      s.recordsIn (fun e => e = n))
    fun s t => WritesS s t f.sd.toNat (if w < 30 then mget 0 s.hub.cal (32 * n + w) else 0)) ∧
  (∀ f n w r, CompletesIf (.cread f) (fun s => (s.sc f.sa).toNat = n + 65536 * w ∧ n < 4096 ∧ w < 30 ∧ s.ownsEntry s.me.part n = true ∧
      s.guessOf s.me = none ∧ (∀ o ∈ s.me.mx.ops, ∀ e ∈ o.cal, e ≠ n) ∧ (s.entry n).valid = true ∧
      s.hub.recs.filter (fun x => x.ctx == s.ck && x.entry == n) = [r])
    fun s t => ScalarIs s t f.sd.toNat (((s.entry n).addRecord r.words).getD w 0) ∧ GoesOn s t ∧
      t.entry n = (s.entry n).addRecord r.words ∧ t.hub.recs = s.hub.recs.filter (fun x => !(x.ctx == s.ck && x.entry == n))) ∧
  (∀ f n w, CompletesIf (.cset f) (fun s => (s.sc f.sa).toNat = n + 65536 * w ∧ n < 4096 ∧ 9 ≤ w ∧ w ≤ 11 ∧
      s.ownsEntry s.me.part n = true ∧ s.guessOf s.me = none ∧ (mget 0 s.hub.cal (32 * n)).getLsbD 28 = false ∧
      s.recordsIn (fun e => e = n))
    fun s t => (t.ctxAt s.ck).r.noPc = s.me.r.noPc ∧ GoesOn s t ∧ Beyond s t ∧ t.mem = s.mem ∧ t.disp = s.disp ∧
      (∀ j, mget 0 t.hub.cal j = if j = 32 * n + w then (if w = 11 then BitVec.ofNat 64 ((s.sc f.sb).toNat / 65536 * 65536) else s.sc f.sb)
        else mget 0 s.hub.cal j) ∧
      { t.hub with cal := [] } = { s.hub with cal := [] }) ∧
  (∀ f n r, CompletesIf (.cpin f) (fun s => (s.sc f.sa).toNat = n ∧ n < 4096 ∧ s.ownsEntry s.me.part n = true ∧ s.guessOf s.me = none ∧
      (mget 0 s.hub.cal (32 * n)).getLsbD 28 = true ∧ (s.sc f.sb).toNat = 8 + r ∧ r ≤ (mget 0 s.hub.cal (32 * n)).toNat / 2 ^ 22 % 8 ∧
      s.recordsIn (fun e => e = n))
    fun s t => let x := (mget 0 s.hub.cal (32 * n)).toNat
      let y := (mget 0 t.hub.cal (32 * n)).toNat
      (∀ j, j ≠ 32 * n → mget 0 t.hub.cal j = mget 0 s.hub.cal j) ∧ y / 2 ^ 27 % 2 = 1 ∧ y / 2 ^ 19 % 8 = r ∧
        y % 2 ^ 16 = (if r = x / 2 ^ 19 % 8 then x % 2 ^ 16 else 0) ∧ y / 2 ^ 28 % 2 ^ 20 = x / 2 ^ 28 % 2 ^ 20 ∧
        (t.ctxAt s.ck).r.noPc = s.me.r.noPc ∧ GoesOn s t ∧ t.mem = s.mem ∧ t.disp = s.disp) ∧
  (∀ f, FaultsAt (.cread f) (fun s => (s.sc f.sa).toNat / 2 ^ 12 % 16 ≠ 0 ∨ (s.sc f.sa).toNat / 2 ^ 21 ≠ 0)
    fun s => { cls := .issue, code := 0x2F, detail := s.sc f.sa }) ∧
  ∀ f n w, FaultsAt (.cset f) (fun s => (s.sc f.sa).toNat = n + 65536 * w ∧ n < 4096 ∧ w < 32 ∧ s.ownsEntry s.me.part n = false)
    fun _ => { cls := .issue, code := 0x2E, detail := BitVec.ofNat 64 n }) ∧
  (
  (∀ f, CompletesFree (.cstep f) fun s t => s.guessOf s.me = none →
    let first := f.imm.toNat % 4096
    let n := f.imm.toNat / 65536 % 4096 + 1
    s.recordsIn (fun e => first ≤ e ∧ e < first + n) → GoesOn s t ∧
    (∀ e, e < first ∨ first + n ≤ e → ∀ w, w < 32 → mget 0 t.hub.cal (32 * e + w) = mget 0 s.hub.cal (32 * e + w)) ∧
      (∀ e, first ≤ e → e < first + n → (mget 0 s.hub.cal (32 * e)).getLsbD 28 = true → t.entry e = (s.entry e).evaluate) ∧
      t.hub.stepCount = s.hub.stepCount + 1 ∧ t.hub.copy = s.hub.copy ∧ (t.ctxAt s.ck).r.noPc = s.me.r.noPc ∧
      (t.ctxAt s.ck).mem.stepWait = s.me.mem.stepWait ++ [(if f.sd = 0 then .none else .s (s.me.r.sup && decide (56 ≤ f.sd.toNat)) f.sd.toNat,
        s.hub.stepCount + 1)] ∧ t.mem = s.mem ∧ t.disp = s.disp) ∧
  (∀ x : Entry, x.valid = false → x.evaluate = x) ∧
  (∀ x : Entry, x.length = 32 → x.valid = true → x.pin = true → ∀ i, i < 32 →
    x.evaluate.getD i 0 = if 12 ≤ i ∧ i < 20 then 0 else x.getD i 0) ∧
  (∀ x : Entry, x.valid = true → x.pin = false → x.rerun = false → x.getD 12 0 = 0 → x.evaluate = x) ∧
  (∀ x : Entry, x.length = 32 → x.valid = true → x.pin = false → x.rerun = true → ∀ k, k = x.bits 0 19 3 →
    x.evaluate.bits 0 19 3 = k - 1 ∧ x.evaluate.bits 0 26 1 = 0 ∧ (∀ i, 12 ≤ i → i < 20 → x.evaluate.getD i 0 = 0) ∧
      ∀ i, 1 ≤ i → i < 12 ∨ 20 ≤ i → x.evaluate.getD i 0 = x.getD i 0) ∧
  (∀ x : Entry, x.length = 32 → x.valid = true → x.pin = false → x.rerun = false → x.getD 12 0 ≠ 0 → x.Evaluates x.evaluate) ∧
  ∀ s k, (s.ctxAt k).mem.stepWait ≠ [] → ∃ t, exec .calenderReadCopyUpdate s = .next t ∧
    (∀ e w, w < 9 → mget 0 t.hub.copy (32 * e + w) = mget 0 s.hub.cal (32 * e + w)) ∧ t.hub.cal = s.hub.cal ∧
    (∀ j, (t.ctxAt j).mem.stepWait = []) ∧
    (∀ sup n v, (s.ctxAt k).mem.stepWait = [(.s sup n, v)] → (t.ctxAt k).r = (s.ctxAt k).r.given (.s sup n) v.toNat) ∧
    t.mem = s.mem ∧ t.mgmt.keys = s.mgmt.keys)

/-- 11 R353 to R355: `dstat` reads what the Dealer keeps for a queue that the partition is granted, `dhint` sets the hint or
ends the guess, and both fault on any other queue. -/
def Obligations.DealerOperations : Prop :=
  (∀ f q, CompletesIf (.dstat f) (fun s => (s.sc f.sa).toNat = q ∧ q < 256 ∧ s.grantsQueue s.me.part q = true)
    fun s t => let d := (s.queueAt q).dealer
      ∃ v, WritesS s t f.sd.toNat v ∧ (f.imm = 0 → v = BitVec.ofNat 64 (s.guessState d + 64 * d.hint +
        (if d.matched.isSome then 256 else 0) + 512 * d.hist.length + 65536 * d.last)) ∧
        (f.imm = 1 → v = d.started) ∧ (f.imm = 2 → v = d.claimed) ∧ (f.imm = 3 → v = d.mism) ∧ (f.imm = 4 → v = d.reval) ∧
        (f.imm = 5 → v = d.dropped) ∧ (f.imm = 6 → v = d.commitL) ∧ (f.imm = 7 → v = d.revalL)) ∧
  (∀ f q, CompletesIf (.dhint f) (fun s => (s.sc f.sa).toNat = q ∧ q < 256 ∧ s.grantsQueue s.me.part q = true ∧
      s.guessOf s.me = none ∧ f.imm.toNat < 3)
    fun s t => (t.ctxAt s.ck).r.noPc = s.me.r.noPc ∧ GoesOn s t ∧ Outside s t ∧ t.mem = s.mem ∧
      t.queueAt q = { s.queueAt q with dealer := { (s.queueAt q).dealer with hint := f.imm.toNat } } ∧
      (∀ j, j ≠ q → t.queueAt j = s.queueAt j) ∧ { t.disp with queues := [] } = { s.disp with queues := [] }) ∧
  (∀ f q, CompletesIf (.dhint f) (fun s => (s.sc f.sa).toNat = q ∧ q < 256 ∧ s.grantsQueue s.me.part q = true ∧
      s.guessOf s.me = none ∧ f.imm = 3 ∧ (s.queueAt q).dealer.guess ≠ none)
    fun s t => let d := (s.queueAt q).dealer
      let e := (t.queueAt q).dealer
      e.guess = none ∧ e.matched = none ∧ e.kitty = [] ∧ e.reads = [] ∧ e.vers = [] ∧ e.recs = [] ∧ e.hint = d.hint ∧ e.hist = d.hist ∧
        e.dropped = d.dropped + 1 ∧ e.last = 16 ∧ t.mem = s.mem) ∧
  (∀ f, FaultsAt (.dstat f) (fun s => 256 ≤ (s.sc f.sa).toNat ∨ s.grantsQueue s.me.part (s.sc f.sa).toNat = false)
    fun s => { cls := .issue, code := 0x30, detail := s.sc f.sa }) ∧
  ∀ f, FaultsAt (.dhint f) (fun s => 256 ≤ (s.sc f.sa).toNat ∨ s.grantsQueue s.me.part (s.sc f.sa).toNat = false)
    fun s => { cls := .issue, code := 0x30, detail := s.sc f.sa }

/-- 15 R376 to R378, R387: what each system register reads as, and which of its fields a write takes. -/
def Obligations.SystemRegisters : Prop :=
  (∀ f, Completes (.mfsy f) fun s t => let y := s.me.sys
    ∃ v, WritesS s t f.sd.toNat v ∧
      (f.imm = 0 → v.toNat < 16 ∧ v.getLsbD 0 = s.me.r.sup ∧ v.getLsbD 1 = y.sstep ∧ v.getLsbD 2 = !y.asyncs.isEmpty ∧
        v.getLsbD 3 = s.me.sq.parkReq) ∧
      (f.imm = 1 → v = y.stvec) ∧ (f.imm = 2 → v = y.sepc) ∧ (f.imm = 3 → v = y.scause) ∧ (f.imm = 4 → v = y.sdetail) ∧
      (f.imm = 5 → v = y.x0) ∧ (f.imm = 6 → v = y.x1) ∧ (f.imm = 7 → v = y.x2) ∧ (f.imm = 8 → v = y.srepl) ∧ (f.imm = 9 → v = y.swlog) ∧
      (f.imm = 10 → v = y.sctxp) ∧ (f.imm = 11 → v = if y.rlost then 1 else 0) ∧
      (f.imm = 16 → ∀ j, j < 4 → v.toNat / 16 ^ j % 16 = match (s.ctxAt (4 * s.core + j)).st with
        | .free => 0 | .idle => 1 | .live => 2 | .parked => 3)) ∧
  ∀ f, Completes (.mtsy f) fun s t => let y := s.me.sys
    let v := s.sc f.sa
    ∃ z, Becomes s t { s.me with sys := z } ∧
      (f.imm = 0 → z = { y with sstep := v.getLsbD 1 }) ∧ (f.imm = 1 → z = { y with stvec := BitVec.ofNat 64 (v.toNat / 4 * 4) }) ∧
      (f.imm = 2 → z = { y with sepc := v }) ∧
      (f.imm = 8 → { z with srepl := 0 } = { y with srepl := 0 } ∧
        ∀ i, i < 64 → z.srepl.getLsbD i = (y.srepl.getLsbD i && !(decide (i = 16) && v.getLsbD 16))) ∧
      (f.imm = 9 → z = if 10 ≤ v.toNat ∧ v.toNat ≤ 40 then { y with swlog := v } else y) ∧
      (f.imm = 10 → z = { y with sctxp := BitVec.ofNat 64 (v.toNat / 4096 * 4096) }) ∧
      (f.imm = 11 → z = if v.getLsbD 0 then { y with rlost := false, rlostAddr := 0 } else y) ∧
      (f.imm = 3 ∨ f.imm = 4 ∨ f.imm = 5 ∨ f.imm = 6 ∨ f.imm = 7 ∨ f.imm = 16 → z = y)

/-- 15 R386, R388, R389; 02 R62: `eret` goes back to user mode at SEPC, to the repetition and the replay that SREPL names;
`eret.end` ends the task with the cause of the last trap; `halt` stops the core; `tlbinv` waits until no TLB of the package holds
a translation in its scope.  Which repetition `eret` goes to where SREPL holds no replay is the model's reading, log entry 17. -/
def Obligations.ReturnsHaltsAndInvalidations : Prop :=
  (∀ f s, s.slotReady (.eret f) = true → s.me.sys.sepc.toNat % 4 = 0 → ∃ t, exec (.eret f) s = .next t ∧
    (t.ctxAt s.ck).r = { s.me.r with sup := false, pc := s.me.sys.sepc } ∧ Aside s t ∧
    (t.ctxAt s.ck).sys = { s.me.sys with replay := [], ticks := 0, shRun := false } ∧
    (s.me.sys.srepl.getLsbD 16 = true → (t.ctxAt s.ck).sq.rep = s.me.sys.srepl.toNat / 2 ^ 9 % 64 + 1 ∧
      (t.ctxAt s.ck).sq.replay = s.me.sys.replay) ∧
    (s.me.sys.srepl.getLsbD 16 = false → (t.ctxAt s.ck).sq.replay = [] ∧
      (t.ctxAt s.ck).sq.rep = if s.me.sys.sepc = s.me.sq.upc then s.me.sq.urep else 1)) ∧
  (∀ f s, s.slotReady (.eretEnd f) = true → ∃ t ws, exec (.eretEnd f) s = .next t ∧ (t.taskAt s.me.task).ended = some ws ∧
    (ws.getD 0 0).toNat % 256 = 1 ∧ (ws.getD 0 0).toNat / 256 % 256 = s.me.sys.scause.toNat % 256 ∧
    ws.getD 1 0 = BitVec.ofNat 64 (s.taskAt s.me.task).id ∧ ws.getD 2 0 = s.me.sys.sepc ∧ ws.getD 3 0 = s.me.sys.sdetail ∧
    (t.ctxAt s.ck).r = s.me.r ∧ t.mem = s.mem ∧ t.hub = s.hub ∧ ∀ j, j ≠ s.me.task → t.taskAt j = s.taskAt j) ∧
  (∀ f, Completes (.halt f) fun s t => (t.ctxAt s.ck).r.noPc = s.me.r.noPc ∧ GoesOn s t ∧
    (t.coreAt s.core).halted = true ∧ (t.coreAt s.core).haltSlot = s.ck % 4 ∧ (t.coreAt s.core).haltN = f.imm ∧
    (∀ n, n ≠ s.core → t.coreAt n = s.coreAt n) ∧ (∀ j, j ≠ s.ck → t.ctxAt j = s.ctxAt j) ∧
    (t.ctxAt s.ck).rest = s.me.rest ∧ t.mem = s.mem ∧ t.hub = s.hub ∧ t.disp = s.disp) ∧
  (∀ f, CompletesIf (.tlbinv f) (fun s => s.fenced false ∧
      (s.tlbHolds (tlbHit s.me.part s.me.asid f.fn.toNat (s.sc f.sa)) = false ∨ ∃ a, s.me.mem.inv = some (3, a)))
    fun s t => Becomes s t { s.me with mem := { s.me.mem with inv := none } }) ∧
  (∀ f, BlocksIf (.tlbinv f) (fun s => s.fenced false ∧ (∀ a, s.me.mem.inv ≠ some (3, a)) ∧
      s.tlbHolds (tlbHit s.me.part s.me.asid f.fn.toNat (s.sc f.sa)) = true)) ∧
  ∀ s k scope va, (s.ctxAt k).mem.inv = some (scope, va) → scope ≠ 3 →
    let hit (x : Tlb) : Prop := x.part = (s.ctxAt k).part ∧ (scope = 2 ∨ x.asid = (s.ctxAt k).asid) ∧
      (scope ≠ 0 ∨ va.toNat / 2 ^ x.bits = x.vbase)
    ∃ t, exec (.tlbInvalidationComplete k) s = .next t ∧
      (∀ n x, x ∈ (t.coreAt n).tlb ↔ x ∈ (s.coreAt n).tlb ∧ ¬ hit x) ∧
      (∀ n x, x ∈ mget [] t.slices n ↔ x ∈ mget [] s.slices n ∧ ¬ hit x) ∧
      (∀ n x, x ∈ mget [] t.walks n ↔ x ∈ mget [] s.walks n ∧ ¬ hit x) ∧
      t.ctxAt k = { s.ctxAt k with mem := { (s.ctxAt k).mem with inv := some (3, va) } } ∧
      (∀ j, j ≠ k → t.ctxAt j = s.ctxAt j) ∧ t.mem = s.mem ∧ t.hub = s.hub ∧ t.disp = s.disp ∧ t.mgmt = s.mgmt

/-- 15 R391 to R395: `ctxsave` stores the units of a parked slot's image and marks its tiles clean, `ctxrestore` makes a slot
live with what an image holds: the pc, the scalars, the masks, the condition bits, the counters, the dispatch and system registers
and the generators of its control region, the vectors and the tiles. -/
def Obligations.SlotsSavedAndRestored : Prop :=
  (∀ f s s1, s.slotReady (.ctxsave f) = true → s.slotFree (.ctxsave f) = true → s.endsPlain = true →
    let j := s.ck / 4 * 4 + f.imm.toNat % 4
    (s.atAct (.ctxsave f)).imgStore (s.slotEnv (.ctxsave f)) (s.sc f.sa) ((s.ctxAt j).imageOut (s.sc f.sa)) none = (s1, none) →
    ∃ t, exec (.ctxsave f) s = .next t ∧ t.mem = s1.mem ∧ t.disp = s1.disp ∧ (t.ctxAt s.ck).r.noPc = s.me.r.noPc ∧ GoesOn s t ∧
      (t.ctxAt j).st = (s.ctxAt j).st ∧ (t.ctxAt j).r = (s.ctxAt j).r ∧ (t.ctxAt j).sys = { (s.ctxAt j).sys with sctxp := s.sc f.sa } ∧
      ∀ n, n < (s.ctxAt j).mx.nTiles → (t.ctxAt j).tile n =
        { (s.ctxAt j).tile n with st := if ((s.ctxAt j).tile n).st = .d then .c else ((s.ctxAt j).tile n).st }) ∧
  (∀ f s s1 s2 l m, s.slotReady (.ctxrestore f) = true → s.slotFree (.ctxrestore f) = true → s.endsPlain = true →
    let j := s.ck / 4 * 4 + f.imm.toNat % 4
    let e := s.slotEnv (.ctxrestore f)
    let w (i : Nat) : W64 := (wordArray (unitArray (l ++ m))).getD i 0
    let u (i : Nat) : List Byte := (unitArray (l ++ m)).getD i []
    (s.atAct (.ctxrestore f)).imgLoad e (s.sc f.sa) (List.range 256) = (s1, .ok l) →
    s1.imgLoad e (s.sc f.sa) (imageIn (s.ctxAt j) (fun i => (wordArray (unitArray l)).getD i 0)) = (s2, .ok m) →
    ∃ t, exec (.ctxrestore f) s = .next t ∧ (t.ctxAt j).st = .live ∧ (t.ctxAt j).r.pc = w 1 ∧ (t.ctxAt j).r.sup = (w 0).getLsbD 25 ∧
      (∀ n, 1 ≤ n → n < 64 → mget 0 (t.ctxAt j).r.s n = w (8 + n)) ∧ (t.ctxAt j).sys.sepc = w 82 ∧ (t.ctxAt j).sys.sctxp = s.sc f.sa ∧
      (t.ctxAt j).r.c.toNat = (w 128).toNat % 2 ^ 8 ∧ (∀ n, n < 4 → mget 0 (t.ctxAt j).r.lc n = w (129 + n)) ∧
      (∀ n, n < 8 → (t.ctxAt j).r.rq n = w (149 + n)) ∧ (∀ n, n < 16 → (t.ctxAt j).r.rd n = w (157 + n)) ∧
      (t.ctxAt j).r.mpc = w 173 ∧ (∀ n, n < 32 → (t.ctxAt j).r.gen n = w (328 + n)) ∧
      (∀ n, 1 ≤ n → n < 16 → ((t.ctxAt j).r.rm n).toNat = (w (96 + 2 * n)).toNat + 2 ^ 64 * (w (97 + 2 * n)).toNat) ∧
      (∀ n, n < 256 * (s.ctxAt j).mx.nBanks →
        (t.ctxAt j).r.rv n = BitVec.ofNat 1024 (leNat (u (5376 + 2 * n)) + 2 ^ 512 * leNat (u (5377 + 2 * n)))) ∧
      (∀ n, n < (s.ctxAt j).mx.nTiles → ((t.ctxAt j).tile n).fmt = (w (175 + n / 8)).toNat / 2 ^ (8 * (n % 8)) % 8 ∧
        ((t.ctxAt j).tile n).st.code = (w 174).toNat / 4 ^ n % 4 ∧ (2 ≤ (w 174).toNat / 4 ^ n % 4 → ∀ i, i < 1024 →
          ((t.ctxAt j).tile n).get i = BitVec.ofNat 64 (leNat (((u (9472 + 128 * n + i / 8)).drop (8 * (i % 8))).take 8)))) ∧
      (t.ctxAt j).task = (s.ctxAt j).task ∧ (t.ctxAt j).resv = (s.ctxAt j).resv ∧ (t.ctxAt s.ck).r.noPc = s.me.r.noPc ∧ GoesOn s t ∧
      ∀ i, i ≠ j → i ≠ s.ck → t.ctxAt i = s.ctxAt i) ∧
  ∀ c : Ctx, c.control.getD 1 0 = c.r.pc ∧ c.control.getD 2 0 = c.sq.repcnt ∧
    (∀ n, 1 ≤ n → n < 64 → c.control.getD (8 + n) 0 = mget 0 c.r.s n) ∧ (∀ n, n < 8 → c.control.getD (72 + n) 0 = mget 0 c.r.ss (56 + n)) ∧
    (∀ n, n < 16 → c.control.getD (80 + n) 0 = c.sysReg n) ∧
    ∀ n, n < 16 → c.control.getD (96 + 2 * n) 0 = (c.r.rm n).extractLsb' 0 64 ∧ c.control.getD (97 + 2 * n) 0 = (c.r.rm n).extractLsb' 64 64

/-! ### V slots -/

/-- 06 R173, R174, R182: the elementwise integer operations, element by element: sums, products and shifts wrap, and the
saturating ones clamp.
06 R182: the bitwise operations and the counts of bits, element by element. -/
def Obligations.VectorIntegersAndBits : Prop :=
  (
  Lanes .vadd (fun f s j => vNat f (vInt f (s.va f j) + vInt f (s.vb f j))) ∧
  Lanes .vsub (fun f s j => vNat f (vInt f (s.va f j) - vInt f (s.vb f j))) ∧
  Lanes .vmul (fun f s j => vNat f (vInt f (s.va f j) * vInt f (s.vb f j))) ∧
  Lanes .vmulh (fun f s j => vNat f (vInt f (s.va f j) * vInt f (s.vb f j) / 2 ^ tyBits f.et.toNat)) ∧
  Lanes .vmadd (fun f s j => vNat f (vInt f (s.va f j) * vInt f (s.vb f j) + vInt f (s.vd f j))) ∧
  Lanes .vabs (fun f s j => vNat f |vInt f (s.va f j)|) ∧
  Lanes .vneg (fun f s j => vNat f (-vInt f (s.va f j))) ∧
  Lanes .vmin (fun f s j => vNat f (min (vInt f (s.va f j)) (vInt f (s.vb f j)))) ∧
  Lanes .vmax (fun f s j => vNat f (max (vInt f (s.va f j)) (vInt f (s.vb f j)))) ∧
  Lanes .vsadd (fun f s j => vNat f (max (vLeast f) (min (vGreatest f) (vInt f (s.va f j) + vInt f (s.vb f j))))) ∧
  Lanes .vssub (fun f s j => vNat f (max (vLeast f) (min (vGreatest f) (vInt f (s.va f j) - vInt f (s.vb f j))))) ∧
  Lanes .vshl (fun f s j => s.va f j * 2 ^ (s.vb f j % tyBits f.et.toNat)) ∧
  Lanes .vshr (fun f s j => s.va f j / 2 ^ (s.vb f j % tyBits f.et.toNat)) ∧
  Lanes .vsra (fun f s j => vNat f ((BitVec.ofNat (tyBits f.et.toNat) (s.va f j)).toInt / 2 ^ (s.vb f j % tyBits f.et.toNat)))) ∧
  (
  Lanes .vand (fun f s j => s.va f j &&& s.vb f j) ∧ Lanes .vor (fun f s j => s.va f j ||| s.vb f j) ∧
  Lanes .vxor (fun f s j => s.va f j ^^^ s.vb f j) ∧ Lanes .vnot (fun f s j => 2 ^ tyBits f.et.toNat - 1 - s.va f j) ∧
  (∀ f, CompletesV (.vclz f) fun s t => ∃ v, WritesV s t f [] v ∧ ∀ j, j < vCount f → v j ≤ tyBits f.et.toNat ∧
    s.va f j < 2 ^ (tyBits f.et.toNat - v j) ∧ (v j < tyBits f.et.toNat → (s.va f j).testBit (tyBits f.et.toNat - 1 - v j) = true)) ∧
  Lanes .vpopc (fun f s j => (List.range (tyBits f.et.toNat)).countP (fun i => (s.va f j).testBit i)))

/-- 06 R183: the elementwise floating-point arithmetic rounds one exact value once in the mode of RM, each part of a complex
element on its own, and in SR mode draws for every position (R179).
06 R185, R186: the special functions act on each element and never draw; their values at zeros, infinities, NaNs and negative
arguments are those of the table.  Where more than 4,096 bits would be needed to round, the value is a free one, log
entry 7. -/
def Obligations.VectorFloatsAndFunctions : Prop :=
  (
  (∀ f, CompletesV (.vfadd f) fun s t => WritesV s t f (vGens f) fun j =>
    let fl := tyFl f.et.toNat
    let w := fl.width
    let sum (i x y : Nat) : Nat := fl.addr (Rnd.get f.rm.toNat) (s.vDraw f i) [fl.decode x, fl.decode y]
    if isCplx f.et.toNat then
      sum (2 * j) (s.va f j % 2 ^ w) (s.vb f j % 2 ^ w) + 2 ^ w * sum (2 * j + 1) (s.va f j / 2 ^ w) (s.vb f j / 2 ^ w)
    else sum j (s.va f j) (s.vb f j)) ∧
  (∀ f, CompletesV (.vfsub f) fun s t => WritesV s t f (vGens f) fun j =>
    let fl := tyFl f.et.toNat
    let w := fl.width
    let sub (i x y : Nat) : Nat := fl.addr (Rnd.get f.rm.toNat) (s.vDraw f i) [fl.decode x, (fl.decode y).neg]
    if isCplx f.et.toNat then
      sub (2 * j) (s.va f j % 2 ^ w) (s.vb f j % 2 ^ w) + 2 ^ w * sub (2 * j + 1) (s.va f j / 2 ^ w) (s.vb f j / 2 ^ w)
    else sub j (s.va f j) (s.vb f j)) ∧
  RoundLanes .vfmul (fun f s j => let fl := tyFl f.et.toNat
    fl.round (Rnd.get f.rm.toNat) (s.vDraw f j) ((fl.decode (s.va f j)).mul (fl.decode (s.vb f j)))) ∧
  RoundLanes .vfma (fun f s j => let fl := tyFl f.et.toNat
    fl.addr (Rnd.get f.rm.toNat) (s.vDraw f j) [(fl.decode (s.va f j)).mul (fl.decode (s.vb f j)), fl.decode (s.vd f j)]) ∧
  RoundLanes .vfms (fun f s j => let fl := tyFl f.et.toNat
    fl.addr (Rnd.get f.rm.toNat) (s.vDraw f j) [fl.decode (s.vd f j), ((fl.decode (s.va f j)).mul (fl.decode (s.vb f j))).neg]) ∧
  RoundLanes .vfrcp (fun f s j => let fl := tyFl f.et.toNat
    fl.div (Rnd.get f.rm.toNat) (s.vDraw f j) (.fin false 1 0) (fl.decode (s.va f j))) ∧
  RoundLanes .vfsqrt (fun f s j => let fl := tyFl f.et.toNat
    fl.sqrt (Rnd.get f.rm.toNat) (s.vDraw f j) (fl.decode (s.va f j))) ∧
  (∀ f, CompletesV (.vfmin f) fun s t => ∃ v, WritesV s t f [] v ∧
    ∀ j, j < vCount f → (tyFl f.et.toNat).Picks false (s.va f j) (s.vb f j) (v j)) ∧
  (∀ f, CompletesV (.vfmax f) fun s t => ∃ v, WritesV s t f [] v ∧
    ∀ j, j < vCount f → (tyFl f.et.toNat).Picks true (s.va f j) (s.vb f j) (v j)) ∧
  Lanes .vfabs (fun f s j => s.va f j % 2 ^ (tyBits f.et.toNat - 1)) ∧
  Lanes .vfneg (fun f s j => s.va f j ^^^ (if isCplx f.et.toNat then 2 ^ (tyBits f.et.toNat / 2 - 1) + 2 ^ (tyBits f.et.toNat - 1)
    else 2 ^ (tyBits f.et.toNat - 1)))) ∧
  (
  Lanes .vfrsqrt (fun f s j => special (tyFl f.et.toNat) .rsqrt (s.va f j)) ∧ Lanes .vfexp2 (fun f s j => special (tyFl f.et.toNat) .exp2 (s.va f j)) ∧
  Lanes .vflog2 (fun f s j => special (tyFl f.et.toNat) .log2 (s.va f j)) ∧ Lanes .vftanh (fun f s j => special (tyFl f.et.toNat) .tanh (s.va f j)) ∧
  Lanes .vferf (fun f s j => special (tyFl f.et.toNat) .erf (s.va f j)) ∧ Lanes .vfsin (fun f s j => special (tyFl f.et.toNat) .sin (s.va f j)) ∧
  Lanes .vfcos (fun f s j => special (tyFl f.et.toNat) .cos (s.va f j)) ∧
  ∀ fl : Fl, fl = .fp64 ∨ fl = .fp32 ∨ fl = .fp16 ∨ fl = .bf16 → let one := fl.round .rne 0 (.fin false 1 0)
    let pInf := fl.infCode
    let nInf := fl.signBit + fl.infCode
    (∀ op c, fl.decode c = .nan → special fl op c = fl.nanCode) ∧
    (∀ c, Num.lt (fl.decode c) (.fin false 0 0) = true → special fl .rsqrt c = fl.nanCode ∧ special fl .log2 c = fl.nanCode) ∧
    special fl .rsqrt 0 = pInf ∧ special fl .rsqrt fl.signBit = nInf ∧ special fl .rsqrt pInf = 0 ∧ special fl .rsqrt nInf = fl.nanCode ∧
    special fl .exp2 0 = one ∧ special fl .exp2 fl.signBit = one ∧ special fl .exp2 pInf = pInf ∧ special fl .exp2 nInf = 0 ∧
    special fl .log2 0 = nInf ∧ special fl .log2 fl.signBit = nInf ∧ special fl .log2 pInf = pInf ∧ special fl .log2 nInf = fl.nanCode ∧ special fl .log2 one = 0 ∧
    special fl .tanh pInf = one ∧ special fl .tanh nInf = fl.signBit + one ∧ special fl .tanh 0 = 0 ∧ special fl .tanh fl.signBit = fl.signBit ∧
    special fl .erf pInf = one ∧ special fl .erf nInf = fl.signBit + one ∧ special fl .erf 0 = 0 ∧ special fl .erf fl.signBit = fl.signBit ∧
    special fl .sin pInf = fl.nanCode ∧ special fl .sin nInf = fl.nanCode ∧ special fl .sin 0 = 0 ∧ special fl .sin fl.signBit = fl.signBit ∧
    special fl .cos pInf = fl.nanCode ∧ special fl .cos nInf = fl.nanCode ∧ special fl .cos 0 = one ∧ special fl .cos fl.signBit = one)

/-- 06 R187: each part of a complex product is its exact expression rounded once. -/
def Obligations.VectorComplexProducts : Prop :=
  (∀ f, CompletesV (.vcmul f) fun s t => WritesV s t f (vGens f) fun j =>
    let fl := tyFl f.et.toNat
    let w := fl.width
    let ar := fl.decode (s.va f j % 2 ^ w)
    let ai := fl.decode (s.va f j / 2 ^ w)
    let br := fl.decode (s.vb f j % 2 ^ w)
    let bi := fl.decode (s.vb f j / 2 ^ w)
    fl.addr (Rnd.get f.rm.toNat) (s.vDraw f (2 * j)) [ar.mul br, (ai.mul bi).neg] +
      2 ^ w * fl.addr (Rnd.get f.rm.toNat) (s.vDraw f (2 * j + 1)) [ar.mul bi, ai.mul br]) ∧
  ∀ f, CompletesV (.vcmla f) fun s t => WritesV s t f (vGens f) fun j =>
    let fl := tyFl f.et.toNat
    let w := fl.width
    let ar := fl.decode (s.va f j % 2 ^ w)
    let ai := fl.decode (s.va f j / 2 ^ w)
    let br := fl.decode (s.vb f j % 2 ^ w)
    let bi := fl.decode (s.vb f j / 2 ^ w)
    fl.addr (Rnd.get f.rm.toNat) (s.vDraw f (2 * j)) [fl.decode (s.vd f j % 2 ^ w), ar.mul br, (ai.mul bi).neg] +
      2 ^ w * fl.addr (Rnd.get f.rm.toNat) (s.vDraw f (2 * j + 1)) [fl.decode (s.vd f j / 2 ^ w), ar.mul bi, ai.mul br]

/-- 06 R188 to R190: the compares write the byte lanes of each element, the mask operations AND with MK, and the counts read
two masks; bits at or above W / 8 stay. -/
def Obligations.VectorMasks : Prop :=
  (∀ f, CompletesV (.vcmp f) fun s t => WritesM s t f.vd.toNat (widthOf f.w / 8) fun l =>
    let j := 8 * l / tyBits f.et.toNat
    let a := vInt f (s.va f j)
    let b := vInt f (s.vb f j)
    s.lit f j && decide ((f.rm = 0 ∧ a = b) ∨ (f.rm = 1 ∧ a ≠ b) ∨ (f.rm = 2 ∧ a < b) ∨ (f.rm = 3 ∧ a ≤ b) ∨ (f.rm = 4 ∧ b < a) ∨
      (f.rm = 5 ∧ b ≤ a))) ∧
  (∀ f, CompletesV (.vfcmp f) fun s t => WritesM s t f.vd.toNat (widthOf f.w / 8) fun l =>
    let j := 8 * l / tyBits f.et.toNat
    let a := (tyFl f.et.toNat).decode (s.va f j)
    let b := (tyFl f.et.toNat).decode (s.vb f j)
    let un := decide (a = .nan ∨ b = .nan)
    s.lit f j && (if f.rm = 1 then un || Machine.Num.lt a b || Machine.Num.lt b a else if f.rm = 4 then un
      else !un && (if f.rm = 0 then !Machine.Num.lt a b && !Machine.Num.lt b a else if f.rm = 2 then Machine.Num.lt a b
        else if f.rm = 3 then !Machine.Num.lt b a else if f.rm = 5 then Machine.Num.lt b a else !Machine.Num.lt a b))) ∧
  (∀ f, CompletesV (.mand f) fun s t => WritesM s t f.vd.toNat (widthOf f.w / 8) fun l =>
    bit (s.me.r.rm f.va.toNat) l && bit (s.me.r.rm f.vb.toNat) l && bit (s.me.r.rm f.mask.toNat) l) ∧
  (∀ f, CompletesV (.mor f) fun s t => WritesM s t f.vd.toNat (widthOf f.w / 8) fun l =>
    (bit (s.me.r.rm f.va.toNat) l || bit (s.me.r.rm f.vb.toNat) l) && bit (s.me.r.rm f.mask.toNat) l) ∧
  (∀ f, CompletesV (.mxor f) fun s t => WritesM s t f.vd.toNat (widthOf f.w / 8) fun l =>
    (bit (s.me.r.rm f.va.toNat) l ^^ bit (s.me.r.rm f.vb.toNat) l) && bit (s.me.r.rm f.mask.toNat) l) ∧
  (∀ f, CompletesV (.mnot f) fun s t => WritesM s t f.vd.toNat (widthOf f.w / 8) fun l =>
    !bit (s.me.r.rm f.va.toNat) l && bit (s.me.r.rm f.mask.toNat) l) ∧
  (∀ f, CompletesV (.mpopc f) fun s t => WritesS s t f.vd.toNat (BitVec.ofNat 64 ((List.range (vCount f)).countP
    (fun j => bit (s.me.r.rm f.va.toNat) (j * tyBits f.et.toNat / 8) && s.lit f j)))) ∧
  ∀ f, CompletesV (.mffs f) fun s t => ∃ k, WritesS s t f.vd.toNat (BitVec.ofNat 64 k) ∧ k ≤ vCount f ∧
    (∀ j, j < k → (bit (s.me.r.rm f.va.toNat) (j * tyBits f.et.toNat / 8) && s.lit f j) = false) ∧
    (k < vCount f → (bit (s.me.r.rm f.va.toNat) (k * tyBits f.et.toNat / 8) && s.lit f k) = true)

/-- 06 R191, R192: `vsel` selects by the mask and writes every position; `vcvt` converts each element that both sides hold,
rounding in the mode of RM, and treats the other destination positions as disabled. -/
def Obligations.VectorSelectAndConvert : Prop :=
  (∀ f, CompletesV (.vsel f) fun s t => FillsV s t f [] fun j => if s.lit f j then s.va f j else s.vb f j) ∧
  ∀ f, CompletesV (.vcvt f) fun s t =>
    let w := widthOf f.w
    let src := VSide.of (f.vb.toNat % 16) (f.vb.toNat / 16 % 32) w
    let dst := VSide.of f.et.toNat (f.vb.toNat / 16 % 32) w
    let n := min src.cap dst.cap
    let gens := srGens f.rm.toNat (vDraws dst.cplx n)
    let x (i : Nat) : Nat := if f.ac = 2 then (s.me.r.rs f.va.toNat).toNat % 2 ^ src.bits else src.at (s.vBits f.ac.toNat f.va.toNat 0 w false) i
    let y (i : Nat) : Nat :=
      if dst.cplx then
        dst.ty.enc (Rnd.get f.rm.toNat) (s.drawAt gens (2 * i)) (src.ty.dec (x i % 2 ^ src.ty.bits)) +
          2 ^ dst.ty.bits * dst.ty.enc (Rnd.get f.rm.toNat) (s.drawAt gens (2 * i + 1)) (src.ty.dec (x i / 2 ^ src.ty.bits))
      else dst.ty.enc (Rnd.get f.rm.toNat) (s.drawAt gens i) (src.ty.dec (x i))
    VKept s t f.dc.toNat f.vd.toNat w gens ∧ ∀ i, i < dst.cap → dst.at (t.vBits f.dc.toNat f.vd.toNat 0 w true) i =
      if i < n ∧ bit (s.me.r.rm f.mask.toNat) (i * max src.bits dst.bits / 8) = true then y i % 2 ^ dst.bits
      else if f.mrg = 1 then dst.at (s.vBits f.dc.toNat f.vd.toNat 0 w true) i else 0

/-- 06 R193 to R197; 03 R85, R89: quantisation writes a register of codes and one of scales, dequantisation the exact values,
`vdqc4` rounded; in SR mode every position draws; which scale and codes a block of S9 and a group of QC4 take. -/
def Obligations.VectorQuantisation : Prop :=
  (∀ fmt rm ds xs, ds.length = xs.length →
    S9Is (fmtTy fmt) rm ds xs (s9Encode (fmtTy fmt) rm ds xs).1 (s9Encode (fmtTy fmt) rm ds xs).2) ∧
  (∀ rm ds xs, ds.length = xs.length → QcIs rm ds xs (qcEncode rm ds xs).1 (qcEncode rm ds xs).2.1 (qcEncode rm ds xs).2.2) ∧
  (∀ f, CompletesV (.vqnt f) fun s t => f.ce = 0 ∨ s.guessOf s.me = none →
    let w := widthOf f.w
    let n := w / 8
    let l := blkLen f.blk.toNat
    let b := fmtBits f.fmt.toNat
    let gens := srGens f.rm.toNat (vDraws false n)
    VQKept s t f 2 n gens ∧ ∀ k, k < n / l →
      let y := s9Encode (fmtTy f.fmt.toNat) (Rnd.get f.rm.toNat) ((List.range l).map (fun i => s.drawAt gens (k * l + i)))
        ((List.range l).map (fun i => s.vqIn f (k * l + i)))
      lane 16 (t.vBits f.dc.toNat f.vd.toNat 1 w true) k = y.1 ∧
        ∀ i, i < l → t.vBits f.dc.toNat f.vd.toNat 0 w true / 2 ^ pkOff b (k * l + i) % 2 ^ b = y.2.getD i 0 % 2 ^ b) ∧
  (∀ f, CompletesV (.vdq f) fun s t =>
    let w := widthOf f.w
    let l := blkLen f.blk.toNat
    let b := fmtBits f.fmt.toNat
    VQKept s t f 4 0 [] ∧ ∀ i, i < w / 8 → t.vqAt f.dc.toNat f.vd.toNat w 32 true i = Fl.fp32.round .rne 0
      (((fmtTy f.fmt.toNat).dec (s.vBits f.ac.toNat f.va.toNat 0 w false / 2 ^ pkOff b i % 2 ^ b)).mul
        (s9Val (lane 16 (s.vBits f.ac.toNat f.va.toNat 1 w false) (i / l))))) ∧
  (∀ f, CompletesV (.vqc4 f) fun s t => f.ce = 0 ∨ s.guessOf s.me = none →
    let w := widthOf f.w
    let n := w / 4
    let gens := srGens f.rm.toNat (vDraws false n)
    let y := qcEncode (Rnd.get f.rm.toNat) ((List.range n).map (s.drawAt gens)) ((List.range n).map (s.vqIn f))
    VQKept s t f 2 n gens ∧ (∀ i, i < n → lane 4 (t.vBits f.dc.toNat f.vd.toNat 0 w true) i = y.2.2.getD i 0 % 16) ∧
      (∀ k, k < n / 64 → lane 8 (t.vBits f.dc.toNat f.vd.toNat 1 w true) k = y.2.1.getD k 0 % 256) ∧
      lane 32 (t.vBits f.dc.toNat f.vd.toNat 1 w true) 1 = y.1) ∧
  ∀ f, CompletesV (.vdqc4 f) fun s t =>
    let w := widthOf f.w
    let gens := srGens f.rm.toNat (vDraws false (w / 4))
    let sc := s.vBits f.ac.toNat f.va.toNat 1 w false
    VQKept s t f 8 0 gens ∧ ∀ i, i < w / 4 → t.vqAt f.dc.toNat f.vd.toNat w 32 true i =
      Fl.fp32.round (Rnd.get f.rm.toNat) (s.drawAt gens i)
        (qcVal (lane 4 (s.vBits f.ac.toNat f.va.toNat 0 w false) i) (lane 8 sc (i / 64)) (lane 32 sc 1))

/-- 06 R198 to R205, 03 R93: seeding, moves, permutations, slides, packing and spreading, interleaving, and single elements. -/
def Obligations.VectorMovement : Prop :=
  (∀ f, CompletesV (.vsrseed f) fun s t => Kept s t ∧ { (t.ctxAt s.ck).r.noPc with gens := [] } = { s.me.r.noPc with gens := [] } ∧
    ∀ j, j < 32 → (t.ctxAt s.ck).r.gen j = s.me.r.rs f.va.toNat + BitVec.ofNat 64 j * 0x6A3F09D5E21BC847) ∧
  Lanes .vmov (fun f s j => s.va f j) ∧
  Lanes .vbcast (fun f s _ => let k := (s.me.r.rs f.vb.toNat).toNat; if k < vCount f then s.va f k else 0) ∧
  Lanes .vperm (fun f s j => let k := s.vb f j % 2 ^ 64; if k < vCount f then s.va f k else 0) ∧
  Lanes .vshuf (fun f s j => let k := s.vb f j % 2 ^ 64
    let n := vCount f
    if k < n then s.va f k
    else if k < 2 * n then lane (tyBits f.et.toNat) (s.vBits f.ac.toNat f.va.toNat 1 (widthOf f.w) false) (k - n) else 0) ∧
  Lanes .vslide (fun f s j => let k : Int := j + (s.me.r.rs f.vb.toNat).toInt
    if 0 ≤ k ∧ k < vCount f then s.va f k.toNat else 0) ∧
  (∀ f, CompletesV (.vcompress f) fun s t => let n := vCount f
    ScalarIs s t f.vb.toNat (BitVec.ofNat 64 (s.rank f n)) ∧ (t.ctxAt s.ck).rest = s.me.rest ∧
      { (t.ctxAt s.ck).r.noVG with s := [], ss := [] } = { s.me.r.noVG with s := [], ss := [] } ∧ (t.ctxAt s.ck).r.gens = s.me.r.gens ∧
      Lands s t f.dc.toNat f.vd.toNat (widthOf f.w) 1 ∧ (∀ j, s.rank f n ≤ j → j < n → t.vd f j = 0) ∧
      ∀ i, i < n → s.lit f i = true → t.vd f (s.rank f i) = s.va f i) ∧
  (∀ f, CompletesV (.vcompressKeep f) fun s t => let n := vCount f
    ScalarIs s t f.vb.toNat (BitVec.ofNat 64 (s.rank f n)) ∧ (t.ctxAt s.ck).rest = s.me.rest ∧
      { (t.ctxAt s.ck).r.noVG with s := [], ss := [] } = { s.me.r.noVG with s := [], ss := [] } ∧ (t.ctxAt s.ck).r.gens = s.me.r.gens ∧
      Lands s t f.dc.toNat f.vd.toNat (widthOf f.w) 1 ∧ (∀ j, s.rank f n ≤ j → j < n → t.vd f j = s.vd f j) ∧
      ∀ i, i < n → s.lit f i = true → t.vd f (s.rank f i) = s.va f i) ∧
  (∀ f, CompletesV (.vexpand f) fun s t => FillsV s t f [] fun j => if s.lit f j then s.va f (s.rank f j) else 0) ∧
  Lanes .vzip (fun f s j => let h := if f.rm.getLsbD 0 then vCount f / 2 else 0
    if j % 2 = 0 then s.va f (h + j / 2) else s.vb f (h + j / 2)) ∧
  Lanes .vunzip (fun f s j => let o := if f.rm.getLsbD 0 then 1 else 0
    let h := vCount f / 2
    if j < h then s.va f (2 * j + o) else s.vb f (2 * (j - h) + o)) ∧
  (∀ f, CompletesV (.vext f) fun s t => let k := (s.me.r.rs f.vb.toNat).toNat
    WritesS s t f.vd.toNat (if k < vCount f then (if f.et.toNat ≤ 7 then BitVec.ofInt 64 (vInt f (s.va f k)) else BitVec.ofNat 64 (s.va f k)) else 0)) ∧
  ∀ f, CompletesV (.vins f) fun s t => FillsV s t f [] fun j =>
    if j = (s.me.r.rs f.vb.toNat).toNat then (s.me.r.rs f.va.toNat).toNat % 2 ^ tyBits f.et.toNat else s.vd f j

/-- 06 R206 to R209: reductions over the enabled elements, floating-point ones over the fixed pairwise tree, prefix sums and
histograms. -/
def Obligations.VectorReductions : Prop :=
  (∀ f, CompletesV (.vred f) fun s t =>
    let l := ((List.range (vCount f)).filter (s.lit f)).map (s.va f)
    let b := tyBits f.et.toNat
    ∃ v, WritesS s t f.vd.toNat v ∧ (f.rm = 0 → v = BitVec.ofInt 64 ((l.map (vInt f)).sum)) ∧
      (f.rm = 1 → v = BitVec.ofInt 64 ((l.map (vInt f)).foldl min (vGreatest f))) ∧ (f.rm = 2 → v = BitVec.ofInt 64 ((l.map (vInt f)).foldl max (vLeast f))) ∧
      (f.rm = 3 → v = BitVec.ofInt 64 (vInt f (l.foldl (· &&& ·) (2 ^ b - 1)))) ∧ (f.rm = 4 → v = BitVec.ofInt 64 (vInt f (l.foldl (· ||| ·) 0))) ∧
      (f.rm = 5 → v = BitVec.ofInt 64 (vInt f (l.foldl (· ^^^ ·) 0)))) ∧
  (∀ f, CompletesV (.vfred f) fun s t =>
    let fl := tyFl f.et.toNat
    let leaf (i : Nat) : Option Nat := if s.lit f i then some (s.va f i) else none
    let root (g : Nat → Nat → Nat) : Option Nat := treeAt g leaf (Nat.log2 (vCount f)) 0
    ∃ v, WritesS s t f.vd.toNat (BitVec.ofNat 64 v) ∧
      (f.vb.toNat = 0 → v = (root (fun x y => fl.addr (Rnd.get f.rm.toNat) 0 [fl.decode x, fl.decode y])).getD 0) ∧
      (f.vb.toNat = 1 → v = (root (fl.minmax false)).getD fl.infCode) ∧
      (f.vb.toNat = 2 → v = (root (fl.minmax true)).getD (fl.signBit + fl.infCode))) ∧
  (∀ f, CompletesV (.vscan f) fun s t => FillsV s t f [] fun j =>
    let fl := tyFl f.et.toNat
    let add (x y : Nat) : Nat := if f.et.toNat ≤ 7 then (x + y) % 2 ^ tyBits f.et.toNat
      else fl.addr (Rnd.get f.rm.toNat) 0 [fl.decode x, fl.decode y]
    (scanAt add (fun i => if s.lit f i then some (s.va f i) else none) (if f.vb.getLsbD 0 then j else j + 1)).getD 0) ∧
  ∀ f, CompletesV (.vhist f) fun s t => VKept s t 0 f.vd.toNat (widthOf f.w) [] ∧ ∀ k, k < widthOf f.w / 32 →
    lane 32 (t.vBits 0 f.vd.toNat 0 (widthOf f.w) true) k =
      (lane 32 (s.vBits 0 f.vd.toNat 0 (widthOf f.w) true) k +
        (List.range (vCount f)).countP (fun i => s.lit f i && s.va f i == k)) % 2 ^ 32

/-- 06 R210, R211: rows and columns of a tile that is not busy are read into one, two or four registers, disabled elements as
zero; writing one changes its enabled elements and marks the tile dirty.  That an element
whose mask bit lies past bit 127 is disabled under every mask but m0 is the model's choice, log entry 18. -/
def Obligations.TileRowsAndColumns : Prop :=
  let at_ (row : Bool) (r j : Nat) : Nat := if row then 32 * r + j else 32 * j + r
  let reads (mk : VR → Instr) (row : Bool) : Prop := ∀ f, CompletesFree (mk f) fun s t =>
    let n := f.va.toNat
    let b := tyBits f.et.toNat
    let r := (s.me.r.rs f.vb.toNat).toNat % 32
    (∀ m ∈ s.me.slotsOf n, (s.me.tile m).bad = []) →
    (t.ctxAt s.ck).rest = s.me.rest ∧ (t.ctxAt s.ck).r.noVG = s.me.r.noVG ∧ (t.ctxAt s.ck).r.gens = s.me.r.gens ∧ GoesOn s t ∧
      Lands s t f.dc.toNat f.vd.toNat 1024 (tileRegs f.et.toNat) ∧
      ((s.me.slotsOf n).any s.me.busy = false → ∀ j, j < 32 → t.vqAt f.dc.toNat f.vd.toNat 1024 b true j =
        if f.mask = 0 ∨ bit (s.me.r.rm f.mask.toNat) (j * b / 8) = true then s.me.tileEl n (at_ row r j) else 0)
  let writes (mk : VR → Instr) (row : Bool) : Prop := ∀ f, CompletesV (mk f) fun s t =>
    let n := f.vd.toNat
    let b := tyBits f.et.toNat
    let r := (s.me.r.rs f.vb.toNat).toNat % 32
    (s.me.slotsOf n).any s.me.busy = false → s.me.wholeTile n →
      Aside s t ∧ GoesOn s t ∧ (t.ctxAt s.ck).r.noPc = s.me.r.noPc ∧
      { (t.ctxAt s.ck).rest with mx := {} } = { s.me.rest with mx := {} } ∧
      { (t.ctxAt s.ck).mx with tiles := [] } = { s.me.mx with tiles := [] } ∧ TilesKept s t s.ck (s.me.slotsOf n) ∧
      (∀ m ∈ s.me.slotsOf n, ((t.ctxAt s.ck).tile m).st = .d ∧ ((t.ctxAt s.ck).tile m).fmt = (s.me.tile m).fmt) ∧
      (∀ i, (∀ j, j < 32 → i ≠ at_ row r j) → (t.ctxAt s.ck).tileEl n i = s.me.tileEl n i) ∧
      ∀ j, j < 32 → (t.ctxAt s.ck).tileEl n (at_ row r j) =
        if f.mask = 0 ∨ bit (s.me.r.rm f.mask.toNat) (j * b / 8) = true then
          (if f.ac = 2 then (s.me.r.rs f.va.toNat).toNat % 2 ^ b else s.vqAt f.ac.toNat f.va.toNat 1024 b false j)
        else s.me.tileEl n (at_ row r j)
  reads .arow true ∧ reads .acol false ∧ writes .awrow true ∧ writes .awcol false

/-! ### L slots -/

/-- 08 R245 to R247: a load or store with a place for every element address puts one access for each in flight, of its
size, place, destination part or data; and the frame.
08 R240, R241, R244; 15 R381; 17 R418, R422, R423: an element address in no window takes the local-window fault, an unaligned
one the misaligned-access fault; a page that may not be accessed gives the permission trap, and an absent translation holds the
packet.
05 R153, 01 R35: `mbrd` and `mbwr` put one access to an open mailbox in flight; one that is not open raises the
mailbox-access fault. -/
def Obligations.LoadsStoresAndMailboxes : Prop :=
  (
  LoadsAt .ld (fun f s => s.eaOff f) ∧ LoadsAt .ldv (fun f s => s.eaOff f) ∧
  LoadsAt .ldvs (fun f s => s.eaStride f) ∧ LoadsAt .ldvg (fun f s => s.eaIndex f) ∧
  StoresAt .st (fun f s => s.eaOff f) ∧ StoresAt .stv (fun f s => s.eaOff f) ∧
  StoresAt .stvs (fun f s => s.eaStride f) ∧ StoresAt .stvg (fun f s => s.eaIndex f)) ∧
  (
  FaultsLM .ld true (fun z => z == 8) (fun f s => s.eaOff f) ∧ FaultsLM .st true (fun z => z == 8) (fun f s => s.eaOff f) ∧
  FaultsLM .ldv true (fun _ => false) (fun f s => s.eaOff f) ∧ FaultsLM .stv true (fun _ => false) (fun f s => s.eaOff f) ∧
  FaultsLM .ldvs false (fun _ => false) (fun f s => s.eaStride f) ∧ FaultsLM .stvs false (fun _ => false) (fun f s => s.eaStride f) ∧
  FaultsLM .ldvg false (fun _ => false) (fun f s => s.eaIndex f) ∧ FaultsLM .stvg false (fun _ => false) (fun f s => s.eaIndex f) ∧
  DeniesLM .ld false ∧ DeniesLM .ldv false ∧ DeniesLM .st true ∧ DeniesLM .stv true) ∧
  (
  (∀ f, CompletesIf (.mbrd f) (fun s => s.mailOpen s.me.part (f.imm.toNat % 64) = true ∧ s.guessOf s.me = none)
    fun s t => ∃ a, Launches s t 0 0 [a] ∧ a.kind = .ld ∧ a.loc = .mail (f.imm.toNat % 64) ∧ a.size = 8 ∧ a.sbSet = none ∧
      a.dest = if f.sd = 0 then .none else .s (s.me.r.sup && decide (56 ≤ f.sd.toNat)) f.sd.toNat) ∧
  (∀ f, CompletesIf (.mbwr f) (fun s => s.mailOpen s.me.part (f.imm.toNat % 64) = true ∧ s.guessOf s.me = none)
    fun s t => ∃ a, Launches s t 0 0 [a] ∧ a.kind = .st ∧ a.loc = .mail (f.imm.toNat % 64) ∧ a.size = 8 ∧ a.sbSet = none ∧
      a.data.toNat = (s.sc f.sa).toNat) ∧
  ∀ i n, (∃ f, i = .mbrd f ∧ n = f.imm.toNat % 64) ∨ (∃ f, i = .mbwr f ∧ n = f.imm.toNat % 64) →
    ∀ s, s.slotReady i = true → s.traps = true → s.mailOpen s.me.part n = false → ∃ t, exec i s = .next t ∧
      Enters s t s.me.r s.issue.pc { cls := .slot, code := 0x23, detail := BitVec.ofNat 64 n, pos := s.issue.pos }
        (sreplOf s.issue.rep ((List.range 9).filter (fun p => s.me.sq.perf.testBit p))))

/-- 08 R248, R249: the full/empty operations on a share word: what each loads or stores, the tag it waits for and the tag
it leaves; the tags of a range; and the frame. -/
def Obligations.FullEmptyWords : Prop :=
  (∀ f, CompletesAtOnce (.ldf f) fun s t => s.wordOk (s.wordAt f) = true →
    ScalarIs s t f.data.toNat (BitVec.ofNat 64 (leNat ((s.resvAt s.me.resv).read (s.wordAt f) 8))) ∧ WordKept s t ∧
      ShareBytes s t 0 0 0 ∧ ShareTags s t (fun _ => False) false) ∧
  (∀ f, CompletesAtOnce (.ldfe f) fun s t => s.wordOk (s.wordAt f) = true →
    ScalarIs s t f.data.toNat (BitVec.ofNat 64 (leNat ((s.resvAt s.me.resv).read (s.wordAt f) 8))) ∧ WordKept s t ∧
      ShareBytes s t 0 0 0 ∧ ShareTags s t (fun w => w = s.wordAt f / 8) false) ∧
  (∀ f, CompletesAtOnce (.ste f) fun s t => WordKept s t ∧ (t.ctxAt s.ck).r.noPc = s.me.r.noPc ∧
    ShareBytes s t (s.wordAt f) 8 (s.me.r.rs f.data.toNat).toNat ∧ ShareTags s t (fun w => w = s.wordAt f / 8) true) ∧
  (∀ f, CompletesAtOnce (.stf f) fun s t => WordKept s t ∧ (t.ctxAt s.ck).r.noPc = s.me.r.noPc ∧
    ShareBytes s t (s.wordAt f) 8 (s.me.r.rs f.data.toNat).toNat ∧ ShareTags s t (fun w => w = s.wordAt f / 8) true) ∧
  (∀ f, BlocksIf (.ldf f) (fun s => s.me.mem.pend = [] ∧ s.isWord (s.wordAt f) ∧ (s.resvAt s.me.resv).tag (s.wordAt f / 8) = false)) ∧
  (∀ f, BlocksIf (.ldfe f) (fun s => s.me.mem.pend = [] ∧ s.isWord (s.wordAt f) ∧ (s.resvAt s.me.resv).tag (s.wordAt f / 8) = false)) ∧
  (∀ f, BlocksIf (.ste f) (fun s => s.me.mem.pend = [] ∧ s.isWord (s.wordAt f) ∧ (s.resvAt s.me.resv).tag (s.wordAt f / 8) = true)) ∧
  (∀ f, CompletesAtOnce (.tagset f) fun s t => WordKept s t ∧ (t.ctxAt s.ck).r.noPc = s.me.r.noPc ∧ ShareBytes s t 0 0 0 ∧
    ShareTags s t (fun w => s.wordAt f / 8 ≤ w ∧ w < s.wordAt f / 8 + (s.me.r.rs f.data.toNat).toNat / 8) true) ∧
  ∀ f, CompletesAtOnce (.tagclr f) fun s t => WordKept s t ∧ (t.ctxAt s.ck).r.noPc = s.me.r.noPc ∧ ShareBytes s t 0 0 0 ∧
    ShareTags s t (fun w => s.wordAt f / 8 ≤ w ∧ w < s.wordAt f / 8 + (s.me.r.rs f.data.toNat).toNat / 8) false

/-- 09 R298, R301; 08 R277, R278: `amo` puts one access in flight and `red` one for each element; `pf` changes nothing a
program sees; `stopk` writes the highest logits of a row in rank order with their columns. -/
def Obligations.AtomicsReductionsAndTopK : Prop :=
  (∀ f, CompletesFree (.amo f) fun s t => ∀ s1 p, s.placesOf (.amo f) (Machine.sizeOf f.sz) .atomic true [s.sc f.base] = (s1, none, [p]) →
    ∃ a, Launches s t f.se f.sbs.toNat [a] ∧ AccessAt f a (Machine.sizeOf f.sz) p ∧
      a.kind = .amo (f.imm.toNat / 4096) (s.me.r.rs (f.imm.toNat % 64)) (s.me.r.rs (f.imm.toNat / 64 % 64)) ∧
      a.dest = if f.data = 0 then .none else .s (s.me.r.sup && decide (56 ≤ f.data.toNat)) f.data.toNat) ∧
  (∀ f, CompletesFree (.red f) fun s t => ∀ s1 p, s.placesOf (.red f) (Machine.sizeOf f.sz) .atomic true [s.sc f.base] = (s1, none, [p]) →
    ∀ b, b = redBytes (f.imm.toNat / 256 % 16) →
    ∃ l, Launches s t 0 0 l ∧ l.length = Machine.sizeOf f.sz / b ∧ ∀ j a, l[j]? = some a →
      a.kind = .red (f.imm.toNat / 4096) (f.imm.toNat / 256 % 16) ∧ a.size = b ∧ a.va = p.1 + BitVec.ofNat 64 (b * j) ∧
      (∀ o, p.2.1 = .share o → a.loc = .share (o + b * j)) ∧ (∀ q key, p.2.1 = .phys q key → a.loc = .phys (q + b * j) key) ∧
      a.data.toNat = s.dataFrom f (b * j) % 2 ^ (8 * b) ∧ a.rel = f.ord.getLsbD 1 ∧ a.dest = .none) ∧
  (∀ f, CompletesFree (.pf f) fun s t => (t.ctxAt s.ck).r.noPc = s.me.r.noPc ∧ (t.ctxAt s.ck).rest = s.me.rest ∧ GoesOn s t ∧
    t.mem.bytes = s.mem.bytes ∧ t.hub = s.hub ∧ t.disp = s.disp ∧ ∀ j, j ≠ s.ck → t.ctxAt j = s.ctxAt j) ∧
  ∀ f, CompletesAtOnce (.stopk f) fun s t => ∀ a z n k x fl v old new, a = (s.sc f.base).toNat → z = Machine.sizeOf f.sz →
    n = f.imm.toNat % 256 + 1 → k = f.imm.toNat / 256 + 1 → (s.resvAt s.me.resv).badIn a (z * n) = none →
    x = leNat ((s.resvAt s.me.resv).read a (z * n)) → fl = (if f.sz = 1 then Fl.bf16 else Fl.fp32) →
    v = (fun i => fl.decode (lane (8 * z) x i)) →
    old = (if f.dcl = 1 then (s.me.r.rv f.data.toNat).toNat else
      leNat ((s.resvAt s.me.resv).read (s.ringAt f.data.toNat 0 true) 64)) →
    new = (if f.dcl = 1 then ((t.ctxAt s.ck).r.rv f.data.toNat).toNat else
      leNat ((t.resvAt s.me.resv).read (s.ringAt f.data.toNat 0 true) 64)) →
    (t.ctxAt s.ck).rest = s.me.rest ∧ (t.ctxAt s.ck).r.noV = s.me.r.noV ∧ GoesOn s t ∧
    (if f.dcl = 1 then Aside s t ∧ ∀ j, j ≠ f.data.toNat → (t.ctxAt s.ck).r.rv j = s.me.r.rv j
      else ShareOnly s t ∧ ShareTags s t (fun _ => False) false ∧ (∀ j, (t.ctxAt s.ck).r.rv j = s.me.r.rv j) ∧
        ∀ b, b < s.ringAt f.data.toNat 0 true ∨ s.ringAt f.data.toNat 0 true + 64 ≤ b →
          mget 0 (t.resvAt s.me.resv).bytes b = mget 0 (s.resvAt s.me.resv).bytes b) ∧
    (∀ j, j < (if f.dcl = 1 then 32 else 16) → k ≤ j → (j < 8 ∨ 8 + k ≤ j) → lane 32 new j = lane 32 old j) ∧
    ∃ c : Nat → Nat, (∀ i, i < k → c i < n ∧ lane 32 new i = c i ∧ lane 32 new (8 + i) =
        if v (c i) = .nan then 0x7FC00000 else if f.sz = 1 then lane (8 * z) x (c i) * 65536 else lane (8 * z) x (c i)) ∧
      (∀ i, i + 1 < k → ranksBefore v (c i) (c (i + 1))) ∧
      ∀ y, y < n → (∀ i, i < k → c i ≠ y) → ranksBefore v (c (k - 1)) y

/-- 09 R287, R288, R295, R298 to R305: what each access does at its home when it performs: loads deliver what they find,
stores, atomics and reductions leave the value the rules give, and an error drops a result or a reduction.  That a load returns
its home's present value, never an older one under a lease (R239, R292), is the model's choice, log entry 4. -/
def Obligations.AccessesPerform : Prop :=
  (∀ k a s, s.due k (fun b => b.id == a.id && b.returns) a → s.plainHome k a = true → a.kind = .ld →
    (∀ b n, a.dest = .s b n → a.size ≤ 8) →
    ∃ t, exec (.loadReturn k a.id) s = .next t ∧ Performed s t k a ∧ t.mem.bytes = s.mem.bytes ∧ t.hub = s.hub ∧
      (t.ctxAt k).r = (s.ctxAt k).r.given a.dest (a.got (s.found k a)) ∧ ((∀ o, a.dest ≠ .ring o) → t.disp = s.disp) ∧
      ∀ o, a.dest = .ring o →
        (∀ i, i < a.size → mget 0 (t.resvAt (s.ctxAt k).resv).bytes (o + i) = BitVec.ofNat 8 (s.found k a / 2 ^ (8 * i) % 256)) ∧
        { t.resvAt (s.ctxAt k).resv with bytes := [], poison := [] } = { s.resvAt (s.ctxAt k).resv with bytes := [], poison := [] } ∧
        ∀ b, b < o ∨ o + a.size ≤ b →
          mget 0 (t.resvAt (s.ctxAt k).resv).bytes b = mget 0 (s.resvAt (s.ctxAt k).resv).bytes b) ∧
  (∀ k a s op x c, s.due k (fun b => b.id == a.id && b.returns) a → s.plainHome k a = true → a.kind = .amo op x c → op ≤ 12 →
    a.size = 4 ∨ a.size = 8 → (∃ o, a.loc = .share o) ∨ (∃ p key, a.loc = .phys p key) → (∀ o, a.dest ≠ .ring o) →
    ∃ t n, exec (.loadReturn k a.id) s = .next t ∧ Performed s t k a ∧
      AtomicLeaves op a.size (s.found k a) x.toNat c.toNat n ∧ StoredAt s t k a n ∧
      (t.ctxAt k).r = (s.ctxAt k).r.given a.dest (s.found k a)) ∧
  (∀ k a s, s.due k (fun b => b.id == a.id && !b.returns && !b.isRed && !b.deferred) a → s.plainHome k a = true → a.kind = .st →
    ∃ t, exec (.storePerformed k a.id) s = .next t ∧ Performed s t k a ∧ StoredAt s t k a a.data.toNat ∧
      (t.ctxAt k).r = (s.ctxAt k).r) ∧
  (∀ k a s id e op et, s.due k (fun b => b.grp == id && b.id == id + e && b.isRed) a → s.plainHome k a = true →
    a.kind = .red op et → op ≤ 5 → et ∈ [4, 5, 6, 7, 10, 11] → a.size = redBytes et → a.data.toNat < 2 ^ (8 * a.size) →
    (∃ o, a.loc = .share o) ∨ (∃ p key, a.loc = .phys p key) →
    ∃ t n, exec (.redCombine k id e) s = .next t ∧ Performed s t k a ∧
      CombineLeaves op et a.size (s.found k a) a.data.toNat n ∧ StoredAt s t k a n ∧ (t.ctxAt k).r = (s.ctxAt k).r) ∧
  (∀ k a s o, s.due k (fun b => b.id == a.id && b.returns) a → a.kind = .ld → a.loc = .share o → 1 ≤ a.size →
    ((s.resvAt (s.ctxAt k).resv).badIn o a.size).isSome = true →
    ∃ t p d, exec (.loadReturn k a.id) s = .next t ∧ (t.ctxAt k).r = (s.ctxAt k).r ∧ t.disp = s.disp ∧ t.hub = s.hub ∧
      t.mem.bytes = s.mem.bytes ∧ (t.ctxAt k).mem.pend = (s.ctxAt k).mem.pend.filter (fun b => b.id ≠ a.id) ∧
      (t.ctxAt k).sys.asyncs = (s.ctxAt k).sys.asyncs ++ [p] ∧ p.cls = .async ∧ p.code = 0x22 ∧
      p.detail = a.va + BitVec.ofNat 64 d ∧ d < a.size ∧ p.x0 = a.pkt) ∧
  ∀ k a s id e op et o, s.due k (fun b => b.grp == id && b.id == id + e && b.isRed) a → a.kind = .red op et → a.loc = .share o →
    1 ≤ a.size → ((s.resvAt (s.ctxAt k).resv).badIn o a.size).isSome = true → (s.ctxAt k).sys.rlost = false →
    ∃ t, exec (.redCombine k id e) s = .next t ∧ (t.ctxAt k).r = (s.ctxAt k).r ∧ t.disp = s.disp ∧ t.mem.bytes = s.mem.bytes ∧
      (t.ctxAt k).mem.pend = (s.ctxAt k).mem.pend.filter (fun b => b.id ≠ a.id) ∧
      (t.ctxAt k).sys.rlost = true ∧ (t.ctxAt k).sys.rlostAddr = a.va

/-- 08 R250 to R253: configuring a handle, waiting for filled or free slots, freeing and filling slots at once or when a
copy tag is set: the pointers, the tags and the frame. -/
def Obligations.Rings : Prop :=
  (∀ f, CompletesFree (.cbcfg f) fun s t => let d := (s.me.r.rs f.data.toNat).toNat
    HandleIs s t f.imm.toNat (if d / 2 ^ 20 % 2 ^ 12 = 0 then {} else
      { base := d / 2 ^ 6 % 2 ^ 14, slot := d / 2 ^ 20 % 2 ^ 12, depth := d / 2 ^ 32 % 2 ^ 7 + 1, cp := 0, pp := 0 }) ∧
      (t.ctxAt s.ck).rest = s.me.rest ∧ Aside s t) ∧
  (∀ f, CompletesFree (.cbwait f) Quiet) ∧ (∀ f, CompletesFree (.cbresv f) Quiet) ∧
  (∀ f, BlocksIf (.cbwait f) fun s => let hd := s.me.handle (f.imm.toNat % 16)
    hd.slot ≠ 0 ∧ f.imm.toNat / 16 ≤ hd.depth ∧
      ∃ j, j < f.imm.toNat / 16 ∧ (s.resvAt s.me.resv).tag (hd.at (hd.cp + j) / 8) = false) ∧
  (∀ f, BlocksIf (.cbresv f) fun s => let hd := s.me.handle (f.imm.toNat % 16)
    hd.slot ≠ 0 ∧ f.imm.toNat / 16 ≤ hd.depth ∧
      ∃ j, j < f.imm.toNat / 16 ∧ (s.resvAt s.me.resv).tag (hd.at (hd.pp + j) / 8) = true) ∧
  (∀ f, CompletesAtOnce (.cbpop f) fun s t => ∀ hd n, hd = s.me.handle (f.imm.toNat % 16) → n = f.imm.toNat / 16 →
    HandleIs s t (f.imm.toNat % 16) { hd with cp := (hd.cp + n) % hd.depth } ∧ ShareOnly s t ∧ ShareBytes s t 0 0 0 ∧
      (t.ctxAt s.ck).rest = s.me.rest ∧
      ∀ w, (inSlots hd hd.cp n w → (t.resvAt s.me.resv).tag w = false) ∧
        (¬ inSlots hd hd.cp n w → (t.resvAt s.me.resv).tag w = (s.resvAt s.me.resv).tag w)) ∧
  (∀ f, f.data.getLsbD 4 = false → CompletesAtOnce (.cbpush f) fun s t => ∀ hd n, hd = s.me.handle (f.imm.toNat % 16) →
    n = f.imm.toNat / 16 →
    HandleIs s t (f.imm.toNat % 16) { hd with pp := (hd.pp + n) % hd.depth } ∧ ShareOnly s t ∧ ShareBytes s t 0 0 0 ∧
      (t.ctxAt s.ck).rest = s.me.rest ∧
      ∀ w, (inSlots hd hd.pp n w → (t.resvAt s.me.resv).tag w = true) ∧
        (¬ inSlots hd hd.pp n w → (t.resvAt s.me.resv).tag w = (s.resvAt s.me.resv).tag w)) ∧
  (∀ f, f.data.getLsbD 4 = true → CompletesFree (.cbpush f) fun s t => ∀ hd n, hd = s.me.handle (f.imm.toNat % 16) →
    n = f.imm.toNat / 16 →
    HandleIs s t (f.imm.toNat % 16) { hd with pp := (hd.pp + n) % hd.depth } ∧ t.disp = s.disp ∧ t.mem = s.mem ∧ t.hub = s.hub ∧
      { (t.ctxAt s.ck).rest with mem := { (t.ctxAt s.ck).rest.mem with pend := [], sb := [] } } =
        { s.me.rest with mem := { s.me.rest.mem with pend := [], sb := [] } } ∧ ∃ a sl, (t.ctxAt s.ck).mem.pend = s.me.mem.pend ++ [a] ∧
        a.kind = .ringTags sl (hd.slot * 64) true (some (f.data.toNat % 16)) ∧ a.va = BitVec.ofNat 64 (f.imm.toNat % 16) ∧
        ∀ w, (∃ o ∈ sl, w = o / 8) ↔ inSlots hd hd.pp n w) ∧
  ∀ k h a l s sl n g, (s.ctxAt k).mem.pend.filter (fun b => b.deferred && b.va == BitVec.ofNat 64 h) = a :: l →
    a.kind = .ringTags sl n true (some g) → (s.ctxAt k).canPerform a = true →
    ∃ t, exec (.deferredPush k h) s = .next t ∧ (t.ctxAt k).r = (s.ctxAt k).r ∧ t.mem.bytes = s.mem.bytes ∧ t.hub = s.hub ∧
      (t.ctxAt k).mem.pend = (s.ctxAt k).mem.pend.filter (fun b => b.id ≠ a.id) ∧
      (∀ j, j ≠ k → t.ctxAt j = s.ctxAt j) ∧ (∀ r, r ≠ (s.ctxAt k).resv → t.resvAt r = s.resvAt r) ∧
      (∀ b, mget 0 (t.resvAt (s.ctxAt k).resv).bytes b = mget 0 (s.resvAt (s.ctxAt k).resv).bytes b) ∧
      ∀ w, (t.resvAt (s.ctxAt k).resv).tag w =
        (decide (w ∈ sl.map (fun o => o / 8)) || (s.resvAt (s.ctxAt k).resv).tag w)

/-- 08 R279 to R281: loading, making and asking for versions of a ream's line, raising its floor, and the discarding of a
version; a load of a version above every one made blocks. -/
def Obligations.Versions : Prop :=
  (∀ f, CompletesAtOnce (.verld f) fun s t => ∀ p key r, s.verAt (.verld f) f (Machine.sizeOf f.sz) false p key r →
    s.verArg f ∈ (s.quire r (p / 64)).map (fun e => e.1) →
    ∃ a, Launches s t f.se f.sbs.toNat [a] ∧ AccessAt f a (Machine.sizeOf f.sz) (s.sc f.base, .phys p key, none) ∧
      a.kind = .verld (s.verArg f) ∧ a.dest = s.dataTo f 0 (Machine.sizeOf f.sz) ∧ a.signed = (f.dcl == 0 && f.data.getLsbD 6)) ∧
  (∀ f, CompletesAtOnce (.verle f) fun s t => ∀ p key r, s.verAt (.verle f) f (Machine.sizeOf f.sz) false p key r →
    (∃ u ∈ (s.quire r (p / 64)).map (fun e => e.1), u ≤ s.verArg f) →
    ∃ a, Launches s t f.se f.sbs.toNat [a] ∧ AccessAt f a (Machine.sizeOf f.sz) (s.sc f.base, .phys p key, none) ∧
      a.kind = .verle (s.verArg f) ∧ a.dest = s.dataTo f 0 (Machine.sizeOf f.sz) ∧ a.signed = (f.dcl == 0 && f.data.getLsbD 6)) ∧
  (∀ f r line key, BlocksIf (.verld f) fun s => s.slotPass (.verld f) = true ∧ s.me.mem.pend = [] ∧ s.guessOf s.me = none ∧
    s.verPlace (s.slotEnv (.verld f)) (Machine.sizeOf f.sz) false = some (r, line, key) ∧ s.verArg f ≠ 0 ∧
    (∀ a ∈ s.me.sq.verAsks, a.pos ≠ s.issue.pos) ∧ ∀ u ∈ (s.quire r line).map (fun e => e.1), u < s.verArg f) ∧
  (∀ f, CompletesAtOnce (.verst f) fun s t => ∀ p key r z line, z = Machine.sizeOf f.sz → line = p / 64 →
    s.verAt (.verst f) f z true p key r → s.mgmt.pfe = false → p % 64 + z ≤ 64 → s.verArg f ≠ 0 →
    (∀ u ∈ (s.quire r line).map (fun e => e.1), u < s.verArg f) → (s.quire r line).length < 8 → s.poolFree r = true →
    (t.ctxAt s.ck).r.noPc = s.me.r.noPc ∧ (t.ctxAt s.ck).rest = s.me.rest ∧ GoesOn s t ∧ t.disp = s.disp ∧ t.hub = s.hub ∧
      t.quire r line = (s.verArg f, []) :: (match s.quire r line with | [] => [] | (u, _) :: l => (u, s.lineBytes line key) :: l) ∧
      (∀ i, i < z → t.byteAt (p + i) key = BitVec.ofNat 8 (s.dataFrom f 0 / 2 ^ (8 * i) % 256)) ∧
      (∀ b, b < p ∨ p + z ≤ b → t.byteAt b key = s.byteAt b key) ∧
      (∀ r' l, (r', l) ≠ (r, line) → t.quire r' l = s.quire r' l) ∧
      (∀ j, j ≠ s.ck → { t.ctxAt j with sq := { (t.ctxAt j).sq with verAsks := [] } } =
        { s.ctxAt j with sq := { (s.ctxAt j).sq with verAsks := [] } }) ∧
      ∀ j n, j ≠ s.ck → s.bad p = false → n ∈ (s.ctxAt j).sq.verAsks → n.got = none → n.ream = r → n.line = line → n.ver = s.verArg f → n.key = key →
        { n with got := some (t.lineBytes line key) } ∈ (t.ctxAt j).sq.verAsks) ∧
  (∀ f, CompletesFree (.verfl f) fun s t => ∀ s1 p, s.placesOf (.verfl f) 1 .version true [s.sc f.base] = (s1, none, [p]) →
    ∃ a, Launches s t f.se f.sbs.toNat [a] ∧ AccessAt f a 1 p ∧ a.kind = .verfl (s.verArg f) ∧ a.dest = .none) ∧
  (∀ f, CompletesFree (.vernew f) fun s t => ∀ s1 p, s.placesOf (.vernew f) 1 .version false [s.sc f.base] = (s1, none, [p]) →
    ∃ a, Launches s t f.se f.sbs.toNat [a] ∧ AccessAt f a 1 p ∧ a.kind = .vernew ∧
      a.dest = if f.data = 0 then .none else .s (s.me.r.sup && decide (56 ≤ f.data.toNat)) f.data.toNat) ∧
  (∀ k a s p key r, s.due k (fun b => b.id == a.id && b.returns) a → a.kind = .vernew → a.loc = .phys p key →
    s.reamOf (s.ctxAt k).part p = some r → s.bad p = false → s.guessOf (s.ctxAt k) = none → (∀ o, a.dest ≠ .ring o) →
    ∃ t, exec (.loadReturn k a.id) s = .next t ∧ Performed s t k a ∧ HomesKept s t ∧
      (t.ctxAt k).r = (s.ctxAt k).r.given a.dest (newestOf (s.quire r (p / 64)))) ∧
  (∀ k a s p key r v bs, s.due k (fun b => b.id == a.id && b.returns) a → a.kind = .verld v → a.loc = .phys p key →
    s.reamOf (s.ctxAt k).part p = some r → s.bad p = false → s.guessOf (s.ctxAt k) = none → (∀ o, a.dest ≠ .ring o) →
    (∀ b n, a.dest = .s b n → a.size ≤ 8) → 1 ≤ a.size → v ∈ (s.quire r (p / 64)).map (fun e => e.1) →
    s.verBytes r (p / 64) key v = some bs →
    ∃ t, exec (.loadReturn k a.id) s = .next t ∧ Performed s t k a ∧ HomesKept s t ∧
      (t.ctxAt k).r = (s.ctxAt k).r.given a.dest (a.got (leNat ((bs.drop (p % 64)).take a.size)))) ∧
  (∀ k a s p key r v, s.due k (fun b => b.id == a.id && !b.returns && !b.isRed && !b.deferred) a → a.kind = .verfl v →
    a.loc = .phys p key → s.reamOf (s.ctxAt k).part p = some r → s.guessOf (s.ctxAt k) = none →
    ∃ t, exec (.storePerformed k a.id) s = .next t ∧ Performed s t k a ∧ HomesKept s t ∧ (t.ctxAt k).r = (s.ctxAt k).r ∧
      (t.reamAt r).floor = max (s.reamAt r).floor v ∧ (t.reamAt r).quires = (s.reamAt r).quires ∧ ∀ j, j ≠ r → t.reamAt j = s.reamAt j) ∧
  ∀ line ver s e, s.mem.reams.find? (fun e => e.2.ready && reclaimable e.2.floor (s.quire e.1 line) (BitVec.toNat ver) &&
      (s.quire e.1 line).any (fun q => q.1 == ver.toNat)) = some e →
    ∃ t, exec (.versionReclaim line ver) s = .next t ∧ t.quire e.1 line = (s.quire e.1 line).filter (fun q => q.1 ≠ ver.toNat) ∧
      (∀ r l, (r, l) ≠ (e.1, line) → t.quire r l = s.quire r l) ∧ t.mem.bytes = s.mem.bytes ∧ t.ctxs = s.ctxs

/-- 08 R255, R257, R274: each copy operation puts one copy in its core's engine, clears its tag's bit and counts one more on
it; a collective also joins the group's collective of its number, and fails with it where that has failed. -/
def Obligations.CopiesAreIssued : Prop :=
  (∀ f, CompletesAtOnce (.tld f) fun s t => Issues s t (s.copyOp (.tld f) f) ∧ t.hub = s.hub) ∧
  (∀ f, CompletesAtOnce (.tst f) fun s t => Issues s t (s.copyOp (.tst f) f) ∧ t.hub = s.hub) ∧
  (∀ f, CompletesAtOnce (.cpy f) fun s t => Issues s t (s.copyOp (.cpy f) f) ∧ t.hub = s.hub) ∧
  (∀ f, CompletesAtOnce (.rgather f) fun s t => Issues s t (s.copyOp (.rgather f) f) ∧ t.hub = s.hub) ∧
  (∀ f, CompletesAtOnce (.rscatter f) fun s t => Issues s t (s.copyOp (.rscatter f) f) ∧ t.hub = s.hub) ∧
  (∀ f, CompletesAtOnce (.coll f) fun s t => ∀ o x, o = s.copyOp (.coll f) f → s.guessOf s.me = none →
    (∀ y ∈ (s.coreAt s.core).copies, y.id ≠ s.seq) → o.collOk = true → x ∈ s.hub.colls → x.ended = true → x.task = s.me.task →
    x.level = o.collArgs.level → x.unit_ = unitOf o.collArgs.level s.ck → x.k = mget 0 s.me.mem.collNo o.collArgs.level + 1 →
    (∀ y ∈ s.hub.colls, y.task = x.task → y.level = x.level → y.unit_ = x.unit_ → y.k = x.k → y = x) →
    t.copyAt s.core s.seq = none ∧ (t.ctxAt s.ck).r.noPc = s.me.r.noPc ∧
      mget 0 (t.ctxAt s.ck).mem.collNo o.collArgs.level = mget 0 s.me.mem.collNo o.collArgs.level + 1 ∧
      ∃ y ∈ (t.ctxAt s.ck).mem.cfails, y.id = s.seq ∧ y.cause = x.cause ∧ y.tag = o.tag) ∧
  ∀ f, CompletesAtOnce (.coll f) fun s t => ∀ o, o = s.copyOp (.coll f) f → s.guessOf s.me = none →
    (∀ x ∈ (s.coreAt s.core).copies, x.id ≠ s.seq) → o.collOk = true → (∀ x ∈ s.hub.colls, x.ended = false) →
    Issues s t o ∧ mget 0 (t.ctxAt s.ck).mem.collNo o.collArgs.level = mget 0 s.me.mem.collNo o.collArgs.level + 1 ∧
      (∃ x ∈ t.hub.colls, x.task = s.me.task ∧ x.level = o.collArgs.level ∧ x.unit_ = unitOf o.collArgs.level s.ck ∧
        x.k = mget 0 s.me.mem.collNo o.collArgs.level + 1 ∧ (s.ck, s.seq) ∈ x.issued) ∧
      { t.hub with colls := [] } = { s.hub with colls := [] }

/-- 08 R255 to R259, R265, R276; 09 R287, R305, R311: a copy with a good descriptor reads its index list and starts, one with a
bad one fails and leaves its tag clear; each access reads or writes one line of a row, a skipped row has none, and a finished
copy sets its tag.  A collective's copies read and write their runs so, and it completes, or fails where its members' arguments
differ; a barrier generation completes. -/
def Obligations.CopiesAndGroupsComplete : Prop :=
  (∀ core id o s n o1, s.plainCopy core id o → s.copyMayStart core o = true → o.words ≠ [] → o.descOk = true →
    n = (if o.listed then 4 * o.d.rows else 0) → (rangePieces (inShare (o.d.f 4 0 64)) none (o.d.f 4 0 64, n)).length ≤ o.acc →
    (o.listed = true → inShare (o.d.f 4 0 64) = true → o.d.f 4 0 64 + n ≤ (s.resvAt (s.ctxAt o.ctx).resv).size) →
    o1 = { o with words := o.words.take 8 ++ (List.range (cdiv o.got.length 8)).map (fun i => BitVec.ofNat 64 (leNat ((o.got.drop (8 * i)).take 8)))
                  got := [], acc := 0, done := 0, started := true } →
    s.cpOutside o1 (o1.steps 0) = none →
    ∃ t, exec (.copyStart core id) s = .next t ∧ t.copyAt core id = some o1 ∧
      t.ctxs = s.ctxs ∧ t.mem = s.mem ∧ t.hub = s.hub ∧ t.disp = s.disp) ∧
  (∀ core id o s p, s.plainCopy core id o → s.copyMayStart core o = true → o.words ≠ [] → o.descOk = true → o.listed = true →
    o.d.f 4 0 64 + 4 * o.d.rows ≤ (s.resvAt (s.ctxAt o.ctx).resv).size → inShare (o.d.f 4 0 64) = true →
    (rangePieces true none (o.d.f 4 0 64, 4 * o.d.rows))[o.acc]? = some p →
    ((s.resvAt (s.ctxAt o.ctx).resv).badIn p.addr p.n).isNone → p.addr + p.n ≤ (s.resvAt (s.ctxAt o.ctx).resv).size → p.share = true →
    ∃ t, exec (.copyStart core id) s = .next t ∧
      t.copyAt core id = some { o with got := o.got ++ s.pieceBytes o [p], acc := o.acc + 1 } ∧
      t.ctxs = s.ctxs ∧ t.mem = s.mem ∧ t.hub = s.hub ∧ t.disp = s.disp) ∧
  (∀ core id o s, s.plainCopy core id o → s.copyMayStart core o = true → o.words ≠ [] → o.descOk = false → o.done = 0 →
    ∃ t, exec (.copyFault core id) s = .next t ∧ t.copyAt core id = none ∧ t.mem = s.mem ∧ t.disp = s.disp ∧
      (t.ctxAt o.ctx).r = (s.ctxAt o.ctx).r ∧ (t.ctxAt o.ctx).mem.tagBits = (s.ctxAt o.ctx).mem.tagBits ∧
      mget 0 (t.ctxAt o.ctx).mem.tagCnt o.tag = mget 0 (s.ctxAt o.ctx).mem.tagCnt o.tag - 1 ∧
      (t.ctxAt o.ctx).mem.cfails = (s.ctxAt o.ctx).mem.cfails ++ [{ id := id, tag := o.tag, cause := 3, row := 0, detail := 0 }]) ∧
  (∀ core id o s l s0 ps, s.agenda = .row core id :: l → s0 = { s with agenda := l } → s0.plainCopy core id o → o.started = true →
    o.done < (o.steps 0).length → (readsOf o.row)[o.acc]? = some ps →
    (s0.sharePieces o ps → ∃ t, Steps s t ∧ t.copyAt core id = some { o with acc := o.acc + 1, got := o.got ++ s0.pieceBytes o ps } ∧
      t.ctxs = s.ctxs ∧ t.mem = s.mem ∧ t.hub = s.hub ∧ t.disp = s.disp) ∧
    ∀ p s1 ph, ps = [p] → p.share = false → s0.xlateCtx o.ctx o.sup p.addr .r = (s1, .ok ph) → ph.ecw = false →
      s1.tileHeld (ph.pa / 4096) = false → (s1.badIn ph.pa p.n).isNone → p.n ≤ 64 →
      ∃ t, Steps s t ∧ t.copyAt core id = some { o with acc := o.acc + 1, got := o.got ++ s1.phys ph.pa ph.key p.n } ∧
        t.ctxs = s.ctxs ∧ MemKept s t ∧ t.hub = s.hub ∧ t.disp = s.disp) ∧
  (∀ core id o s l s0 vs ps next, s.agenda = .row core id :: l → s0 = { s with agenda := l } → s0.plainCopy core id o → o.started = true →
    o.done < (o.steps 0).length → (readsOf o.row).length ≤ o.acc → valuesOf o.row o.got = .inr vs →
    (writesOf (o.row.zip vs))[o.acc - (readsOf o.row).length]? = some ps →
    next = (if o.acc - (readsOf o.row).length + 1 < (writesOf (o.row.zip vs)).length then { o with acc := o.acc + 1 }
      else { o with done := o.done + 1, got := [], acc := 0 }) →
    (s0.sharePuts o (srcSpans (o.steps 0)) ps → ∃ t, Steps s t ∧ t.copyAt core id = some next ∧ PutInShare s t o ps) ∧
    ∀ x l1 s1 ph, ps = x :: l1 → (∀ i y, ps[i]? = some y → y.addr = x.addr + i ∧ y.mask = 255 ∧ y.share = false) → ps.length ≤ 64 →
      s0.xlateCtx o.ctx o.sup x.addr .w = (s1, .ok ph) → ph.ream = false → s1.tileHeld (ph.pa / 4096) = false → s1.mgmt.pfe = false →
      (∀ y ∈ ps, inSpans (srcSpans (o.steps 0)) y.addr = false) →
      ∃ t, Steps s t ∧ t.copyAt core id = some next ∧
        (∀ i y, ps[i]? = some y → t.byteAt (ph.pa + i) ph.key = BitVec.ofNat 8 y.val) ∧
        (∀ b, b < ph.pa ∨ ph.pa + ps.length ≤ b → t.byteAt b ph.key = s.byteAt b ph.key) ∧
        t.ctxs = s.ctxs ∧ t.hub = s.hub ∧ t.disp = s.disp) ∧
  (∀ core id o s l, s.agenda = .row core id :: l → s.plainCopy core id o → o.started = true → o.done < (o.steps 0).length → o.row = [] →
    ∃ t, Steps s t ∧ t.copyAt core id = some { o with done := o.done + 1, got := [], acc := 0 } ∧
      t.ctxs = s.ctxs ∧ t.mem = s.mem ∧ t.hub = s.hub ∧ t.disp = s.disp) ∧
  (∀ core id o s, s.plainCopy core id o → o.started = true → (o.steps 0).length ≤ o.done → o.tag < 16 →
    ∃ t, exec (.copyComplete core id) s = .next t ∧ t.copyAt core id = none ∧ t.hub = s.hub ∧
      { t.mem with poison := [] } = { s.mem with poison := [] } ∧ { t.disp with resvs := [] } = { s.disp with resvs := [] } ∧
      (∀ r, { t.resvAt r with poison := [] } = { s.resvAt r with poison := [] }) ∧
      (∀ n, (∀ i, i < 64 → ∃ g ∈ (o.steps 0).flatten, g.dst.share = true ∧ (g.dst.span g.bits).1 ≤ 64 * n + i ∧
        64 * n + i < (g.dst.span g.bits).1 + (g.dst.span g.bits).2) → mfind (t.resvAt (s.ctxAt o.ctx).resv).poison n = none) ∧
      (t.ctxAt o.ctx).r = (s.ctxAt o.ctx).r ∧ mget 0 (t.ctxAt o.ctx).mem.tagCnt o.tag = mget 0 (s.ctxAt o.ctx).mem.tagCnt o.tag - 1 ∧
      (∀ g, g < 16 → bit (t.ctxAt o.ctx).mem.tagBits g = (bit (s.ctxAt o.ctx).mem.tagBits g ||
        decide (g = o.tag ∧ mget 0 (s.ctxAt o.ctx).mem.tagCnt o.tag ≤ 1))) ∧ ∀ j, j ≠ o.ctx → t.ctxAt j = s.ctxAt j) ∧
  (∀ core id o s l s0 x, s.agenda = .row core id :: l → s0 = { s with agenda := l } → s0.copyAt core id = some o → o.isColl = true →
    o.id = id → o.waitTile = none → s0.collAt x.task x.level x.unit_ = some x → (o.ctx, id) ∈ x.issued →
    (∀ y ∈ s0.hub.colls, (o.ctx, id) ∈ y.issued → y = x) → s0.collFailure x = none → s0.collMet x = true →
    (∀ ps, (collReads o)[o.acc]? = some ps → s0.sharePieces o ps →
      ∃ t, Steps s t ∧ t.copyAt core id = some { o with acc := o.acc + 1, got := o.got ++ s0.pieceBytes o ps } ∧
        t.ctxs = s.ctxs ∧ t.mem = s.mem ∧ t.hub = s.hub ∧ t.disp = s.disp) ∧
    ∀ r ps, (collReads o).length ≤ o.acc → s0.collOut x o.ctx = some r → (collWrites o r)[o.acc - (collReads o).length]? = some ps →
      s0.sharePuts o (collSpans o) ps →
      ∃ t, Steps s t ∧ t.copyAt core id = some { o with acc := o.acc + 1 } ∧ PutInShare s t o ps) ∧
  (∀ task level unit s x, s.collAt task level unit = some x → s.collFailure x = none → s.collMet x = true → x.members.Nodup →
    (∀ p ∈ s.collOps x, s.collDone x p.2 = true) →
    ∃ t, exec (.collectiveComplete task level unit) s = .next t ∧ x ∉ t.hub.colls ∧ t.mem = s.mem ∧ t.disp = s.disp ∧
      mget 0 t.hub.collTl (groupKey x.task x.level x.unit_) = mget 0 s.hub.collTl (groupKey x.task x.level x.unit_) + 1 ∧
      ∀ p ∈ s.collOps x, t.copyAt (p.1 / 4) p.2.id = none ∧ (t.ctxAt p.1).r = (s.ctxAt p.1).r ∧
        mget 0 (t.ctxAt p.1).mem.tagCnt p.2.tag = mget 0 (s.ctxAt p.1).mem.tagCnt p.2.tag - 1 ∧
        (p.2.tag < 16 → mget 0 (s.ctxAt p.1).mem.tagCnt p.2.tag ≤ 1 → bit (t.ctxAt p.1).mem.tagBits p.2.tag = true)) ∧
  (∀ task level unit s x p q, s.collAt task level unit = some x → p ∈ s.collOps x → q ∈ s.collOps x → p.2.collArgs ≠ q.2.collArgs →
    (∀ e ∈ x.issued, s.guessOf (s.ctxAt e.1) = none ∧ ∃ o, s.copyAt (e.1 / 4) e.2 = some o ∧ o.ctx = e.1 ∧ o.id = e.2) →
    ∃ t, exec (.collectiveComplete task level unit) s = .next t ∧
      mget 0 t.hub.collTl (groupKey x.task x.level x.unit_) = mget 0 s.hub.collTl (groupKey x.task x.level x.unit_) + 1 ∧
      ∀ e ∈ x.issued, t.copyAt (e.1 / 4) e.2 = none ∧ (t.ctxAt e.1).r = (s.ctxAt e.1).r ∧
        ∃ y ∈ (t.ctxAt e.1).mem.cfails, y.id = e.2 ∧ y.cause = 7) ∧
  ∀ task level unit s key g, 2 ≤ level → level ≤ 5 → key = groupKey task level unit → g = mget 0 s.hub.barGen key + 1 →
    (∀ j ∈ s.groupAt task level unit, (s.ctxAt j).counts = true → g.toNat ≤ (mget 0 (s.ctxAt j).mem.arr level).toNat) →
    (∃ j ∈ s.groupAt task level unit, (s.ctxAt j).counts = true) →
    ∃ t, exec (.barrierGenerationComplete task level unit) s = .next t ∧ mget 0 t.hub.barGen key = g ∧
      (∀ j, j ≠ key → mget 0 t.hub.barGen j = mget 0 s.hub.barGen j) ∧
      { t with hub := { t.hub with barGen := [] } } = { s with hub := { s.hub with barGen := [] } }

/-! ### M slots -/

/-- 07 R215 to R224: loads of the back buffer, swaps and products join the queue with the image their operand names, the K
that their pip cost and hands give, the tiles they write and the draws they take.
07 R222, R229, R230, R232 to R235: tiles are zeroed, configured, unconfigured, filled, converted and added by queued
operations that mark them at issue; the waits find no operation in flight; `mpcset` and `mstat` write mpc and read the
status. -/
def Obligations.MatrixQueueTilesAndStatus : Prop :=
  (
  let loads (mk : MX → Instr) : Prop := ∀ f, CompletesAtOnce (mk f) fun s t => ∀ k, k = (loadK s.me f).getD 0 →
    s.imgClean f (imgSize f.fa.toNat f.ba.toNat k) = true →
    ∃ o, Queues s t (mk f) o ∧ s.images f (imgSize f.fa.toNat f.ba.toNat k) o ∧ o.k = k ∧ o.tiles = [] ∧ o.poison = none ∧
      k * (s.me.wA * pipWidth f.fa.toNat) = 512 * s.me.mx.hands.length * (if f.ca = 1 then 2 else 1) ∧
      (t.ctxAt s.ck).mx.back = { empty := false, fb := f.fa.toNat, blk := f.ba.toNat, wa := s.me.wA, sparse := f.ca == 1, kb := k } ∧
      (t.ctxAt s.ck).mx.front = s.me.mx.front ∧ (t.ctxAt s.ck).mx.tiles = s.me.mx.tiles ∧ MKept s t
  let products (mk : MX → Instr) : Prop := ∀ f, CompletesAtOnce (mk f) fun s t => ∀ k, k = (s.me.prodK f.fa.toNat).getD 0 →
    s.imgClean f (imgSize f.fa.toNat f.ba.toNat k) = true →
    ∃ o, Multiplies s t (mk f) f o ∧ o.k = k ∧ s.images f (imgSize f.fa.toNat f.ba.toNat k) o ∧ o.reads = [] ∧ MKept s t
  loads .mld ∧ loads .mldw ∧
  (∀ f, CompletesFree (.mswap f) fun s t => ∃ o, Queues s t (.mswap f) o ∧ o.tiles = [] ∧ o.reads = [] ∧ MKept s t ∧
    (t.ctxAt s.ck).mx.front = s.me.mx.back ∧ (t.ctxAt s.ck).mx.back = s.me.mx.front ∧ (t.ctxAt s.ck).mx.tiles = s.me.mx.tiles) ∧
  products .mma ∧ products .mmaC ∧
  (∀ f, CompletesAtOnce (.mmas f) fun s t => ∀ k w, k = (s.me.prodK f.fa.toNat).getD 0 →
    s.imgClean f (imgSize f.fa.toNat f.ba.toNat k) = true →
    (s.me.mx.metaW = some w ∨ s.me.mx.metaW = none ∧ ∃ s1, (s.atAct (.mmas f)).fetchMeta s.ck s.me.r.mpc = (s1, .word w)) →
    (∀ u, u < 16 → u < (k + 1) / 2 → w.toNat / 2 ^ (4 * u) % 16 < 6) →
    ∃ o, Multiplies s t (.mmas f) f o ∧ o.k = k ∧ s.images f (imgSize f.fa.toNat f.ba.toNat k) o ∧ o.meta_ = w ∧
      (t.ctxAt s.ck).r.mpc = s.me.r.mpc + 8 ∧ (t.ctxAt s.ck).r.gens = s.me.r.gens ∧ (t.ctxAt s.ck).mx.metaW = none) ∧
  (∀ f s w, s.slotReady (.mmas f) = true → s.slotFree (.mmas f) = true → s.traps = true → s.me.mx.metaW = some w →
    (∃ u, u < 16 ∧ u < ((s.me.prodK f.fa.toNat).getD 0 + 1) / 2 ∧ 6 ≤ w.toNat / 2 ^ (4 * u) % 16) →
    ∃ t, exec (.mmas f) s = .next t ∧ Enters s t s.me.r s.issue.pc { cls := .slot, code := 0x15, detail := s.me.r.mpc, pos := s.issue.pos }
      (sreplOf s.issue.rep ((List.range 9).filter (fun p => s.me.sq.perf.testBit p)))) ∧
  ∀ f, CompletesFree (.mmac f) fun s t => ∃ o, Multiplies s t (.mmac f) f o ∧ o.reads = [f.src.toNat % 32] ∧
    o.sf = (s.me.tile (f.src.toNat % 32)).fmt ∧
    Draws s t f.rm.toNat ((List.range 32).flatMap (fun _ => List.range (min o.k (32 - f.src.toNat / 32 % 32)))) o) ∧
  (
  (∀ f, CompletesFree (.azero f) fun s t => ∃ o, Queues s t (.azero f) o ∧ o.tiles = s.me.slotsOf f.acc.toNat ∧ MKept s t ∧
    Marks s t (s.me.slotsOf f.acc.toNat) .z) ∧
  (∀ f, CompletesFree (.acfg f) fun s t => ∃ o, Queues s t (.acfg f) o ∧ o.tiles = cfgTiles f.acc.toNat f.af.toNat ∧ MKept s t ∧
    Configures s t f.acc.toNat f.af.toNat .z) ∧
  (∀ f, CompletesFree (.aclr f) fun s t => ∃ o, Queues s t (.aclr f) o ∧ f.acc.toNat ∈ o.tiles ∧ MKept s t ∧
    TilesKept s t s.ck [f.acc.toNat - 1, f.acc.toNat, f.acc.toNat + 1] ∧ ((t.ctxAt s.ck).tile f.acc.toNat).st = .u ∧
    ((s.me.tile f.acc.toNat).pair = 1 → ((t.ctxAt s.ck).tile (f.acc.toNat + 1)).st = .u) ∧
    (0 < f.acc.toNat → (s.me.tile f.acc.toNat).pair = 2 → ((t.ctxAt s.ck).tile (f.acc.toNat - 1)).st = .u) ∧
    (t.ctxAt s.ck).mx.front = s.me.mx.front ∧ (t.ctxAt s.ck).mx.back = s.me.mx.back) ∧
  (∀ f, CompletesAtOnce (.aload f) fun s t =>
    ((s.resvAt s.me.resv).badIn (s.sc f.ss).toNat (aloadBytes f.af.toNat)).isNone →
    ∃ o, Queues s t (.aload f) o ∧ o.tiles = cfgTiles f.acc.toNat f.af.toNat ∧ o.af = f.af.toNat ∧ o.poison = none ∧
      o.img = (s.resvAt s.me.resv).read (s.sc f.ss).toNat (aloadBytes f.af.toNat) ∧ MKept s t ∧
      Configures s t f.acc.toNat f.af.toNat .d) ∧
  (∀ f, CompletesFree (.acvt f) fun s t => ∃ o, Queues s t (.acvt f) o ∧ o.tiles = cfgTiles f.acc.toNat f.af.toNat ∧
    o.reads = s.me.slotsOf f.acb.toNat ∧ o.af = f.af.toNat ∧ o.sf = (s.me.tile f.acb.toNat).fmt ∧
    Configures s t f.acc.toNat f.af.toNat .d ∧ Draws s t f.rm.toNat (tileGens (accCplx f.af.toNat)) o) ∧
  (∀ f, CompletesFree (.aadd f) fun s t => ∃ o, Queues s t (.aadd f) o ∧ o.tiles = s.me.slotsOf f.acc.toNat ∧
    o.reads = s.me.slotsOf f.acb.toNat ∧ o.af = (s.me.tile f.acc.toNat).fmt ∧ Marks s t (s.me.slotsOf f.acc.toNat) .d ∧
    Draws s t (if o.af = 2 then 0 else f.rm.toNat) (tileGens (accCplx o.af)) o) ∧
  (∀ f, CompletesFree (.await f) fun s t => (t.ctxAt s.ck).r.noPc = s.me.r.noPc ∧ GoesOn s t ∧ t.mem.bytes = s.mem.bytes ∧
    (s.me.slotsOf f.acc.toNat).any (t.ctxAt s.ck).busy = false ∧ ((s.me.slotsOf f.acc.toNat).any s.me.busy = false → Quiet s t)) ∧
  (∀ f, CompletesFree (.awaitAll f) fun s t => (t.ctxAt s.ck).r.noPc = s.me.r.noPc ∧ GoesOn s t ∧ t.mem.bytes = s.mem.bytes ∧
    (t.ctxAt s.ck).mx.ops = [] ∧ (s.me.mx.ops = [] → Quiet s t)) ∧
  (∀ f, CompletesFree (.mpcset f) fun s t => Aside s t ∧ GoesOn s t ∧ (t.ctxAt s.ck).r.noPc = { s.me.r.noPc with mpc := s.sc f.ss } ∧
    { (t.ctxAt s.ck).rest with mx := { (t.ctxAt s.ck).rest.mx with metaW := none } } =
      { s.me.rest with mx := { s.me.rest.mx with metaW := none } }) ∧
  (∀ f, FaultsAt (.mpcset f) (fun s => (s.sc f.ss).toNat % 8 ≠ 0) fun s => { cls := .issue, code := 0x0B, detail := s.sc f.ss }) ∧
  (∀ f, f.imm = 1 → Completes (.mstat f) fun s t => WritesS s t f.ss.toNat s.me.r.mpc) ∧
  ∀ f, f.imm = 0 → CompletesIf (.mstat f) (fun s => (s.me.mx.ops.filter (fun o => !o.started)).length ≤ 4)
    fun s t => ∃ w, WritesS s t f.ss.toNat w ∧ (∀ n, n < 32 → w.getLsbD n = s.me.busy n) ∧ w.toNat / 2 ^ 40 = 0 ∧
      w.toNat / 2 ^ 34 % 8 = (s.me.mx.ops.filter (fun o => !o.started)).length ∧
      w.getLsbD 37 = s.me.mx.ops.any (fun o => isLoad o.lat.instr) ∧ w.getLsbD 38 = s.me.mx.back.empty ∧
      w.getLsbD 39 = s.me.mx.front.empty ∧ w.getLsbD 32 = false ∧ w.getLsbD 33 = false)

/-- 07 R215 to R235: how a queued operation starts, and what its last write leaves: the front buffer's data are taken or the
buffers exchanged, sums added to the tile, tiles zeroed, filled, converted or added; what each column sum is (R212, R213, R219,
R220, R223); and the metadata word fetched ahead. -/
def Obligations.MatrixOperationsRun : Prop :=
  (∀ k o s, (s.ctxAt k).mx.nextOp = some o → (s.ctxAt k).mx.mayStart o = true → (∀ f, o.lat.instr ≠ .mswap f) →
    (∀ f, o.lat.instr ≠ .mmac f) → (∀ f, o.lat.instr ≠ .acvt f) → (∀ f, o.lat.instr ≠ .aadd f) →
    ∃ t c, exec (.mOpStart k) s = .next t ∧ CtxIs s t k c ∧
      c.mx.ops = (s.ctxAt k).mx.ops.map (fun x => if x.id = o.id then
        { o with started := true, par := (s.ctxAt k).mx.par, buf := { o.buf with data := (s.ctxAt k).mx.frontD } } else x) ∧
      { c with mx := { c.mx with ops := [] } } = { s.ctxAt k with mx := { (s.ctxAt k).mx with ops := [] } }) ∧
  (∀ k o s, (s.ctxAt k).mx.nextOp = some o → (s.ctxAt k).mx.mayStart o = true → (∃ f, o.lat.instr = .acvt f ∨ o.lat.instr = .aadd f) →
    ((s.ctxAt k).tile o.lat.acb).bad = [] → (o.sf = 4 → ((s.ctxAt k).tile (o.lat.acb + 1)).bad = []) →
    ∃ t c, exec (.mOpStart k) s = .next t ∧ CtxIs s t k c ∧
      c.mx.ops = (s.ctxAt k).mx.ops.map (fun x => if x.id = o.id then
        { o with started := true, par := (s.ctxAt k).mx.par, buf := { o.buf with data := (s.ctxAt k).mx.frontD }, poison := none
                 src := [(s.ctxAt k).tile o.lat.acb, (s.ctxAt k).tile (o.lat.acb + 1)] } else x) ∧
      { c with mx := { c.mx with ops := [] } } = { s.ctxAt k with mx := { (s.ctxAt k).mx with ops := [] } }) ∧
  (∀ k o s f, (s.ctxAt k).mx.nextOp = some o → (s.ctxAt k).mx.mayStart o = true → o.lat.instr = .mswap f →
    ∃ t c, exec (.mOpStart k) s = .next t ∧ CtxIs s t k c ∧ c.mx.ops = (s.ctxAt k).mx.ops.filter (fun x => x.id ≠ o.id) ∧
      c.mx.frontD = (s.ctxAt k).mx.backD ∧ c.mx.backD = (s.ctxAt k).mx.frontD ∧ c.r = (s.ctxAt k).r ∧ c.mx.tiles = (s.ctxAt k).mx.tiles) ∧
  (∀ k o s f c0 n, (s.ctxAt k).mx.nextOp = some o → (s.ctxAt k).mx.mayStart o = true → o.lat.instr = .mmac f →
    c0 = f.src.toNat / 32 % 32 → n = min o.k (32 - c0) →
    ∃ t c o1, exec (.mOpStart k) s = .next t ∧ CtxIs s t k c ∧
      c.mx.ops = (s.ctxAt k).mx.ops.map (fun x => if x.id = o.id then o1 else x) ∧ o1.id = o.id ∧ o1.started = true ∧ o1.k = o.k ∧
      c.r = (s.ctxAt k).r ∧ c.mx.tiles = (s.ctxAt k).mx.tiles ∧
      ∀ i j, i < 32 → j < o.k → lane (fmtTy f.fa.toNat).bits (leNat o1.img) (i * o.k + j) = if j < n then
        (fmtTy f.fa.toNat).enc (Rnd.get f.rm.toNat) (o.draws.getD (i * n + j) 0)
          ((accTy o.sf).dec ((s.ctxAt k).accGet (f.src.toNat % 32) o.sf (32 * i + c0 + j)).1) % 2 ^ (fmtTy f.fa.toNat).bits
        else 0) ∧
  (∀ k o s f cplx sparse, s.lands k o → s.guessOf (s.ctxAt k) = none →
    (o.lat.instr = .mma f ∧ cplx = false ∧ sparse = false ∨ o.lat.instr = .mmac f ∧ cplx = false ∧ sparse = false ∨
      o.lat.instr = .mmas f ∧ cplx = false ∧ sparse = true ∨ o.lat.instr = .mmaC f ∧ cplx = true ∧ sparse = false) →
    ∃ t, exec (.mOpComplete k o.id) s = .next t ∧
      Leaves s t k o (if o.af = 4 then [o.lat.acc, o.lat.acc + 1] else [o.lat.acc]) ∧
      (∀ i, i < 1024 → PartsAre t k o.lat.acc o.af i
        (let x := (s.ctxAt k).accGet o.lat.acc o.af i
        let sum (v j : Nat) : Nat := accAdd (accTy o.af) .rne 0 ((accTy o.af).dec v) ((o.cols f cplx sparse).getD j .nan)
        if accCplx o.af then (sum x.1 (2 * i), sum x.2 (2 * i + 1)) else (sum x.1 i, 0))) ∧
      if f.ce = 1 then ∃ ws, t.hub.recs = s.hub.recs ++ [{ ctx := k, entry := f.cal.toNat, words := ws }] else t.hub = s.hub) ∧
  (∀ (o : MOp) (f : MX) cplx sparse i n im kb, i < 32 → n < 32 → (im = true → cplx = true) → kb = (if sparse then 2 * o.k else o.k) →
    pipWidth f.fa.toNat * pipWidth o.buf.fb * o.k = 512 * o.h → (sparse = true → pipWidth f.fa.toNat * pipWidth o.buf.fb ≤ 128) →
    o.img.length = imgSize f.fa.toNat f.ba.toNat o.k → o.k % planeLen f.fa.toNat f.ba.toNat = 0 →
    (o.buf.empty = false → o.buf.data.length = imgSize o.buf.fb o.buf.blk kb ∧ kb % planeLen o.buf.fb o.buf.blk = 0) →
    o.colIs f cplx sparse i n im
      ((o.cols f cplx sparse).getD (if cplx then 2 * (32 * i + n) + (if im then 1 else 0) else 32 * i + n) .nan)) ∧
  (∀ k o s f, s.lands k o → o.lat.instr = .mld f →
    ∃ t, exec (.mOpComplete k o.id) s = .next t ∧ Leaves s t k o [] ∧ (t.ctxAt k).mx.backD = o.img ∧ t.hub = s.hub) ∧
  (∀ k o s f w, s.lands k o → o.lat.instr = .mldw f → schOf f.fa.toNat f.ba.toNat = 0 → w = fmtBits f.fa.toNat →
    o.img.length = imgSize f.fa.toNat f.ba.toNat o.k →
    ∃ t, exec (.mOpComplete k o.id) s = .next t ∧ Leaves s t k o [] ∧ t.hub = s.hub ∧
      ∀ x j, x < 32 → j < o.k → lane w (leNat (t.ctxAt k).mx.backD) (32 * j + x) = lane w (leNat o.img) (x * o.k + j)) ∧
  (∀ k o s, s.lands k o → (∃ f, o.lat.instr = .azero f ∨ o.lat.instr = .acfg f ∨ o.lat.instr = .aclr f) →
    ∃ t, exec (.mOpComplete k o.id) s = .next t ∧ Leaves s t k o o.tiles ∧ t.hub = s.hub ∧
      ∀ n ∈ o.tiles, ∀ i, ((t.ctxAt k).tile n).get i = 0) ∧
  (∀ k o s f, s.lands k o → o.lat.instr = .aload f → o.img.length = aloadBytes o.af →
    ∃ t, exec (.mOpComplete k o.id) s = .next t ∧ t.hub = s.hub ∧
      Leaves s t k o (if o.af = 4 then [o.lat.acc, o.lat.acc + 1] else [o.lat.acc]) ∧
      (∀ i, i < 1024 → ((t.ctxAt k).tile o.lat.acc).get i = BitVec.ofNat 64
        (leNat ((o.img.drop (8 * i)).take 8) % if o.af = 0 ∨ o.af = 2 then 2 ^ 32 else 2 ^ 64)) ∧
      (o.af = 4 → ∀ i, i < 1024 → ((t.ctxAt k).tile (o.lat.acc + 1)).get i = BitVec.ofNat 64
        (leNat ((o.img.drop (8 * (1024 + i))).take 8)))) ∧
  (∀ k o s f, s.lands k o → o.lat.instr = .acvt f →
    ∃ t, exec (.mOpComplete k o.id) s = .next t ∧ t.hub = s.hub ∧
      Leaves s t k o (if o.af = 4 then [o.lat.acc, o.lat.acc + 1] else [o.lat.acc]) ∧
      ∀ i, i < 1024 → PartsAre t k o.lat.acc o.af i
        (let x := o.srcGet i
        let conv (v j : Nat) : Nat := (accTy o.af).enc (Rnd.get f.rm.toNat) (o.draws.getD j 0) ((accTy o.sf).dec v)
        if accCplx o.af then (conv x.1 (2 * i), conv x.2 (2 * i + 1)) else (conv x.1 i, 0))) ∧
  (∀ k o s f, s.lands k o → o.lat.instr = .aadd f →
    ∃ t, exec (.mOpComplete k o.id) s = .next t ∧ t.hub = s.hub ∧
      Leaves s t k o (if o.af = 4 then [o.lat.acc, o.lat.acc + 1] else [o.lat.acc]) ∧
      ∀ i, i < 1024 → PartsAre t k o.lat.acc o.af i
        (let x := (s.ctxAt k).accGet o.lat.acc o.af i
        let y := o.srcGet i
        let add (u v j : Nat) : Nat := accAdd (accTy o.af) (Rnd.get f.rm.toNat) (o.draws.getD j 0) ((accTy o.af).dec u) ((accTy o.af).dec v)
        if accCplx o.af then (add x.1 y.1 (2 * i), add x.2 y.2 (2 * i + 1)) else (add x.1 y.1 i, 0))) ∧
  ∀ k s s1 p, (s.ctxAt k).st = .live → (s.ctxAt k).mx.metaW = none → s.guessOf (s.ctxAt k) = none →
    s.xlateCtx k (s.ctxAt k).r.sup (s.ctxAt k).r.mpc.toNat .r = (s1, .ok p) →
    p.ecw = false → (∀ i, i < 8 → s.bad (p.pa + i) = false) →
    ∃ t, exec (.metadataFetch k) s = .next t ∧
      (t.ctxAt k).mx = { (s.ctxAt k).mx with metaW := some (BitVec.ofNat 64 (leNat (s1.phys p.pa p.key 8))) } ∧
      (t.ctxAt k).r = (s.ctxAt k).r ∧ MemKept s t ∧ t.hub = s.hub ∧ t.disp = s.disp

/-! ### Sidecars -/

/-- 08 R248, R252, R283, R285: what each `x.` instruction does with the sidecar's registers, a share word and its tag, a
global word, the copy tags, a dispatch register, a copy command and a ring handle; and what it waits for. -/
def Obligations.SidecarOperations : Prop :=
  (∀ rd rs1, SideSets (.xSpld rd rs1) (fun s n => s.sideWord n (s.rx n rs1) = true) rd fun s n => s.sideAtWord n (s.rx n rs1)) ∧
  (∀ rs2 rs1, SideDoes (.xSpst rs2 rs1) (fun s n => s.sideWord n (s.rx n rs1) = true) fun s t n =>
    SideShares s t n { s.sideAt n with pc := (s.sideAt n).pc + 4 } (s.rx n rs1).toNat 8 (s.rx n rs2).toNat (fun _ => False) false) ∧
  (∀ rd rs1, SideDoes (.xSpldfe rd rs1) (fun s n => s.sideWord n (s.rx n rs1) = true) fun s t n =>
    let a := (s.rx n rs1).toNat
    if (s.resvAt (s.ctxAt (n / 2)).resv).tag (a / 8) = true then
      SideShares s t n ((s.sideAt n).sets rd (s.sideAtWord n (s.rx n rs1)) ((s.sideAt n).pc + 4)) a 0 0 (fun w => w = a / 8) false
    else t = s) ∧
  (∀ rs2 rs1, SideDoes (.xSpste rs2 rs1) (fun s n => s.sideWord n (s.rx n rs1) = true) fun s t n =>
    let a := (s.rx n rs1).toNat
    if (s.resvAt (s.ctxAt (n / 2)).resv).tag (a / 8) = false then
      SideShares s t n { s.sideAt n with pc := (s.sideAt n).pc + 4 } a 8 (s.rx n rs2).toNat (fun w => w = a / 8) true
    else t = s) ∧
  (∀ rd rs1 p, SideDoes (.xGld rd rs1) (fun s n => let c := s.ctxAt (n / 2)
      (s.rx n rs1).toNat % 8 = 0 ∧ (s.xlateCtx (n / 2) false (s.rx n rs1).toNat .r).2 = .ok p ∧ p.ecw = false ∧ (s.coreAt (n / 2 / 4)).l1bad = [] ∧
      s.guessOf c = none ∧ s.tileHeld (p.pa / 4096) = false ∧ ∀ i, i < 8 → s.bad (p.pa + i) = false) fun s t n =>
    t.sideAt n = (s.sideAt n).sets rd (s.phys8 p.pa p.key) ((s.sideAt n).pc + 4) ∧ (∀ m, m ≠ n → t.sideAt m = s.sideAt m) ∧
      t.mem.bytes = s.mem.bytes ∧ t.ctxs = s.ctxs ∧ t.disp = s.disp ∧ t.hub = s.hub) ∧
  (∀ rs2 rs1 p, SideDoes (.xGst rs2 rs1) (fun s n => let c := s.ctxAt (n / 2)
      (s.rx n rs1).toNat % 8 = 0 ∧ (s.xlateCtx (n / 2) false (s.rx n rs1).toNat .w).2 = .ok p ∧ p.ecw = false ∧
      p.ream = false ∧ s.guessOf c = none ∧ s.tileHeld (p.pa / 4096) = false) fun s t n =>
    t.sideAt n = { s.sideAt n with pc := (s.sideAt n).pc + 4 } ∧ (∀ m, m ≠ n → t.sideAt m = s.sideAt m) ∧
      (∀ i, i < 8 → t.byteAt (p.pa + i) p.key = BitVec.ofNat 8 ((s.rx n rs2).toNat / 2 ^ (8 * i) % 256)) ∧
      (∀ b, b < p.pa ∨ p.pa + 8 ≤ b → t.byteAt b p.key = s.byteAt b p.key) ∧
      t.ctxs = s.ctxs ∧ t.disp = s.disp ∧ t.hub = s.hub) ∧
  (∀ rs1, SideDoes (.xTagwait rs1) (fun _ _ => True) fun s t n =>
    ((∀ g, g < 16 → (s.rx n rs1).getLsbD g = true → bit (s.ctxAt (n / 2)).mem.tagBits g = true) →
      SideIs s t n { s.sideAt n with pc := (s.sideAt n).pc + 4 }) ∧
    ((∃ g, g < 16 ∧ (s.rx n rs1).getLsbD g = true ∧ bit (s.ctxAt (n / 2)).mem.tagBits g = false) → t = s)) ∧
  (∀ rd rs1, SideSets (.xRdd rd rs1) (fun _ _ => True) rd fun s n => (s.ctxAt (n / 2)).r.rd ((s.rx n rs1).toNat % 16)) ∧
  (∀ rs1 i, SideDoes (.xCopy rs1) (fun s n => let a := s.rx n rs1
      (∀ j : Nat, j < 4 → s.sideWord n (a + BitVec.ofNat 64 (8 * j)) = true) ∧ copyOf (s.sideAtWord n (a + 24)) = some i ∧
      copyBad (s.resvAt (s.ctxAt (n / 2)).resv).size i (s.sideAtWord n a) (s.sideAtWord n (a + 8)) (s.sideAtWord n (a + 16)) = none ∧
      (s.coreAt (n / 2 / 4)).copies.length < 32 ∧ (s.copiesOf (n / 2)).length < 16) fun s t n =>
    let a := s.rx n rs1
    let tag := (s.sideAtWord n (a + 24)).toNat / 16 % 16
    (∃ o, (t.coreAt (n / 2 / 4)).copies = (s.coreAt (n / 2 / 4)).copies ++ [o] ∧ o.id = s.seq ∧ o.instr = i ∧ o.ctx = n / 2 ∧
      o.side = n % 2 + 1 ∧ o.dst = s.sideAtWord n a ∧ o.src = s.sideAtWord n (a + 8) ∧ o.desc = (s.sideAtWord n (a + 16)).toNat ∧
      o.tag = tag ∧ o.started = false) ∧
    t.sideAt n = { s.sideAt n with pc := (s.sideAt n).pc + 4 } ∧ (∀ m, m ≠ n → t.sideAt m = s.sideAt m) ∧
    (∀ g, g < 16 → bit (t.ctxAt (n / 2)).mem.tagBits g = (bit (s.ctxAt (n / 2)).mem.tagBits g && decide (g ≠ tag))) ∧
    (∀ g, mget 0 (t.ctxAt (n / 2)).mem.tagCnt g = mget 0 (s.ctxAt (n / 2)).mem.tagCnt g + if g = tag then 1 else 0) ∧
    t.mem = s.mem ∧ t.disp = s.disp ∧ t.hub = s.hub ∧ ∀ k, k ≠ n / 2 → t.ctxAt k = s.ctxAt k) ∧
  (∀ rs2 rs1, SideDoes (.xCbcfg rs2 rs1) (fun s n =>
      (s.rx n rs1).toNat < 4 ∧ descFault (s.resvAt (s.ctxAt (n / 2)).resv).size (s.rx n rs2) = none) fun s t n =>
    let d := (s.rx n rs2).toNat
    { t with sides := [] } = { s with sides := [] } ∧ (∀ m, m ≠ n → t.sideAt m = s.sideAt m) ∧
      { t.sideAt n with hs := [] } = { s.sideAt n with hs := [], pc := (s.sideAt n).pc + 4 } ∧
      ∀ j, (t.sideAt n).handle j = if j = (s.rx n rs1).toNat then (if d / 2 ^ 20 % 2 ^ 12 = 0 then {} else
        { base := d / 2 ^ 6 % 2 ^ 14, slot := d / 2 ^ 20 % 2 ^ 12, depth := d / 2 ^ 32 % 2 ^ 7 + 1, cp := 0, pp := 0 })
        else (s.sideAt n).handle j) ∧
  (∀ rs2 rs1 h m hd, SideDoes (.xCbwait rs2 rs1) (fun s n => s.sideRing n rs2 rs1 h m hd) fun s t n =>
    ((∀ j, j < m → (s.resvAt (s.ctxAt (n / 2)).resv).tag (hd.at (hd.cp + j) / 8) = true) →
      SideIs s t n { s.sideAt n with pc := (s.sideAt n).pc + 4 }) ∧
    ((∃ j, j < m ∧ (s.resvAt (s.ctxAt (n / 2)).resv).tag (hd.at (hd.cp + j) / 8) = false) → t = s)) ∧
  (∀ rs2 rs1 h m hd, SideDoes (.xCbresv rs2 rs1) (fun s n => s.sideRing n rs2 rs1 h m hd) fun s t n =>
    ((∀ j, j < m → (s.resvAt (s.ctxAt (n / 2)).resv).tag (hd.at (hd.pp + j) / 8) = false) →
      SideIs s t n { s.sideAt n with pc := (s.sideAt n).pc + 4 }) ∧
    ((∃ j, j < m ∧ (s.resvAt (s.ctxAt (n / 2)).resv).tag (hd.at (hd.pp + j) / 8) = true) → t = s)) ∧
  (∀ rs2 rs1 h m hd, SideDoes (.xCbpop rs2 rs1) (fun s n => s.sideRing n rs2 rs1 h m hd) fun s t n =>
    SideShares s t n { s.sideAt n with hs := mput (s.sideAt n).hs h { hd with cp := (hd.cp + m) % hd.depth }, pc := (s.sideAt n).pc + 4 }
      0 0 0 (onSlots hd hd.cp m) false) ∧
  ∀ rs2 rs1 h m hd, SideDoes (.xCbpush rs2 rs1) (fun s n => s.sideRing n rs2 rs1 h m hd) fun s t n =>
    SideShares s t n { s.sideAt n with hs := mput (s.sideAt n).hs h { hd with pp := (hd.pp + m) % hd.depth }, pc := (s.sideAt n).pc + 4 }
      0 0 0 (onSlots hd hd.pp m) true

/-- 08 R283, R286: a sidecar executes the ordinary RISC-V instructions of its image on its registers and its data store, and
an exception stops it with its numbers in trap 0x31.  What each instruction and number is, the specification leaves to
RISC-V: the model's choice, log entry 9. -/
def Obligations.SidecarRiscv : Prop :=
  (∀ rd imm, RvSets (.lui rd imm) rd fun _ _ _ => BitVec.ofInt 64 (imm.toInt * 2 ^ 12)) ∧
  (∀ rd imm, RvSets (.auipc rd imm) rd fun s n _ => (s.sideAt n).pc + BitVec.ofInt 64 (imm.toInt * 2 ^ 12)) ∧
  (∀ op w rd rs1 imm, RvSets (.aluImm op w rd rs1 imm) rd fun s n _ => rvResult op w (s.rx n rs1) (imm.signExtend 64)) ∧
  (∀ op w rd rs1 rs2, RvSets (.alu op w rd rs1 rs2) rd fun s n _ => rvResult op w (s.rx n rs1) (s.rx n rs2)) ∧
  (∀ rd off short, SideDoes (.sidecarRiscvInstruction (.jal rd off) short) (fun _ _ => True) fun s t n =>
    SideIs s t n ((s.sideAt n).sets rd ((s.sideAt n).pc + (if short then 2 else 4)) ((s.sideAt n).pc + BitVec.ofInt 64 (off.toInt * 2)))) ∧
  (∀ rd rs1 imm short, SideDoes (.sidecarRiscvInstruction (.jalr rd rs1 imm) short) (fun _ _ => True) fun s t n =>
    let a := s.rx n rs1 + imm.signExtend 64
    SideIs s t n ((s.sideAt n).sets rd ((s.sideAt n).pc + (if short then 2 else 4)) (BitVec.ofNat 64 (a.toNat / 2 * 2)))) ∧
  (∀ op a b off short, SideDoes (.sidecarRiscvInstruction (.branch op a b off) short) (fun _ _ => True) fun s t n =>
    let x := s.rx n a
    let y := s.rx n b
    let taken : Prop := match op with
      | .beq => x = y | .bne => x ≠ y | .blt => x.toInt < y.toInt | .bge => y.toInt ≤ x.toInt
      | .bltu => x.toNat < y.toNat | .bgeu => y.toNat ≤ x.toNat
    (taken → SideIs s t n { s.sideAt n with pc := (s.sideAt n).pc + BitVec.ofInt 64 (off.toInt * 2) }) ∧
    (¬ taken → SideIs s t n { s.sideAt n with pc := (s.sideAt n).pc + (if short then 2 else 4) })) ∧
  (∀ size uns rd rs1 imm short, SideDoes (.sidecarRiscvInstruction (.load size uns rd rs1 imm) short) (fun s n =>
      (s.rx n rs1 + imm.signExtend 64).toNat + 2 ^ size.toNat ≤ 0x4000 ∧
      storeBad (s.sideAt n).dbad (s.rx n rs1 + imm.signExtend 64).toNat (2 ^ size.toNat) = false) fun s t n =>
    let z := 2 ^ size.toNat
    let v : BitVec (8 * z) := BitVec.ofNat (8 * z) (leNat ((List.range z).map fun i =>
      mget 0 (s.sideAt n).dmem ((s.rx n rs1 + imm.signExtend 64).toNat + i)))
    SideIs s t n ((s.sideAt n).sets rd (if uns then v.setWidth 64 else v.signExtend 64) ((s.sideAt n).pc + (if short then 2 else 4)))) ∧
  (∀ size rs1 rs2 imm short, SideDoes (.sidecarRiscvInstruction (.store size rs1 rs2 imm) short) (fun s n =>
      (s.rx n rs1 + imm.signExtend 64).toNat + 2 ^ size.toNat ≤ 0x4000) fun s t n =>
    let a := (s.rx n rs1 + imm.signExtend 64).toNat
    ∃ m, SideIs s t n { s.sideAt n with
        dmem := m, dbad := if size = 3 ∧ a % 8 = 0 then mdel (s.sideAt n).dbad (a / 8) else (s.sideAt n).dbad
        pc := (s.sideAt n).pc + (if short then 2 else 4) } ∧
      (∀ i, i < 2 ^ size.toNat → mget 0 m (a + i) = BitVec.ofNat 8 ((s.rx n rs2).toNat / 2 ^ (8 * i) % 256)) ∧
      ∀ b, b < a ∨ a + 2 ^ size.toNat ≤ b → mget 0 m b = mget 0 (s.sideAt n).dmem b) ∧
  (∀ i short, i = RvInstr.fence ∨ i = RvInstr.fenceI → SideDoes (.sidecarRiscvInstruction i short) (fun _ _ => True) fun s t n =>
    SideIs s t n { s.sideAt n with pc := (s.sideAt n).pc + (if short then 2 else 4) }) ∧
  (∀ short, SideDoes (.sidecarRiscvInstruction .wfi short) (fun _ _ => True) fun s t n =>
    SideIs s t n { s.sideAt n with running := false, pc := (s.sideAt n).pc + (if short then 2 else 4) }) ∧
  (∀ short, SideDoes (.sidecarRiscvInstruction .mret short) (fun _ _ => True) fun s t n =>
    SideIs s t n { s.sideAt n with pc := BitVec.ofNat 64 ((mget 0 (s.sideAt n).csr 0x341).toNat / 2 * 2) }) ∧
  (∀ op useImm rd rs1 num short, csrRw num.toNat = true →
    SideDoes (.sidecarRiscvInstruction (.csr op useImm rd rs1 num) short) (fun _ _ => True) fun s t n =>
    let old := mget 0 (s.sideAt n).csr num.toNat
    let v := if useImm then rs1.setWidth 64 else s.rx n rs1
    ∃ m, SideIs s t n { (s.sideAt n).sets rd old ((s.sideAt n).pc + (if short then 2 else 4)) with csr := m } ∧
      (∀ j, j ≠ num.toNat → mget 0 m j = mget 0 (s.sideAt n).csr j) ∧
      mget 0 m num.toNat = if op = .rw then v else if rs1 = 0 then old else if op = .rs then old ||| v else old &&& ~~~v) ∧
  RvRaises .ecall (fun _ _ => True) (fun _ _ => 11) (fun _ _ => 0) ∧
  RvRaises .ebreak (fun _ _ => True) (fun _ _ => 3) (fun s n => (s.sideAt n).pc) ∧
  (∀ w, RvRaises (.illegal w) (fun _ _ => True) (fun _ _ => 2) (fun _ _ => w.setWidth 64)) ∧
  (∀ size uns rd rs1 imm, RvRaises (.load size uns rd rs1 imm)
    (fun s n => 0x4000 < (s.rx n rs1 + imm.signExtend 64).toNat + 2 ^ size.toNat) (fun _ _ => 5) fun s n => s.rx n rs1 + imm.signExtend 64) ∧
  (∀ size rs1 rs2 imm, RvRaises (.store size rs1 rs2 imm)
    (fun s n => 0x4000 < (s.rx n rs1 + imm.signExtend 64).toNat + 2 ^ size.toNat) (fun _ _ => 7) fun s n => s.rx n rs1 + imm.signExtend 64) ∧
  (SideDoes (.sidecarFault 11 0) (fun s n => s.sideInstr n = some (.sidecarRiscvInstruction .ecall false) ∧
    s.guessOf (s.ctxAt (n / 2)) = none) fun s t n => SideStops s t n 11 0) ∧
  ∀ pc, SideDoes (.sidecarFault 1 pc) (fun s n => (s.sideAt n).pc = pc ∧ 0x10000 < pc.toNat + 2 ∧
    s.guessOf (s.ctxAt (n / 2)) = none) fun s t n => SideStops s t n 1 pc

/-! ### Issue rows and traps -/

/-- 04 R106, R108, R109, R111: an idle run is a packet by itself, after which the context issues nothing for its cycles, unless
an asynchronous trap ends them; a sticky operation steps its latch and re-issues from it, and one whose guard is false steps
it alone.
02 R51; 05 R169; 15 R382, R385, R386, R390: a context blocked for its limit traps with the cause of its wait (that SREPL keeps a
replay the packet still owes is the model's reading, log entry 17), a trap that waited for M-slot work is entered, a shadow latch delivers its result, and a context parks with its registers as they were, a
hand change that waited taking effect. -/
def Obligations.IdleRunsStickySlotsAndContexts : Prop :=
  (
  (∀ n s, s.canIssue s.ck = true → s.me.mx.chg = none → s.issue.drop = none → s.endsPlain = true →
    ∃ t, exec (.idleRun n) s = .next t ∧ Quiet s t ∧ (t.ctxAt s.ck).r.pc = s.issue.next ∧ (t.ctxAt s.ck).sq.idle = n.toNat + 1) ∧
  (∀ s, s.me.sq.idle ≠ 0 →
    ∃ t, exec .idleRunEnd s = .next t ∧ Quiet s t ∧ (t.ctxAt s.ck).r = s.me.r ∧ (t.ctxAt s.ck).sq = { s.me.sq with idle := 0 } ∧
      (t.coreAt (s.ck / 4)).cycles = (s.coreAt (s.ck / 4)).cycles + BitVec.ofNat 64 s.me.sq.idle) ∧
  (∀ core l s s0 p, s.agenda = .issue core :: l → s0 = { s with agenda := l, core := core } → (∀ i, i < 4 → s0.exitDone (4 * core + i) = false) →
    s0.canIssue s0.ck = true → s0.me.sq.idle ≠ 0 → s0.me.asyncDue p → s0.guessOf s0.me = none → s0.me.mx.ops = [] →
    ∃ t, Steps s t ∧ EntersAt s0 t s0.ck { trap := p, sepc := s0.me.r.pc, srepl := 0, replay := [] } ∧ (t.ctxAt s0.ck).sq.idle = 0) ∧
  (∀ s p l f, s.stickyReady p l true → l.instr = .add f →
    ∃ t, exec .stickyReissue s = .next t ∧ WritesS s t f.sd.toNat (BitVec.ofNat 64 ((s.sc f.sa).toNat + (s.sc f.sb).toNat))) ∧
  (∀ s p l f, s.stickyReady p l true → l.instr = .vadd f → f.dc = 0 → f.ac = 0 → f.bc = 0 →
    (slotIllegal s.issue.bt true (s.issue.next - s.issue.pc).toNat (.vadd f)).isNone →
    ∃ t, exec .stickyReissue s = .next t ∧ WritesV s t f [] fun j => vNat f (vInt f (s.va f j) + vInt f (s.vb f j))) ∧
  (∀ s p l f n, s.stickyReady p l true → l.instr = .azero f → s.me.mx.ops = [] →
    n = l.acc + (if (s.me.tile l.acc).pair = 1 then 2 else 1) → n < s.me.mx.nTiles → (s.me.tile n).st ≠ .u → (s.me.tile n).pair ≠ 2 →
    ∃ t o l1, exec .stickyReissue s = .next t ∧ (t.ctxAt s.ck).mx.ops = [o] ∧ o.id = s.seq ∧ o.lat = l1 ∧ o.tiles = s.me.slotsOf n ∧
      Marks s t (s.me.slotsOf n) .z ∧ Stepped s.me l l1 ∧ l1.acc = n ∧ (t.ctxAt s.ck).latch p = some l1 ∧
      (t.ctxAt s.ck).r.noPc = s.me.r.noPc ∧ GoesOn s t) ∧
  (∀ s p l l1 f z, s.stickyReady p l true → l.instr = .cpy f → f.we = 0 → Stepped s.me l l1 → z = (s.resvAt s.me.resv).size →
    l1.addrA.toNat < z → l1.addrB.toNat < z → (s.sc f.sdsc).toNat + 64 ≤ z → (s.sc f.sdsc).toNat % 64 = 0 →
    (s.coreAt s.core).copies.length < 32 → (s.copiesOf s.ck).length < 16 →
    ∃ t, exec .stickyReissue s = .next t ∧ Issues s t { s.copyOp (.cpy f) f with dst := l1.addrA, src := l1.addrB } ∧
      ∃ l2, (t.ctxAt s.ck).latch p = some l2 ∧ Stepped s.me l l2) ∧
  (∀ s p l, s.stickyReady p l false →
    ∃ t l1, exec .stickyReissue s = .next t ∧ Stepped s.me l l1 ∧ (t.ctxAt s.ck).latch p = some l1 ∧ GoesOn s t ∧
      (∀ n, n ≠ p → (t.ctxAt s.ck).latch n = s.me.latch n) ∧
      (∀ f, l.instr = .mmas f → (t.ctxAt s.ck).r.noPc = { s.me.r.noPc with mpc := s.me.r.mpc + 8 } ∧ Aside s t) ∧
      ((∀ f, l.instr ≠ .mmas f) → Still s t)) ∧
  ∀ s p l f va, s.stickyReady p l true → l.instr = .ld f → f.dcl = 0 → f.se = 0 → va = l.addrA + s.me.r.rq f.qs.toNat →
    f.sz.toNat ≤ 3 → va.toNat % Machine.sizeOf f.sz = 0 → va.toNat + Machine.sizeOf f.sz ≤ (s.resvAt s.me.resv).size →
    ∃ t a, exec .stickyReissue s = .next t ∧ Launches s t f.se f.sbs.toNat [a] ∧
      AccessAt f a (Machine.sizeOf f.sz) (va, .share va.toNat, none) ∧ a.kind = .ld ∧
      a.dest = s.dataTo f (Machine.sizeOf f.sz) 0 ∧ a.signed = f.data.getLsbD 6 ∧
      (t.ctxAt s.ck).latch p = some { l with addrA := va }) ∧
  (
  (∀ k s cause detail at_, (s.ctxAt k).sq.wait ≠ none → s.blockedNow k = some (cause, detail, at_) → (s.ctxAt k).st = .live →
    (s.coreAt (k / 4)).halted = false → 2 ^ (s.ctxAt k).sys.swlog.toNat ≤ (s.ctxAt k).sq.blocked → (s.ctxAt k).r.sup = false →
    s.guessOf (s.ctxAt k) = none → (s.ctxAt k).mx.ops = [] → cause < 256 → cause ≠ 0x20 → cause ≠ 0x2A →
    ∃ t, exec (.waitLimitTrap k) s = .next t ∧ EntersAt s t k
      { trap := { cls := .issue, code := cause, detail := detail, pos := at_ % 16, bund := at_ / 16 }, sepc := (s.ctxAt k).r.pc
        srepl := if (s.ctxAt k).sq.replay.isEmpty then 0 else
          sreplOf (s.ctxAt k).sq.rep ((List.range 9).filter (fun p => (s.ctxAt k).sq.perf.testBit p))
        replay := (s.ctxAt k).sq.replay }) ∧
  (∀ k s p, (s.ctxAt k).sys.trapPend = some p → (s.ctxAt k).mx.ops = [] → (s.ctxAt k).st = .live → (s.ctxAt k).r.sup = false → p.trap.code < 256 →
    ∃ t, exec (.trapEntry k) s = .next t ∧ EntersAt s t k p) ∧
  (∀ k i s l, (s.ctxAt k).sys.shadow[i]? = some l → (s.ctxAt k).st = .live →
    (s.ctxAt k).r.sup = false ∨ (s.ctxAt k).sys.shRun = true → l.offset ≤ (s.ctxAt k).sys.ticks →
    ∃ t c, exec (.shadowLatchDeliver k i) s = .next t ∧ CtxIs s t k c ∧ c.r = (s.ctxAt k).r.given l.dest l.value.toNat ∧
      c.sys = { (s.ctxAt k).sys with shadow := (s.ctxAt k).sys.shadow.filter (fun x => x ≠ l) } ∧ c.mem = (s.ctxAt k).mem) ∧
  (∀ k s, s.mayPark k → (s.ctxAt k).r.sup = true ∨ (s.ctxAt k).sys.asyncs = [] ∨ (s.ctxAt k).sq.replay ≠ [] ∨ (s.ctxAt k).sq.held ≠ none →
    ∃ t, exec (.contextPark k) s = .next t ∧ (t.ctxAt k).st = .parked ∧ (t.ctxAt k).sq.parkReq = false ∧ (t.ctxAt k).sq.wait = none ∧
      (∀ a ∈ (t.ctxAt k).mem.pend, a.deferred = true) ∧ (t.ctxAt k).mx.chg = none ∧ (∀ j, j ≠ k → t.ctxAt j = s.ctxAt j) ∧
      ((s.ctxAt k).mx.chg = none → (s.ctxAt k).r.sup = false → (t.ctxAt k).r = (s.ctxAt k).r ∧ (t.ctxAt k).mx.hands = (s.ctxAt k).mx.hands) ∧
      ∀ h, (s.ctxAt k).mx.chg = some h → h.add = [] → (t.ctxAt k).mx.hands = (s.ctxAt k).mx.hands.take h.n ∧
        (t.ctxAt k).mx.front = {} ∧ (t.ctxAt k).mx.back = {}) ∧
  ∀ k s p, s.mayPark k → (s.ctxAt k).asyncDue p → s.guessOf (s.ctxAt k) = none →
    ∃ t, exec (.contextPark k) s = .next t ∧ EntersAt s t k { trap := p, sepc := (s.ctxAt k).r.pc, srepl := 0, replay := [] } ∧
      (t.ctxAt k).st = .live)

/-! ### The dispatcher -/

/-- 02 R38, R47; 16 R398, R401, R402: a LAUNCH that passes its checks becomes a task that waits for the dependence table,
one that fails them a record of KIND 2 and a stopped queue; a GRAPH starts a walk; any other command stops the queue.  That
CHEAD moves past a LAUNCH that fails its checks is the model's reading, log entry 15, and which reason one that fails several
reports its choice, log entry 27. -/
def Obligations.CommandsAreTaken : Prop :=
  (∀ q s w nrd nwr tab c, s.command q w → isLaunch w nrd nwr → nrd ≤ 4 → nwr ≤ 4 →
    s.readList q (w.getD 7 0).toNat (2 * (nrd + nwr)) = .ok tab → (s.queueAt q).dealer.guess = none →
    s.checkLaunch q (Launch.ofWords w) nrd nwr (.ok tab) none = .ok c →
    ∃ t, exec (.launch q) s = .next t ∧ Takes s t q ∧ Accepts s t q c 0 ∧ c.l.desc = w.getD 1 0 ∧ c.l.args = w.getD 2 0 ∧
      c.l.lo = w.getD 3 0 ∧ c.l.hi = w.getD 4 0 ∧ c.l.grain.toNat = word w 5 0 32 ∧ c.l.glev.toNat = word w 0 8 3) ∧
  (∀ q s w nrd nwr tab r a, s.command q w → isLaunch w nrd nwr → nrd ≤ 4 → nwr ≤ 4 →
    s.readList q (w.getD 7 0).toNat (2 * (nrd + nwr)) = .ok tab → (s.queueAt q).dealer.guess = none →
    s.checkLaunch q (Launch.ofWords w) nrd nwr (.ok tab) none = .error (r, a) →
    ∃ t, exec (.launch q) s = .next t ∧ Takes s t q ∧ Records s t q 2 r 0 a ∧ t.queueSays q 2 0 ∧
      t.disp.tasks = s.disp.tasks ∧ DispOnly s t) ∧
  (∀ q s w nrd nwr, s.command q w → isLaunch w nrd nwr → (s.queueAt q).dealer.guess = none →
    (w.getD 1 0).toNat % 64 ≠ 0 ∨ (w.getD 2 0).toNat % 8 ≠ 0 →
    ∃ t, exec (.launch q) s = .next t ∧ Takes s t q ∧ Records s t q 2 1 0 0 ∧ t.queueSays q 2 0 ∧ t.disp.tasks = s.disp.tasks) ∧
  (∀ q s w, s.command q w → w.getD 0 0 = 2 → (∀ i, 3 ≤ i → i ≤ 7 → w.getD i 0 = 0) → word w 2 32 32 ≠ 2 ^ 32 - 1 →
    ∃ t, exec (.graph q) s = .next t ∧ Takes s t q ∧ DispOnly s t ∧ t.disp.nextWalk = s.disp.nextWalk + 1 ∧
      (t.queueAt q).walk = some { id := s.disp.nextWalk, base := w.getD 1 0, count := word w 2 0 32, node := word w 2 32 32 }) ∧
  (∀ q s w, s.command q w → w.getD 0 0 = 2 → (∀ i, 3 ≤ i → i ≤ 7 → w.getD i 0 = 0) → word w 2 32 32 = 2 ^ 32 - 1 →
    ∃ t, exec (.graph q) s = .next t ∧ Takes s t q ∧ t.disp = s.disp) ∧
  (∀ q s w, s.command q w → word w 0 0 8 ≠ 1 → word w 0 0 8 ≠ 2 →
    ∃ t, exec (.unassignedCmd q) s = .next t ∧ t.queueSays q 2 2 ∧ t.chead q = s.chead q ∧ t.disp = s.disp) ∧
  ∀ q s, q < 256 → s.qstate q = 1 → (s.queueAt q).walk = none → (s.queueAt q).wait = none → 2 ^ s.qclog q < s.cmds q →
    ∃ t, exec (.unassignedCmd q) s = .next t ∧ t.queueSays q 2 3 ∧ t.chead q = s.chead q ∧ t.disp = s.disp

/-- 02 R57 to R61; 10 R322, R331: what each node of a graph does with the walk: it launches a task, branches on a word,
counts an iteration, evaluates Calender entries or widens one and walks again; a node that may not be acted on stops it.  That a
CALSTEP or RERUN node naming an entry outside its queue's partition stops it with a record of KIND 1 is the model's reading
of 10 R315, log entry 30. -/
def Obligations.GraphsAreWalked : Prop :=
  (∀ q s w n r tab c, s.nodeReady q w n 0 → s.readList q n.a.toNat 8 = .ok r →
    s.readList q n.b.toNat (2 * (n.nrd + n.nwr)) = .ok tab → (s.queueAt q).dealer.guess = none →
    s.checkLaunch q (Launch.ofWords r) n.nrd n.nwr (.ok tab) none = .ok c →
    ∃ t, exec (.nodeTask q) s = .next t ∧ Accepts s t q c w.id ∧
      (t.queueAt q).walk = some { w with task := some s.disp.nextTask, next := n.next }) ∧
  (∀ q s w n a, s.nodeReady q w n 0 → s.readList q n.a.toNat 8 = .error a →
    ∃ t, exec (.nodeTask q) s = .next t ∧ GraphStops s t q w 21 a) ∧
  (∀ q s w n v, s.nodeReady q w n 1 → s.wordFree w n.a = true → s.readList q n.a.toNat 1 = .ok [v] →
    ∃ t, exec (.nodeCond q) s = .next t ∧ DispOnly s t ∧
      WalksTo t q w (if v ≠ 0 then n.b.toNat % 2 ^ 32 else n.b.toNat / 2 ^ 32)) ∧
  (∀ q s w n, s.nodeReady q w n 2 → s.wordFree w n.a = true → s.readList q n.a.toNat 1 = .ok [0] →
    ∃ t, exec (.nodeWhile q) s = .next t ∧ DispOnly s t ∧ WalksTo t q { w with loops := mdel w.loops w.node } n.next) ∧
  (∀ q s w n v k, s.nodeReady q w n 2 → s.wordFree w n.a = true → s.readList q n.a.toNat 1 = .ok [v] → v ≠ 0 →
    k = mget 0 w.loops w.node + 1 → k ≤ n.b.toNat / 2 ^ 32 → w.loops.length < 64 →
    ∃ t, exec (.nodeWhile q) s = .next t ∧ DispOnly s t ∧ WalksTo t q { w with loops := mput w.loops w.node k } (n.b.toNat % 2 ^ 32)) ∧
  (∀ q s w n v, s.nodeReady q w n 2 → s.wordFree w n.a = true → s.readList q n.a.toNat 1 = .ok [v] → v ≠ 0 →
    n.b.toNat / 2 ^ 32 ≤ mget 0 w.loops w.node →
    ∃ t, exec (.nodeWhile q) s = .next t ∧ GraphStops s t q w 16 0) ∧
  (∀ q s w n first num, s.nodeReady q w n 3 → s.walkTasks w = [] → first = n.a.toNat % 4096 → num = n.a.toNat / 65536 % 4096 + 1 →
    (∀ e, first ≤ e → e < first + num → s.ownsEntry (s.qpart q) e = true) →
    ∃ t, exec (.nodeCalstep q) s = .next t ∧ (t.queueAt q).walk = some { w with calNext := some n.next } ∧
      t.hub.stepCount = s.hub.stepCount + 1 ∧ t.mem = s.mem ∧ t.ctxs = s.ctxs ∧
      (∀ e, first ≤ e → e < first + num → (mget 0 s.hub.cal (32 * e)).getLsbD 28 = true → t.entry e = (s.entry e).evaluate) ∧
      ∀ e, e < first ∨ first + num ≤ e → ∀ i, i < 32 → mget 0 t.hub.cal (32 * e + i) = mget 0 s.hub.cal (32 * e + i)) ∧
  (∀ q s w n, s.nodeReady q w n 4 → s.walkTasks w = [] → (s.entry (n.a.toNat % 4096)).rerun = false →
    s.ownsEntry (s.qpart q) (n.a.toNat % 4096) = true →
    ∃ t, exec (.nodeRerun q) s = .next t ∧ DispOnly s t ∧ WalksTo t q w n.next) ∧
  (∀ q s w n, s.nodeReady q w n 4 → s.walkTasks w = [] → (s.entry (n.a.toNat % 4096)).rerun = true →
    n.b.toNat % 2 ^ 32 ≠ 2 ^ 32 - 1 → s.ownsEntry (s.qpart q) (n.a.toNat % 4096) = true →
    ∃ t, exec (.nodeRerun q) s = .next t ∧ t.entry (n.a.toNat % 4096) = (s.entry (n.a.toNat % 4096)).takeRerun ∧
      (t.queueAt q).walk = some { w with node := n.b.toNat % 2 ^ 32, rerun := some (n.next, n.b.toNat / 2 ^ 32), calWait := true } ∧
      t.mem = s.mem ∧ t.ctxs = s.ctxs) ∧
  (∀ q s w n e i, s.walkTasks w = [] → s.ownsEntry (s.qpart q) e = false →
    (i = .nodeRerun q ∧ s.nodeReady q w n 4 ∧ e = n.a.toNat % 4096) ∨
    (i = .nodeCalstep q ∧ s.nodeReady q w n 3 ∧ n.a.toNat % 4096 ≤ e ∧ e ≤ n.a.toNat % 4096 + n.a.toNat / 65536 % 4096 ∧
      ∀ j, n.a.toNat % 4096 ≤ j → j < e → s.ownsEntry (s.qpart q) j = true) →
    ∃ t, exec i s = .next t ∧ (t.queueAt q).walk = none ∧ Records s t q 1 0x2E 0 (BitVec.ofNat 64 e) ∧ t.queueSays q 2 0 ∧ DispOnly s t) ∧
  (∀ q s w n r i, s.atNode q = some (w, .ok n) → w.node < w.count → n.reason w.count = some r → n.kind ≤ 4 →
    i = [Instr.nodeTask q, .nodeCond q, .nodeWhile q, .nodeCalstep q, .nodeRerun q].getD n.kind (.nodeTask q) →
    ∃ t, exec i s = .next t ∧ GraphStops s t q w r 0) ∧
  ∀ q s w a, s.atNode q = some (w, .error a) → w.node < w.count → ∃ t, exec (.nodeTask q) s = .next t ∧ GraphStops s t q w 21 a

/-- 02 R39, R42 to R47, R55, R59, R62 to R66; 16 R399, R400, R403: a task enters the dependence table, ages, is held for,
starts with its gang, is placed on a core or rejected there, completes, ends, and its record is written.  That the lowest free
slots are taken, that every reason of a first placement is tested there, and that a rejected task counts as ended, is the
model's reading, log entry 15; the cycles it counts from are those of log entry 27; the record of a tracked entry outside
the queue's partition is that of log entry 30. -/
def Obligations.TasksAreDispatched : Prop :=
  (∀ die q tk s, die < 4 → q < 256 → s.qhome q = die → (s.queueAt q).wait = some tk → (s.queueAt q).walk = none →
    (∀ p, p < 256 → s.qhome p = die → p ≠ q → (s.queueAt p).wait = none) →
    s.entriesUsed die + (s.taskAt tk).entries ≤ 1024 →
    ∃ t, exec (.taskAdmit die) s = .next t ∧ t.taskAt tk = { s.taskAt tk with st := .live } ∧
      (∀ j, j ≠ tk → t.taskAt j = s.taskAt j) ∧ (t.queueAt q).wait = none ∧ { t with disp := {} } = { s with disp := {} }) ∧
  (∀ die q tk s w, die < 4 → q < 256 → s.qhome q = die → (s.queueAt q).wait = some tk → (s.queueAt q).walk = some w →
    w.task = some tk → w.rerun = none → w.next < w.count → w.count < 2 ^ 32 →
    (∀ p, p < 256 → s.qhome p = die → p ≠ q → (s.queueAt p).wait = none) →
    s.entriesUsed die + (s.taskAt tk).entries ≤ 1024 →
    ∃ t, exec (.taskAdmit die) s = .next t ∧ t.taskAt tk = { s.taskAt tk with st := .live } ∧ (t.queueAt q).wait = none ∧
      (t.queueAt q).walk = some { w with node := w.next, task := none, calNext := none }) ∧
  (∀ task s x, x = s.taskAt task → x.guess = false → s.ready x = true ∨ s.resuming x = true → s.effPrio x < 3 → x.up < x.age / 2 ^ 20 →
    ∃ t, exec (.priorityAge task) s = .next t ∧ TaskIs s t task { x with up := x.up + 1 } ∧
      t.effPrio { x with up := x.up + 1 } = s.effPrio x + 1) ∧
  (∀ task s x, x = s.taskAt task → s.wantsGroup x = true ∨ s.resuming x = true → s.effPrio x = 3 →
    (4 - min x.l.prio.toNat (s.qpmax x.q)) * 2 ^ 20 ≤ x.age → x.hold = 0 →
    ∃ t, exec (.starvationHold task) s = .next t ∧ TaskIs s t task { s.taskAt task with hold := 1 }) ∧
  (∀ task s, let x := s.taskAt task
    x.l.gang ≠ 0 → x.placed = true → x.started = false → x.l.gang.toNat ≤ s.hub.time.toNat →
    ∃ t, exec (.gangStart task) s = .next t ∧ TaskIs s t task { x with started := true }) ∧
  (∀ task s c k0 slots x, x = s.taskAt task → x.id = task → x.guess = false → x.placed = false → x.l.glev = 1 ∨ x.l.glev = 2 →
    s.wantsGroup x = true → (∀ e ∈ x.tracked, s.ownsEntry (s.qpart x.q) e = true) → s.placeReason x = none → s.placeOk x [c] = true →
    (∀ u ∈ s.allTasks, s.stepDue u = false ∧ (s.before u x = true → s.canTake u = false)) → (∀ e ∈ s.disp.resvs, e.2.core ≠ c ∨ e.2.task ≠ task) →
    slots = (s.freeSlots c).take (x.df 2 32 3) → slots.head? = some k0 → 1 ≤ x.df 2 35 3 → x.l.lo.toNat ≤ x.l.hi.toNat →
    ∃ t, exec (.groupPlace task [c]) s = .next t ∧ t.mem = s.mem ∧ (∀ k, k ∉ slots → t.ctxAt k = s.ctxAt k) ∧
      (t.taskAt task).placed = true ∧ (t.taskAt task).cstep = s.hub.stepCount ∧
      (∀ k ∈ slots, (t.ctxAt k).task = task ∧ (t.ctxAt k).resv = resvKey c slots ∧ (t.ctxAt k).part = s.qpart x.q ∧
        (t.ctxAt k).asid = s.qasid x.q ∧ (t.ctxAt k).mx.nTiles = x.df 2 16 6 ∧ (t.ctxAt k).mx.nBanks = x.df 2 0 4) ∧
      (∀ k ∈ slots.drop (x.df 2 35 3), (t.ctxAt k).st = .idle) ∧
      (∀ k ∈ slots.take (x.df 2 35 3), (t.ctxAt k).st = .live ∧ (t.ctxAt k).r.pc = x.desc.getD 0 0 ∧ (t.ctxAt k).r.sup = false ∧
        (t.ctxAt k).r.rd 2 = BitVec.ofNat 64 task) ∧
      (t.ctxAt k0).r.rd 0 = x.l.lo ∧
      ((t.ctxAt k0).r.rd 1).toNat = min x.l.hi.toNat (x.l.lo.toNat +
        x.l.grain.toNat * cdiv (cdiv (x.l.hi.toNat - x.l.lo.toNat) x.l.grain.toNat) 2) ∧
      ∃ v, t.resvAt (resvKey c slots) = v ∧ v.core = c ∧ v.task = task ∧ v.slots = slots ∧ v.spad = x.df 2 24 7 ∧
        v.bytes = [] ∧ v.full = []) ∧
  (∀ task s cores r x, x = s.taskAt task → x.id = task → x.guess = false → x.placed = false → s.wantsGroup x = true →
    (∀ e ∈ x.tracked, s.ownsEntry (s.qpart x.q) e = true) → s.placeReason x = some r → s.qstate x.q = 1 →
    ∃ t, exec (.groupPlace task cores) s = .next t ∧ (t.taskAt task).ended = some [] ∧ Records s t x.q 2 r task 0 ∧
      t.queueSays x.q 2 0 ∧ DispOnly s t) ∧
  (∀ task s cores e x, x = s.taskAt task → x.id = task → x.guess = false → x.placed = false → s.wantsGroup x = true →
    x.tracked.find? (fun e => !s.ownsEntry (s.qpart x.q) e) = some e → s.qstate x.q = 1 →
    ∃ t, exec (.groupPlace task cores) s = .next t ∧ (t.taskAt task).ended = some [] ∧ Records s t x.q 1 0x2E task (BitVec.ofNat 64 e) ∧
      t.queueSays x.q 2 0 ∧ DispOnly s t) ∧
  (∀ task s x, x = s.taskAt task → x.id = task → x.guess = false → s.taskDone x = true →
    ∃ t, exec (.taskComplete task) s = .next t ∧ mfind t.disp.tasks task = none ∧ (∀ j, j ≠ task → t.taskAt j = s.taskAt j) ∧
      Releases s t task ∧ Records s t x.q 0 0 task 0 ∧ t.mem = s.mem ∧ t.mgmt = s.mgmt) ∧
  (∀ task s x ws, x = s.taskAt task → x.guess = false → x.stopped = false → x.ended = some ws → s.drained task = true →
    s.qstate x.q = 1 → ws ≠ [] →
    ∃ t, exec (.taskEnd task) s = .next t ∧ (t.taskAt task).stopped = true ∧ (t.taskAt task).pieces = [] ∧
      (∀ j, j ≠ task → t.taskAt j = s.taskAt j) ∧ Releases s t task ∧ t.queueSays x.q 2 0 ∧ t.mem = s.mem ∧
      (t.queueAt x.q).recs = (s.queueAt x.q).recs ++ [({ words := ws } : QRec)]) ∧
  (∀ task s x ws, x = s.taskAt task → x.guess = false → x.stopped = false → x.ended = some ws → s.drained task = true →
    s.qstate x.q = 3 ∨ ws = [] →
    ∃ t, exec (.taskEnd task) s = .next t ∧ mfind t.disp.tasks task = none ∧ Releases s t task ∧ t.mem = s.mem ∧
      (t.queueAt x.q).recs = (s.queueAt x.q).recs) ∧
  (∀ q s r rest va e p b tail, tail = (s.qreg q 0x28).toNat % 2 ^ 32 → q < 256 → (s.queueAt q).recs = r :: rest →
    (s.qreg q 0).getLsbD 0 = true → s.qstate q = 1 → s.mgmt.pfe = false →
    (tail + 2 ^ 32 - (s.qreg q 0x28).toNat / 2 ^ 32) % 2 ^ 32 ≠ 2 ^ s.qrlog q →
    va = (s.qreg q 0x10).toNat + 64 * (tail % 2 ^ s.qrlog q) → s.walk (s.qpart q) (s.qasid q) va = .ok e →
    s.pageCheck (s.qpart q) va true .w e = .ok p → s.bad p.pa = false → r.words.length = 8 →
    b = (r.words.take 7 ++ [s.hub.time]).flatMap (fun w => (List.range 8).map (fun i => BitVec.ofNat 8 (w.toNat / 2 ^ (8 * i) % 256))) →
    ∃ t, exec (.recordWrite q) s = .next t ∧ (t.queueAt q).recs = rest ∧ (t.qreg q 0x28).toNat % 2 ^ 32 = (tail + 1) % 2 ^ 32 ∧
      (∀ i, i < 64 → some (t.byteAt (p.pa + i) p.key) = b[i]?) ∧
      (∀ a, a < p.pa ∨ p.pa + 64 ≤ a → t.byteAt a p.key = s.byteAt a p.key) ∧ t.ctxs = s.ctxs ∧ t.hub = s.hub) ∧
  ∀ q s r rest va e tail, tail = (s.qreg q 0x28).toNat % 2 ^ 32 → q < 256 → (s.queueAt q).recs = r :: rest →
    (s.qreg q 0).getLsbD 0 = true → s.qstate q = 1 →
    (tail + 2 ^ 32 - (s.qreg q 0x28).toNat / 2 ^ 32) % 2 ^ 32 ≠ 2 ^ s.qrlog q →
    va = (s.qreg q 0x10).toNat + 64 * (tail % 2 ^ s.qrlog q) → s.walk (s.qpart q) (s.qasid q) va = .err e →
    ∃ t, exec (.recordWrite q) s = .next t ∧ t.queueSays q 2 5 ∧ (t.queueAt q).recs = r :: rest ∧ t.mem = s.mem

/-! ### The Dealer, pre-emption and translation faults -/

/-- 11 R339, R340, R344 to R347: a guess starts as a task on idle cores, an event ends it without a trace in memory, and a
claim commits its bytes and makes it the real task or, where a check fails, lets the matched launch go on afresh. -/
def Obligations.GuessesStartAndEnd : Prop :=
  (∀ q cores s l c x s1 id, s.mayGuess q = true → (s.queueAt q).dealer.predict = some l → id = s.disp.nextTask →
    s.checkLaunch q l l.reads.length l.writes.length (.ok ((l.reads ++ l.writes).flatMap (fun r => [r.1, r.2]))) (some l.argw) = .ok c →
    (c.desc.getD 3 0).getLsbD 54 = true → l.lo ≠ l.hi → x = { id := id, q := q, l := c.l, desc := c.desc, side := c.side, guess := true } →
    s1 = { s with disp := { s.disp with nextTask := id + 1, tasks := mput s.disp.tasks id x } } → s1.placeBad x = none →
    (∀ k ∈ cores, dieOf k = s.qhome q) → s1.placeOk x cores = true → s.wanted cores = false → (∀ e ∈ s.disp.resvs, e.2.task ≠ id) →
    ∃ t, exec (.guessStart q cores) s = .next t ∧ t.disp.nextTask = id + 1 ∧ (t.taskAt id).guess = true ∧ (t.taskAt id).l = c.l ∧
      (t.taskAt id).q = q ∧ (t.taskAt id).placed = true ∧ (t.queueAt q).dealer.guess = some id ∧
      (t.queueAt q).dealer.started = (s.queueAt q).dealer.started + 1 ∧ (t.queueAt q).dealer.kbud = (s.qreg q 0x40).toNat % 2 ^ 20 ∧
      t.mem = s.mem ∧ t.mgmt = s.mgmt ∧ ∀ k, t.ctxAt k = s.ctxAt k ∨ (s.ctxAt k).st = .free ∧ (t.ctxAt k).task = id) ∧
  (∀ q cause s g, (s.queueAt q).dealer.guess = some g → s.dropCause q = some cause → (s.queueAt q).dealer.matched = none →
    ∃ t, exec (.guessDrop q cause) s = .next t ∧ mfind t.disp.tasks g = none ∧ (∀ j, j ≠ g → t.taskAt j = s.taskAt j) ∧
      Releases s t g ∧ t.mem = s.mem ∧ ∃ d, d = (t.queueAt q).dealer ∧
        d.guess = none ∧ d.kitty = [] ∧ d.reads = [] ∧ d.vers = [] ∧ d.recs = [] ∧ d.last = cause ∧
        d.dropped = (s.queueAt q).dealer.dropped + 1 ∧ d.hist = (s.queueAt q).dealer.hist) ∧
  (∀ q s g l, (s.queueAt q).dealer.guess = some g → (s.queueAt q).dealer.matched = some l → s.ready (s.taskAt g) = true →
    s.guessBusy g = true → (s.queueAt q).dealer.claiming = false →
    ∃ t, exec (.guessClaim q) s = .next t ∧ (t.queueAt q).dealer = { (s.queueAt q).dealer with claiming := true } ∧
      t.ctxs = s.ctxs ∧ t.mem = s.mem ∧ t.disp.tasks = s.disp.tasks) ∧
  (∀ q s g l d, d = (s.queueAt q).dealer → d.guess = some g → d.matched = some l → s.ready (s.taskAt g) = true →
    s.guessBusy g = false → (∀ e ∈ s.ctxsOf g, (s.ctxAt e.1).mem.pend = []) → s.dropCause q = none →
    (∀ e ∈ d.gens, (s.entry e.1 : Entry).gen = e.2) → (∀ e ∈ d.reads, mget 0 s.mem.wts e.1 ≤ e.2) →
    d.vers = [] → d.floors = [] → d.complete = false → s.mgmt.pfe = false →
    msorted none d.kitty = true → (∀ e ∈ d.kitty, msorted none e.2 = true ∧ ∀ b ∈ e.2, b.1 < 64) →
    ∃ t, exec (.guessClaim q) s = .next t ∧ t.ctxs = s.ctxs ∧ (t.taskAt g).guess = false ∧ (∀ j, j ≠ g → t.taskAt j = s.taskAt j) ∧
      (∀ e ∈ d.kitty, ∀ b ∈ e.2, t.byteAt (64 * e.1 + b.1) (mget 0 d.kkeys e.1) = b.2) ∧
      (∀ a key, (∀ e ∈ d.kitty, a / 64 ≠ e.1) → t.byteAt a key = s.byteAt a key) ∧
      ∃ e, e = (t.queueAt q).dealer ∧ e.guess = none ∧ e.matched = none ∧ e.kitty = [] ∧ e.claimed = d.claimed + 1 ∧
        e.commitL = d.commitL + BitVec.ofNat 64 d.kitty.length ∧ e.revalL = d.revalL + BitVec.ofNat 64 d.reads.length) ∧
  ∀ q s g l d, d = (s.queueAt q).dealer → d.guess = some g → d.matched = some l → s.ready (s.taskAt g) = true →
    s.guessBusy g = false → (∀ e ∈ s.ctxsOf g, (s.ctxAt e.1).mem.pend = []) → s.dropCause q = none →
    (∀ e ∈ d.gens, (s.entry e.1 : Entry).gen = e.2) → (∃ e ∈ d.reads, e.2 < mget 0 s.mem.wts e.1) → g < s.disp.nextTask →
    ∃ t, exec (.guessClaim q) s = .next t ∧ t.mem = s.mem ∧ mfind t.disp.tasks g = none ∧ Releases s t g ∧
      (t.taskAt s.disp.nextTask).l = l ∧ (t.taskAt s.disp.nextTask).guess = false ∧ (t.taskAt s.disp.nextTask).placed = false ∧
      (t.taskAt s.disp.nextTask).order = (s.taskAt g).order ∧ (t.taskAt s.disp.nextTask).desc = d.fresh.1 ∧
      (t.taskAt s.disp.nextTask).side = d.fresh.2 ∧
      ∃ e, e = (t.queueAt q).dealer ∧ e.guess = none ∧ e.matched = none ∧ e.kitty = [] ∧ e.last = 36 ∧ e.reval = d.reval + 1

/-- 16 R406 to R409: a park asks every live context of a task to stop, an eviction saves and releases a parked task, a
resume lets it issue again or places and restores it; PRSTAT holds the result of each request; and a save's blocks hold the
reservation's header, its share, the map of its tags and the images of its parked slots. -/
def Obligations.PreemptionRequests : Prop :=
  (∀ (s : State) v base b, b = s.saveBlocks v base → v.slots.length ≤ 4 → v.spad < 2 ^ 8 →
    (∃ bs, (base, bs) ∈ b ∧ bs.length = 64 ∧ bs.take 8 = leBytes 8 (2 ^ 48 + v.group % 2 ^ 16 * 2 ^ 32 + v.spad * 2 ^ 16 + v.slots.length) ∧
      (bs.drop 16).take 8 = leBytes 8 (s.identOf v.core).toNat ∧
      ∀ i k, v.slots[i]? = some k → leNat ((bs.drop 8).take 8) / 4 ^ i % 4 =
        match (s.ctxAt k).st with | .idle => 1 | .parked => 2 | _ => 0) ∧
    (∀ i, i < 63 → (base + 64 * (i + 1), List.replicate 64 0) ∈ b) ∧
    (∀ i, i < 16384 → ∃ bs, (base + 0x1000 + 64 * i, bs) ∈ b ∧
      ∀ j, j < 64 → bs[j]? = some (if 64 * i < v.size then mget 0 v.bytes (64 * i + j) else 0)) ∧
    (∀ i, i < 256 → ∃ bs, (base + 0x101000 + 64 * i, bs) ∈ b ∧
      ∀ j n, j < 64 → n < 8 → (bs.getD j 0).getLsbD n = v.tag (8 * (64 * i + j) + n)) ∧
    ∀ i k, v.slots[i]? = some k → (s.ctxAt k).st = .parked →
      ∀ e ∈ (s.ctxAt k).imageOut (BitVec.ofNat 64 (base + 0x105000 + 0xD4000 * i)), (base + 0x105000 + 0xD4000 * i + 64 * e.1, e.2) ∈ b) ∧
  (∀ s i, i ∈ [Instr.prctlPark, .prctlEvict, .prctlResume] → s.mgmt.pre = none → s.preTask = none →
    ∃ t, exec i s = .next t ∧ t.win 0x58 = 1 ∧ t.ctxs = s.ctxs ∧ t.disp = s.disp ∧ t.mem = s.mem) ∧
  (∀ s x, s.mgmt.pre = none → s.preTask = some x → x = s.taskAt x.id → x.st = .live →
    (∀ e ∈ s.ctxsOf x.id, (s.ctxAt e.1).st ≠ .parked) → (∃ k, (s.ctxAt k).st = .live ∧ (s.ctxAt k).task = x.id) →
    ∃ t p, exec .prctlPark s = .next t ∧ (t.taskAt x.id).st = .parked ∧ t.mgmt.pre = some p ∧ p.op = 0 ∧ p.task = x.id ∧
      t.win 0x58 = 0x100 ∧ t.mem = s.mem ∧
      (∀ k, (s.ctxAt k).st = .live → (s.ctxAt k).task = x.id → (t.ctxAt k).sq.parkReq = true) ∧
      ∀ k, { t.ctxAt k with sq := { (t.ctxAt k).sq with parkReq := false } } = { s.ctxAt k with sq := { (s.ctxAt k).sq with parkReq := false } }) ∧
  (∀ s x, s.mgmt.pre = none → s.preTask = some x → x = s.taskAt x.id → x.st = .parked →
    (∀ e ∈ s.ctxsOf x.id, (s.ctxAt e.1).st ≠ .live) → x.df 2 38 2 = 0 → x.l.gang = 0 →
    ∃ t, exec .prctlEvict s = .next t ∧ t.mgmt.pre = some { op := 1, task := x.id, save := s.win 0x48 } ∧ t.win 0x58 = 0x100 ∧
      t.ctxs = s.ctxs ∧ t.disp = s.disp ∧ t.mem = s.mem) ∧
  (∀ s x, s.mgmt.pre = none → s.preTask = some x → x = s.taskAt x.id → x.st = .parked →
    (∀ e ∈ s.ctxsOf x.id, (s.ctxAt e.1).st ≠ .live) → x.df 2 38 2 ≠ 0 ∨ x.l.gang ≠ 0 →
    ∃ t, exec .prctlEvict s = .next t ∧ t.mgmt.pre = none ∧ t.win 0x58 = 3 ∧ t.ctxs = s.ctxs ∧ t.disp = s.disp) ∧
  (∀ s x, s.mgmt.pre = none → s.preTask = some x → x = s.taskAt x.id → x.st = .parked →
    ∃ t, exec .prctlResume s = .next t ∧ (t.taskAt x.id).st = .live ∧ t.mgmt.pre = none ∧ t.win 0x58 = 0 ∧ t.mem = s.mem ∧
      (∀ k, (s.ctxAt k).st = .parked → (s.ctxAt k).task = x.id → (t.ctxAt k).st = .live ∧ (t.ctxAt k).r = (s.ctxAt k).r) ∧
      ∀ k, (∀ e ∈ s.ctxsOf x.id, e.1 ≠ k) → t.ctxAt k = s.ctxAt k) ∧
  (∀ s x, s.mgmt.pre = none → s.preTask = some x → x.st = .evicted →
    ∃ t, exec .prctlResume s = .next t ∧ t.mgmt.pre = some { op := 2, task := x.id, save := s.win 0x48 } ∧ t.win 0x58 = 0x100 ∧
      t.ctxs = s.ctxs ∧ t.disp = s.disp) ∧
  (∀ s p x blocks s1, s.mgmt.pre = some p → p.op = 1 → x = s.taskAt p.task → x.id = p.task →
    (∀ e ∈ s.ctxsOf x.id, s.copiesOf e.1 = [] ∧ e.2.mem.recs = 0 ∧ e.2.mx.ops = [] ∧ ∀ a ∈ e.2.mem.pend, a.deferred = true) →
    blocks = (s.resvOrder x.id).zipIdx.flatMap (fun e => s.saveBlocks e.1.2 (p.save.toNat + saveStride * e.2)) →
    (∀ e ∈ s.resvOrder x.id, e.2.badIn 0 e.2.size = none) → State.dmaStore (s.qpart x.q) (s.qasid x.q) blocks s = some s1 →
    ∃ t, exec .evictSave s = .next t ∧ (t.taskAt x.id).st = .evicted ∧ (t.taskAt x.id).saveAt = p.save ∧
      (t.taskAt x.id).images.length = (s.resvOrder x.id).length ∧ t.mgmt.pre = none ∧ t.win 0x58 = 0 ∧ t.mem = s1.mem ∧
      ∀ e ∈ s.resvOrder x.id, mfind t.disp.resvs e.1 = none) ∧
  (∀ s p x blocks, s.mgmt.pre = some p → p.op = 1 → x = s.taskAt p.task →
    (∀ e ∈ s.ctxsOf x.id, s.copiesOf e.1 = [] ∧ e.2.mem.recs = 0 ∧ e.2.mx.ops = [] ∧ ∀ a ∈ e.2.mem.pend, a.deferred = true) →
    blocks = (s.resvOrder x.id).zipIdx.flatMap (fun e => s.saveBlocks e.1.2 (p.save.toNat + saveStride * e.2)) →
    State.dmaStore (s.qpart x.q) (s.qasid x.q) blocks s = none ∨ (∃ e ∈ s.resvOrder x.id, e.2.badIn 0 e.2.size ≠ none) →
    ∃ t, exec .evictSave s = .next t ∧ t.mgmt.pre = none ∧ t.win 0x58 = 4 ∧ t.ctxs = s.ctxs ∧ t.disp = s.disp ∧ t.mem = s.mem) ∧
  (∀ s p x cores s1, s.mgmt.pre = some p → p.op = 2 → x = s.taskAt p.task → x.id = p.task → cores.length = x.images.length →
    unitsKept x.l.glev.toNat (x.images.zip cores) = true → (∀ e ∈ x.images.zip cores, s.savedFits x e.1 e.2 = true) →
    (∀ u ∈ s.allTasks, s.stepDue u = false ∧ (s.before u x = true → s.canTake u = false)) →
    State.restoreAll x x.saveAt.toNat (x.images.zip cores).zipIdx s = .ok s1 →
    ∃ t, exec (.resumeRestore cores) s = .next t ∧ (t.taskAt x.id).st = .live ∧ (t.taskAt x.id).images = [] ∧ t.ctxs = s1.ctxs ∧
      t.disp.resvs = s1.disp.resvs ∧ t.mgmt.pre = none ∧ t.win 0x58 = 0) ∧
  ∀ s p x cores, s.mgmt.pre = some p → p.op = 2 → x = s.taskAt p.task → cores.length = x.images.length →
    unitsKept x.l.glev.toNat (x.images.zip cores) = true → (∀ e ∈ x.images.zip cores, s.savedFits x e.1 e.2 = true) →
    (∀ u ∈ s.allTasks, s.stepDue u = false ∧ (s.before u x = true → s.canTake u = false)) →
    State.restoreAll x x.saveAt.toNat (x.images.zip cores).zipIdx s = .fault →
    ∃ t, exec (.resumeRestore cores) s = .next t ∧ t.mgmt.pre = none ∧ t.win 0x58 = 4 ∧ t.ctxs = s.ctxs ∧ t.disp = s.disp

/-- 17 R418, R421 to R423: a walk fills its slice's TLB and keeps the entries it passed, a fault joins or makes an entry of its partition's fault queue or
is taken where the queue is off, and a verdict lets the held packet go on or makes it take its trap.  Which translation a full
TLB drops is the model's choice, log entry 10. -/
def Obligations.TranslationFaults : Prop :=
  (∀ slice part asid va s e, slice < 72 → part < 8 → (s.walkAt slice part asid va.toNat).res = .ok e →
    ∃ t, exec (.pageWalk slice part asid va) s = .next t ∧ mget [] t.slices slice = tlbAdd 8192 (mget [] s.slices slice) e ∧
      (∀ j, j ≠ slice → mget [] t.slices j = mget [] s.slices j ∧ mget [] t.walks j = mget [] s.walks j) ∧
      (∀ x, x ∈ mget [] t.walks slice ↔ x ∈ (s.walkAt slice part asid va.toNat).steps ∨ x ∈ mget [] s.walks slice) ∧
      MemKept s t ∧ t.ctxs = s.ctxs ∧ t.mgmt = s.mgmt) ∧
  (∀ slice part asid va (s : State), nearest (mget [] s.walks slice) part asid va = none → s.walkAt slice part asid va = s.walkAll part asid va) ∧
  (∀ slice part asid va s e, slice < 72 → part < 8 → (s.walkAt slice part asid va.toNat).res = .err e → (∀ pa, e ≠ .walkError pa) →
    exec (.pageWalk slice part asid va) s = .next s) ∧
  (∀ k s h cfg at_ tail, k < 0x10000 → (s.ctxAt k).st = .live → (s.ctxAt k).sq.held = some h → h.id = none →
    cfg = s.part h.part (0x108 + 0x40 * h.die) → cfg.getLsbD 0 = true → h.part < 8 → h.die < 4 →
    (s.fq.find? fun e => e.part == h.part && e.die == h.die && e.asid == h.asid && e.page == h.va.toNat / 4096) = none →
    tail = (s.part h.part (0x110 + 0x40 * h.die)).toNat % 2 ^ 32 →
    (tail + 2 ^ 32 - (s.part h.part (0x110 + 0x40 * h.die)).toNat / 2 ^ 32) % 2 ^ 32 ≠ 2 ^ (cfg.toNat / 2 ^ 16 % 16) →
    at_ = (s.part h.part (0x100 + 0x40 * h.die)).toNat / 4096 * 4096 + 64 * (tail % 2 ^ (cfg.toNat / 2 ^ 16 % 16)) → s.mgmt.pfe = false →
    ∃ t id, exec (.faultPost k) s = .next t ∧ id = mget 0 s.fqIds (4 * h.part + h.die) ∧
      (t.ctxAt k).sq.held = some { h with id := some id } ∧ (t.ctxAt k).r = (s.ctxAt k).r ∧
      t.fq = s.fq ++ [{ part := h.part, die := h.die, id := id, asid := h.asid, page := h.va.toNat / 4096, slot := tail, joined := 1 }] ∧
      (t.part h.part (0x110 + 0x40 * h.die)).toNat % 2 ^ 32 = (tail + 1) % 2 ^ 32 ∧
      (s.open_ h.part (cfg.toNat / 2 ^ 32 % 2 ^ 10) at_ 64 = false → t.mem = s.mem) ∧
      (s.open_ h.part (cfg.toNat / 2 ^ 32 % 2 ^ 10) at_ 64 = true →
      t.phys8 at_ (cfg.toNat / 2 ^ 32 % 2 ^ 10) =
        BitVec.ofNat 64 (h.asid * 2 ^ 48 + h.agent * 2 ^ 32 + h.access * 2 ^ 30 + h.level * 2 ^ 27 + 1) ∧
      t.phys8 (at_ + 8) (cfg.toNat / 2 ^ 32 % 2 ^ 10) = h.va ∧
      t.phys8 (at_ + 16) (cfg.toNat / 2 ^ 32 % 2 ^ 10) = BitVec.ofNat 64 (s.ctxAt k).task ∧
      t.phys8 (at_ + 32) (cfg.toNat / 2 ^ 32 % 2 ^ 10) = BitVec.ofNat 64 id ∧
      t.phys8 (at_ + 40) (cfg.toNat / 2 ^ 32 % 2 ^ 10) = s.hub.time)) ∧
  (∀ k s h e, k < 0x10000 → (s.ctxAt k).st = .live → (s.ctxAt k).sq.held = some h → h.id = none →
    (s.part h.part (0x108 + 0x40 * h.die)).getLsbD 0 = true →
    (s.fq.find? fun e => e.part == h.part && e.die == h.die && e.asid == h.asid && e.page == h.va.toNat / 4096) = some e →
    ∃ t, exec (.faultPost k) s = .next t ∧ (t.ctxAt k).sq.held = some { h with id := some e.id } ∧ (t.ctxAt k).r = (s.ctxAt k).r ∧
      t.fq = s.fq.map (fun x => if x = e then { e with joined := min (e.joined + 1) 0xFFFF } else x)) ∧
  (∀ k s h, k < 0x10000 → (s.ctxAt k).st = .live → (s.ctxAt k).sq.held = some h → h.id = none →
    (s.part h.part (0x108 + 0x40 * h.die)).getLsbD 0 = false → (s.ctxAt k).r.sup = false → s.guessOf (s.ctxAt k) = none →
    (s.ctxAt k).mx.ops = [] → h.trap.code < 256 →
    ∃ t, exec (.faultPost k) s = .next t ∧
      EntersAt s t k { trap := h.trap, sepc := (s.ctxAt k).r.pc, srepl := h.srepl, replay := h.replay }) ∧
  (∀ part die id s k h, part < 8 → die < 4 → s.fq.any (fun e => e.part == part && e.die == die && e.id == BitVec.toNat id) = true →
    s.joinedTo part die id.toNat = [(.ctx k, h)] →
    ∃ t, exec (.verdictResolve part die id) s = .next t ∧ (t.ctxAt k).sq.held = none ∧ (t.ctxAt k).r = (s.ctxAt k).r ∧
      (t.ctxAt k).mem = (s.ctxAt k).mem ∧ t.mem = s.mem ∧
      t.fq = s.fq.filter (fun e => !(e.part == part && e.die == die && e.id == BitVec.toNat id))) ∧
  (∀ part die id s k h, part < 8 → die < 4 → s.fq.any (fun e => e.part == part && e.die == die && e.id == BitVec.toNat id) = true →
    s.joinedTo part die id.toNat = [(.ctx k, h)] → (s.ctxAt k).r.sup = false → s.guessOf (s.ctxAt k) = none →
    (s.ctxAt k).mx.ops = [] → h.trap.code < 256 →
    ∃ t, exec (.verdictRefuse part die id) s = .next t ∧
      EntersAt s t k { trap := h.trap, sepc := (s.ctxAt k).r.pc, srepl := h.srepl, replay := h.replay }) ∧
  ∀ part die id s, part < 8 → die < 4 → s.fq.any (fun e => e.part == part && e.die == die && e.id == BitVec.toNat id) = false →
    exec (.verdictResolve part die id) s = .next s ∧ exec (.verdictRefuse part die id) s = .next s

/-! ### The management window -/

/-- 16 R397, R399, R412; 17 R419, R424; 18 R429: enabling, disabling, resetting and restarting a queue, the Dealer settings,
creating and removing a ream, a key slot, and a register write that the access tables admit. -/
def Obligations.ManagementWrites : Prop :=
  (∀ q val s r, q < 256 → val.getLsbD 0 = true → (s.qreg q 0).getLsbD 0 = false → 4 ≤ val.toNat / 2 ^ 16 % 16 →
    4 ≤ val.toNat / 2 ^ 20 % 16 → r = (s.part (val.toNat / 2 ^ 28 % 8) 0x28).toNat → r % 256 ≤ q → q ≤ r / 256 % 256 →
    ∃ t, exec (.qcfgEnSet q val) s = .next t ∧ t.qreg q 0 = val &&& 0xFFFF03FF7FFF0001 ∧ t.qstate q = 1 ∧ t.qreg q 0x20 = 0 ∧
      t.qreg q 0x28 = 0 ∧ MgmtOnly s t) ∧
  (∀ q val s r, q < 256 → val.getLsbD 0 = true → (s.qreg q 0).getLsbD 0 = false →
    r = (s.part (val.toNat / 2 ^ 28 % 8) 0x28).toNat → val.toNat / 2 ^ 16 % 16 < 4 ∨ val.toNat / 2 ^ 20 % 16 < 4 ∨ q < r % 256 ∨ r / 256 % 256 < q →
    ∃ t, exec (.qcfgEnSet q val) s = .next t ∧ (t.qreg q 0).getLsbD 0 = false ∧ t.queueSays q (s.qstate q) 1 ∧ MgmtOnly s t) ∧
  (∀ q val s, q < 256 → val.getLsbD 0 = true → (s.qreg q 0).getLsbD 0 = true → exec (.qcfgEnSet q val) s = .next s) ∧
  (∀ q val s, q < 256 → val.getLsbD 0 = false → (s.qreg q 0).getLsbD 0 = true → s.qstate q ≠ 0 → s.queueEmpty q →
    (s.queueAt q).dealer.guess = none → s.mgmt.pre = none →
    ∃ t, exec (.qcfgEnClear q val) s = .next t ∧ (t.qreg q 0).getLsbD 0 = false ∧ t.queueSays q 0 0 ∧ (t.queueAt q).recs = [] ∧
      (t.queueAt q).walk = none ∧ (t.queueAt q).wait = none ∧ t.cmds q = 0 ∧ t.ctxs = s.ctxs ∧ t.mem = s.mem) ∧
  (∀ q s, q < 256 → s.qstate q = 1 ∨ s.qstate q = 2 → (s.qreg q 0).getLsbD 0 = true → s.queueEmpty q →
    (s.queueAt q).dealer.guess = none → s.mgmt.pre = none →
    ∃ t, exec (.qctlReset q) s = .next t ∧ t.queueSays q 1 0 ∧ (t.queueAt q).recs = [] ∧ (t.queueAt q).walk = none ∧
      (t.queueAt q).wait = none ∧ t.cmds q = 0 ∧ t.ctxs = s.ctxs ∧ t.mem = s.mem) ∧
  (∀ q s tk, q < 256 → s.qstate q = 1 ∨ s.qstate q = 2 → (s.queueAt q).dealer.guess = none → s.mgmt.pre = none →
    mfind s.disp.tasks tk = some (s.taskAt tk) → (s.taskAt tk).q = q → (s.taskAt tk).order ≠ 0 → (s.taskAt tk).st = .live →
    (s.taskAt tk).stopped = false → msorted none s.disp.tasks = true →
    ∃ t, exec (.qctlReset q) s = .next t ∧ t.qstate q = 3 ∧ (t.taskAt tk).ended = some [] ∧ t.ctxs = s.ctxs ∧ t.mem = s.mem) ∧
  (∀ q s, q < 256 → s.qstate q = 2 → (∀ x ∈ s.allTasks, x.q = q → x.stopped = false) →
    ∃ t, exec (.qctlRestart q) s = .next t ∧ t.qstate q = 1 ∧ (∀ j, t.taskAt j = s.taskAt j) ∧ t.ctxs = s.ctxs ∧ t.mem = s.mem) ∧
  (∀ q s tk, q < 256 → s.qstate q = 2 → mfind s.disp.tasks tk = some (s.taskAt tk) → (s.taskAt tk).id = tk →
    (s.taskAt tk).q = q → (s.taskAt tk).stopped = true → (s.queueAt q).dealer.guess = none → msorted none s.disp.tasks = true →
    ∃ t, exec (.qctlRestart q) s = .next t ∧ t.qstate q = 1 ∧ mfind t.disp.tasks tk = none ∧ t.ctxs = s.ctxs ∧ t.mem = s.mem) ∧
  (∀ q val s, q < 256 → (s.queueAt q).dealer.guess = none ∨ val.getLsbD 20 = true →
    ∃ t, exec (.qspecWrite q val) s = .next t ∧ (t.qreg q 0x40).toNat = val.toNat % 2 ^ 21 ∧ MgmtOnly s t) ∧
  (∀ q val s g, q < 256 → (s.queueAt q).dealer.guess = some g → val.getLsbD 20 = false → (s.queueAt q).dealer.matched = none →
    ∃ t, exec (.qspecWrite q val) s = .next t ∧ (t.queueAt q).dealer.guess = none ∧ (t.queueAt q).dealer.last = 16 ∧
      Releases s t g ∧ t.mem = s.mem) ∧
  (∀ die val s, die < 4 → msorted none s.disp.queues = true →
    ∃ t, exec (.dlrcfgWrite die val) s = .next t ∧ (t.win (0x20 + 8 * die)).toNat = val.toNat % 2 ^ 5 ∧ t.mem = s.mem ∧
      (t.guessesOn die).length ≤ (if val.getLsbD 4 then min 8 (val.toNat % 16) else 0)) ∧
  (∀ part n val s s1 a, part < 8 → n < 64 → a = 0x10000 + 0x1000 * part + 0x800 + 0x20 * n → val.getLsbD 63 = true →
    (s.win a).getLsbD 63 = false → s1 = s.setWin a (val &&& 0x0000FFFFFFE00000) → s1.reamOk part n = true →
    ∃ t, exec (.reamValidSet part n val) s = .next t ∧ t.win a = (val &&& 0x0000FFFFFFE00000) ||| 0x8000000000000000 ∧
      mfind t.mem.reams (64 * part + n) = some {} ∧ t.mem.bytes = s.mem.bytes ∧ t.ctxs = s.ctxs) ∧
  (∀ part n val s s1 a, part < 8 → n < 64 → a = 0x10000 + 0x1000 * part + 0x800 + 0x20 * n → val.getLsbD 63 = true →
    (s.win a).getLsbD 63 = false → s1 = s.setWin a (val &&& 0x0000FFFFFFE00000) → s1.reamOk part n = false →
    ∃ t, exec (.reamValidSet part n val) s = .next t ∧ t.win a = (val &&& 0x0000FFFFFFE00000) ||| 0x2000000000000000 ∧ t.mem = s.mem) ∧
  (∀ part n s m, n < 64 → mfind s.mem.reams (64 * part + n) = some m → m.ready = false →
    ∃ t, exec (.reamReady part n) s = .next t ∧ mfind t.mem.reams (64 * part + n) = some { ready := true } ∧
      t.mem.bytes = s.mem.bytes ∧ t.mgmt = s.mgmt ∧ t.ctxs = s.ctxs) ∧
  (∀ part n val s a, part < 8 → n < 64 → a = 0x10000 + 0x1000 * part + 0x800 + 0x20 * n → val.getLsbD 63 = false →
    (s.win a).getLsbD 63 = true →
    ∃ t, exec (.reamValidClear part n val) s = .next t ∧ (t.win a).getLsbD 63 = false ∧ mfind t.mem.reams (64 * part + n) = none ∧
      t.mem.bytes = s.mem.bytes) ∧
  (∀ addr val s k, 0x20040 ≤ addr → addr < 0x30000 → addr % 8 = 0 → k = (addr - 0x20000) / 64 → msorted none s.mem.wkey = true →
    ∃ t, exec (.keySlotWrite addr val) s = .next t ∧
      (∀ i, i < 8 → mget 0 t.mgmt.keys (addr - 0x20000 + i) = BitVec.ofNat 8 (val.toNat / 2 ^ (8 * i) % 256)) ∧
      (∀ i, i < addr - 0x20000 ∨ addr - 0x20000 + 8 ≤ i → mget 0 t.mgmt.keys i = mget 0 s.mgmt.keys i) ∧
      (∀ a, mget 0 s.mem.wkey (a / 64) ≠ k → mget 0 t.mem.bytes a = mget 0 s.mem.bytes a) ∧ t.ctxs = s.ctxs ∧ t.disp = s.disp) ∧
  (∀ addr val s, 0x20000 ≤ addr → addr < 0x20040 → addr % 8 = 0 → exec (.keySlotWrite addr val) s = .next s) ∧
  (∀ addr val s, s.winAdmits 17 addr = false ∨ addr % 8 ≠ 0 → exec (.registerWrite addr val) s = .next s) ∧
  (∀ n val s, n < 64 → s.winAdmits 17 (0x60000 + 8 * n) = true →
    ∃ t, exec (.registerWrite (0x60000 + 8 * n) val) s = .next t ∧ mget 0 t.hub.mail n = val ∧
      (∀ j, j ≠ n → mget 0 t.hub.mail j = mget 0 s.hub.mail j) ∧ { t with hub := {} } = { s with hub := {} }) ∧
  ∀ n val s, n < 152 → s.winAdmits 17 (0x30000 + 8 * n) = true →
    ∃ t, exec (.registerWrite (0x30000 + 8 * n) val) s = .next t ∧ MgmtOnly s t ∧
      t.win (0x30000 + 8 * n) = (s.win (0x30000 + 8 * n) &&& ~~~0x7FFFF) ||| (val &&& 0x7FFFF) ∧
      ∀ a, a ≠ 0x30000 + 8 * n → t.win a = s.win a

/-- 10 R317, R320, R324, R326 to R329; 18 R429: a preset, a clear, a window write and an arriving record change one Calender
entry; a Couch engine starts a job, and its end writes the tile and its tag or leaves the tile as it was; what a job makes of the
tile's elements, and where its draws come from. -/
def Obligations.CalenderAndCouchEvents : Prop :=
  (∀ e k s, e < 4096 → 1 ≤ BitVec.toNat k → k.toNat ≤ 5 →
    ∃ t, exec (.calenderPreset e k) s = .next t ∧ EntryOnly s t e ∧ (t.entry e).valid = true ∧ (t.entry e).rung = 0 ∧ (t.entry e).pin = false ∧
      (∀ i, 12 ≤ i → i < 20 → (t.entry e).getD i 0 = 0) ∧ (t.entry e).getD 9 0 = 0x3A8000003C000000 ∧
      (t.entry e).getD 10 0 = 0x3F0000003A800000 ∧ (t.entry e).getD 11 0 = 0x3C80000000640000 ∧
      ∀ i v, ([[0x0005, 0x0146, 0x0149, 0x014A], [0x0005, 0x0146], [0x1005, 0x1147], [0x0002], [0x0005, 0x0146, 0x014A]].getD (k.toNat - 1) [])[i]? =
        some v → (t.entry e).getD (1 + i) 0 = v) ∧
  (∀ e k s, e < 4096 → k = 0 ∨ 5 < BitVec.toNat k → exec (.calenderPreset e k) s = .next s) ∧
  (∀ e s, e < 4096 → ∃ t, exec (.calenderClr e) s = .next t ∧ EntryOnly s t e ∧
    ∀ i, i < 32 → (t.entry e).getD i 0 = if 12 ≤ i ∧ i < 20 then 0
      else if i = 0 then BitVec.ofNat 64 (((s.entry e).getD 0 0).toNat / 2 ^ 16 * 2 ^ 16) else (s.entry e).getD i 0) ∧
  (∀ e w val s, e < 4096 → 12 ≤ w → w < 30 → exec (.calenderWindowWrite e w val) s = .next s) ∧
  (∀ e w val s, e < 4096 → (s.entry e).valid = false → w = 9 ∨ w = 10 →
    ∃ t, exec (.calenderWindowWrite e w val) s = .next t ∧ EntryOnly s t e ∧ (t.entry e).getD w 0 = val ∧
      ∀ i, 1 ≤ i → i < 32 → i ≠ w → (t.entry e).getD i 0 = (s.entry e).getD i 0) ∧
  (∀ i s r, s.hub.recs[i]? = some r → (s.entry r.entry).valid = true → (∀ x ∈ s.hub.recs.take i, x.ctx ≠ r.ctx ∨ x.entry ≠ r.entry) →
    ∃ t, exec (.statsRecordAdd i) s = .next t ∧ t.hub.recs = s.hub.recs.eraseIdx i ∧
      (t.entry r.entry).getD 12 0 = (s.entry r.entry).getD 12 0 + r.words.getD 0 0 ∧
      (t.entry r.entry).getD 13 0 = BitVec.ofNat 64 (Fl.fp64.addr .rne 0
        [Fl.fp64.decode ((s.entry r.entry).getD 13 0).toNat, Fl.fp64.decode (r.words.getD 1 0).toNat]) ∧
      (t.entry r.entry).getD 17 0 = (s.entry r.entry).getD 17 0 + 1 ∧ (∀ j, j < 12 → (t.entry r.entry).getD j 0 = (s.entry r.entry).getD j 0) ∧
      (t.ctxAt r.ctx).mem.recs = (s.ctxAt r.ctx).mem.recs - 1 ∧ t.mem = s.mem) ∧
  (∀ i s r, s.hub.recs[i]? = some r → (s.entry r.entry).valid = false → (∀ x ∈ s.hub.recs.take i, x.ctx ≠ r.ctx ∨ x.entry ≠ r.entry) →
    ∃ t, exec (.statsRecordAdd i) s = .next t ∧ t.hub = { s.hub with recs := s.hub.recs.eraseIdx i } ∧
      (t.ctxAt r.ctx).mem.recs = (s.ctxAt r.ctx).mem.recs - 1 ∧ t.mem = s.mem) ∧
  (∀ eng s tile rest, (mget {} s.hub.couch eng).queue = tile :: rest → (mget {} s.hub.couch eng).job = none →
    ∃ t j, exec (.couchJobStart eng) s = .next t ∧ (mget {} t.hub.couch eng).job = some j ∧ j.1 = tile ∧
      (mget {} t.hub.couch eng).queue = rest ∧ (mget {} t.hub.couch eng).started = (mget {} s.hub.couch eng).started + 1 ∧
      (∀ n, n ≠ eng → mget {} t.hub.couch n = mget {} s.hub.couch n) ∧ t.mem = s.mem ∧ t.ctxs = s.ctxs) ∧
  (∀ (s : State) tile target gen out w0 a b n ds bs, s.jobResult tile target gen = .inl out → s.mgmt.pfe = false →
    w0 = (s.tileTag (4096 * tile)).1.toNat → a = FmtWord.of (w0 % 2 ^ 10) → b = FmtWord.of target → fmtCplx a.fmt = fmtCplx b.fmt →
    n = 2 ^ (w0 / 2 ^ 40 % 16) → ds = jobDraws b n (4096 * tile) gen →
    bs = (List.range 4096).map (fun i => s.byteAt (4096 * tile + i) (mget 0 s.mem.wkey (64 * tile + i / 64))) → Reencodes a b n ds bs out) ∧
  (∀ b n pa gen, b.rnd = 4 → jobDraws b n pa gen =
    (({ gens := (List.range 32).map fun j => (j, genSeed (BitVec.ofNat 64 pa ^^^ BitVec.ofNat 64 (gen * 2 ^ 48)) j) } : Regs).drawList
      (vDraws (fmtCplx b.fmt) n)).1) ∧
  (∀ eng s tile target gen num bs, (mget {} s.hub.couch eng).job = some (tile, target, gen, num) →
    s.jobResult tile target gen = .inl bs → s.mgmt.pfe = false → s.tagAddr (tile * 4096) / 4096 ≠ tile →
    (s.tagAddr (tile * 4096) + 15) / 4096 ≠ tile →
    ∃ t, exec (.couchJobComplete eng) s = .next t ∧ (mget {} t.hub.couch eng).job = none ∧
      (mget {} t.hub.couch eng).count = (mget {} s.hub.couch eng).count + 1 ∧
      (∀ i, i < 4096 → some (t.byteAt (4096 * tile + i) (mget 0 s.mem.wkey (64 * tile + i / 64))) = bs[i]?) ∧
      (t.phys8 (s.tagAddr (tile * 4096)) 0).toNat % 2 ^ 10 = target % 2 ^ 10 ∧
      (t.phys8 (s.tagAddr (tile * 4096)) 0).toNat / 2 ^ 62 = 0 ∧ t.ctxs = s.ctxs ∧ t.disp = s.disp) ∧
  ∀ eng s tile target gen num cause, (mget {} s.hub.couch eng).job = some (tile, target, gen, num) →
    s.jobResult tile target gen = .inr cause → s.mgmt.pfe = false → s.tagAddr (tile * 4096) / 4096 ≠ tile →
    (s.tagAddr (tile * 4096) + 15) / 4096 ≠ tile →
    (∀ c ∈ s.cores, ∀ o ∈ c.2.copies, o.trk = true → o.waitTile ≠ some tile) →
    ∃ t, exec (.couchJobFail eng) s = .next t ∧ (mget {} t.hub.couch eng).job = none ∧
      (mget {} t.hub.couch eng).count = (mget {} s.hub.couch eng).count + 1 ∧
      (∀ i key, i < 4096 → t.byteAt (4096 * tile + i) key = s.byteAt (4096 * tile + i) key) ∧ t.ctxs = s.ctxs ∧ t.disp = s.disp

/-! ### The platform -/

/-- 18 R433, R441 to R443: which frames the port performs, and what it then does: it reads and writes registers and memory,
stages and commits an image, drops what fails its check, and answers a malformed or repeated request without effect. -/
def Obligations.PortRequests : Prop :=
  (∀ f (s : State), frameBad f = false → s.mgmt.recov = false → s.mgmt.ready = true → f.op ≠ 6 → f.seq = (s.sessionOf f).exp →
    s.portSays f = .perform) ∧
  (∀ f s v, s.portTakes f 1 → f.len = 8 → (winGuard f.addr.toNat).isSome = true → s.winAdmits 8 f.addr.toNat = true →
    (s.winRead f.addr.toNat).2 = some v →
    ∃ t, exec (.windowRead f) s = .next t ∧ Replies s t f 0 ((List.range 8).map fun i => BitVec.ofNat 8 (v.toNat / 2 ^ (8 * i) % 256)) ∧
      t.ctxs = s.ctxs ∧ t.mem = s.mem ∧ t.hub = s.hub ∧ t.disp = s.disp) ∧
  (∀ f s, s.portTakes f 1 → f.len = 8 → (winGuard f.addr.toNat).isSome = true → s.winAdmits 8 f.addr.toNat = false →
    ∃ t, exec (.windowRead f) s = .next t ∧ Replies s t f 1 [] ∧ MgmtOnly s t) ∧
  (∀ f s r, f.fcs = true → f.op = 1 → s.portSays f = .again r →
    ∃ t, exec (.windowRead f) s = .next t ∧ t = { s with mgmt := { s.mgmt with replies := s.mgmt.replies ++ [r] } }) ∧
  (∀ f s s1, s.portTakes f 2 → f.len = 8 → (winGuard f.addr.toNat).isSome = true → s.winAdmits 8 f.addr.toNat = true →
    f.addr ≠ 0x40010 → s.winWrite f.addr.toNat (BitVec.ofNat 64 (leNat (f.data.take 8))) = some s1 →
    ∃ t, exec (.windowWrite f) s = .next t ∧ Replies s1 t f 0 [] ∧ MgmtOnly s1 t ∧ t.mgmt.win = s1.mgmt.win ∧ t.mgmt.keys = s1.mgmt.keys) ∧
  (∀ f s, s.portTakes f 2 → f.len = 8 → (winGuard f.addr.toNat).isSome = true → s.winAdmits 8 f.addr.toNat = false →
    ∃ t, exec (.windowWrite f) s = .next t ∧ Replies s t f 1 [] ∧ MgmtOnly s t ∧ t.mgmt.win = s.mgmt.win) ∧
  (∀ f s pa n, pa = f.addr.toNat → n = f.len.toNat → s.portTakes f 3 → s.memHeld f = false → s.memDenied f = 0 →
    (∀ i, i < n → s.bad (pa + i) = false) → s.mgmt.pfe = false →
    ∃ t, exec (.memoryRead f) s = .next t ∧ t.mem.bytes = s.mem.bytes ∧ t.ctxs = s.ctxs ∧
      Replies s t f 0 ((List.range n).map fun i => s.byteAt (pa + i) (s.portKey ((pa + i) / 64) f.keyid.toNat))) ∧
  (∀ f s pa n, pa = f.addr.toNat → n = f.len.toNat → s.portTakes f 4 → s.memHeld f = false → s.memDenied f = 0 → s.mgmt.pfe = false →
    ∃ t, exec (.memoryWrite f) s = .next t ∧ Replies s t f 0 [] ∧ t.ctxs = s.ctxs ∧
      (∀ i, i < n → some (t.byteAt (pa + i) (s.portKey ((pa + i) / 64) f.keyid.toNat)) = f.data[i]?) ∧
      ∀ a key, (∀ i, i < n → a / 64 ≠ (pa + i) / 64) → t.byteAt a key = s.byteAt a key) ∧
  (∀ f s i, (i = .memoryRead f ∧ s.portTakes f 3) ∨ (i = .memoryWrite f ∧ s.portTakes f 4) → s.memHeld f = false →
    s.memDenied f ≠ 0 → ∃ t, exec i s = .next t ∧ Replies s t f (s.memDenied f) [] ∧ MgmtOnly s t) ∧
  (∀ f s, s.portTakes f 6 → f.len ≠ 0 →
    ∃ t, exec (.recoveryStage f) s = .next t ∧ Replies s t f 0 [] ∧ MgmtOnly s t ∧
      (∀ i, i < f.data.length → some (mget 0 t.mgmt.staging (f.addr.toNat + i)) = f.data[i]?) ∧
      (∀ a, a < f.addr.toNat ∨ f.addr.toNat + f.data.length ≤ a → mget 0 t.mgmt.staging a = mget 0 s.mgmt.staging a) ∧
      t.mgmt.stagedLen = max s.mgmt.stagedLen (f.addr.toNat + f.data.length)) ∧
  (∀ f s, s.portTakes f 6 → f.len = 0 → imageGood s.staged = true →
    ∃ t, exec (.recoveryCommit f) s = .next t ∧
      Rebooted { s with mgmt := { s.mgmt with flash := some s.staged } } t) ∧
  (∀ f s, s.portTakes f 6 → f.len = 0 → imageGood s.staged = false →
    ∃ t, exec (.recoveryCommit f) s = .next t ∧ Replies s t f 2 [] ∧ MgmtOnly s t ∧ t.mgmt.flash = s.mgmt.flash) ∧
  (∀ f s, f.fcs = true → frameBad f = true →
    ∃ t r, exec (.malformedFrame f) s = .next t ∧ t = { s with mgmt := { s.mgmt with replies := s.mgmt.replies ++ [r] } } ∧
      r.op = 5 ∧ r.status = 4 ∧ r.seq = f.seq ∧ r.data = []) ∧
  ∀ f s, f.fcs = false → ∃ t, exec (.fcsDrop f) s = .next t ∧ Counts s t 5 0 ∧ MgmtOnly s t ∧ t.mgmt.replies = s.mgmt.replies

/-- 16 R411; 18 R434 to R438, R440, R443, R445, R446: resets and bring-up, the attestation report, halts of a core, time
messages, gang messages and lost links, the state of a port, errors of links and routers, and the governor. -/
def Obligations.PlatformEvents : Prop :=
  (∀ s i, i = .packageResetWrite ∨ i = .powerOn → ∃ t, exec i s = .next t ∧ Rebooted s t) ∧
  (∀ s, s.mgmt.booting = true → ∃ t, exec .bringupDone s = .next t ∧ t.mgmt.ready = true ∧ t.mgmt.hbmok = true ∧
    t.mgmt.booting = false ∧ t.mgmt.sessions = [] ∧ MgmtOnly s t) ∧
  (∀ s, ∃ t, exec .attgo s = .next t ∧ t = { s with mgmt := { s.mgmt with attBusy := true } }) ∧
  (∀ s, s.mgmt.attBusy = true → ∃ t, exec .attestDone s = .next t ∧ t.mgmt.attBusy = false ∧ MgmtOnly s t ∧
    (∀ i, i < 48 → mget 0 t.mgmt.attrep i = BitVec.ofNat 8 ((s.win (0x40100 + i / 8 * 8)).toNat / 2 ^ (8 * (i % 8)) % 256)) ∧
    (∀ i, i < 4 → mget 0 t.mgmt.attrep (48 + i) = BitVec.ofNat 8 (s.mgmt.fwver.toNat / 2 ^ (8 * i) % 256)) ∧
    ∀ i, i < 96 → mget 0 t.mgmt.attrep (56 + i) =
      BitVec.ofNat 8 ((s.enmapWord (i / 24) (i % 24 / 8)).toNat / 2 ^ (8 * (i % 8)) % 256)) ∧
  (∀ core s, core < 576 → s.enabled core = true → (s.coreAt core).halted = false →
    ∃ t, exec (.haltreq core) s = .next t ∧ t.coreAt core = { s.coreAt core with halted := true, haltSlot := 0xFF, haltN := 0 } ∧
      (∀ n, n ≠ core → t.coreAt n = s.coreAt n) ∧ { t with cores := [] } = { s with cores := [] }) ∧
  (∀ core s, core < 576 → s.enabled core = true → s.mgmt.pfe = false →
    ∃ t, exec (.release core) s = .next t ∧ t.coreAt core = { s.coreAt core with halted := false } ∧
      (∀ n, n ≠ core → t.coreAt n = s.coreAt n) ∧ { t with cores := [] } = { s with cores := [] }) ∧
  (∀ core s, core < 576 → s.enabled core = false → exec (.haltreq core) s = .next s ∧ exec (.release core) s = .next s) ∧
  (∀ offset s, ∃ t, exec (.ptpMessage offset) s = .next t ∧ t.mgmt.tbSet = true ∧
    (offset.natAbs ≤ 100 → t.mgmt.tblock = true) ∧ (1000 < offset.natAbs → t.mgmt.tblock = false) ∧
    (100 < offset.natAbs → offset.natAbs ≤ 1000 → t.mgmt.tblock = s.mgmt.tblock) ∧
    t.hub.time = (if s.mgmt.tblock = false ∧ s.mgmt.tbSet = false then s.hub.time - BitVec.ofInt 64 offset else s.hub.time) ∧
    t.win 0x400A8 = (BitVec.ofInt 32 offset).setWidth 64 ∧ t.mem = s.mem ∧ t.ctxs = s.ctxs ∧ t.disp = s.disp) ∧
  (∀ pkg gangid gpart gpkgs s, s.isPeer pkg = true →
    ∃ t, exec (.gangAnnounce pkg gangid gpart gpkgs) s = .next t ∧ MgmtOnly s t ∧
      { pkg := pkg, gangid := gangid, gpart := gpart, gpkgs := gpkgs } ∈ t.mgmt.anns ∧ ∀ x ∈ s.mgmt.anns, x ∈ t.mgmt.anns) ∧
  (∀ gangid part gen s x, s.gangTask gangid = some x → s.gangMet x.id 6 = true → part < x.l.gpkgs.toNat → part ≠ x.l.gpart.toNat →
    ∃ t, exec (.uePacket (.barrier gangid part gen)) s = .next t ∧ (groupKey x.id 6 0, part, gen) ∈ t.hub.barRemote ∧
      (∀ r ∈ s.hub.barRemote, (r.1, r.2.1) ≠ (groupKey x.id 6 0, part) → r ∈ t.hub.barRemote) ∧
      { t with hub := { t.hub with barRemote := [] } } = { s with hub := { s.hub with barRemote := [] } }) ∧
  (∀ gangid part k args data s x, s.gangTask gangid = some x → s.gangMet x.id 6 = true → part < x.l.gpkgs.toNat → part ≠ x.l.gpart.toNat →
    (∀ y ∈ s.hub.colls, y.task = x.id → y.level = 6 → y.k = k → ∀ r ∈ y.remote, r.1 ≠ part) →
    ∃ t y, exec (.uePacket (.coll gangid part k args data)) s = .next t ∧ y ∈ t.hub.colls ∧ y.task = x.id ∧ y.level = 6 ∧ y.k = k ∧
      (part, args, data) ∈ y.remote ∧ { t with hub := { t.hub with colls := [] } } = { s with hub := { s.hub with colls := [] } }) ∧
  (∀ task unit s x k id o, s.hub.colls.find? (fun x => x.task == task && x.level == 6 && x.unit_ == unit && !x.issued.isEmpty && !x.ended) = some x →
    x.issued = [(k, id)] → s.copyAt (k / 4) id = some o → o.ctx = k → s.guessOf (s.ctxAt k) = none → (s.taskAt task).l.gang ≠ 0 →
    1 < (s.taskAt task).l.gpkgs.toNat →
    ∃ t, exec (.linkLost task unit) s = .next t ∧ x ∉ t.hub.colls ∧ t.copyAt (k / 4) id = none ∧ (t.ctxAt k).r = (s.ctxAt k).r ∧
      ∃ y ∈ (t.ctxAt k).mem.cfails, y.id = id ∧ y.cause = 9 ∧ y.tag = o.tag) ∧
  (∀ port st s, port < 8 → st = 0 ∨ st ≠ 3 ∧ (s.win (0x40400 + 0x40 * port)).getLsbD 0 = true →
    ∃ t, exec (.portStateChange port st) s = .next t ∧ t.win (0x40408 + 0x40 * port) = st.setWidth 64 ∧ MgmtOnly s t ∧
      ∀ a, a ≠ 0x40408 + 0x40 * port → t.win a = s.win a) ∧
  (∀ link s, link < 8 → mget 0 s.mgmt.replays link < 16 →
    ∃ t, exec (.flitReplay link) s = .next t ∧ Counts s t 4 link ∧ mget 0 t.mgmt.replays link = mget 0 s.mgmt.replays link + 1 ∧
      MgmtOnly s t ∧ t.mgmt.pfe = s.mgmt.pfe) ∧
  (∀ link s, link < 8 → 16 ≤ mget 0 s.mgmt.replays link → ∃ t, exec (.flitReplay link) s = .next t ∧ Counts s t 4 link ∧ Fatal t) ∧
  (∀ router s, router < 581 → ∃ t, exec (.nocParityResend router false) s = .next t ∧ Counts s t 3 router ∧ MgmtOnly s t ∧
    t.mgmt.pfe = s.mgmt.pfe) ∧
  (∀ router s, router < 581 → ∃ t, exec (.nocParityResend router true) s = .next t ∧ Counts s t 3 router ∧ Fatal t) ∧
  (∀ die s, die < 4 → ∃ t, exec (.dieOvertemp die) s = .next t ∧ Fatal t) ∧
  ∀ power hot cool s lim cap now, lim = (s.win 0x40080).toNat % 2 ^ 12 → cap = (s.win 0x40088).toNat % 2 ^ 6 →
    now = (s.win 0x40090).toNat % 2 ^ 6 →
    ∃ t, exec (.governorTick power hot cool) s = .next t ∧ MgmtOnly s t ∧ (t.win 0x40098).toNat = power.toNat ∧
      (lim < power.toNat ∨ hot = true → (t.win 0x40090).toNat = max 10 (now - 1)) ∧
      (power.toNat ≤ lim → hot = false → 100 * power.toNat < 95 * lim → cool = true → (t.win 0x40090).toNat = min cap (now + 1)) ∧
      (power.toNat ≤ lim → hot = false → 95 * lim ≤ 100 * power.toNat ∨ cool = false → (t.win 0x40090).toNat = now)

/-! ### The machine as a whole -/

/-- 04 R100, R116 to R128; 08 R285: decoding the word of a well-formed slot operation, of a sidecar instruction and of a
bundle header gives it back, and each word that decodes is the word of what it decodes to. -/
def Obligations.DecodeInvertsEncode : Prop :=
  (∀ i k w, encode i = some (k, w) → i.WellFormed = true → decSlot k w = .ok i) ∧
  (∀ k w i, (k = .s → w.toNat < 2 ^ 32) → decSlot k w = .ok i → encode i = some (k, w)) ∧
  (∀ i x, encX i = some x → decX x = some i ∧ decSide x = i) ∧
  (∀ x i, decX x = some i → encX i = some x) ∧
  (∀ h, Header.ofWord h.toWord = h) ∧ ∀ x, (Header.ofWord x).toWord = x

/-- Words that the spec works out, with a few written out from its tables: 04 R100, 05 (the counted loop), 06 (R119 and the
token count), 07 R212 (azero), 08 (R253, R285), 10 R323 (cstep), 11 (dstat, dhint), 12 (verld). -/
def Obligations.WorkedWordsDecode : Prop :=
  decSlot .s 0x78050001 = .ok (.li { g := 0, sd := 5, imm := 1 }) ∧
  decSlot .s 0x7C052000 = .ok (.lui { g := 0, sd := 5, imm := 0x2000 }) ∧
  decSlot .s 0x0C071C02 = .ok (.addi { g := 0, sd := 7, sa := 7, imm := 2 }) ∧
  decSlot .s 0x04082070 = .ok (.add { g := 0, sd := 8, sa := 8, sb := 7, fn := 0 }) ∧
  decSlot .s 0x041F7DE0 = .ok (.add { g := 0, sd := 31, sa := 31, sb := 30, fn := 0 }) ∧
  decSlot .s 0x80092000 = .ok (.mov { g := 0, sd := 9, sa := 8, sb := 0, fn := 0 }) ∧
  decSlot .b 0x1801800019000140 = .ok (.loop { g := 0, lc := 0, sa := 6, max := 100, last := 5, neg := 0, cc := 0, rsv := 0 }) ∧
  decSlot .b 0x800500000FFF0000 = .ok (.cstep { g := 0, sd := 5, sa := 0, sb := 0, fn := 0, imm := 0x0FFF0000 }) ∧
  decSlot .b 0x9005180000000002 = .ok (.dstat { g := 0, sd := 5, sa := 6, sb := 0, fn := 0, imm := 2 }) ∧
  decSlot .b 0x9400180000000001 = .ok (.dhint { g := 0, sd := 0, sa := 6, sb := 0, fn := 0, imm := 1 }) ∧
  decSlot .v 0x1B940A0018071020 = .ok (.vfma
    { mrg := 1, w := 0, et := 10, vd := 40, va := 3, vb := 7, dc := 0, ac := 0, bc := 2, rm := 0, mask := 2, g := 0 }) ∧
  decSlot .v 0x4F020C80A0000030 = .ok (.vhist
    { mrg := 0, w := 0, et := 1, vd := 50, va := 20, vb := 0, dc := 0, ac := 0, bc := 0, rm := 0, mask := 3, g := 0 }) ∧
  decSlot .m 0x2006000000000000 = .ok (.azero { g := 0, acc := 3, acb := 0, af := 0, rm := 0, ss := 0, imm := 0, rsv := 0 }) ∧
  decSlot .l 0x68004C0000000012 = .ok (.cbpush
    { g := 0, data := 0x13, dcl := 0, base := 0, qs := 0, se := 0, sbs := 0, we := 0, sbw := 0, ord := 0, sz := 0, imm := 0x12 }) ∧
  decSlot .l 0x4000203C000B0010 = .ok (.verld
    { g := 0, data := 8, dcl := 0, base := 15, qs := 0, se := 0, sbs := 0, we := 0, sbw := 0, ord := 1, sz := 3, imm := 16 }) ∧
  decSide 0x0003028B = .xSpld 5 6 ∧
  Header.ofWord 0x01108241 = { rsv := 0, kind := 0, stop := 1, rep := 4, stky := 0x041, pres := 0x041 }

/-- 04 R101 to R103; 08 R283; log entry 3: when it is a core's turn and the two or three words at the pc are a legal bundle of one
slot that decodes to `i`, a step is `exec` of `i` after the fetch, with the issue record naming the packet and the slot; a packet
of several slots runs their meanings together; a sidecar's turn is `exec` of the instruction at its pc, and an event at the
head of the agenda is `exec` of it. -/
def Obligations.StepRunsTheDecodedInstruction : Prop :=
  (∀ core rest s (s0 : State), s.agenda = .issue core :: rest → s0 = { s with agenda := rest, core := core } →
    (∀ i, i < 4 → s0.exitDone (4 * core + i) = false) → s0.canIssue s0.ck = true → s0.me.sq.idle = 0 → s0.me.r.sup = true ∨ s0.me.sys.asyncs = [] → s0.me.sq.replay = [] →
    (∀ s1 h s2 lo s3 hi p i b, s0.me.sq.rep = 1 → s0.fetch4 s0.ck s0.me.r.pc = (s1, .ok h) → p < 9 →
      s1.fetch4 s0.ck (s0.me.r.pc + 4) = (s2, .ok lo) →
      (if p < 2 then s3 = s2 ∧ hi = 0 else s2.fetch4 s0.ck (s0.me.r.pc + 8) = (s3, .ok hi)) →
      (Header.ofWord h).rsv = 0 → (Header.ofWord h).kind = 0 → (Header.ofWord h).stop = 1 → (Header.ofWord h).stky = 0 →
      (Header.ofWord h).pres = BitVec.ofNat 9 (2 ^ p) → decSlot (kindOf p) (hi ++ lo) = .ok i →
      b = ({ addr := s0.me.r.pc, hdr := Header.ofWord h, slots := [(p, hi ++ lo)], len := 4 + slotBytes p } : Bundle) →
      slotIllegal (btOf [b]) ((Header.ofWord h).rep != 0) b.len i = none →
      step s = exec i { s3 with issue := { issueOf s0.me [b] with pos := p } }) ∧
    (∀ s1 l (ops : List (Nat × Instr)), s0.me.sq.rep = 1 → s0.fetchPacket s0.ck s0.me.r.pc = (s1, .ok l) →
      packetIllegal (fun p => (s0.me.latch p).map (fun x => x.instr)) l = none →
      l.flatMap Bundle.ops = ops.map (fun e => (e.1, .ok e.2)) → 2 ≤ ops.length →
      ∃ t, t = { s1 with issue := issueOf s0.me l } ∧
        step s = .next (t.runPacket (byPos (duesOf (ops.map (fun e => (e.1, e.2, .fresh))) ++ t.stickyDues t.issue.sticky)))) ∧
    (∀ s1 va e, s0.fetchPacket s0.ck s0.me.r.pc = (s1, .fault va e) → ((fetchTrap va e).code ≠ 0x20 ∨ (s1.guessOf s0.me).isSome = true) →
      (∀ pa, e ≠ .walkError pa) →
      step s = .next (s1.takeTrap s0.ck { trap := fetchTrap va e, sepc := s0.me.r.pc, srepl := 0, replay := [] })) ∧
    (∀ s1 va pa, s0.fetchPacket s0.ck s0.me.r.pc = (s1, .fault va (.walkError pa)) →
      step s = .next ((s1.logPhys s0.me pa).takeTrap s0.ck
        { trap := { cls := .slot, code := 0x22, detail := BitVec.ofNat 64 pa }, sepc := s0.me.r.pc
          srepl := sreplOf s0.me.sq.rep ((List.range 9).filter (fun p => s0.me.sq.perf.testBit p)), replay := [] }))) ∧
  (∀ (s : State) k va s1 p, s.xlateCtx k (s.ctxAt k).r.sup va.toNat .x = (s1, .ok p) →
    s1.bad p.pa = false → p.ecw = false → s.fetch4 k va = (s1, .ok (BitVec.ofNat 32 (leNat (s1.phys p.pa p.key 4))))) ∧
  (∀ core which rest s n i (s1 : State), s.agenda = .side core which :: rest → s1 = { s with agenda := rest, side := n } →
    { s with agenda := rest }.sideOn core (which - 1) = some n → s1.sideCan n = true → (s.sideAt n).pc.toNat + 4 ≤ 0x10000 →
    storeBad (s.sideAt n).ibad (s.sideAt n).pc.toNat 4 = false →
    i = decSide (BitVec.ofNat 32 (leNat (mbytes 0 (s.sideAt n).imem (s.sideAt n).pc.toNat 4))) →
    step s = exec i s1) ∧
  ∀ i rest s, s.agenda = .event i :: rest → step s = exec i { s with agenda := rest }

/-- 02 R47; 09 R308; 16 R396; 17 R428; 18 R431, R433, R443: what reset leaves.  The first task id, and the zeros of the values
that the specification gives no reset for, are the model's choice, log entry 1; that READY and HBMOK are set there is its
reading, log entry 14. -/
def Obligations.ResetValues : Prop :=
  ∀ s, s = State.reset →
    (∀ pa, pa < 2 ^ 39 → s.byteAt pa 0 = 0) ∧ (∀ line, s.bad line = false) ∧
    (∀ k, (s.ctxAt k).st = .free ∧ (∀ n, mget 0 (s.ctxAt k).r.s n = 0)) ∧ (∀ n, (s.coreAt n).halted = false ∧ (s.coreAt n).tlb = []) ∧
    (∀ k, mget 0 s.hub.mail k = 0) ∧ (∀ e, mget 0 s.hub.cal e = 0) ∧ s.hub.stepCount = 0 ∧
    (∀ e, (mget {} s.hub.couch e : Couch).count = 0) ∧ s.disp.nextTask = 1 ∧ (∀ q, q < 256 → s.qstate q = 0) ∧
    (∀ a, 0x30000 ≤ a → a < 0x304C0 → s.win a = 0x60000) ∧ s.win 0x40080 = 3600 ∧ s.win 0x40088 = 30 ∧ s.win 0x40090 = 30 ∧
    s.mgmt.hbmok = true ∧ s.mgmt.ready = true ∧ s.mgmt.tblock = false ∧ s.mgmt.pfe = false ∧ s.mgmt.sessions = [] ∧ s.mgmt.log = []

/-- 00 R2, 18 R443; the form is the model's (the list of bytes rises strictly by address and lists no zero): every step
keeps it, whatever it runs. -/
def Obligations.StepKeepsMemoryCanonical : Prop :=
  ∀ s t, mwf 0 s.mem.bytes = true → step s = .next t → mwf 0 t.mem.bytes = true

/-- The form that every step keeps holds at reset, and with a placed instruction. -/
def Obligations.MemoryCanonicalAtReset : Prop :=
  mwf 0 State.reset.mem.bytes = true ∧
  ∀ (s : State) nbits w, mwf 0 s.mem.bytes = true → mwf 0 (s.withFetchWord nbits w).mem.bytes = true

/-- 08 R260 to R265, R274, R275; 10 R326; 09 R287: the bits that each row of a copy takes from its source to its destination, and
the lines it reads and writes for them; the run that a collective leaves each member, and where in memory its run lies.  Which
scale holds over elements of several groups is left free (log entry 29), and no clause speaks of it. -/
def Obligations.RowsOfCopiesAndCollectives : Prop :=
  (∀ o f e, (o.instr = .tld f → TileRows o true f e ∧ TilePlanes o true f e) ∧ (o.instr = .tst f → TileRows o false f e ∧ TilePlanes o false f e)) ∧
  (∀ o f i v, i < o.d.rows → v = (o.words.getD (8 + i / 2) 0).toNat / 2 ^ (32 * (i % 2)) % 2 ^ 32 →
    (o.instr = .cpy f → ByteRow o i i i) ∧
    (o.instr = .rgather f → if v = 0xFFFFFFFF then (o.steps 0).getD i [] = [] else ByteRow o i v i) ∧
    (o.instr = .rscatter f → if v = 0xFFFFFFFF then (o.steps 0).getD i [] = [] else ByteRow o i i v)) ∧
  (∀ l, LineReads (readsOf l) (l.flatMap (fun g => rangeAddrs g.srcSpan))) ∧
  (∀ (m : Nat → Byte) l, (∀ g ∈ l, g.src.dec = false) →
    ∃ vs, valuesOf l (l.flatMap (fun g => (rangeAddrs g.srcSpan).map m)) = .inr vs ∧ vs.length = l.length ∧
      ∀ (k : Nat) g v, l[k]? = some g → vs[k]? = some v → ∀ i, i < g.bits →
        v.testBit i = (g.keep.all (fun x => x.testBit i) && (bitOf m (g.fromBit + i) ^^ g.flip.testBit i))) ∧
  (∀ g bs ds, g.src.dec = true → g.keep = none → bs.length = g.srcSpan.2 → (ds : List (List Byte)).length = g.srcSpan.2 / 160 →
    (∀ (i : Nat) d, ds[i]? = some d → ecwSlot ((bs.drop (160 * i)).take 160) = .ok d) →
    g.srcSpan.1 = g.src.addr + 160 * (g.src.bit / 2048) ∧
    ∃ v, valuesOf [g] bs = .inr [v] ∧ ∀ i, i < g.bits →
      v.testBit i = (bitOf (fun a => ds.flatten.getD a 0) (g.src.bit % 2048 + i) ^^ g.flip.testBit i)) ∧
  (∀ l, (∀ p ∈ l, p.2 < 2 ^ p.1.bits) →
    (∀ ps ∈ writesOf l, ps ≠ [] ∧ ∀ x ∈ ps, ∀ y ∈ ps, x.addr / 64 = y.addr / 64) ∧
    (∀ x ∈ (writesOf l).flatten, ∃ p ∈ l, x.share = p.1.dst.share ∧ x.tile = p.1.dst.tile) ∧
    (∀ z, (∃ b, SetsBit l z b) → ∃ x ∈ (writesOf l).flatten, x.addr = z / 8 ∧ x.mask.testBit (z % 8) = true) ∧
    ∀ x ∈ (writesOf l).flatten, ∀ i, x.mask.testBit i = true → i < 8 ∧ SetsBit l (8 * x.addr + i) (x.val.testBit i)) ∧
  (∀ a rs m, m < rs.length → a.sizeOk rs.length = true → a.f.valid = true → a.f.rnd ≤ 3 → 1 ≤ a.count →
    (∀ r ∈ rs, r.codes.length = a.count ∧ r.scales.length = scaleCount a.f a.count ∧ r.groups.length = groupCount a.f a.count) →
    let c := a.count / rs.length
    let q := if fmtCplx a.f.fmt && a.f.sch == 0 then 2 else 1
    (a.cop ∈ [0, 1, 5, 6] → ∃ xs, RunHolds a.f xs (collDest a rs m) ∧ xs.length = q * (if a.cop = 1 then c else a.count) ∧
      ∀ (i : Nat) x, xs[i]? = some x → CollSum a rs (q * (if a.cop = 1 then m * c else 0) + i) x) ∧
    (a.cop = 2 → (collDest a rs m).codes = rs.flatMap (fun r => r.codes) ∧ (collDest a rs m).scales = rs.flatMap (fun r => r.scales) ∧
      (a.f.sch ≠ 2 ∨ a.count % 256 = 0 → (collDest a rs m).groups = rs.flatMap (fun r => r.groups))) ∧
    (a.cop = 3 → rs[a.root]? = some (collDest a rs m)) ∧
    (a.cop = 4 → (collDest a rs m).codes = rs.flatMap (fun r => (r.codes.drop (m * c)).take c) ∧
      (a.f.sch ≠ 0 → (collDest a rs m).scales = rs.flatMap (fun r => (r.scales.drop (m * (c / scaleLen a.f))).take (c / scaleLen a.f))) ∧
      (a.f.sch = 2 → c % 256 = 0 → (collDest a rs m).groups = rs.flatMap (fun r => (r.groups.drop (m * (c / 256))).take (c / 256))))) ∧
  ∀ (o : CopyOp) r a w b eb k, a = o.collArgs → w = fmtBits a.f.fmt → b = (if a.f.sch = 2 then 8 else 16) → eb = runBytes w a.count →
    k = scaleCount a.f a.count →
    LineReads (collReads o) (rangeAddrs (o.src.toNat, eb) ++ rangeAddrs (o.d.f 4 0 64, b / 8 * k) ++ rangeAddrs (o.d.f 5 0 64, 4 * groupCount a.f a.count)) ∧
    (o.collRun.codes = (List.range a.count).map (fun i => bitsAt o.got (w * i) w) ∧
      o.collRun.scales = (List.range k).map (fun j => bitsAt o.got (8 * eb + b * j) (if b = 8 then 8 else 9)) ∧
      o.collRun.groups = (List.range (groupCount a.f a.count)).map (fun j => bitsAt o.got (8 * eb + b * k + 32 * j) 32)) ∧
    ∀ z x, SetsBit (runMoves o r) z x ↔ PlaneSets o.dst.toNat w r.codes z x ∨ PlaneSets (o.d.f 6 0 64) b r.scales z x ∨
      PlaneSets (o.d.f 7 0 64) 32 r.groups z x ∨
      (w = 6 ∧ x = false ∧ 8 * o.dst.toNat + 6 * r.codes.length ≤ z ∧ z < 8 * (o.dst.toNat + runBytes 6 r.codes.length))
end

