-- ==== Sys2Proof/Laws/Image.lean ====
section
/-!
SUPPORT. The image of a slot (15 R392, R393) in a share: a save and a restore meet no fault there, and the words of a restored
control region are those of the share.
-/

namespace Sys2Proof.Machine

/-- A list of bytes is the bytes of its number. -/
theorem leBytes_leNat (bs : List Byte) : leBytes bs.length (leNat bs) = bs := by
  induction bs with
  | nil => rfl
  | cons b bs ih =>
    have hb : b.toNat < 256 := b.isLt
    have h1 : (b.toNat + 256 * leNat bs) % 256 = b.toNat := by omega
    have h2 : (b.toNat + 256 * leNat bs) / 256 = leNat bs := by omega
    simp [leBytes, leNat, h1, h2, ih]

theorem mbytes_length (d : Byte) (m : SMap Byte) (a n : Nat) : (mbytes d m a n).length = n := by
  induction n generalizing a with
  | zero => rfl
  | succ n ih => simp [mbytes, ih]

theorem mbytes_drop (d : Byte) (m : SMap Byte) (a n k : Nat) : (mbytes d m a n).drop k = mbytes d m (a + k) (n - k) := by
  induction n generalizing a k with
  | zero => simp [mbytes]
  | succ n ih =>
    cases k with
    | zero => rfl
    | succ k => simp [mbytes, ih, Nat.add_assoc, Nat.add_comm 1 k]

theorem mbytes_take (d : Byte) (m : SMap Byte) (a n k : Nat) (h : k ≤ n) : (mbytes d m a n).take k = mbytes d m a k := by
  induction n generalizing a k with
  | zero => simp at h; simp [h, mbytes]
  | succ n ih =>
    cases k with
    | zero => simp [mbytes]
    | succ k => simp [mbytes, ih (a + 1) k (by omega)]

/-- A store of units that lie in the share meets no fault. -/
theorem imgStore_share (e : Env) (a : W64) (l : List (Nat × List Byte))
    (h : ∀ p ∈ l, winOf e.share.size (a + w64 (64 * p.1)).toNat 64 = some .share) (s : State) :
    ∃ s1, s.imgStore e a l none = (s1, none) := by
  induction l generalizing s with
  | nil => exact ⟨s, rfl⟩
  | cons p l ih =>
    have hp := h p (by simp)
    simp only [State.imgStore, State.place, hp]
    exact ih (fun q hq => h q (by simp [hq])) _

/-- The bytes of a unit of an image in a share. -/
def State.shareUnit (s : State) (k : Nat) (a : W64) (i : Nat) : List Byte :=
  (s.resvAt (s.ctxAt k).resv).read (a + w64 (64 * i)).toNat 64

/-- A load of units that lie in a share without errors gives their bytes. -/
theorem imgLoad_share (e : Env) (a : W64) (s : State) (l : List Nat) (hp : (s.resvAt (s.ctxAt e.k).resv).poison = [])
    (h : ∀ i ∈ l, winOf e.share.size (a + w64 (64 * i)).toNat 64 = some .share) :
    s.imgLoad e a l = (s, .ok (l.map (fun i => (i, s.shareUnit e.k a i)))) := by
  induction l with
  | nil => rfl
  | cons i l ih =>
    have hi := h i (by simp)
    have hb : leBytes 64 (leNat (s.shareUnit e.k a i)) = s.shareUnit e.k a i := by
      have hl : (s.shareUnit e.k a i).length = 64 := by simp [State.shareUnit, Resv.read, mbytes_length]
      have := leBytes_leNat (s.shareUnit e.k a i)
      rwa [hl] at this
    have hr := ih (fun j hj => h j (by simp [hj]))
    simp only [State.imgLoad, State.place, hi, State.locRead, Resv.badIn, hp, List.isEmpty_nil, if_true, hr]
    simpa [State.shareUnit] using hb

/-- Units in order, by number. -/
theorem unitArray_range (u : Nat → List Byte) (n : Nat) (h : n ≤ imageUnits) :
    (unitArray ((List.range n).map (fun i => (i, u i)))).size = imageUnits ∧
      ∀ j, j < imageUnits → (unitArray ((List.range n).map (fun i => (i, u i))))[j]? = some (if j < n then u j else []) := by
  induction n with
  | zero =>
    refine ⟨by simp [unitArray], fun j hj => ?_⟩
    simp only [unitArray, List.range_zero, List.map_nil, List.foldl_nil, Array.getElem?_replicate, hj, if_true]
    simp
  | succ n ih =>
    obtain ⟨h1, h2⟩ := ih (by omega)
    simp only [unitArray] at h1 h2 ⊢
    rw [List.range_succ, List.map_append, List.foldl_append]
    generalize hA : List.foldl (fun (m : Array (List Byte)) e => if e.1 < m.size then m.set! e.1 e.2 else m)
      (Array.replicate imageUnits []) ((List.range n).map (fun i => (i, u i))) = A at h1 h2
    have hn : n < imageUnits := by omega
    simp only [List.map_cons, List.map_nil, List.foldl_cons, List.foldl_nil, h1, hn, if_true, Array.set!_eq_setIfInBounds]
    refine ⟨by simp [h1], fun j hj => ?_⟩
    rw [Array.getElem?_setIfInBounds]
    by_cases hc : n = j
    · subst hc; simp [h1, hn]
    · have hl : j < n + 1 ↔ j < n := by omega
      simp only [hc, if_false, h2 j hj, hl]

/-- Eight words for each of `n` units, by number. -/
theorem flatMap_eight {α : Type} (g : Nat → Nat → α) (n : Nat) :
    (List.range n).flatMap (fun i => (List.range 8).map (g i)) = (List.range (8 * n)).map (fun k => g (k / 8) (k % 8)) := by
  induction n with
  | zero => rfl
  | succ n ih =>
    rw [List.range_succ (n := n), List.flatMap_append, ih, Nat.mul_add, List.range_add, List.map_append]
    congr 1
    simp only [List.flatMap_cons, List.flatMap_nil, List.append_nil, List.map_map]
    apply List.map_congr_left
    intro j hj
    have hj8 : j < 8 := by simpa using hj
    have h1 : (8 * n + j) / 8 = n := by omega
    have h2 : (8 * n + j) % 8 = j := by omega
    simp [h1, h2]

/-- The words of a control region that lies in a share from offset 0. -/
theorem wordArray_share (s : State) (k : Nat) (i : Nat) :
    (wordArray (unitArray ((List.range 256).map (fun i => (i, s.shareUnit k 0 i))))).getD i 0 =
      if i < 2048 then w64 (leNat ((s.resvAt (s.ctxAt k).resv).read (8 * i) 8)) else 0 := by
  obtain ⟨-, h2⟩ := unitArray_range (s.shareUnit k 0) 256 (by decide)
  have hg (m j : Nat) (hm : m < 256) : ((unitArray ((List.range 256).map (fun i => (i, s.shareUnit k 0 i)))).getD m []) = s.shareUnit k 0 m := by
    have := h2 m (by simp only [imageUnits]; omega)
    rw [Array.getD_eq_getD_getElem?, this, if_pos hm]
    rfl
  simp only [wordArray, upto]
  rw [flatMap_eight (fun m j => w64 (leNat (((((unitArray ((List.range 256).map (fun i => (i, s.shareUnit k 0 i)))).getD m []).drop (8 * j)).take 8))))]
  by_cases hi : i < 2048
  · have h8 : i / 8 < 256 := by omega
    have ha : ((0 : W64) + w64 (64 * (i / 8))).toNat = 64 * (i / 8) := by
      rw [show (0 : W64) = 0#64 from rfl, BitVec.zero_add, w64, BitVec.toNat_ofNat]; omega
    simp only [Array.getD_eq_getD_getElem?, List.getElem?_toArray, List.getElem?_map, List.getElem?_range (show i < 8 * 256 by omega), Option.map_some, Option.getD_some, hi, if_true]
    have := hg (i / 8) 0 h8
    simp only [Array.getD_eq_getD_getElem?] at this
    rw [this]
    simp only [State.shareUnit, ha, Resv.read, mbytes_drop]
    rw [mbytes_take _ _ _ _ _ (by omega), show 64 * (i / 8) + 8 * (i % 8) = 8 * i by omega]
  · simp [Array.getD_eq_getD_getElem?, hi]

end Sys2Proof.Machine
end

