-- ==== Sys2Proof/Laws/Map.lean ====
section
/-!
SUPPORT. Sparse maps: what a read finds after a write or a removal, and that both keep the canonical form.
-/

namespace Sys2Proof.Machine

theorem mfind_mput_same {β : Type} (m : SMap β) (i : Nat) (x : β) : mfind (mput m i x) i = some x := by
  induction m with
  | nil => simp [mput, mfind]
  | cons e t ih =>
    obtain ⟨k, v⟩ := e
    unfold mput
    by_cases h : i < k
    · simp [h, mfind]
    · by_cases h2 : i = k
      · simp [h2, mfind]
      · simp [h, h2, mfind, ih, Ne.symm h2]

theorem mfind_mput_ne {β : Type} (m : SMap β) (i j : Nat) (x : β) (h : j ≠ i) : mfind (mput m i x) j = mfind m j := by
  induction m with
  | nil => simp [mput, mfind, Ne.symm h]
  | cons e t ih =>
    obtain ⟨k, v⟩ := e
    unfold mput
    by_cases h1 : i < k
    · simp [h1, mfind, Ne.symm h]
    · by_cases h2 : i = k
      · subst h2; simp [mfind, Ne.symm h]
      · simp [h1, h2, mfind, ih]

theorem mfind_mdel_same {β : Type} (m : SMap β) (i : Nat) : mfind (mdel m i) i = none := by
  induction m with
  | nil => rfl
  | cons e t ih =>
    obtain ⟨k, v⟩ := e
    by_cases h : k = i <;> simp [mdel, h, mfind, ih]

theorem mfind_mdel_ne {β : Type} (m : SMap β) (i j : Nat) (h : j ≠ i) : mfind (mdel m i) j = mfind m j := by
  induction m with
  | nil => rfl
  | cons e t ih =>
    obtain ⟨k, v⟩ := e
    by_cases h1 : k = i
    · subst h1; simp [mdel, mfind, ih, Ne.symm h]
    · simp [mdel, h1, mfind, ih]

@[simp] theorem mget_nil {β : Type} (d : β) (i : Nat) : mget d [] i = d := rfl

@[simp] theorem mget_mput_same {β : Type} (d : β) (m : SMap β) (i : Nat) (x : β) : mget d (mput m i x) i = x := by
  simp [mget, mfind_mput_same]

theorem mget_mput_ne {β : Type} (d : β) (m : SMap β) (i j : Nat) (x : β) (h : j ≠ i) :
    mget d (mput m i x) j = mget d m j := by
  simp [mget, mfind_mput_ne m i j x h]

@[simp] theorem mget_mset_same {β : Type} [DecidableEq β] (d : β) (m : SMap β) (i : Nat) (x : β) :
    mget d (mset d m i x) i = x := by
  unfold mset
  by_cases h : x = d
  · simp [h, mget, mfind_mdel_same]
  · simp [h]

theorem mget_mset_ne {β : Type} [DecidableEq β] (d e : β) (m : SMap β) (i j : Nat) (x : β) (h : j ≠ i) :
    mget d (mset e m i x) j = mget d m j := by
  unfold mset
  by_cases hx : x = e
  · simp [hx, mget, mfind_mdel_ne m i j h]
  · simp [hx, mget_mput_ne d m i j x h]

theorem mput_mput {β : Type} (m : SMap β) (i : Nat) (x y : β) : mput (mput m i x) i y = mput m i y := by
  induction m with
  | nil => simp [mput]
  | cons e t ih =>
    obtain ⟨k, v⟩ := e
    by_cases h1 : i < k
    · simp [mput, h1]
    · by_cases h2 : i = k
      · subst h2; simp [mput]
      · simp [mput, h1, h2, ih]

/-! ### The canonical form -/

/-- A bound below which no index of a map lies. -/
def above (lo : Option Nat) (i : Nat) : Bool := match lo with | none => true | some l => decide (l < i)

theorem msorted_cons {β : Type} (lo : Option Nat) (k : Nat) (v : β) (t : SMap β) :
    msorted lo ((k, v) :: t) = (above lo k && msorted (some k) t) := by
  cases lo <;> rfl

theorem msorted_weaken {β : Type} (m : SMap β) (a b : Option Nat) (h : ∀ i, above b i = true → above a i = true) :
    msorted b m = true → msorted a m = true := by
  cases m with
  | nil => simp [msorted]
  | cons e t =>
    obtain ⟨k, v⟩ := e
    simp only [msorted_cons, Bool.and_eq_true]
    exact fun hm => ⟨h k hm.1, hm.2⟩

theorem msorted_mput {β : Type} (m : SMap β) (i : Nat) (x : β) (lo : Option Nat) (hi : above lo i = true)
    (h : msorted lo m = true) : msorted lo (mput m i x) = true := by
  induction m generalizing lo with
  | nil => simp [mput, msorted_cons, hi, msorted]
  | cons e t ih =>
    obtain ⟨k, v⟩ := e
    simp only [msorted_cons, Bool.and_eq_true] at h
    unfold mput
    by_cases h1 : i < k
    · have hk : above (some i) k = true := by simpa [above] using h1
      simp [h1, msorted_cons, hi, hk, h.2]
    · by_cases h2 : i = k
      · subst h2; simp [msorted_cons, hi, h.2]
      · simp only [h1, h2, if_false, msorted_cons, Bool.and_eq_true]
        exact ⟨h.1, ih (some k) (by simp [above]; omega) h.2⟩

theorem msorted_mdel {β : Type} (m : SMap β) (i : Nat) (lo : Option Nat) (h : msorted lo m = true) :
    msorted lo (mdel m i) = true := by
  induction m generalizing lo with
  | nil => rfl
  | cons e t ih =>
    obtain ⟨k, v⟩ := e
    simp only [msorted_cons, Bool.and_eq_true] at h
    by_cases h1 : k = i
    · simp only [mdel, h1, if_true]
      refine ih lo (msorted_weaken t lo (some k) ?_ h.2)
      intro j hj
      cases lo <;> simp [above] at *
      omega
    · simp only [mdel, h1, if_false, msorted_cons, Bool.and_eq_true]
      exact ⟨h.1, ih (some k) h.2⟩

theorem mem_mput {β : Type} (m : SMap β) (i : Nat) (x : β) (p : Nat × β) (h : p ∈ mput m i x) : p = (i, x) ∨ p ∈ m := by
  induction m with
  | nil => simp [mput] at h; exact .inl h
  | cons e t ih =>
    obtain ⟨k, v⟩ := e
    unfold mput at h
    by_cases h1 : i < k
    · simp [h1] at h; simpa using h
    · by_cases h2 : i = k
      · subst h2; simp at h; rcases h with h | h <;> simp [h]
      · simp [h1, h2] at h
        rcases h with h | h
        · simp [h]
        · rcases ih h with h | h <;> simp [h]

theorem mem_mdel {β : Type} (m : SMap β) (i : Nat) (p : Nat × β) (h : p ∈ mdel m i) : p ∈ m := by
  induction m with
  | nil => exact h
  | cons e t ih =>
    obtain ⟨k, v⟩ := e
    by_cases h1 : k = i
    · simp [mdel, h1] at h; simp [ih h]
    · simp [mdel, h1] at h
      rcases h with h | h
      · simp [h]
      · simp [ih h]

/-- A write keeps the canonical form, whatever it writes. -/
theorem mwf_mset {β : Type} [DecidableEq β] (d : β) (m : SMap β) (i : Nat) (x : β) (h : mwf d m = true) :
    mwf d (mset d m i x) = true := by
  simp only [mwf, Bool.and_eq_true, List.all_eq_true, decide_eq_true_eq] at *
  unfold mset
  by_cases hx : x = d
  · simp only [hx, if_true]
    exact ⟨msorted_mdel m i none h.1, fun p hp => h.2 p (mem_mdel m i p hp)⟩
  · simp only [hx, if_false]
    refine ⟨msorted_mput m i x none rfl h.1, fun p hp => ?_⟩
    rcases mem_mput m i x p hp with hp | hp
    · simp [hp, hx]
    · exact h.2 p hp

/-- A write of a run of bytes keeps the canonical form. -/
theorem mwf_mwrite (d : Byte) (bs : List Byte) (m : SMap Byte) (a : Nat) (h : mwf d m = true) :
    mwf d (mwrite d m a bs) = true := by
  induction bs generalizing m a with
  | nil => exact h
  | cons b t ih => exact ih _ _ (mwf_mset d m a b h)

/-- A byte outside a written run reads as before. -/
theorem mget_mwrite_out (d : Byte) (bs : List Byte) (m : SMap Byte) (a i : Nat) (h : i < a ∨ a + bs.length ≤ i) :
    mget d (mwrite d m a bs) i = mget d m i := by
  induction bs generalizing m a with
  | nil => rfl
  | cons b t ih =>
    simp only [List.length_cons] at h
    simp only [mwrite]
    rw [ih _ _ (by omega), mget_mset_ne d d m a i b (by omega)]

/-- A byte of a written run reads as written. -/
theorem mget_mwrite_in (d : Byte) (bs : List Byte) (m : SMap Byte) (a j : Nat) (h : j < bs.length) :
    mget d (mwrite d m a bs) (a + j) = bs[j] := by
  induction bs generalizing m a j with
  | nil => simp at h
  | cons b t ih =>
    simp only [mwrite]
    cases j with
    | zero => rw [mget_mwrite_out d t _ _ _ (by omega)]; simp
    | succ j =>
      have := ih (mset d m a b) (a + 1) j (by simpa using h)
      simpa [Nat.add_assoc, Nat.add_comm 1 j] using this

end Sys2Proof.Machine
end

