-- ==== Sys2Proof/Laws/PerInstr.lean ====
section
/-!
SUPPORT. One lemma for each instruction, family `Encoding`: an instruction has at most one of the two encodings (a slot
word, 04 R116 to R128; a sidecar word, 08 R285), and an S-slot word fits its 32 bits (04 R101).
-/

namespace Sys2Proof.Laws

/-- What a word of the encoder is: an S-slot word is below 2^32, and an instruction with a slot word has no sidecar
word. -/
def Encoding.Statement (i : Instr) : Prop :=
  ∀ k w, encode i = some (k, w) → (k = .s → w.toNat < 2 ^ 32) ∧ encX i = none

/-- An instruction whose slot word is a zero-extended 32-bit word. -/
theorem Encoding.of_s {i : Instr} (x : BitVec 32) (h : encode i = some (.s, x.zeroExtend 64)) (hx : encX i = none) :
    Encoding.Statement i := by
  intro k w hw
  rw [h] at hw
  cases hw
  refine ⟨fun _ => ?_, hx⟩
  have := x.isLt
  simp only [BitVec.truncate_eq_setWidth, BitVec.toNat_setWidth]
  omega

/-- An instruction whose slot word is of another kind. -/
theorem Encoding.of_wide {i : Instr} {k : SlotKind} {x : BitVec 64} (hk : k ≠ .s) (h : encode i = some (k, x))
    (hx : encX i = none) : Encoding.Statement i := by
  intro k' w hw
  rw [h] at hw
  cases hw
  exact ⟨fun e => absurd e hk, hx⟩

/-- An instruction without a slot word. -/
theorem Encoding.of_none {i : Instr} (h : encode i = none) : Encoding.Statement i := by
  intro k w hw
  rw [h] at hw
  cases hw

theorem Encoding.add (f : SR) : Encoding.Statement (.add f) := Encoding.of_s _ rfl rfl
theorem Encoding.sub (f : SR) : Encoding.Statement (.sub f) := Encoding.of_s _ rfl rfl
theorem Encoding.addi (f : SI) : Encoding.Statement (.addi f) := Encoding.of_s _ rfl rfl
theorem Encoding.mul (f : SR) : Encoding.Statement (.mul f) := Encoding.of_s _ rfl rfl
theorem Encoding.mulh (f : SR) : Encoding.Statement (.mulh f) := Encoding.of_s _ rfl rfl
theorem Encoding.mulhu (f : SR) : Encoding.Statement (.mulhu f) := Encoding.of_s _ rfl rfl
theorem Encoding.div (f : SR) : Encoding.Statement (.div f) := Encoding.of_s _ rfl rfl
theorem Encoding.divu (f : SR) : Encoding.Statement (.divu f) := Encoding.of_s _ rfl rfl
theorem Encoding.rem (f : SR) : Encoding.Statement (.rem f) := Encoding.of_s _ rfl rfl
theorem Encoding.remu (f : SR) : Encoding.Statement (.remu f) := Encoding.of_s _ rfl rfl
theorem Encoding.and (f : SR) : Encoding.Statement (.and f) := Encoding.of_s _ rfl rfl
theorem Encoding.or (f : SR) : Encoding.Statement (.or f) := Encoding.of_s _ rfl rfl
theorem Encoding.xor (f : SR) : Encoding.Statement (.xor f) := Encoding.of_s _ rfl rfl
theorem Encoding.andn (f : SR) : Encoding.Statement (.andn f) := Encoding.of_s _ rfl rfl
theorem Encoding.shl (f : SR) : Encoding.Statement (.shl f) := Encoding.of_s _ rfl rfl
theorem Encoding.shr (f : SR) : Encoding.Statement (.shr f) := Encoding.of_s _ rfl rfl
theorem Encoding.sra (f : SR) : Encoding.Statement (.sra f) := Encoding.of_s _ rfl rfl
theorem Encoding.shli (f : SI) : Encoding.Statement (.shli f) := Encoding.of_s _ rfl rfl
theorem Encoding.shri (f : SI) : Encoding.Statement (.shri f) := Encoding.of_s _ rfl rfl
theorem Encoding.srai (f : SI) : Encoding.Statement (.srai f) := Encoding.of_s _ rfl rfl
theorem Encoding.clz (f : SR) : Encoding.Statement (.clz f) := Encoding.of_s _ rfl rfl
theorem Encoding.ctz (f : SR) : Encoding.Statement (.ctz f) := Encoding.of_s _ rfl rfl
theorem Encoding.popc (f : SR) : Encoding.Statement (.popc f) := Encoding.of_s _ rfl rfl
theorem Encoding.min (f : SR) : Encoding.Statement (.min f) := Encoding.of_s _ rfl rfl
theorem Encoding.max (f : SR) : Encoding.Statement (.max f) := Encoding.of_s _ rfl rfl
theorem Encoding.minu (f : SR) : Encoding.Statement (.minu f) := Encoding.of_s _ rfl rfl
theorem Encoding.maxu (f : SR) : Encoding.Statement (.maxu f) := Encoding.of_s _ rfl rfl
theorem Encoding.sel (f : SR) : Encoding.Statement (.sel f) := Encoding.of_s _ rfl rfl
theorem Encoding.cmp (f : SR) : Encoding.Statement (.cmp f) := Encoding.of_s _ rfl rfl
theorem Encoding.li (f : SU) : Encoding.Statement (.li f) := Encoding.of_s _ rfl rfl
theorem Encoding.lui (f : SU) : Encoding.Statement (.lui f) := Encoding.of_s _ rfl rfl
theorem Encoding.mov (f : SR) : Encoding.Statement (.mov f) := Encoding.of_s _ rfl rfl
theorem Encoding.sext (f : SI) : Encoding.Statement (.sext f) := Encoding.of_s _ rfl rfl
theorem Encoding.zext (f : SI) : Encoding.Statement (.zext f) := Encoding.of_s _ rfl rfl
theorem Encoding.bfx (f : SR) : Encoding.Statement (.bfx f) := Encoding.of_s _ rfl rfl
theorem Encoding.bfi (f : SR) : Encoding.Statement (.bfi f) := Encoding.of_s _ rfl rfl
theorem Encoding.addr (f : SU) : Encoding.Statement (.addr f) := Encoding.of_s _ rfl rfl
theorem Encoding.fadd (f : SR) : Encoding.Statement (.fadd f) := Encoding.of_s _ rfl rfl
theorem Encoding.fsub (f : SR) : Encoding.Statement (.fsub f) := Encoding.of_s _ rfl rfl
theorem Encoding.fmul (f : SR) : Encoding.Statement (.fmul f) := Encoding.of_s _ rfl rfl
theorem Encoding.fmadd (f : SR) : Encoding.Statement (.fmadd f) := Encoding.of_s _ rfl rfl
theorem Encoding.fdiv (f : SR) : Encoding.Statement (.fdiv f) := Encoding.of_s _ rfl rfl
theorem Encoding.fsqrt (f : SR) : Encoding.Statement (.fsqrt f) := Encoding.of_s _ rfl rfl
theorem Encoding.fmin (f : SR) : Encoding.Statement (.fmin f) := Encoding.of_s _ rfl rfl
theorem Encoding.fmax (f : SR) : Encoding.Statement (.fmax f) := Encoding.of_s _ rfl rfl
theorem Encoding.fcmp (f : SR) : Encoding.Statement (.fcmp f) := Encoding.of_s _ rfl rfl
theorem Encoding.fcvt (f : SR) : Encoding.Statement (.fcvt f) := Encoding.of_s _ rfl rfl
theorem Encoding.fmvx (f : SR) : Encoding.Statement (.fmvx f) := Encoding.of_s _ rfl rfl
theorem Encoding.rdd (f : SI) : Encoding.Statement (.rdd f) := Encoding.of_s _ rfl rfl
theorem Encoding.rdsys (f : SI) : Encoding.Statement (.rdsys f) := Encoding.of_s _ rfl rfl
theorem Encoding.rdtime (f : SR) : Encoding.Statement (.rdtime f) := Encoding.of_s _ rfl rfl
theorem Encoding.mbrd (f : SI) : Encoding.Statement (.mbrd f) := Encoding.of_s _ rfl rfl
theorem Encoding.mbwr (f : SI) : Encoding.Statement (.mbwr f) := Encoding.of_s _ rfl rfl
theorem Encoding.vadd (f : VR) : Encoding.Statement (.vadd f) := Encoding.of_wide (by decide) rfl rfl
theorem Encoding.vsub (f : VR) : Encoding.Statement (.vsub f) := Encoding.of_wide (by decide) rfl rfl
theorem Encoding.vmul (f : VR) : Encoding.Statement (.vmul f) := Encoding.of_wide (by decide) rfl rfl
theorem Encoding.vmulh (f : VR) : Encoding.Statement (.vmulh f) := Encoding.of_wide (by decide) rfl rfl
theorem Encoding.vmadd (f : VR) : Encoding.Statement (.vmadd f) := Encoding.of_wide (by decide) rfl rfl
theorem Encoding.vabs (f : VR) : Encoding.Statement (.vabs f) := Encoding.of_wide (by decide) rfl rfl
theorem Encoding.vneg (f : VR) : Encoding.Statement (.vneg f) := Encoding.of_wide (by decide) rfl rfl
theorem Encoding.vmin (f : VR) : Encoding.Statement (.vmin f) := Encoding.of_wide (by decide) rfl rfl
theorem Encoding.vmax (f : VR) : Encoding.Statement (.vmax f) := Encoding.of_wide (by decide) rfl rfl
theorem Encoding.vsadd (f : VR) : Encoding.Statement (.vsadd f) := Encoding.of_wide (by decide) rfl rfl
theorem Encoding.vssub (f : VR) : Encoding.Statement (.vssub f) := Encoding.of_wide (by decide) rfl rfl
theorem Encoding.vshl (f : VR) : Encoding.Statement (.vshl f) := Encoding.of_wide (by decide) rfl rfl
theorem Encoding.vshr (f : VR) : Encoding.Statement (.vshr f) := Encoding.of_wide (by decide) rfl rfl
theorem Encoding.vsra (f : VR) : Encoding.Statement (.vsra f) := Encoding.of_wide (by decide) rfl rfl
theorem Encoding.vand (f : VR) : Encoding.Statement (.vand f) := Encoding.of_wide (by decide) rfl rfl
theorem Encoding.vor (f : VR) : Encoding.Statement (.vor f) := Encoding.of_wide (by decide) rfl rfl
theorem Encoding.vxor (f : VR) : Encoding.Statement (.vxor f) := Encoding.of_wide (by decide) rfl rfl
theorem Encoding.vnot (f : VR) : Encoding.Statement (.vnot f) := Encoding.of_wide (by decide) rfl rfl
theorem Encoding.vclz (f : VR) : Encoding.Statement (.vclz f) := Encoding.of_wide (by decide) rfl rfl
theorem Encoding.vpopc (f : VR) : Encoding.Statement (.vpopc f) := Encoding.of_wide (by decide) rfl rfl
theorem Encoding.vfadd (f : VR) : Encoding.Statement (.vfadd f) := Encoding.of_wide (by decide) rfl rfl
theorem Encoding.vfsub (f : VR) : Encoding.Statement (.vfsub f) := Encoding.of_wide (by decide) rfl rfl
theorem Encoding.vfmul (f : VR) : Encoding.Statement (.vfmul f) := Encoding.of_wide (by decide) rfl rfl
theorem Encoding.vfma (f : VR) : Encoding.Statement (.vfma f) := Encoding.of_wide (by decide) rfl rfl
theorem Encoding.vfms (f : VR) : Encoding.Statement (.vfms f) := Encoding.of_wide (by decide) rfl rfl
theorem Encoding.vfmin (f : VR) : Encoding.Statement (.vfmin f) := Encoding.of_wide (by decide) rfl rfl
theorem Encoding.vfmax (f : VR) : Encoding.Statement (.vfmax f) := Encoding.of_wide (by decide) rfl rfl
theorem Encoding.vfabs (f : VR) : Encoding.Statement (.vfabs f) := Encoding.of_wide (by decide) rfl rfl
theorem Encoding.vfneg (f : VR) : Encoding.Statement (.vfneg f) := Encoding.of_wide (by decide) rfl rfl
theorem Encoding.vfrcp (f : VR) : Encoding.Statement (.vfrcp f) := Encoding.of_wide (by decide) rfl rfl
theorem Encoding.vfrsqrt (f : VR) : Encoding.Statement (.vfrsqrt f) := Encoding.of_wide (by decide) rfl rfl
theorem Encoding.vfsqrt (f : VR) : Encoding.Statement (.vfsqrt f) := Encoding.of_wide (by decide) rfl rfl
theorem Encoding.vfexp2 (f : VR) : Encoding.Statement (.vfexp2 f) := Encoding.of_wide (by decide) rfl rfl
theorem Encoding.vflog2 (f : VR) : Encoding.Statement (.vflog2 f) := Encoding.of_wide (by decide) rfl rfl
theorem Encoding.vftanh (f : VR) : Encoding.Statement (.vftanh f) := Encoding.of_wide (by decide) rfl rfl
theorem Encoding.vferf (f : VR) : Encoding.Statement (.vferf f) := Encoding.of_wide (by decide) rfl rfl
theorem Encoding.vfsin (f : VR) : Encoding.Statement (.vfsin f) := Encoding.of_wide (by decide) rfl rfl
theorem Encoding.vfcos (f : VR) : Encoding.Statement (.vfcos f) := Encoding.of_wide (by decide) rfl rfl
theorem Encoding.vcmul (f : VR) : Encoding.Statement (.vcmul f) := Encoding.of_wide (by decide) rfl rfl
theorem Encoding.vcmla (f : VR) : Encoding.Statement (.vcmla f) := Encoding.of_wide (by decide) rfl rfl
theorem Encoding.vcmp (f : VR) : Encoding.Statement (.vcmp f) := Encoding.of_wide (by decide) rfl rfl
theorem Encoding.vfcmp (f : VR) : Encoding.Statement (.vfcmp f) := Encoding.of_wide (by decide) rfl rfl
theorem Encoding.mand (f : VR) : Encoding.Statement (.mand f) := Encoding.of_wide (by decide) rfl rfl
theorem Encoding.mor (f : VR) : Encoding.Statement (.mor f) := Encoding.of_wide (by decide) rfl rfl
theorem Encoding.mxor (f : VR) : Encoding.Statement (.mxor f) := Encoding.of_wide (by decide) rfl rfl
theorem Encoding.mnot (f : VR) : Encoding.Statement (.mnot f) := Encoding.of_wide (by decide) rfl rfl
theorem Encoding.mpopc (f : VR) : Encoding.Statement (.mpopc f) := Encoding.of_wide (by decide) rfl rfl
theorem Encoding.mffs (f : VR) : Encoding.Statement (.mffs f) := Encoding.of_wide (by decide) rfl rfl
theorem Encoding.vsel (f : VR) : Encoding.Statement (.vsel f) := Encoding.of_wide (by decide) rfl rfl
theorem Encoding.vcvt (f : VR) : Encoding.Statement (.vcvt f) := Encoding.of_wide (by decide) rfl rfl
theorem Encoding.vqnt (f : VQ) : Encoding.Statement (.vqnt f) := Encoding.of_wide (by decide) rfl rfl
theorem Encoding.vdq (f : VQ) : Encoding.Statement (.vdq f) := Encoding.of_wide (by decide) rfl rfl
theorem Encoding.vqc4 (f : VQ) : Encoding.Statement (.vqc4 f) := Encoding.of_wide (by decide) rfl rfl
theorem Encoding.vdqc4 (f : VQ) : Encoding.Statement (.vdqc4 f) := Encoding.of_wide (by decide) rfl rfl
theorem Encoding.vsrseed (f : VR) : Encoding.Statement (.vsrseed f) := Encoding.of_wide (by decide) rfl rfl
theorem Encoding.vmov (f : VR) : Encoding.Statement (.vmov f) := Encoding.of_wide (by decide) rfl rfl
theorem Encoding.vbcast (f : VR) : Encoding.Statement (.vbcast f) := Encoding.of_wide (by decide) rfl rfl
theorem Encoding.vperm (f : VR) : Encoding.Statement (.vperm f) := Encoding.of_wide (by decide) rfl rfl
theorem Encoding.vshuf (f : VR) : Encoding.Statement (.vshuf f) := Encoding.of_wide (by decide) rfl rfl
theorem Encoding.vslide (f : VR) : Encoding.Statement (.vslide f) := Encoding.of_wide (by decide) rfl rfl
theorem Encoding.vcompress (f : VR) : Encoding.Statement (.vcompress f) := Encoding.of_wide (by decide) rfl rfl
theorem Encoding.vcompressKeep (f : VR) : Encoding.Statement (.vcompressKeep f) := Encoding.of_wide (by decide) rfl rfl
theorem Encoding.vexpand (f : VR) : Encoding.Statement (.vexpand f) := Encoding.of_wide (by decide) rfl rfl
theorem Encoding.vzip (f : VR) : Encoding.Statement (.vzip f) := Encoding.of_wide (by decide) rfl rfl
theorem Encoding.vunzip (f : VR) : Encoding.Statement (.vunzip f) := Encoding.of_wide (by decide) rfl rfl
theorem Encoding.vext (f : VR) : Encoding.Statement (.vext f) := Encoding.of_wide (by decide) rfl rfl
theorem Encoding.vins (f : VR) : Encoding.Statement (.vins f) := Encoding.of_wide (by decide) rfl rfl
theorem Encoding.vred (f : VR) : Encoding.Statement (.vred f) := Encoding.of_wide (by decide) rfl rfl
theorem Encoding.vfred (f : VR) : Encoding.Statement (.vfred f) := Encoding.of_wide (by decide) rfl rfl
theorem Encoding.vscan (f : VR) : Encoding.Statement (.vscan f) := Encoding.of_wide (by decide) rfl rfl
theorem Encoding.vhist (f : VR) : Encoding.Statement (.vhist f) := Encoding.of_wide (by decide) rfl rfl
theorem Encoding.arow (f : VR) : Encoding.Statement (.arow f) := Encoding.of_wide (by decide) rfl rfl
theorem Encoding.acol (f : VR) : Encoding.Statement (.acol f) := Encoding.of_wide (by decide) rfl rfl
theorem Encoding.awrow (f : VR) : Encoding.Statement (.awrow f) := Encoding.of_wide (by decide) rfl rfl
theorem Encoding.awcol (f : VR) : Encoding.Statement (.awcol f) := Encoding.of_wide (by decide) rfl rfl
theorem Encoding.mld (f : MX) : Encoding.Statement (.mld f) := Encoding.of_wide (by decide) rfl rfl
theorem Encoding.mldw (f : MX) : Encoding.Statement (.mldw f) := Encoding.of_wide (by decide) rfl rfl
theorem Encoding.mswap (f : MC) : Encoding.Statement (.mswap f) := Encoding.of_wide (by decide) rfl rfl
theorem Encoding.mma (f : MX) : Encoding.Statement (.mma f) := Encoding.of_wide (by decide) rfl rfl
theorem Encoding.mmas (f : MX) : Encoding.Statement (.mmas f) := Encoding.of_wide (by decide) rfl rfl
theorem Encoding.mmac (f : MX) : Encoding.Statement (.mmac f) := Encoding.of_wide (by decide) rfl rfl
theorem Encoding.mmaC (f : MX) : Encoding.Statement (.mmaC f) := Encoding.of_wide (by decide) rfl rfl
theorem Encoding.azero (f : MC) : Encoding.Statement (.azero f) := Encoding.of_wide (by decide) rfl rfl
theorem Encoding.acvt (f : MC) : Encoding.Statement (.acvt f) := Encoding.of_wide (by decide) rfl rfl
theorem Encoding.aadd (f : MC) : Encoding.Statement (.aadd f) := Encoding.of_wide (by decide) rfl rfl
theorem Encoding.acfg (f : MC) : Encoding.Statement (.acfg f) := Encoding.of_wide (by decide) rfl rfl
theorem Encoding.await (f : MC) : Encoding.Statement (.await f) := Encoding.of_wide (by decide) rfl rfl
theorem Encoding.awaitAll (f : MC) : Encoding.Statement (.awaitAll f) := Encoding.of_wide (by decide) rfl rfl
theorem Encoding.mpcset (f : MC) : Encoding.Statement (.mpcset f) := Encoding.of_wide (by decide) rfl rfl
theorem Encoding.mstat (f : MC) : Encoding.Statement (.mstat f) := Encoding.of_wide (by decide) rfl rfl
theorem Encoding.aclr (f : MC) : Encoding.Statement (.aclr f) := Encoding.of_wide (by decide) rfl rfl
theorem Encoding.aload (f : MC) : Encoding.Statement (.aload f) := Encoding.of_wide (by decide) rfl rfl
theorem Encoding.ld (f : LM) : Encoding.Statement (.ld f) := Encoding.of_wide (by decide) rfl rfl
theorem Encoding.st (f : LM) : Encoding.Statement (.st f) := Encoding.of_wide (by decide) rfl rfl
theorem Encoding.ldv (f : LM) : Encoding.Statement (.ldv f) := Encoding.of_wide (by decide) rfl rfl
theorem Encoding.stv (f : LM) : Encoding.Statement (.stv f) := Encoding.of_wide (by decide) rfl rfl
theorem Encoding.ldvs (f : LM) : Encoding.Statement (.ldvs f) := Encoding.of_wide (by decide) rfl rfl
theorem Encoding.stvs (f : LM) : Encoding.Statement (.stvs f) := Encoding.of_wide (by decide) rfl rfl
theorem Encoding.ldvg (f : LM) : Encoding.Statement (.ldvg f) := Encoding.of_wide (by decide) rfl rfl
theorem Encoding.stvg (f : LM) : Encoding.Statement (.stvg f) := Encoding.of_wide (by decide) rfl rfl
theorem Encoding.ldf (f : LM) : Encoding.Statement (.ldf f) := Encoding.of_wide (by decide) rfl rfl
theorem Encoding.ldfe (f : LM) : Encoding.Statement (.ldfe f) := Encoding.of_wide (by decide) rfl rfl
theorem Encoding.ste (f : LM) : Encoding.Statement (.ste f) := Encoding.of_wide (by decide) rfl rfl
theorem Encoding.stf (f : LM) : Encoding.Statement (.stf f) := Encoding.of_wide (by decide) rfl rfl
theorem Encoding.tagset (f : LM) : Encoding.Statement (.tagset f) := Encoding.of_wide (by decide) rfl rfl
theorem Encoding.tagclr (f : LM) : Encoding.Statement (.tagclr f) := Encoding.of_wide (by decide) rfl rfl
theorem Encoding.tld (f : LC) : Encoding.Statement (.tld f) := Encoding.of_wide (by decide) rfl rfl
theorem Encoding.tst (f : LC) : Encoding.Statement (.tst f) := Encoding.of_wide (by decide) rfl rfl
theorem Encoding.cpy (f : LC) : Encoding.Statement (.cpy f) := Encoding.of_wide (by decide) rfl rfl
theorem Encoding.rgather (f : LC) : Encoding.Statement (.rgather f) := Encoding.of_wide (by decide) rfl rfl
theorem Encoding.rscatter (f : LC) : Encoding.Statement (.rscatter f) := Encoding.of_wide (by decide) rfl rfl
theorem Encoding.amo (f : LM) : Encoding.Statement (.amo f) := Encoding.of_wide (by decide) rfl rfl
theorem Encoding.red (f : LM) : Encoding.Statement (.red f) := Encoding.of_wide (by decide) rfl rfl
theorem Encoding.verld (f : LM) : Encoding.Statement (.verld f) := Encoding.of_wide (by decide) rfl rfl
theorem Encoding.verle (f : LM) : Encoding.Statement (.verle f) := Encoding.of_wide (by decide) rfl rfl
theorem Encoding.verst (f : LM) : Encoding.Statement (.verst f) := Encoding.of_wide (by decide) rfl rfl
theorem Encoding.verfl (f : LM) : Encoding.Statement (.verfl f) := Encoding.of_wide (by decide) rfl rfl
theorem Encoding.vernew (f : LM) : Encoding.Statement (.vernew f) := Encoding.of_wide (by decide) rfl rfl
theorem Encoding.stopk (f : LM) : Encoding.Statement (.stopk f) := Encoding.of_wide (by decide) rfl rfl
theorem Encoding.cbcfg (f : LM) : Encoding.Statement (.cbcfg f) := Encoding.of_wide (by decide) rfl rfl
theorem Encoding.cbwait (f : LM) : Encoding.Statement (.cbwait f) := Encoding.of_wide (by decide) rfl rfl
theorem Encoding.cbpop (f : LM) : Encoding.Statement (.cbpop f) := Encoding.of_wide (by decide) rfl rfl
theorem Encoding.cbresv (f : LM) : Encoding.Statement (.cbresv f) := Encoding.of_wide (by decide) rfl rfl
theorem Encoding.cbpush (f : LM) : Encoding.Statement (.cbpush f) := Encoding.of_wide (by decide) rfl rfl
theorem Encoding.coll (f : LC) : Encoding.Statement (.coll f) := Encoding.of_wide (by decide) rfl rfl
theorem Encoding.pf (f : LM) : Encoding.Statement (.pf f) := Encoding.of_wide (by decide) rfl rfl
theorem Encoding.br (f : BJ) : Encoding.Statement (.br f) := Encoding.of_wide (by decide) rfl rfl
theorem Encoding.bt (f : BT) : Encoding.Statement (.bt f) := Encoding.of_wide (by decide) rfl rfl
theorem Encoding.call (f : BJ) : Encoding.Statement (.call f) := Encoding.of_wide (by decide) rfl rfl
theorem Encoding.ret (f : BJ) : Encoding.Statement (.ret f) := Encoding.of_wide (by decide) rfl rfl
theorem Encoding.jr (f : BJ) : Encoding.Statement (.jr f) := Encoding.of_wide (by decide) rfl rfl
theorem Encoding.loop (f : BL) : Encoding.Statement (.loop f) := Encoding.of_wide (by decide) rfl rfl
theorem Encoding.loopw (f : BL) : Encoding.Statement (.loopw f) := Encoding.of_wide (by decide) rfl rfl
theorem Encoding.brk (f : BG) : Encoding.Statement (.brk f) := Encoding.of_wide (by decide) rfl rfl
theorem Encoding.trap (f : BG) : Encoding.Statement (.trap f) := Encoding.of_wide (by decide) rfl rfl
theorem Encoding.yield (f : BG) : Encoding.Statement (.yield f) := Encoding.of_wide (by decide) rfl rfl
theorem Encoding.exit (f : BG) : Encoding.Statement (.exit f) := Encoding.of_wide (by decide) rfl rfl
theorem Encoding.spawn (f : BG) : Encoding.Statement (.spawn f) := Encoding.of_wide (by decide) rfl rfl
theorem Encoding.nextr (f : BG) : Encoding.Statement (.nextr f) := Encoding.of_wide (by decide) rfl rfl
theorem Encoding.waitsb (f : BG) : Encoding.Statement (.waitsb f) := Encoding.of_wide (by decide) rfl rfl
theorem Encoding.fence (f : BG) : Encoding.Statement (.fence f) := Encoding.of_wide (by decide) rfl rfl
theorem Encoding.fenceS (f : BG) : Encoding.Statement (.fenceS f) := Encoding.of_wide (by decide) rfl rfl
theorem Encoding.bar (f : BG) : Encoding.Statement (.bar f) := Encoding.of_wide (by decide) rfl rfl
theorem Encoding.barArv (f : BG) : Encoding.Statement (.barArv f) := Encoding.of_wide (by decide) rfl rfl
theorem Encoding.barwait (f : BG) : Encoding.Statement (.barwait f) := Encoding.of_wide (by decide) rfl rfl
theorem Encoding.tagwaitany (f : BG) : Encoding.Statement (.tagwaitany f) := Encoding.of_wide (by decide) rfl rfl
theorem Encoding.tagwaitall (f : BG) : Encoding.Statement (.tagwaitall f) := Encoding.of_wide (by decide) rfl rfl
theorem Encoding.tagffr (f : BG) : Encoding.Statement (.tagffr f) := Encoding.of_wide (by decide) rfl rfl
theorem Encoding.tlwait (f : BG) : Encoding.Statement (.tlwait f) := Encoding.of_wide (by decide) rfl rfl
theorem Encoding.tlwaitBind (f : BG) : Encoding.Statement (.tlwaitBind f) := Encoding.of_wide (by decide) rfl rfl
theorem Encoding.tlwaitRead (f : BG) : Encoding.Statement (.tlwaitRead f) := Encoding.of_wide (by decide) rfl rfl
theorem Encoding.handreq (f : BG) : Encoding.Statement (.handreq f) := Encoding.of_wide (by decide) rfl rfl
theorem Encoding.handrel (f : BG) : Encoding.Statement (.handrel f) := Encoding.of_wide (by decide) rfl rfl
theorem Encoding.blend (f : BG) : Encoding.Statement (.blend f) := Encoding.of_wide (by decide) rfl rfl
theorem Encoding.bret (f : BG) : Encoding.Statement (.bret f) := Encoding.of_wide (by decide) rfl rfl
theorem Encoding.cstep (f : BG) : Encoding.Statement (.cstep f) := Encoding.of_wide (by decide) rfl rfl
theorem Encoding.cset (f : BG) : Encoding.Statement (.cset f) := Encoding.of_wide (by decide) rfl rfl
theorem Encoding.cpin (f : BG) : Encoding.Statement (.cpin f) := Encoding.of_wide (by decide) rfl rfl
theorem Encoding.cread (f : BG) : Encoding.Statement (.cread f) := Encoding.of_wide (by decide) rfl rfl
theorem Encoding.dstat (f : BG) : Encoding.Statement (.dstat f) := Encoding.of_wide (by decide) rfl rfl
theorem Encoding.dhint (f : BG) : Encoding.Statement (.dhint f) := Encoding.of_wide (by decide) rfl rfl
theorem Encoding.mtsy (f : BG) : Encoding.Statement (.mtsy f) := Encoding.of_wide (by decide) rfl rfl
theorem Encoding.mfsy (f : BG) : Encoding.Statement (.mfsy f) := Encoding.of_wide (by decide) rfl rfl
theorem Encoding.eret (f : BG) : Encoding.Statement (.eret f) := Encoding.of_wide (by decide) rfl rfl
theorem Encoding.eretEnd (f : BG) : Encoding.Statement (.eretEnd f) := Encoding.of_wide (by decide) rfl rfl
theorem Encoding.tlbinv (f : BG) : Encoding.Statement (.tlbinv f) := Encoding.of_wide (by decide) rfl rfl
theorem Encoding.ctxsave (f : BG) : Encoding.Statement (.ctxsave f) := Encoding.of_wide (by decide) rfl rfl
theorem Encoding.ctxrestore (f : BG) : Encoding.Statement (.ctxrestore f) := Encoding.of_wide (by decide) rfl rfl
theorem Encoding.halt (f : BG) : Encoding.Statement (.halt f) := Encoding.of_wide (by decide) rfl rfl
theorem Encoding.idleRun (n : BitVec 24) : Encoding.Statement (.idleRun n) := Encoding.of_none rfl
theorem Encoding.idleRunEnd : Encoding.Statement (.idleRunEnd) := Encoding.of_none rfl
theorem Encoding.stickyReissue : Encoding.Statement (.stickyReissue) := Encoding.of_none rfl
theorem Encoding.xSpld (rd rs1 : BitVec 5) : Encoding.Statement (.xSpld rd rs1) := Encoding.of_none rfl
theorem Encoding.xSpst (rs2 rs1 : BitVec 5) : Encoding.Statement (.xSpst rs2 rs1) := Encoding.of_none rfl
theorem Encoding.xSpldfe (rd rs1 : BitVec 5) : Encoding.Statement (.xSpldfe rd rs1) := Encoding.of_none rfl
theorem Encoding.xSpste (rs2 rs1 : BitVec 5) : Encoding.Statement (.xSpste rs2 rs1) := Encoding.of_none rfl
theorem Encoding.xGld (rd rs1 : BitVec 5) : Encoding.Statement (.xGld rd rs1) := Encoding.of_none rfl
theorem Encoding.xGst (rs2 rs1 : BitVec 5) : Encoding.Statement (.xGst rs2 rs1) := Encoding.of_none rfl
theorem Encoding.xTagwait (rs1 : BitVec 5) : Encoding.Statement (.xTagwait rs1) := Encoding.of_none rfl
theorem Encoding.xRdd (rd rs1 : BitVec 5) : Encoding.Statement (.xRdd rd rs1) := Encoding.of_none rfl
theorem Encoding.xCopy (rs1 : BitVec 5) : Encoding.Statement (.xCopy rs1) := Encoding.of_none rfl
theorem Encoding.xCbcfg (rs2 rs1 : BitVec 5) : Encoding.Statement (.xCbcfg rs2 rs1) := Encoding.of_none rfl
theorem Encoding.xCbwait (rs2 rs1 : BitVec 5) : Encoding.Statement (.xCbwait rs2 rs1) := Encoding.of_none rfl
theorem Encoding.xCbresv (rs2 rs1 : BitVec 5) : Encoding.Statement (.xCbresv rs2 rs1) := Encoding.of_none rfl
theorem Encoding.xCbpop (rs2 rs1 : BitVec 5) : Encoding.Statement (.xCbpop rs2 rs1) := Encoding.of_none rfl
theorem Encoding.xCbpush (rs2 rs1 : BitVec 5) : Encoding.Statement (.xCbpush rs2 rs1) := Encoding.of_none rfl
theorem Encoding.sidecarRiscvInstruction (i : RvInstr) (short : Bool) : Encoding.Statement (.sidecarRiscvInstruction i short) := Encoding.of_none rfl
theorem Encoding.sidecarFault (mcause mtval : BitVec 64) : Encoding.Statement (.sidecarFault mcause mtval) := Encoding.of_none rfl
theorem Encoding.loadReturn (c id : Nat) : Encoding.Statement (.loadReturn c id) := Encoding.of_none rfl
theorem Encoding.storePerformed (c id : Nat) : Encoding.Statement (.storePerformed c id) := Encoding.of_none rfl
theorem Encoding.redCombine (c id elem : Nat) : Encoding.Statement (.redCombine c id elem) := Encoding.of_none rfl
theorem Encoding.mOpStart (c : Nat) : Encoding.Statement (.mOpStart c) := Encoding.of_none rfl
theorem Encoding.mOpComplete (c id : Nat) : Encoding.Statement (.mOpComplete c id) := Encoding.of_none rfl
theorem Encoding.metadataFetch (c : Nat) : Encoding.Statement (.metadataFetch c) := Encoding.of_none rfl
theorem Encoding.statsRecordAdd (i : Nat) : Encoding.Statement (.statsRecordAdd i) := Encoding.of_none rfl
theorem Encoding.handGrant (core : Nat) : Encoding.Statement (.handGrant core) := Encoding.of_none rfl
theorem Encoding.handChangeEffect (c : Nat) : Encoding.Statement (.handChangeEffect c) := Encoding.of_none rfl
theorem Encoding.copyStart (core id : Nat) : Encoding.Statement (.copyStart core id) := Encoding.of_none rfl
theorem Encoding.copyComplete (core id : Nat) : Encoding.Statement (.copyComplete core id) := Encoding.of_none rfl
theorem Encoding.copyFault (core id : Nat) : Encoding.Statement (.copyFault core id) := Encoding.of_none rfl
theorem Encoding.deferredPush (c h : Nat) : Encoding.Statement (.deferredPush c h) := Encoding.of_none rfl
theorem Encoding.collectiveComplete (task level unit : Nat) : Encoding.Statement (.collectiveComplete task level unit) := Encoding.of_none rfl
theorem Encoding.barrierGenerationComplete (task level unit : Nat) : Encoding.Statement (.barrierGenerationComplete task level unit) := Encoding.of_none rfl
theorem Encoding.versionReclaim (line : Nat) (ver : BitVec 32) : Encoding.Statement (.versionReclaim line ver) := Encoding.of_none rfl
theorem Encoding.couchJobStart (eng : Nat) : Encoding.Statement (.couchJobStart eng) := Encoding.of_none rfl
theorem Encoding.couchJobComplete (eng : Nat) : Encoding.Statement (.couchJobComplete eng) := Encoding.of_none rfl
theorem Encoding.couchJobFail (eng : Nat) : Encoding.Statement (.couchJobFail eng) := Encoding.of_none rfl
theorem Encoding.waitLimitTrap (c : Nat) : Encoding.Statement (.waitLimitTrap c) := Encoding.of_none rfl
theorem Encoding.trapEntry (c : Nat) : Encoding.Statement (.trapEntry c) := Encoding.of_none rfl
theorem Encoding.shadowLatchDeliver (c i : Nat) : Encoding.Statement (.shadowLatchDeliver c i) := Encoding.of_none rfl
theorem Encoding.contextPark (c : Nat) : Encoding.Statement (.contextPark c) := Encoding.of_none rfl
theorem Encoding.gangStart (task : Nat) : Encoding.Statement (.gangStart task) := Encoding.of_none rfl
theorem Encoding.launch (q : Nat) : Encoding.Statement (.launch q) := Encoding.of_none rfl
theorem Encoding.graph (q : Nat) : Encoding.Statement (.graph q) := Encoding.of_none rfl
theorem Encoding.taskAdmit (die : Nat) : Encoding.Statement (.taskAdmit die) := Encoding.of_none rfl
theorem Encoding.groupPlace (task : Nat) (cores : List Nat) : Encoding.Statement (.groupPlace task cores) := Encoding.of_none rfl
theorem Encoding.priorityAge (task : Nat) : Encoding.Statement (.priorityAge task) := Encoding.of_none rfl
theorem Encoding.starvationHold (task : Nat) : Encoding.Statement (.starvationHold task) := Encoding.of_none rfl
theorem Encoding.taskComplete (task : Nat) : Encoding.Statement (.taskComplete task) := Encoding.of_none rfl
theorem Encoding.taskEnd (task : Nat) : Encoding.Statement (.taskEnd task) := Encoding.of_none rfl
theorem Encoding.recordWrite (q : Nat) : Encoding.Statement (.recordWrite q) := Encoding.of_none rfl
theorem Encoding.nodeTask (q : Nat) : Encoding.Statement (.nodeTask q) := Encoding.of_none rfl
theorem Encoding.nodeCond (q : Nat) : Encoding.Statement (.nodeCond q) := Encoding.of_none rfl
theorem Encoding.nodeWhile (q : Nat) : Encoding.Statement (.nodeWhile q) := Encoding.of_none rfl
theorem Encoding.nodeCalstep (q : Nat) : Encoding.Statement (.nodeCalstep q) := Encoding.of_none rfl
theorem Encoding.nodeRerun (q : Nat) : Encoding.Statement (.nodeRerun q) := Encoding.of_none rfl
theorem Encoding.guessStart (q : Nat) (cores : List Nat) : Encoding.Statement (.guessStart q cores) := Encoding.of_none rfl
theorem Encoding.guessClaim (q : Nat) : Encoding.Statement (.guessClaim q) := Encoding.of_none rfl
theorem Encoding.guessDrop (q cause : Nat) : Encoding.Statement (.guessDrop q cause) := Encoding.of_none rfl
theorem Encoding.pageWalk (slice part asid : Nat) (va : BitVec 64) : Encoding.Statement (.pageWalk slice part asid va) := Encoding.of_none rfl
theorem Encoding.faultPost (c : Nat) : Encoding.Statement (.faultPost c) := Encoding.of_none rfl
theorem Encoding.verdictResolve (part die : Nat) (id : BitVec 32) : Encoding.Statement (.verdictResolve part die id) := Encoding.of_none rfl
theorem Encoding.verdictRefuse (part die : Nat) (id : BitVec 32) : Encoding.Statement (.verdictRefuse part die id) := Encoding.of_none rfl
theorem Encoding.qcfgEnSet (q : Nat) (val : BitVec 64) : Encoding.Statement (.qcfgEnSet q val) := Encoding.of_none rfl
theorem Encoding.qcfgEnClear (q : Nat) (val : BitVec 64) : Encoding.Statement (.qcfgEnClear q val) := Encoding.of_none rfl
theorem Encoding.qctlRestart (q : Nat) : Encoding.Statement (.qctlRestart q) := Encoding.of_none rfl
theorem Encoding.qctlReset (q : Nat) : Encoding.Statement (.qctlReset q) := Encoding.of_none rfl
theorem Encoding.qspecWrite (q : Nat) (val : BitVec 64) : Encoding.Statement (.qspecWrite q val) := Encoding.of_none rfl
theorem Encoding.dlrcfgWrite (die : Nat) (val : BitVec 64) : Encoding.Statement (.dlrcfgWrite die val) := Encoding.of_none rfl
theorem Encoding.prctlPark : Encoding.Statement (.prctlPark) := Encoding.of_none rfl
theorem Encoding.prctlEvict : Encoding.Statement (.prctlEvict) := Encoding.of_none rfl
theorem Encoding.prctlResume : Encoding.Statement (.prctlResume) := Encoding.of_none rfl
theorem Encoding.evictSave : Encoding.Statement (.evictSave) := Encoding.of_none rfl
theorem Encoding.resumeRestore (cores : List Nat) : Encoding.Statement (.resumeRestore cores) := Encoding.of_none rfl
theorem Encoding.reamValidSet (part n : Nat) (val : BitVec 64) : Encoding.Statement (.reamValidSet part n val) := Encoding.of_none rfl
theorem Encoding.reamReady (part n : Nat) : Encoding.Statement (.reamReady part n) := Encoding.of_none rfl
theorem Encoding.reamValidClear (part n : Nat) (val : BitVec 64) : Encoding.Statement (.reamValidClear part n val) := Encoding.of_none rfl
theorem Encoding.keySlotWrite (addr : Nat) (val : BitVec 64) : Encoding.Statement (.keySlotWrite addr val) := Encoding.of_none rfl
theorem Encoding.calenderPreset (entry : Nat) (k : BitVec 64) : Encoding.Statement (.calenderPreset entry k) := Encoding.of_none rfl
theorem Encoding.calenderClr (entry : Nat) : Encoding.Statement (.calenderClr entry) := Encoding.of_none rfl
theorem Encoding.calenderWindowWrite (entry word : Nat) (val : BitVec 64) : Encoding.Statement (.calenderWindowWrite entry word val) := Encoding.of_none rfl
theorem Encoding.registerWrite (addr : Nat) (val : BitVec 64) : Encoding.Statement (.registerWrite addr val) := Encoding.of_none rfl
theorem Encoding.packageResetWrite : Encoding.Statement (.packageResetWrite) := Encoding.of_none rfl
theorem Encoding.powerOn : Encoding.Statement (.powerOn) := Encoding.of_none rfl
theorem Encoding.bringupDone : Encoding.Statement (.bringupDone) := Encoding.of_none rfl
theorem Encoding.attgo : Encoding.Statement (.attgo) := Encoding.of_none rfl
theorem Encoding.attestDone : Encoding.Statement (.attestDone) := Encoding.of_none rfl
theorem Encoding.haltreq (core : Nat) : Encoding.Statement (.haltreq core) := Encoding.of_none rfl
theorem Encoding.release (core : Nat) : Encoding.Statement (.release core) := Encoding.of_none rfl
theorem Encoding.windowRead (f : Frame) : Encoding.Statement (.windowRead f) := Encoding.of_none rfl
theorem Encoding.windowWrite (f : Frame) : Encoding.Statement (.windowWrite f) := Encoding.of_none rfl
theorem Encoding.memoryRead (f : Frame) : Encoding.Statement (.memoryRead f) := Encoding.of_none rfl
theorem Encoding.memoryWrite (f : Frame) : Encoding.Statement (.memoryWrite f) := Encoding.of_none rfl
theorem Encoding.recoveryStage (f : Frame) : Encoding.Statement (.recoveryStage f) := Encoding.of_none rfl
theorem Encoding.recoveryCommit (f : Frame) : Encoding.Statement (.recoveryCommit f) := Encoding.of_none rfl
theorem Encoding.malformedFrame (f : Frame) : Encoding.Statement (.malformedFrame f) := Encoding.of_none rfl
theorem Encoding.fcsDrop (f : Frame) : Encoding.Statement (.fcsDrop f) := Encoding.of_none rfl
theorem Encoding.ptpMessage (offset : Int) : Encoding.Statement (.ptpMessage offset) := Encoding.of_none rfl
theorem Encoding.gangAnnounce (pkg gangid gpart gpkgs : Nat) : Encoding.Statement (.gangAnnounce pkg gangid gpart gpkgs) := Encoding.of_none rfl
theorem Encoding.uePacket (p : UePacket) : Encoding.Statement (.uePacket p) := Encoding.of_none rfl
theorem Encoding.linkLost (task unit : Nat) : Encoding.Statement (.linkLost task unit) := Encoding.of_none rfl
theorem Encoding.portStateChange (port : Nat) (st : BitVec 2) : Encoding.Statement (.portStateChange port st) := Encoding.of_none rfl
theorem Encoding.flitReplay (link : Nat) : Encoding.Statement (.flitReplay link) := Encoding.of_none rfl
theorem Encoding.nocParityResend (router : Nat) (second : Bool) : Encoding.Statement (.nocParityResend router second) := Encoding.of_none rfl
theorem Encoding.dieOvertemp (die : Nat) : Encoding.Statement (.dieOvertemp die) := Encoding.of_none rfl
theorem Encoding.governorTick (power : BitVec 32) (hot cool : Bool) : Encoding.Statement (.governorTick power hot cool) := Encoding.of_none rfl
theorem Encoding.unassignedCmd (q : Nat) : Encoding.Statement (.unassignedCmd q) := Encoding.of_none rfl
theorem Encoding.calenderReadCopyUpdate : Encoding.Statement (.calenderReadCopyUpdate) := Encoding.of_none rfl
theorem Encoding.tlbInvalidationComplete (c : Nat) : Encoding.Statement (.tlbInvalidationComplete c) := Encoding.of_none rfl

end Sys2Proof.Laws
end

