-- ==== Sys2Proof/Laws/State.lean ====
section
/-!
SUPPORT. One lemma for each field that an update of the state leaves alone, and what the named reads find after it.
-/

namespace Sys2Proof.Machine

variable (s : State)

@[simp] theorem State.putCtx_cores (k : Nat) (c : Ctx) : (s.putCtx k c).cores = s.cores := rfl
@[simp] theorem State.putCtx_sides (k : Nat) (c : Ctx) : (s.putCtx k c).sides = s.sides := rfl
@[simp] theorem State.putCtx_mem (k : Nat) (c : Ctx) : (s.putCtx k c).mem = s.mem := rfl
@[simp] theorem State.putCtx_hub (k : Nat) (c : Ctx) : (s.putCtx k c).hub = s.hub := rfl
@[simp] theorem State.putCtx_disp (k : Nat) (c : Ctx) : (s.putCtx k c).disp = s.disp := rfl
@[simp] theorem State.putCtx_mgmt (k : Nat) (c : Ctx) : (s.putCtx k c).mgmt = s.mgmt := rfl
@[simp] theorem State.putCtx_slices (k : Nat) (c : Ctx) : (s.putCtx k c).slices = s.slices := rfl
@[simp] theorem State.putCtx_walks (k : Nat) (c : Ctx) : (s.putCtx k c).walks = s.walks := rfl
@[simp] theorem State.putCtx_fq (k : Nat) (c : Ctx) : (s.putCtx k c).fq = s.fq := rfl
@[simp] theorem State.putCtx_fqIds (k : Nat) (c : Ctx) : (s.putCtx k c).fqIds = s.fqIds := rfl
@[simp] theorem State.putCtx_core (k : Nat) (c : Ctx) : (s.putCtx k c).core = s.core := rfl
@[simp] theorem State.putCtx_side (k : Nat) (c : Ctx) : (s.putCtx k c).side = s.side := rfl
@[simp] theorem State.putCtx_agenda (k : Nat) (c : Ctx) : (s.putCtx k c).agenda = s.agenda := rfl
@[simp] theorem State.putCtx_turn (k : Nat) (c : Ctx) : (s.putCtx k c).turn = s.turn := rfl
@[simp] theorem State.putCtx_issue (k : Nat) (c : Ctx) : (s.putCtx k c).issue = s.issue := rfl
@[simp] theorem State.putCtx_seq (k : Nat) (c : Ctx) : (s.putCtx k c).seq = s.seq := rfl
@[simp] theorem State.putCtx_free (k : Nat) (c : Ctx) : (s.putCtx k c).free = s.free := rfl

@[simp] theorem State.onCtx_cores (k : Nat) (f : Ctx → Ctx) : (s.onCtx k f).cores = s.cores := rfl
@[simp] theorem State.onCtx_sides (k : Nat) (f : Ctx → Ctx) : (s.onCtx k f).sides = s.sides := rfl
@[simp] theorem State.onCtx_mem (k : Nat) (f : Ctx → Ctx) : (s.onCtx k f).mem = s.mem := rfl
@[simp] theorem State.onCtx_hub (k : Nat) (f : Ctx → Ctx) : (s.onCtx k f).hub = s.hub := rfl
@[simp] theorem State.onCtx_disp (k : Nat) (f : Ctx → Ctx) : (s.onCtx k f).disp = s.disp := rfl
@[simp] theorem State.onCtx_mgmt (k : Nat) (f : Ctx → Ctx) : (s.onCtx k f).mgmt = s.mgmt := rfl
@[simp] theorem State.onCtx_slices (k : Nat) (f : Ctx → Ctx) : (s.onCtx k f).slices = s.slices := rfl
@[simp] theorem State.onCtx_walks (k : Nat) (f : Ctx → Ctx) : (s.onCtx k f).walks = s.walks := rfl
@[simp] theorem State.onCtx_fq (k : Nat) (f : Ctx → Ctx) : (s.onCtx k f).fq = s.fq := rfl
@[simp] theorem State.onCtx_fqIds (k : Nat) (f : Ctx → Ctx) : (s.onCtx k f).fqIds = s.fqIds := rfl
@[simp] theorem State.onCtx_core (k : Nat) (f : Ctx → Ctx) : (s.onCtx k f).core = s.core := rfl
@[simp] theorem State.onCtx_side (k : Nat) (f : Ctx → Ctx) : (s.onCtx k f).side = s.side := rfl
@[simp] theorem State.onCtx_agenda (k : Nat) (f : Ctx → Ctx) : (s.onCtx k f).agenda = s.agenda := rfl
@[simp] theorem State.onCtx_turn (k : Nat) (f : Ctx → Ctx) : (s.onCtx k f).turn = s.turn := rfl
@[simp] theorem State.onCtx_issue (k : Nat) (f : Ctx → Ctx) : (s.onCtx k f).issue = s.issue := rfl
@[simp] theorem State.onCtx_seq (k : Nat) (f : Ctx → Ctx) : (s.onCtx k f).seq = s.seq := rfl
@[simp] theorem State.onCtx_free (k : Nat) (f : Ctx → Ctx) : (s.onCtx k f).free = s.free := rfl

@[simp] theorem State.onCore_ctxs (n : Nat) (f : Core → Core) : (s.onCore n f).ctxs = s.ctxs := rfl
@[simp] theorem State.onCore_sides (n : Nat) (f : Core → Core) : (s.onCore n f).sides = s.sides := rfl
@[simp] theorem State.onCore_mem (n : Nat) (f : Core → Core) : (s.onCore n f).mem = s.mem := rfl
@[simp] theorem State.onCore_hub (n : Nat) (f : Core → Core) : (s.onCore n f).hub = s.hub := rfl
@[simp] theorem State.onCore_disp (n : Nat) (f : Core → Core) : (s.onCore n f).disp = s.disp := rfl
@[simp] theorem State.onCore_mgmt (n : Nat) (f : Core → Core) : (s.onCore n f).mgmt = s.mgmt := rfl
@[simp] theorem State.onCore_slices (n : Nat) (f : Core → Core) : (s.onCore n f).slices = s.slices := rfl
@[simp] theorem State.onCore_walks (n : Nat) (f : Core → Core) : (s.onCore n f).walks = s.walks := rfl
@[simp] theorem State.onCore_fq (n : Nat) (f : Core → Core) : (s.onCore n f).fq = s.fq := rfl
@[simp] theorem State.onCore_fqIds (n : Nat) (f : Core → Core) : (s.onCore n f).fqIds = s.fqIds := rfl
@[simp] theorem State.onCore_core (n : Nat) (f : Core → Core) : (s.onCore n f).core = s.core := rfl
@[simp] theorem State.onCore_side (n : Nat) (f : Core → Core) : (s.onCore n f).side = s.side := rfl
@[simp] theorem State.onCore_agenda (n : Nat) (f : Core → Core) : (s.onCore n f).agenda = s.agenda := rfl
@[simp] theorem State.onCore_turn (n : Nat) (f : Core → Core) : (s.onCore n f).turn = s.turn := rfl
@[simp] theorem State.onCore_issue (n : Nat) (f : Core → Core) : (s.onCore n f).issue = s.issue := rfl
@[simp] theorem State.onCore_seq (n : Nat) (f : Core → Core) : (s.onCore n f).seq = s.seq := rfl
@[simp] theorem State.onCore_free (n : Nat) (f : Core → Core) : (s.onCore n f).free = s.free := rfl

@[simp] theorem State.onSide_ctxs (n : Nat) (f : Side → Side) : (s.onSide n f).ctxs = s.ctxs := rfl
@[simp] theorem State.onSide_cores (n : Nat) (f : Side → Side) : (s.onSide n f).cores = s.cores := rfl
@[simp] theorem State.onSide_mem (n : Nat) (f : Side → Side) : (s.onSide n f).mem = s.mem := rfl
@[simp] theorem State.onSide_hub (n : Nat) (f : Side → Side) : (s.onSide n f).hub = s.hub := rfl
@[simp] theorem State.onSide_disp (n : Nat) (f : Side → Side) : (s.onSide n f).disp = s.disp := rfl
@[simp] theorem State.onSide_mgmt (n : Nat) (f : Side → Side) : (s.onSide n f).mgmt = s.mgmt := rfl
@[simp] theorem State.onSide_slices (n : Nat) (f : Side → Side) : (s.onSide n f).slices = s.slices := rfl
@[simp] theorem State.onSide_walks (n : Nat) (f : Side → Side) : (s.onSide n f).walks = s.walks := rfl
@[simp] theorem State.onSide_fq (n : Nat) (f : Side → Side) : (s.onSide n f).fq = s.fq := rfl
@[simp] theorem State.onSide_fqIds (n : Nat) (f : Side → Side) : (s.onSide n f).fqIds = s.fqIds := rfl
@[simp] theorem State.onSide_core (n : Nat) (f : Side → Side) : (s.onSide n f).core = s.core := rfl
@[simp] theorem State.onSide_side (n : Nat) (f : Side → Side) : (s.onSide n f).side = s.side := rfl
@[simp] theorem State.onSide_agenda (n : Nat) (f : Side → Side) : (s.onSide n f).agenda = s.agenda := rfl
@[simp] theorem State.onSide_turn (n : Nat) (f : Side → Side) : (s.onSide n f).turn = s.turn := rfl
@[simp] theorem State.onSide_issue (n : Nat) (f : Side → Side) : (s.onSide n f).issue = s.issue := rfl
@[simp] theorem State.onSide_seq (n : Nat) (f : Side → Side) : (s.onSide n f).seq = s.seq := rfl
@[simp] theorem State.onSide_free (n : Nat) (f : Side → Side) : (s.onSide n f).free = s.free := rfl

@[simp] theorem State.onResv_ctxs (r : Nat) (f : Resv → Resv) : (s.onResv r f).ctxs = s.ctxs := rfl
@[simp] theorem State.onResv_cores (r : Nat) (f : Resv → Resv) : (s.onResv r f).cores = s.cores := rfl
@[simp] theorem State.onResv_sides (r : Nat) (f : Resv → Resv) : (s.onResv r f).sides = s.sides := rfl
@[simp] theorem State.onResv_mem (r : Nat) (f : Resv → Resv) : (s.onResv r f).mem = s.mem := rfl
@[simp] theorem State.onResv_hub (r : Nat) (f : Resv → Resv) : (s.onResv r f).hub = s.hub := rfl
@[simp] theorem State.onResv_mgmt (r : Nat) (f : Resv → Resv) : (s.onResv r f).mgmt = s.mgmt := rfl
@[simp] theorem State.onResv_slices (r : Nat) (f : Resv → Resv) : (s.onResv r f).slices = s.slices := rfl
@[simp] theorem State.onResv_walks (r : Nat) (f : Resv → Resv) : (s.onResv r f).walks = s.walks := rfl
@[simp] theorem State.onResv_fq (r : Nat) (f : Resv → Resv) : (s.onResv r f).fq = s.fq := rfl
@[simp] theorem State.onResv_fqIds (r : Nat) (f : Resv → Resv) : (s.onResv r f).fqIds = s.fqIds := rfl
@[simp] theorem State.onResv_core (r : Nat) (f : Resv → Resv) : (s.onResv r f).core = s.core := rfl
@[simp] theorem State.onResv_side (r : Nat) (f : Resv → Resv) : (s.onResv r f).side = s.side := rfl
@[simp] theorem State.onResv_agenda (r : Nat) (f : Resv → Resv) : (s.onResv r f).agenda = s.agenda := rfl
@[simp] theorem State.onResv_turn (r : Nat) (f : Resv → Resv) : (s.onResv r f).turn = s.turn := rfl
@[simp] theorem State.onResv_issue (r : Nat) (f : Resv → Resv) : (s.onResv r f).issue = s.issue := rfl
@[simp] theorem State.onResv_seq (r : Nat) (f : Resv → Resv) : (s.onResv r f).seq = s.seq := rfl
@[simp] theorem State.onResv_free (r : Nat) (f : Resv → Resv) : (s.onResv r f).free = s.free := rfl

@[simp] theorem State.onTask_ctxs (t : Nat) (f : Task → Task) : (s.onTask t f).ctxs = s.ctxs := rfl
@[simp] theorem State.onTask_cores (t : Nat) (f : Task → Task) : (s.onTask t f).cores = s.cores := rfl
@[simp] theorem State.onTask_sides (t : Nat) (f : Task → Task) : (s.onTask t f).sides = s.sides := rfl
@[simp] theorem State.onTask_mem (t : Nat) (f : Task → Task) : (s.onTask t f).mem = s.mem := rfl
@[simp] theorem State.onTask_hub (t : Nat) (f : Task → Task) : (s.onTask t f).hub = s.hub := rfl
@[simp] theorem State.onTask_mgmt (t : Nat) (f : Task → Task) : (s.onTask t f).mgmt = s.mgmt := rfl
@[simp] theorem State.onTask_slices (t : Nat) (f : Task → Task) : (s.onTask t f).slices = s.slices := rfl
@[simp] theorem State.onTask_walks (t : Nat) (f : Task → Task) : (s.onTask t f).walks = s.walks := rfl
@[simp] theorem State.onTask_fq (t : Nat) (f : Task → Task) : (s.onTask t f).fq = s.fq := rfl
@[simp] theorem State.onTask_fqIds (t : Nat) (f : Task → Task) : (s.onTask t f).fqIds = s.fqIds := rfl
@[simp] theorem State.onTask_core (t : Nat) (f : Task → Task) : (s.onTask t f).core = s.core := rfl
@[simp] theorem State.onTask_side (t : Nat) (f : Task → Task) : (s.onTask t f).side = s.side := rfl
@[simp] theorem State.onTask_agenda (t : Nat) (f : Task → Task) : (s.onTask t f).agenda = s.agenda := rfl
@[simp] theorem State.onTask_turn (t : Nat) (f : Task → Task) : (s.onTask t f).turn = s.turn := rfl
@[simp] theorem State.onTask_issue (t : Nat) (f : Task → Task) : (s.onTask t f).issue = s.issue := rfl
@[simp] theorem State.onTask_seq (t : Nat) (f : Task → Task) : (s.onTask t f).seq = s.seq := rfl
@[simp] theorem State.onTask_free (t : Nat) (f : Task → Task) : (s.onTask t f).free = s.free := rfl

@[simp] theorem State.onQueue_ctxs (q : Nat) (f : Queue → Queue) : (s.onQueue q f).ctxs = s.ctxs := rfl
@[simp] theorem State.onQueue_cores (q : Nat) (f : Queue → Queue) : (s.onQueue q f).cores = s.cores := rfl
@[simp] theorem State.onQueue_sides (q : Nat) (f : Queue → Queue) : (s.onQueue q f).sides = s.sides := rfl
@[simp] theorem State.onQueue_mem (q : Nat) (f : Queue → Queue) : (s.onQueue q f).mem = s.mem := rfl
@[simp] theorem State.onQueue_hub (q : Nat) (f : Queue → Queue) : (s.onQueue q f).hub = s.hub := rfl
@[simp] theorem State.onQueue_mgmt (q : Nat) (f : Queue → Queue) : (s.onQueue q f).mgmt = s.mgmt := rfl
@[simp] theorem State.onQueue_slices (q : Nat) (f : Queue → Queue) : (s.onQueue q f).slices = s.slices := rfl
@[simp] theorem State.onQueue_walks (q : Nat) (f : Queue → Queue) : (s.onQueue q f).walks = s.walks := rfl
@[simp] theorem State.onQueue_fq (q : Nat) (f : Queue → Queue) : (s.onQueue q f).fq = s.fq := rfl
@[simp] theorem State.onQueue_fqIds (q : Nat) (f : Queue → Queue) : (s.onQueue q f).fqIds = s.fqIds := rfl
@[simp] theorem State.onQueue_core (q : Nat) (f : Queue → Queue) : (s.onQueue q f).core = s.core := rfl
@[simp] theorem State.onQueue_side (q : Nat) (f : Queue → Queue) : (s.onQueue q f).side = s.side := rfl
@[simp] theorem State.onQueue_agenda (q : Nat) (f : Queue → Queue) : (s.onQueue q f).agenda = s.agenda := rfl
@[simp] theorem State.onQueue_turn (q : Nat) (f : Queue → Queue) : (s.onQueue q f).turn = s.turn := rfl
@[simp] theorem State.onQueue_issue (q : Nat) (f : Queue → Queue) : (s.onQueue q f).issue = s.issue := rfl
@[simp] theorem State.onQueue_seq (q : Nat) (f : Queue → Queue) : (s.onQueue q f).seq = s.seq := rfl
@[simp] theorem State.onQueue_free (q : Nat) (f : Queue → Queue) : (s.onQueue q f).free = s.free := rfl

@[simp] theorem State.onDealer_ctxs (q : Nat) (f : Dealer → Dealer) : (s.onDealer q f).ctxs = s.ctxs := rfl
@[simp] theorem State.onDealer_cores (q : Nat) (f : Dealer → Dealer) : (s.onDealer q f).cores = s.cores := rfl
@[simp] theorem State.onDealer_sides (q : Nat) (f : Dealer → Dealer) : (s.onDealer q f).sides = s.sides := rfl
@[simp] theorem State.onDealer_mem (q : Nat) (f : Dealer → Dealer) : (s.onDealer q f).mem = s.mem := rfl
@[simp] theorem State.onDealer_hub (q : Nat) (f : Dealer → Dealer) : (s.onDealer q f).hub = s.hub := rfl
@[simp] theorem State.onDealer_mgmt (q : Nat) (f : Dealer → Dealer) : (s.onDealer q f).mgmt = s.mgmt := rfl
@[simp] theorem State.onDealer_slices (q : Nat) (f : Dealer → Dealer) : (s.onDealer q f).slices = s.slices := rfl
@[simp] theorem State.onDealer_walks (q : Nat) (f : Dealer → Dealer) : (s.onDealer q f).walks = s.walks := rfl
@[simp] theorem State.onDealer_fq (q : Nat) (f : Dealer → Dealer) : (s.onDealer q f).fq = s.fq := rfl
@[simp] theorem State.onDealer_fqIds (q : Nat) (f : Dealer → Dealer) : (s.onDealer q f).fqIds = s.fqIds := rfl
@[simp] theorem State.onDealer_core (q : Nat) (f : Dealer → Dealer) : (s.onDealer q f).core = s.core := rfl
@[simp] theorem State.onDealer_side (q : Nat) (f : Dealer → Dealer) : (s.onDealer q f).side = s.side := rfl
@[simp] theorem State.onDealer_agenda (q : Nat) (f : Dealer → Dealer) : (s.onDealer q f).agenda = s.agenda := rfl
@[simp] theorem State.onDealer_turn (q : Nat) (f : Dealer → Dealer) : (s.onDealer q f).turn = s.turn := rfl
@[simp] theorem State.onDealer_issue (q : Nat) (f : Dealer → Dealer) : (s.onDealer q f).issue = s.issue := rfl
@[simp] theorem State.onDealer_seq (q : Nat) (f : Dealer → Dealer) : (s.onDealer q f).seq = s.seq := rfl
@[simp] theorem State.onDealer_free (q : Nat) (f : Dealer → Dealer) : (s.onDealer q f).free = s.free := rfl

@[simp] theorem State.onReam_ctxs (r : Nat) (f : Ream → Ream) : (s.onReam r f).ctxs = s.ctxs := rfl
@[simp] theorem State.onReam_cores (r : Nat) (f : Ream → Ream) : (s.onReam r f).cores = s.cores := rfl
@[simp] theorem State.onReam_sides (r : Nat) (f : Ream → Ream) : (s.onReam r f).sides = s.sides := rfl
@[simp] theorem State.onReam_hub (r : Nat) (f : Ream → Ream) : (s.onReam r f).hub = s.hub := rfl
@[simp] theorem State.onReam_disp (r : Nat) (f : Ream → Ream) : (s.onReam r f).disp = s.disp := rfl
@[simp] theorem State.onReam_mgmt (r : Nat) (f : Ream → Ream) : (s.onReam r f).mgmt = s.mgmt := rfl
@[simp] theorem State.onReam_slices (r : Nat) (f : Ream → Ream) : (s.onReam r f).slices = s.slices := rfl
@[simp] theorem State.onReam_walks (r : Nat) (f : Ream → Ream) : (s.onReam r f).walks = s.walks := rfl
@[simp] theorem State.onReam_fq (r : Nat) (f : Ream → Ream) : (s.onReam r f).fq = s.fq := rfl
@[simp] theorem State.onReam_fqIds (r : Nat) (f : Ream → Ream) : (s.onReam r f).fqIds = s.fqIds := rfl
@[simp] theorem State.onReam_core (r : Nat) (f : Ream → Ream) : (s.onReam r f).core = s.core := rfl
@[simp] theorem State.onReam_side (r : Nat) (f : Ream → Ream) : (s.onReam r f).side = s.side := rfl
@[simp] theorem State.onReam_agenda (r : Nat) (f : Ream → Ream) : (s.onReam r f).agenda = s.agenda := rfl
@[simp] theorem State.onReam_turn (r : Nat) (f : Ream → Ream) : (s.onReam r f).turn = s.turn := rfl
@[simp] theorem State.onReam_issue (r : Nat) (f : Ream → Ream) : (s.onReam r f).issue = s.issue := rfl
@[simp] theorem State.onReam_seq (r : Nat) (f : Ream → Ream) : (s.onReam r f).seq = s.seq := rfl
@[simp] theorem State.onReam_free (r : Nat) (f : Ream → Ream) : (s.onReam r f).free = s.free := rfl

@[simp] theorem State.setWin_ctxs (a : Nat) (v : W64) : (s.setWin a v).ctxs = s.ctxs := rfl
@[simp] theorem State.setWin_cores (a : Nat) (v : W64) : (s.setWin a v).cores = s.cores := rfl
@[simp] theorem State.setWin_sides (a : Nat) (v : W64) : (s.setWin a v).sides = s.sides := rfl
@[simp] theorem State.setWin_mem (a : Nat) (v : W64) : (s.setWin a v).mem = s.mem := rfl
@[simp] theorem State.setWin_hub (a : Nat) (v : W64) : (s.setWin a v).hub = s.hub := rfl
@[simp] theorem State.setWin_disp (a : Nat) (v : W64) : (s.setWin a v).disp = s.disp := rfl
@[simp] theorem State.setWin_slices (a : Nat) (v : W64) : (s.setWin a v).slices = s.slices := rfl
@[simp] theorem State.setWin_walks (a : Nat) (v : W64) : (s.setWin a v).walks = s.walks := rfl
@[simp] theorem State.setWin_fq (a : Nat) (v : W64) : (s.setWin a v).fq = s.fq := rfl
@[simp] theorem State.setWin_fqIds (a : Nat) (v : W64) : (s.setWin a v).fqIds = s.fqIds := rfl
@[simp] theorem State.setWin_core (a : Nat) (v : W64) : (s.setWin a v).core = s.core := rfl
@[simp] theorem State.setWin_side (a : Nat) (v : W64) : (s.setWin a v).side = s.side := rfl
@[simp] theorem State.setWin_agenda (a : Nat) (v : W64) : (s.setWin a v).agenda = s.agenda := rfl
@[simp] theorem State.setWin_turn (a : Nat) (v : W64) : (s.setWin a v).turn = s.turn := rfl
@[simp] theorem State.setWin_issue (a : Nat) (v : W64) : (s.setWin a v).issue = s.issue := rfl
@[simp] theorem State.setWin_seq (a : Nat) (v : W64) : (s.setWin a v).seq = s.seq := rfl
@[simp] theorem State.setWin_free (a : Nat) (v : W64) : (s.setWin a v).free = s.free := rfl

@[simp] theorem State.setQreg_ctxs (q off : Nat) (v : W64) : (s.setQreg q off v).ctxs = s.ctxs := rfl
@[simp] theorem State.setQreg_cores (q off : Nat) (v : W64) : (s.setQreg q off v).cores = s.cores := rfl
@[simp] theorem State.setQreg_sides (q off : Nat) (v : W64) : (s.setQreg q off v).sides = s.sides := rfl
@[simp] theorem State.setQreg_mem (q off : Nat) (v : W64) : (s.setQreg q off v).mem = s.mem := rfl
@[simp] theorem State.setQreg_hub (q off : Nat) (v : W64) : (s.setQreg q off v).hub = s.hub := rfl
@[simp] theorem State.setQreg_disp (q off : Nat) (v : W64) : (s.setQreg q off v).disp = s.disp := rfl
@[simp] theorem State.setQreg_slices (q off : Nat) (v : W64) : (s.setQreg q off v).slices = s.slices := rfl
@[simp] theorem State.setQreg_walks (q off : Nat) (v : W64) : (s.setQreg q off v).walks = s.walks := rfl
@[simp] theorem State.setQreg_fq (q off : Nat) (v : W64) : (s.setQreg q off v).fq = s.fq := rfl
@[simp] theorem State.setQreg_fqIds (q off : Nat) (v : W64) : (s.setQreg q off v).fqIds = s.fqIds := rfl
@[simp] theorem State.setQreg_core (q off : Nat) (v : W64) : (s.setQreg q off v).core = s.core := rfl
@[simp] theorem State.setQreg_side (q off : Nat) (v : W64) : (s.setQreg q off v).side = s.side := rfl
@[simp] theorem State.setQreg_agenda (q off : Nat) (v : W64) : (s.setQreg q off v).agenda = s.agenda := rfl
@[simp] theorem State.setQreg_turn (q off : Nat) (v : W64) : (s.setQreg q off v).turn = s.turn := rfl
@[simp] theorem State.setQreg_issue (q off : Nat) (v : W64) : (s.setQreg q off v).issue = s.issue := rfl
@[simp] theorem State.setQreg_seq (q off : Nat) (v : W64) : (s.setQreg q off v).seq = s.seq := rfl
@[simp] theorem State.setQreg_free (q off : Nat) (v : W64) : (s.setQreg q off v).free = s.free := rfl

@[simp] theorem State.fill_ctxs (pa key : Nat) : (s.fill pa key).ctxs = s.ctxs := rfl
@[simp] theorem State.fill_cores (pa key : Nat) : (s.fill pa key).cores = s.cores := rfl
@[simp] theorem State.fill_sides (pa key : Nat) : (s.fill pa key).sides = s.sides := rfl
@[simp] theorem State.fill_hub (pa key : Nat) : (s.fill pa key).hub = s.hub := rfl
@[simp] theorem State.fill_disp (pa key : Nat) : (s.fill pa key).disp = s.disp := rfl
@[simp] theorem State.fill_mgmt (pa key : Nat) : (s.fill pa key).mgmt = s.mgmt := rfl
@[simp] theorem State.fill_slices (pa key : Nat) : (s.fill pa key).slices = s.slices := rfl
@[simp] theorem State.fill_walks (pa key : Nat) : (s.fill pa key).walks = s.walks := rfl
@[simp] theorem State.fill_fq (pa key : Nat) : (s.fill pa key).fq = s.fq := rfl
@[simp] theorem State.fill_fqIds (pa key : Nat) : (s.fill pa key).fqIds = s.fqIds := rfl
@[simp] theorem State.fill_core (pa key : Nat) : (s.fill pa key).core = s.core := rfl
@[simp] theorem State.fill_side (pa key : Nat) : (s.fill pa key).side = s.side := rfl
@[simp] theorem State.fill_agenda (pa key : Nat) : (s.fill pa key).agenda = s.agenda := rfl
@[simp] theorem State.fill_turn (pa key : Nat) : (s.fill pa key).turn = s.turn := rfl
@[simp] theorem State.fill_issue (pa key : Nat) : (s.fill pa key).issue = s.issue := rfl
@[simp] theorem State.fill_seq (pa key : Nat) : (s.fill pa key).seq = s.seq := rfl
@[simp] theorem State.fill_free (pa key : Nat) : (s.fill pa key).free = s.free := rfl

@[simp] theorem State.takeFree_ctxs (w : Nat) : ((State.takeFree w s).2).ctxs = s.ctxs := rfl
@[simp] theorem State.takeFree_cores (w : Nat) : ((State.takeFree w s).2).cores = s.cores := rfl
@[simp] theorem State.takeFree_sides (w : Nat) : ((State.takeFree w s).2).sides = s.sides := rfl
@[simp] theorem State.takeFree_mem (w : Nat) : ((State.takeFree w s).2).mem = s.mem := rfl
@[simp] theorem State.takeFree_hub (w : Nat) : ((State.takeFree w s).2).hub = s.hub := rfl
@[simp] theorem State.takeFree_disp (w : Nat) : ((State.takeFree w s).2).disp = s.disp := rfl
@[simp] theorem State.takeFree_mgmt (w : Nat) : ((State.takeFree w s).2).mgmt = s.mgmt := rfl
@[simp] theorem State.takeFree_slices (w : Nat) : ((State.takeFree w s).2).slices = s.slices := rfl
@[simp] theorem State.takeFree_walks (w : Nat) : ((State.takeFree w s).2).walks = s.walks := rfl
@[simp] theorem State.takeFree_fq (w : Nat) : ((State.takeFree w s).2).fq = s.fq := rfl
@[simp] theorem State.takeFree_fqIds (w : Nat) : ((State.takeFree w s).2).fqIds = s.fqIds := rfl
@[simp] theorem State.takeFree_core (w : Nat) : ((State.takeFree w s).2).core = s.core := rfl
@[simp] theorem State.takeFree_side (w : Nat) : ((State.takeFree w s).2).side = s.side := rfl
@[simp] theorem State.takeFree_agenda (w : Nat) : ((State.takeFree w s).2).agenda = s.agenda := rfl
@[simp] theorem State.takeFree_turn (w : Nat) : ((State.takeFree w s).2).turn = s.turn := rfl
@[simp] theorem State.takeFree_issue (w : Nat) : ((State.takeFree w s).2).issue = s.issue := rfl
@[simp] theorem State.takeFree_seq (w : Nat) : ((State.takeFree w s).2).seq = s.seq := rfl

@[simp] theorem State.pushRecord_ctxs (q : Nat) (ws : List W64) : (s.pushRecord q ws).ctxs = s.ctxs := rfl
@[simp] theorem State.pushRecord_cores (q : Nat) (ws : List W64) : (s.pushRecord q ws).cores = s.cores := rfl
@[simp] theorem State.pushRecord_sides (q : Nat) (ws : List W64) : (s.pushRecord q ws).sides = s.sides := rfl
@[simp] theorem State.pushRecord_mem (q : Nat) (ws : List W64) : (s.pushRecord q ws).mem = s.mem := rfl
@[simp] theorem State.pushRecord_hub (q : Nat) (ws : List W64) : (s.pushRecord q ws).hub = s.hub := rfl
@[simp] theorem State.pushRecord_mgmt (q : Nat) (ws : List W64) : (s.pushRecord q ws).mgmt = s.mgmt := rfl
@[simp] theorem State.pushRecord_slices (q : Nat) (ws : List W64) : (s.pushRecord q ws).slices = s.slices := rfl
@[simp] theorem State.pushRecord_walks (q : Nat) (ws : List W64) : (s.pushRecord q ws).walks = s.walks := rfl
@[simp] theorem State.pushRecord_fq (q : Nat) (ws : List W64) : (s.pushRecord q ws).fq = s.fq := rfl
@[simp] theorem State.pushRecord_fqIds (q : Nat) (ws : List W64) : (s.pushRecord q ws).fqIds = s.fqIds := rfl
@[simp] theorem State.pushRecord_core (q : Nat) (ws : List W64) : (s.pushRecord q ws).core = s.core := rfl
@[simp] theorem State.pushRecord_side (q : Nat) (ws : List W64) : (s.pushRecord q ws).side = s.side := rfl
@[simp] theorem State.pushRecord_agenda (q : Nat) (ws : List W64) : (s.pushRecord q ws).agenda = s.agenda := rfl
@[simp] theorem State.pushRecord_turn (q : Nat) (ws : List W64) : (s.pushRecord q ws).turn = s.turn := rfl
@[simp] theorem State.pushRecord_issue (q : Nat) (ws : List W64) : (s.pushRecord q ws).issue = s.issue := rfl
@[simp] theorem State.pushRecord_seq (q : Nat) (ws : List W64) : (s.pushRecord q ws).seq = s.seq := rfl
@[simp] theorem State.pushRecord_free (q : Nat) (ws : List W64) : (s.pushRecord q ws).free = s.free := rfl

@[simp] theorem State.markPerf_ctxs (p : Nat) : (s.markPerf p).ctxs = s.ctxs := rfl
@[simp] theorem State.markPerf_cores (p : Nat) : (s.markPerf p).cores = s.cores := rfl
@[simp] theorem State.markPerf_sides (p : Nat) : (s.markPerf p).sides = s.sides := rfl
@[simp] theorem State.markPerf_mem (p : Nat) : (s.markPerf p).mem = s.mem := rfl
@[simp] theorem State.markPerf_hub (p : Nat) : (s.markPerf p).hub = s.hub := rfl
@[simp] theorem State.markPerf_disp (p : Nat) : (s.markPerf p).disp = s.disp := rfl
@[simp] theorem State.markPerf_mgmt (p : Nat) : (s.markPerf p).mgmt = s.mgmt := rfl
@[simp] theorem State.markPerf_slices (p : Nat) : (s.markPerf p).slices = s.slices := rfl
@[simp] theorem State.markPerf_walks (p : Nat) : (s.markPerf p).walks = s.walks := rfl
@[simp] theorem State.markPerf_fq (p : Nat) : (s.markPerf p).fq = s.fq := rfl
@[simp] theorem State.markPerf_fqIds (p : Nat) : (s.markPerf p).fqIds = s.fqIds := rfl
@[simp] theorem State.markPerf_core (p : Nat) : (s.markPerf p).core = s.core := rfl
@[simp] theorem State.markPerf_side (p : Nat) : (s.markPerf p).side = s.side := rfl
@[simp] theorem State.markPerf_agenda (p : Nat) : (s.markPerf p).agenda = s.agenda := rfl
@[simp] theorem State.markPerf_turn (p : Nat) : (s.markPerf p).turn = s.turn := rfl
@[simp] theorem State.markPerf_seq (p : Nat) : (s.markPerf p).seq = s.seq := rfl
@[simp] theorem State.markPerf_free (p : Nat) : (s.markPerf p).free = s.free := rfl

@[simp] theorem State.jump_ctxs (a : W64) : (s.jump a).ctxs = s.ctxs := rfl
@[simp] theorem State.jump_cores (a : W64) : (s.jump a).cores = s.cores := rfl
@[simp] theorem State.jump_sides (a : W64) : (s.jump a).sides = s.sides := rfl
@[simp] theorem State.jump_mem (a : W64) : (s.jump a).mem = s.mem := rfl
@[simp] theorem State.jump_hub (a : W64) : (s.jump a).hub = s.hub := rfl
@[simp] theorem State.jump_disp (a : W64) : (s.jump a).disp = s.disp := rfl
@[simp] theorem State.jump_mgmt (a : W64) : (s.jump a).mgmt = s.mgmt := rfl
@[simp] theorem State.jump_slices (a : W64) : (s.jump a).slices = s.slices := rfl
@[simp] theorem State.jump_walks (a : W64) : (s.jump a).walks = s.walks := rfl
@[simp] theorem State.jump_fq (a : W64) : (s.jump a).fq = s.fq := rfl
@[simp] theorem State.jump_fqIds (a : W64) : (s.jump a).fqIds = s.fqIds := rfl
@[simp] theorem State.jump_core (a : W64) : (s.jump a).core = s.core := rfl
@[simp] theorem State.jump_side (a : W64) : (s.jump a).side = s.side := rfl
@[simp] theorem State.jump_agenda (a : W64) : (s.jump a).agenda = s.agenda := rfl
@[simp] theorem State.jump_turn (a : W64) : (s.jump a).turn = s.turn := rfl
@[simp] theorem State.jump_seq (a : W64) : (s.jump a).seq = s.seq := rfl
@[simp] theorem State.jump_free (a : W64) : (s.jump a).free = s.free := rfl

@[simp] theorem State.noteDrop_ctxs (c : Nat) : (s.noteDrop c).ctxs = s.ctxs := rfl
@[simp] theorem State.noteDrop_cores (c : Nat) : (s.noteDrop c).cores = s.cores := rfl
@[simp] theorem State.noteDrop_sides (c : Nat) : (s.noteDrop c).sides = s.sides := rfl
@[simp] theorem State.noteDrop_mem (c : Nat) : (s.noteDrop c).mem = s.mem := rfl
@[simp] theorem State.noteDrop_hub (c : Nat) : (s.noteDrop c).hub = s.hub := rfl
@[simp] theorem State.noteDrop_disp (c : Nat) : (s.noteDrop c).disp = s.disp := rfl
@[simp] theorem State.noteDrop_mgmt (c : Nat) : (s.noteDrop c).mgmt = s.mgmt := rfl
@[simp] theorem State.noteDrop_slices (c : Nat) : (s.noteDrop c).slices = s.slices := rfl
@[simp] theorem State.noteDrop_walks (c : Nat) : (s.noteDrop c).walks = s.walks := rfl
@[simp] theorem State.noteDrop_fq (c : Nat) : (s.noteDrop c).fq = s.fq := rfl
@[simp] theorem State.noteDrop_fqIds (c : Nat) : (s.noteDrop c).fqIds = s.fqIds := rfl
@[simp] theorem State.noteDrop_core (c : Nat) : (s.noteDrop c).core = s.core := rfl
@[simp] theorem State.noteDrop_side (c : Nat) : (s.noteDrop c).side = s.side := rfl
@[simp] theorem State.noteDrop_agenda (c : Nat) : (s.noteDrop c).agenda = s.agenda := rfl
@[simp] theorem State.noteDrop_turn (c : Nat) : (s.noteDrop c).turn = s.turn := rfl
@[simp] theorem State.noteDrop_seq (c : Nat) : (s.noteDrop c).seq = s.seq := rfl
@[simp] theorem State.noteDrop_free (c : Nat) : (s.noteDrop c).free = s.free := rfl

@[simp] theorem State.wr_cores (k n : Nat) (v : W64) : (s.wr k n v).cores = s.cores := rfl
@[simp] theorem State.wr_sides (k n : Nat) (v : W64) : (s.wr k n v).sides = s.sides := rfl
@[simp] theorem State.wr_mem (k n : Nat) (v : W64) : (s.wr k n v).mem = s.mem := rfl
@[simp] theorem State.wr_hub (k n : Nat) (v : W64) : (s.wr k n v).hub = s.hub := rfl
@[simp] theorem State.wr_disp (k n : Nat) (v : W64) : (s.wr k n v).disp = s.disp := rfl
@[simp] theorem State.wr_mgmt (k n : Nat) (v : W64) : (s.wr k n v).mgmt = s.mgmt := rfl
@[simp] theorem State.wr_slices (k n : Nat) (v : W64) : (s.wr k n v).slices = s.slices := rfl
@[simp] theorem State.wr_walks (k n : Nat) (v : W64) : (s.wr k n v).walks = s.walks := rfl
@[simp] theorem State.wr_fq (k n : Nat) (v : W64) : (s.wr k n v).fq = s.fq := rfl
@[simp] theorem State.wr_fqIds (k n : Nat) (v : W64) : (s.wr k n v).fqIds = s.fqIds := rfl
@[simp] theorem State.wr_core (k n : Nat) (v : W64) : (s.wr k n v).core = s.core := rfl
@[simp] theorem State.wr_side (k n : Nat) (v : W64) : (s.wr k n v).side = s.side := rfl
@[simp] theorem State.wr_agenda (k n : Nat) (v : W64) : (s.wr k n v).agenda = s.agenda := rfl
@[simp] theorem State.wr_turn (k n : Nat) (v : W64) : (s.wr k n v).turn = s.turn := rfl
@[simp] theorem State.wr_issue (k n : Nat) (v : W64) : (s.wr k n v).issue = s.issue := rfl
@[simp] theorem State.wr_seq (k n : Nat) (v : W64) : (s.wr k n v).seq = s.seq := rfl
@[simp] theorem State.wr_free (k n : Nat) (v : W64) : (s.wr k n v).free = s.free := rfl

/-! ### Reads after updates -/

@[simp] theorem State.ctxAt_putCtx (k : Nat) (c : Ctx) : (s.putCtx k c).ctxAt k = c := by simp [State.ctxAt, State.putCtx]

theorem State.ctxAt_putCtx_ne (k j : Nat) (c : Ctx) (h : j ≠ k) : (s.putCtx k c).ctxAt j = s.ctxAt j := by
  simp [State.ctxAt, State.putCtx, mget_mput_ne _ _ _ _ _ h]

@[simp] theorem State.ctxAt_onCtx (k : Nat) (f : Ctx → Ctx) : (s.onCtx k f).ctxAt k = f (s.ctxAt k) := by simp [State.onCtx]

theorem State.ctxAt_onCtx_ne (k j : Nat) (f : Ctx → Ctx) (h : j ≠ k) : (s.onCtx k f).ctxAt j = s.ctxAt j := by
  simp [State.onCtx, State.ctxAt_putCtx_ne s k j _ h]

@[simp] theorem State.coreAt_onCore (n : Nat) (f : Core → Core) : (s.onCore n f).coreAt n = f (s.coreAt n) := by
  simp [State.coreAt, State.onCore]

theorem State.coreAt_onCore_ne (n m : Nat) (f : Core → Core) (h : m ≠ n) : (s.onCore n f).coreAt m = s.coreAt m := by
  simp [State.coreAt, State.onCore, mget_mput_ne _ _ _ _ _ h]

@[simp] theorem State.resvAt_onResv (r : Nat) (f : Resv → Resv) : (s.onResv r f).resvAt r = f (s.resvAt r) := by
  simp [State.resvAt, State.onResv]

@[simp] theorem State.taskAt_onTask (t : Nat) (f : Task → Task) : (s.onTask t f).taskAt t = f (s.taskAt t) := by
  simp [State.taskAt, State.onTask]

@[simp] theorem State.queueAt_onQueue (q : Nat) (f : Queue → Queue) : (s.onQueue q f).queueAt q = f (s.queueAt q) := by
  simp [State.queueAt, State.onQueue]

@[simp] theorem State.sideAt_onSide (n : Nat) (f : Side → Side) : (s.onSide n f).sideAt n = f (s.sideAt n) := by
  simp [State.sideAt, State.onSide]

@[simp] theorem State.win_setWin (a : Nat) (v : W64) : (s.setWin a v).win a = v := by simp [State.win, State.setWin]

theorem State.win_setWin_ne (a b : Nat) (v : W64) (h : b ≠ a) : (s.setWin a v).win b = s.win b := by
  simp [State.win, State.setWin, mget_mset_ne _ _ _ _ _ _ h]

@[simp] theorem State.ctxAt_onCore (n : Nat) (f : Core → Core) (x : Nat) : (s.onCore n f).ctxAt x = s.ctxAt x := rfl
@[simp] theorem State.ctxAt_onSide (n : Nat) (f : Side → Side) (x : Nat) : (s.onSide n f).ctxAt x = s.ctxAt x := rfl
@[simp] theorem State.ctxAt_onResv (r : Nat) (f : Resv → Resv) (x : Nat) : (s.onResv r f).ctxAt x = s.ctxAt x := rfl
@[simp] theorem State.ctxAt_onTask (t : Nat) (f : Task → Task) (x : Nat) : (s.onTask t f).ctxAt x = s.ctxAt x := rfl
@[simp] theorem State.ctxAt_onQueue (q : Nat) (f : Queue → Queue) (x : Nat) : (s.onQueue q f).ctxAt x = s.ctxAt x := rfl
@[simp] theorem State.ctxAt_onDealer (q : Nat) (f : Dealer → Dealer) (x : Nat) : (s.onDealer q f).ctxAt x = s.ctxAt x := rfl
@[simp] theorem State.ctxAt_onReam (r : Nat) (f : Ream → Ream) (x : Nat) : (s.onReam r f).ctxAt x = s.ctxAt x := rfl
@[simp] theorem State.ctxAt_setWin (a : Nat) (v : W64) (x : Nat) : (s.setWin a v).ctxAt x = s.ctxAt x := rfl
@[simp] theorem State.ctxAt_setQreg (q off : Nat) (v : W64) (x : Nat) : (s.setQreg q off v).ctxAt x = s.ctxAt x := rfl
@[simp] theorem State.ctxAt_fill (pa key : Nat) (x : Nat) : (s.fill pa key).ctxAt x = s.ctxAt x := rfl
@[simp] theorem State.ctxAt_takeFree (w : Nat) (x : Nat) : ((State.takeFree w s).2).ctxAt x = s.ctxAt x := rfl
@[simp] theorem State.ctxAt_pushRecord (q : Nat) (ws : List W64) (x : Nat) : (s.pushRecord q ws).ctxAt x = s.ctxAt x := rfl
@[simp] theorem State.ctxAt_markPerf (p : Nat) (x : Nat) : (s.markPerf p).ctxAt x = s.ctxAt x := rfl
@[simp] theorem State.ctxAt_jump (a : W64) (x : Nat) : (s.jump a).ctxAt x = s.ctxAt x := rfl
@[simp] theorem State.ctxAt_noteDrop (c : Nat) (x : Nat) : (s.noteDrop c).ctxAt x = s.ctxAt x := rfl
@[simp] theorem State.coreAt_putCtx (k : Nat) (c : Ctx) (x : Nat) : (s.putCtx k c).coreAt x = s.coreAt x := rfl
@[simp] theorem State.coreAt_onCtx (k : Nat) (f : Ctx → Ctx) (x : Nat) : (s.onCtx k f).coreAt x = s.coreAt x := rfl
@[simp] theorem State.coreAt_onSide (n : Nat) (f : Side → Side) (x : Nat) : (s.onSide n f).coreAt x = s.coreAt x := rfl
@[simp] theorem State.coreAt_onResv (r : Nat) (f : Resv → Resv) (x : Nat) : (s.onResv r f).coreAt x = s.coreAt x := rfl
@[simp] theorem State.coreAt_onTask (t : Nat) (f : Task → Task) (x : Nat) : (s.onTask t f).coreAt x = s.coreAt x := rfl
@[simp] theorem State.coreAt_onQueue (q : Nat) (f : Queue → Queue) (x : Nat) : (s.onQueue q f).coreAt x = s.coreAt x := rfl
@[simp] theorem State.coreAt_onDealer (q : Nat) (f : Dealer → Dealer) (x : Nat) : (s.onDealer q f).coreAt x = s.coreAt x := rfl
@[simp] theorem State.coreAt_onReam (r : Nat) (f : Ream → Ream) (x : Nat) : (s.onReam r f).coreAt x = s.coreAt x := rfl
@[simp] theorem State.coreAt_setWin (a : Nat) (v : W64) (x : Nat) : (s.setWin a v).coreAt x = s.coreAt x := rfl
@[simp] theorem State.coreAt_setQreg (q off : Nat) (v : W64) (x : Nat) : (s.setQreg q off v).coreAt x = s.coreAt x := rfl
@[simp] theorem State.coreAt_fill (pa key : Nat) (x : Nat) : (s.fill pa key).coreAt x = s.coreAt x := rfl
@[simp] theorem State.coreAt_takeFree (w : Nat) (x : Nat) : ((State.takeFree w s).2).coreAt x = s.coreAt x := rfl
@[simp] theorem State.coreAt_pushRecord (q : Nat) (ws : List W64) (x : Nat) : (s.pushRecord q ws).coreAt x = s.coreAt x := rfl
@[simp] theorem State.coreAt_markPerf (p : Nat) (x : Nat) : (s.markPerf p).coreAt x = s.coreAt x := rfl
@[simp] theorem State.coreAt_jump (a : W64) (x : Nat) : (s.jump a).coreAt x = s.coreAt x := rfl
@[simp] theorem State.coreAt_noteDrop (c : Nat) (x : Nat) : (s.noteDrop c).coreAt x = s.coreAt x := rfl
@[simp] theorem State.coreAt_wr (k n : Nat) (v : W64) (x : Nat) : (s.wr k n v).coreAt x = s.coreAt x := rfl
@[simp] theorem State.sideAt_putCtx (k : Nat) (c : Ctx) (x : Nat) : (s.putCtx k c).sideAt x = s.sideAt x := rfl
@[simp] theorem State.sideAt_onCtx (k : Nat) (f : Ctx → Ctx) (x : Nat) : (s.onCtx k f).sideAt x = s.sideAt x := rfl
@[simp] theorem State.sideAt_onCore (n : Nat) (f : Core → Core) (x : Nat) : (s.onCore n f).sideAt x = s.sideAt x := rfl
@[simp] theorem State.sideAt_onResv (r : Nat) (f : Resv → Resv) (x : Nat) : (s.onResv r f).sideAt x = s.sideAt x := rfl
@[simp] theorem State.sideAt_onTask (t : Nat) (f : Task → Task) (x : Nat) : (s.onTask t f).sideAt x = s.sideAt x := rfl
@[simp] theorem State.sideAt_onQueue (q : Nat) (f : Queue → Queue) (x : Nat) : (s.onQueue q f).sideAt x = s.sideAt x := rfl
@[simp] theorem State.sideAt_onDealer (q : Nat) (f : Dealer → Dealer) (x : Nat) : (s.onDealer q f).sideAt x = s.sideAt x := rfl
@[simp] theorem State.sideAt_onReam (r : Nat) (f : Ream → Ream) (x : Nat) : (s.onReam r f).sideAt x = s.sideAt x := rfl
@[simp] theorem State.sideAt_setWin (a : Nat) (v : W64) (x : Nat) : (s.setWin a v).sideAt x = s.sideAt x := rfl
@[simp] theorem State.sideAt_setQreg (q off : Nat) (v : W64) (x : Nat) : (s.setQreg q off v).sideAt x = s.sideAt x := rfl
@[simp] theorem State.sideAt_fill (pa key : Nat) (x : Nat) : (s.fill pa key).sideAt x = s.sideAt x := rfl
@[simp] theorem State.sideAt_takeFree (w : Nat) (x : Nat) : ((State.takeFree w s).2).sideAt x = s.sideAt x := rfl
@[simp] theorem State.sideAt_pushRecord (q : Nat) (ws : List W64) (x : Nat) : (s.pushRecord q ws).sideAt x = s.sideAt x := rfl
@[simp] theorem State.sideAt_markPerf (p : Nat) (x : Nat) : (s.markPerf p).sideAt x = s.sideAt x := rfl
@[simp] theorem State.sideAt_jump (a : W64) (x : Nat) : (s.jump a).sideAt x = s.sideAt x := rfl
@[simp] theorem State.sideAt_noteDrop (c : Nat) (x : Nat) : (s.noteDrop c).sideAt x = s.sideAt x := rfl
@[simp] theorem State.sideAt_wr (k n : Nat) (v : W64) (x : Nat) : (s.wr k n v).sideAt x = s.sideAt x := rfl
@[simp] theorem State.resvAt_putCtx (k : Nat) (c : Ctx) (x : Nat) : (s.putCtx k c).resvAt x = s.resvAt x := rfl
@[simp] theorem State.resvAt_onCtx (k : Nat) (f : Ctx → Ctx) (x : Nat) : (s.onCtx k f).resvAt x = s.resvAt x := rfl
@[simp] theorem State.resvAt_onCore (n : Nat) (f : Core → Core) (x : Nat) : (s.onCore n f).resvAt x = s.resvAt x := rfl
@[simp] theorem State.resvAt_onSide (n : Nat) (f : Side → Side) (x : Nat) : (s.onSide n f).resvAt x = s.resvAt x := rfl
@[simp] theorem State.resvAt_onReam (r : Nat) (f : Ream → Ream) (x : Nat) : (s.onReam r f).resvAt x = s.resvAt x := rfl
@[simp] theorem State.resvAt_setWin (a : Nat) (v : W64) (x : Nat) : (s.setWin a v).resvAt x = s.resvAt x := rfl
@[simp] theorem State.resvAt_setQreg (q off : Nat) (v : W64) (x : Nat) : (s.setQreg q off v).resvAt x = s.resvAt x := rfl
@[simp] theorem State.resvAt_fill (pa key : Nat) (x : Nat) : (s.fill pa key).resvAt x = s.resvAt x := rfl
@[simp] theorem State.resvAt_takeFree (w : Nat) (x : Nat) : ((State.takeFree w s).2).resvAt x = s.resvAt x := rfl
@[simp] theorem State.resvAt_markPerf (p : Nat) (x : Nat) : (s.markPerf p).resvAt x = s.resvAt x := rfl
@[simp] theorem State.resvAt_jump (a : W64) (x : Nat) : (s.jump a).resvAt x = s.resvAt x := rfl
@[simp] theorem State.resvAt_noteDrop (c : Nat) (x : Nat) : (s.noteDrop c).resvAt x = s.resvAt x := rfl
@[simp] theorem State.resvAt_wr (k n : Nat) (v : W64) (x : Nat) : (s.wr k n v).resvAt x = s.resvAt x := rfl
@[simp] theorem State.taskAt_putCtx (k : Nat) (c : Ctx) (x : Nat) : (s.putCtx k c).taskAt x = s.taskAt x := rfl
@[simp] theorem State.taskAt_onCtx (k : Nat) (f : Ctx → Ctx) (x : Nat) : (s.onCtx k f).taskAt x = s.taskAt x := rfl
@[simp] theorem State.taskAt_onCore (n : Nat) (f : Core → Core) (x : Nat) : (s.onCore n f).taskAt x = s.taskAt x := rfl
@[simp] theorem State.taskAt_onSide (n : Nat) (f : Side → Side) (x : Nat) : (s.onSide n f).taskAt x = s.taskAt x := rfl
@[simp] theorem State.taskAt_onReam (r : Nat) (f : Ream → Ream) (x : Nat) : (s.onReam r f).taskAt x = s.taskAt x := rfl
@[simp] theorem State.taskAt_setWin (a : Nat) (v : W64) (x : Nat) : (s.setWin a v).taskAt x = s.taskAt x := rfl
@[simp] theorem State.taskAt_setQreg (q off : Nat) (v : W64) (x : Nat) : (s.setQreg q off v).taskAt x = s.taskAt x := rfl
@[simp] theorem State.taskAt_fill (pa key : Nat) (x : Nat) : (s.fill pa key).taskAt x = s.taskAt x := rfl
@[simp] theorem State.taskAt_takeFree (w : Nat) (x : Nat) : ((State.takeFree w s).2).taskAt x = s.taskAt x := rfl
@[simp] theorem State.taskAt_markPerf (p : Nat) (x : Nat) : (s.markPerf p).taskAt x = s.taskAt x := rfl
@[simp] theorem State.taskAt_jump (a : W64) (x : Nat) : (s.jump a).taskAt x = s.taskAt x := rfl
@[simp] theorem State.taskAt_noteDrop (c : Nat) (x : Nat) : (s.noteDrop c).taskAt x = s.taskAt x := rfl
@[simp] theorem State.taskAt_wr (k n : Nat) (v : W64) (x : Nat) : (s.wr k n v).taskAt x = s.taskAt x := rfl
@[simp] theorem State.queueAt_putCtx (k : Nat) (c : Ctx) (x : Nat) : (s.putCtx k c).queueAt x = s.queueAt x := rfl
@[simp] theorem State.queueAt_onCtx (k : Nat) (f : Ctx → Ctx) (x : Nat) : (s.onCtx k f).queueAt x = s.queueAt x := rfl
@[simp] theorem State.queueAt_onCore (n : Nat) (f : Core → Core) (x : Nat) : (s.onCore n f).queueAt x = s.queueAt x := rfl
@[simp] theorem State.queueAt_onSide (n : Nat) (f : Side → Side) (x : Nat) : (s.onSide n f).queueAt x = s.queueAt x := rfl
@[simp] theorem State.queueAt_onReam (r : Nat) (f : Ream → Ream) (x : Nat) : (s.onReam r f).queueAt x = s.queueAt x := rfl
@[simp] theorem State.queueAt_setWin (a : Nat) (v : W64) (x : Nat) : (s.setWin a v).queueAt x = s.queueAt x := rfl
@[simp] theorem State.queueAt_setQreg (q off : Nat) (v : W64) (x : Nat) : (s.setQreg q off v).queueAt x = s.queueAt x := rfl
@[simp] theorem State.queueAt_fill (pa key : Nat) (x : Nat) : (s.fill pa key).queueAt x = s.queueAt x := rfl
@[simp] theorem State.queueAt_takeFree (w : Nat) (x : Nat) : ((State.takeFree w s).2).queueAt x = s.queueAt x := rfl
@[simp] theorem State.queueAt_markPerf (p : Nat) (x : Nat) : (s.markPerf p).queueAt x = s.queueAt x := rfl
@[simp] theorem State.queueAt_jump (a : W64) (x : Nat) : (s.jump a).queueAt x = s.queueAt x := rfl
@[simp] theorem State.queueAt_noteDrop (c : Nat) (x : Nat) : (s.noteDrop c).queueAt x = s.queueAt x := rfl
@[simp] theorem State.queueAt_wr (k n : Nat) (v : W64) (x : Nat) : (s.wr k n v).queueAt x = s.queueAt x := rfl

/-! ### Registers -/

@[simp] theorem Regs.rs_zero (r : Regs) : r.rs 0 = 0 := rfl

theorem Regs.rs_ws_same (r : Regs) (n : Nat) (v : W64) (h : n ≠ 0) : (r.ws n v).rs n = v := by
  by_cases h2 : r.sup && decide (56 ≤ n) <;> simp [Regs.ws, Regs.wsMode, Regs.rs, h, h2]

theorem Regs.rs_ws_ne (r : Regs) (n j : Nat) (v : W64) (h : j ≠ n) : (r.ws n v).rs j = r.rs j := by
  unfold Regs.ws Regs.wsMode
  by_cases h0 : n = 0
  · simp [h0]
  · by_cases h2 : r.sup && decide (56 ≤ n)
    · by_cases hj : r.sup && decide (56 ≤ j) <;> simp [h0, h2, Regs.rs, hj, mget_mset_ne _ _ _ _ _ _ h]
    · by_cases hj : r.sup && decide (56 ≤ j) <;> simp [h0, h2, Regs.rs, hj, mget_mset_ne _ _ _ _ _ _ h]

@[simp] theorem Regs.rv_ws (r : Regs) (n m : Nat) (v : W64) : (r.ws n v).rv m = r.rv m := by
  unfold Regs.ws Regs.wsMode; split <;> try split
  all_goals rfl

theorem Regs.rv_wvBits_same (r : Regs) (n lo w v : Nat) : (r.wvBits n lo w v).rv n = setf (r.rv n) lo w v := by
  simp [Regs.wvBits, Regs.rv]

theorem Regs.rv_wvBits_ne (r : Regs) (n m lo w v : Nat) (h : m ≠ n) : (r.wvBits n lo w v).rv m = r.rv m := by
  simp [Regs.wvBits, Regs.rv, mget_mset_ne _ _ _ _ _ _ h]

theorem Regs.rm_wm_ne (r : Regs) (n m w v : Nat) (h : m ≠ n) : (r.wm n w v).rm m = r.rm m := by
  unfold Regs.wm
  by_cases h0 : n = 0
  · simp [h0]
  · by_cases hm : m = 0 <;> simp [h0, hm, Regs.rm, mget_mset_ne _ _ _ _ _ _ h]

@[simp] theorem Regs.rm_zero (r : Regs) : r.rm 0 = BitVec.allOnes 128 := rfl

@[simp] theorem State.inFlight_cores (k : Nat) (ns : List Nat) : (s.inFlight k ns).cores = s.cores := by unfold State.inFlight; split <;> rfl
@[simp] theorem State.inFlight_sides (k : Nat) (ns : List Nat) : (s.inFlight k ns).sides = s.sides := by unfold State.inFlight; split <;> rfl
@[simp] theorem State.inFlight_mem (k : Nat) (ns : List Nat) : (s.inFlight k ns).mem = s.mem := by unfold State.inFlight; split <;> rfl
@[simp] theorem State.inFlight_hub (k : Nat) (ns : List Nat) : (s.inFlight k ns).hub = s.hub := by unfold State.inFlight; split <;> rfl
@[simp] theorem State.inFlight_disp (k : Nat) (ns : List Nat) : (s.inFlight k ns).disp = s.disp := by unfold State.inFlight; split <;> rfl
@[simp] theorem State.inFlight_mgmt (k : Nat) (ns : List Nat) : (s.inFlight k ns).mgmt = s.mgmt := by unfold State.inFlight; split <;> rfl
@[simp] theorem State.inFlight_slices (k : Nat) (ns : List Nat) : (s.inFlight k ns).slices = s.slices := by unfold State.inFlight; split <;> rfl
@[simp] theorem State.inFlight_walks (k : Nat) (ns : List Nat) : (s.inFlight k ns).walks = s.walks := by unfold State.inFlight; split <;> rfl
@[simp] theorem State.inFlight_fq (k : Nat) (ns : List Nat) : (s.inFlight k ns).fq = s.fq := by unfold State.inFlight; split <;> rfl
@[simp] theorem State.inFlight_fqIds (k : Nat) (ns : List Nat) : (s.inFlight k ns).fqIds = s.fqIds := by unfold State.inFlight; split <;> rfl
@[simp] theorem State.inFlight_core (k : Nat) (ns : List Nat) : (s.inFlight k ns).core = s.core := by unfold State.inFlight; split <;> rfl
@[simp] theorem State.inFlight_side (k : Nat) (ns : List Nat) : (s.inFlight k ns).side = s.side := by unfold State.inFlight; split <;> rfl
@[simp] theorem State.inFlight_agenda (k : Nat) (ns : List Nat) : (s.inFlight k ns).agenda = s.agenda := by unfold State.inFlight; split <;> rfl
@[simp] theorem State.inFlight_turn (k : Nat) (ns : List Nat) : (s.inFlight k ns).turn = s.turn := by unfold State.inFlight; split <;> rfl
@[simp] theorem State.inFlight_issue (k : Nat) (ns : List Nat) : (s.inFlight k ns).issue = s.issue := by unfold State.inFlight; split <;> rfl
@[simp] theorem State.inFlight_seq (k : Nat) (ns : List Nat) : (s.inFlight k ns).seq = s.seq := by unfold State.inFlight; split <;> rfl
@[simp] theorem State.inFlight_free (k : Nat) (ns : List Nat) : (s.inFlight k ns).free = s.free := by unfold State.inFlight; split <;> rfl

@[simp] theorem State.land_cores (k : Nat) (p : Nat → Bool) : (s.land k p).cores = s.cores := by unfold State.land; split <;> rfl
@[simp] theorem State.land_sides (k : Nat) (p : Nat → Bool) : (s.land k p).sides = s.sides := by unfold State.land; split <;> rfl
@[simp] theorem State.land_mem (k : Nat) (p : Nat → Bool) : (s.land k p).mem = s.mem := by unfold State.land; split <;> rfl
@[simp] theorem State.land_hub (k : Nat) (p : Nat → Bool) : (s.land k p).hub = s.hub := by unfold State.land; split <;> rfl
@[simp] theorem State.land_disp (k : Nat) (p : Nat → Bool) : (s.land k p).disp = s.disp := by unfold State.land; split <;> rfl
@[simp] theorem State.land_mgmt (k : Nat) (p : Nat → Bool) : (s.land k p).mgmt = s.mgmt := by unfold State.land; split <;> rfl
@[simp] theorem State.land_slices (k : Nat) (p : Nat → Bool) : (s.land k p).slices = s.slices := by unfold State.land; split <;> rfl
@[simp] theorem State.land_walks (k : Nat) (p : Nat → Bool) : (s.land k p).walks = s.walks := by unfold State.land; split <;> rfl
@[simp] theorem State.land_fq (k : Nat) (p : Nat → Bool) : (s.land k p).fq = s.fq := by unfold State.land; split <;> rfl
@[simp] theorem State.land_fqIds (k : Nat) (p : Nat → Bool) : (s.land k p).fqIds = s.fqIds := by unfold State.land; split <;> rfl
@[simp] theorem State.land_core (k : Nat) (p : Nat → Bool) : (s.land k p).core = s.core := by unfold State.land; split <;> rfl
@[simp] theorem State.land_side (k : Nat) (p : Nat → Bool) : (s.land k p).side = s.side := by unfold State.land; split <;> rfl
@[simp] theorem State.land_agenda (k : Nat) (p : Nat → Bool) : (s.land k p).agenda = s.agenda := by unfold State.land; split <;> rfl
@[simp] theorem State.land_turn (k : Nat) (p : Nat → Bool) : (s.land k p).turn = s.turn := by unfold State.land; split <;> rfl
@[simp] theorem State.land_issue (k : Nat) (p : Nat → Bool) : (s.land k p).issue = s.issue := by unfold State.land; split <;> rfl
@[simp] theorem State.land_seq (k : Nat) (p : Nat → Bool) : (s.land k p).seq = s.seq := by unfold State.land; split <;> rfl
@[simp] theorem State.land_free (k : Nat) (p : Nat → Bool) : (s.land k p).free = s.free := by unfold State.land; split <;> rfl

end Sys2Proof.Machine
end

