-- ==== Sys2Proof/Laws/Slot.lean ====
section
/-!
SUPPORT. What issuing one slot does: with nothing in its way the operation acts on the state that the bookkeeping of the
issue leaves, and the packet then ends; and what that end does when the packet ends plainly.
-/

namespace Sys2Proof.Machine

/-- What is left of a packet once the slot of an operation has acted. -/
def State.acted (k p : Nat) (i : Instr) : State × Option Trap → State
  | (s, none) => (s.markPerf p).inFlight k (vDests i)
  | (s, some t) => { s with issue := { s.issue with faults := s.issue.faults ++ [(p, t)] } }

theorem State.me_fresh (s : State) : s.fresh.ctxAt s.ck = s.me := rfl

/-- What `issueDue` does with due slots that find `xs`, where no asynchronous trap is due and no check stops them. -/
theorem State.issueDue_of (s s1 : State) (k : Nat) (ds : List Due) (xs : List (Due × Env × Bool)) (c : Ctx) (h : s.ctxAt k = c)
    (hx : s.envs k (s.resvAt c.resv) c ds = xs) (ha : (!c.r.sup && !c.sys.asyncs.isEmpty && c.sq.replay.isEmpty) = false)
    (hc : firstCheck s xs = none) (hs : xs.any (fun x => x.2.2 && x.1.sem.stall x.2.1 s) = false)
    (hw : firstWait xs s = (s1, none)) : s.issueDue k ds = s1.performAll k c.sq.perf xs := by
  subst h hx
  unfold State.issueDue
  simp only [ha, Bool.false_eq_true, if_false, hc, hs, hw]

/-- A slot that is ready, that no check stops and that waits for nothing acts, and its packet ends. -/
theorem runSlot_ready (i : Instr) (sem : SlotSem) (s s1 : State) (h : s.slotReady i = true)
    (hc : sem.check s.fresh (s.slotEnv i) = none) (hst' : sem.stall (s.slotEnv i) s.fresh = false)
    (hw : sem.wait (s.slotEnv i) s.fresh = (s1, none)) :
    runSlot i sem s = .next ((State.acted s.ck s.issue.pos i (sem.act (s.slotEnv i)
      (s1.opened s.ck s.me.sq.perf false [(s.issue.pos, freshLatch s.me i)]))).finish s.ck
        [({ pos := s.issue.pos, instr := i, sem := sem }, s.slotEnv i, true)]) := by
  simp only [State.slotReady, State.slotClear, Bool.and_eq_true, Bool.not_eq_true', Option.isNone_iff_eq_none, Bool.or_eq_true] at h
  obtain ⟨⟨⟨⟨⟨⟨⟨⟨⟨⟨⟨hi, hl⟩, hg⟩, hch⟩, hheld⟩, hpd⟩, hsw⟩, hsh⟩, hla⟩, hro⟩, hr⟩, hp⟩ := h
  have hset : s.fresh.settle s.ck [i] = s.fresh := by
    have e1 : (s.fresh.ctxAt s.ck) = s.me := rfl
    unfold State.settle
    simp only [e1, hch, Option.isSome_none, Bool.false_eq_true, if_false, hpd, hsw]
    have h2 : s.fresh.land s.ck (fun n => s.me.stallsOn [i] (.v n 0 1024)) = s.fresh := by
      unfold State.land
      simp only [e1, hla, Bool.not_false, if_true]
    rcases hsh with hsh | hsh <;> simp [hsh, h2]
  have hst : s.fresh.stalled s.ck [{ pos := s.issue.pos, instr := i, sem := sem }] = s.fresh := by
    unfold State.stalled
    simp only [List.map_cons, List.map_nil, hset, State.roomFor, State.me_fresh, hro, if_true, State.envs, List.flatMap_cons, List.flatMap_nil, List.append_nil]
    rcases hr with hr | hr
    · simp [hr]
    · have hv : vRings i (freshLatch s.me i) = [] := by simpa using hr
      simp [Due.env, hv, ringSpans, State.drainSpans]
  have has : (!s.me.r.sup && !s.me.sys.asyncs.isEmpty && s.me.sq.replay.isEmpty) = false := by
    rcases hp with hp | hp
    · simp [hp]
    · simp [hp.1]
  have hpriv : (if s.me.r.sup = true then none else privOp i) = none := by
    rcases hp with hp | hp
    · simp [hp]
    · simp [hp.2]
  have hon : Due.on s.fresh s.me { pos := s.issue.pos, instr := i, sem := sem } = true := hg
  have hx : s.fresh.envs s.ck (s.fresh.resvAt s.me.resv) s.me [{ pos := s.issue.pos, instr := i, sem := sem }] =
      [({ pos := s.issue.pos, instr := i, sem := sem }, s.slotEnv i, true)] := by
    simp only [State.envs, hon]
    rfl
  have hsup : (s.slotEnv i).c.r.sup = s.me.r.sup := rfl
  unfold runSlot
  simp only [hi, Bool.not_true, Bool.false_eq_true, if_false, hl]
  congr 1
  unfold State.runPacket
  have hheld' : (s.ctxAt s.ck).mem.pend.any s.accessHeld = false := hheld
  simp only [hheld', Bool.false_eq_true, if_false, hst]
  have hor : (none.orElse fun _ => none : Option Wait) = none := rfl
  rw [State.issueDue_of s.fresh s1 s.ck _ _ s.me rfl hx has
    (by simp only [firstCheck, Bool.not_true, Bool.false_eq_true, if_false, hsup, hpriv, hc])
    (by simp only [List.any_cons, List.any_nil, hst', Bool.and_false, Bool.or_false])
    (by simp only [firstWait, Bool.not_true, Bool.false_eq_true, if_false, hw, Option.map_none, hor])]
  have hnl : List.filterMap newLatch [(({ pos := s.issue.pos, instr := i, sem := sem } : Due), s.slotEnv i, true)] =
      [(s.issue.pos, freshLatch s.me i)] := rfl
  have hir : List.any [(({ pos := s.issue.pos, instr := i, sem := sem } : Due), s.slotEnv i, true)] isReplay = false := rfl
  have hfa : (s1.opened s.ck s.me.sq.perf false [(s.issue.pos, freshLatch s.me i)]).issue.faults.isEmpty = true := rfl
  unfold State.performAll
  simp only [hnl, hir, List.foldl_cons, List.foldl_nil, State.performSlot, Bool.not_true, Bool.false_eq_true, if_false,
    hfa, and_false]
  rfl

theorem State.putCtx_putCtx (s : State) (k : Nat) (a b : Ctx) : (s.putCtx k a).putCtx k b = s.putCtx k b := by
  simp [State.putCtx, mput_mput]

/-- With no loop that ends in the packet, the next pc is the next packet's and nothing changes. -/
theorem loopCheck_none (starts : List W64) (next : W64) (r : Regs) (l : List LoopRec)
    (h : l.all (fun x => !starts.contains x.last) = true) : loopCheck starts next r l = (r, next, none) := by
  induction l with
  | nil => rfl
  | cons x t ih =>
    simp only [List.all_cons, Bool.and_eq_true] at h
    simp only [loopCheck, h.1, if_true]
    exact ih h.2

/-- The context after a packet that ends plainly: its pc moves on, or its next repetition is due. -/
def Ctx.closed (c : Ctx) (q : Issue) : Ctx :=
  { c with
    r := { c.r with pc := if q.rep < q.reps then c.r.pc else q.target.getD q.next }
    sq := { c.sq with replay := [], perf := 0, rep := if q.rep < q.reps then q.rep + 1 else 1
                      after := if q.rep < q.reps then c.sq.after else c.sq.after.filter (fun x => x.2.1 != c.r.sup) } }

/-- A packet that met no fault, retires nothing, returns from nothing and ends no loop changes only the pc and the
repetition of its context. -/
theorem State.finish_plain (u : State) (k : Nat) (xs : List (Due × Env × Bool)) (hd : u.issue.drop = none)
    (hf : u.issue.faults = []) (hr : u.issue.retire = false) (hs : u.issue.stop = false) (hret : u.issue.ret = false)
    (ha : u.issue.after = none) (hk : (u.ctxAt k).sq.keptTrap u.issue.pc (u.ctxAt k).r.sup = none)
    (hp : (u.ctxAt k).r.sup = true ∨ (u.ctxAt k).sys.sstep = false)
    (hl : (u.ctxAt k).r.loops.all (fun l => !u.issue.starts.contains l.last) = true) :
    u.finish k xs = u.putCtx k ((u.ctxAt k).closed u.issue) := by
  unfold State.finish
  have ho (f : Unit → Option Trap) : Option.orElse none f = f () := rfl
  have ho' (f : Unit → Option (W64 × Bool × Trap)) : Option.orElse none f = f () := rfl
  have hk' : Seq.keptTrap { (u.ctxAt k).sq with replay := [], perf := 0 } u.issue.pc (u.ctxAt k).r.sup = none := hk
  simp only [hd, hf, hr, hs, hret, Bool.false_eq_true, if_false]
  by_cases hrep : u.issue.rep < u.issue.reps
  · simp only [hrep, if_true, State.onCtx, State.ctxAt_putCtx, State.putCtx_putCtx, Ctx.closed, ha, Option.map_none,
      ho']
  · simp only [hrep, if_false, State.onCtx, State.ctxAt_putCtx, State.putCtx_putCtx, Ctx.closed]
    cases ht : u.issue.target with
    | none =>
      simp only [loopCheck_none _ _ _ _ hl, ha, hk', ho]
      simp only [State.afterTraps, State.ctxAt_putCtx, Option.getD_none]
      rcases hp with hp | hp <;> simp [hp]
    | some a =>
      simp only [ha, hk', ho, State.afterTraps, State.ctxAt_putCtx, Option.getD_some]
      rcases hp with hp | hp <;> simp [hp]

/-! ### The bookkeeping of an issue -/

theorem State.opened_mem (u : State) (k n p : Nat) (b : Bool) (l : Latch) : (u.opened k n b [(p, l)]).mem = u.mem := rfl
theorem State.opened_hub (u : State) (k n p : Nat) (b : Bool) (l : Latch) : (u.opened k n b [(p, l)]).hub = u.hub := rfl
theorem State.opened_disp (u : State) (k n p : Nat) (b : Bool) (l : Latch) : (u.opened k n b [(p, l)]).disp = u.disp := rfl
theorem State.opened_issue (u : State) (k n p : Nat) (b : Bool) (l : Latch) : (u.opened k n b [(p, l)]).issue =
    { u.issue with faults := [], after := none, target := none, retire := false, ret := false, stop := false,
                   perf := (upto 9).filter (fun p => n.testBit p) } := rfl

/-- A latch is sequencing alone. -/
theorem Ctx.setLatch_rest (c : Ctx) (p : Nat) (l : Latch) : (c.setLatch p l).r = c.r ∧ (c.setLatch p l).rest = c.rest ∧
    (c.setLatch p l).mem = c.mem ∧ (c.setLatch p l).sys = c.sys ∧ (c.setLatch p l).sq.after = c.sq.after := by
  unfold Ctx.setLatch
  split <;> exact ⟨rfl, rfl, rfl, rfl, rfl⟩

/-- Results on their way are sequencing alone. -/
theorem State.inFlight_ctx (u : State) (k : Nat) (ns : List Nat) : ∃ l, (u.inFlight k ns).ctxAt k =
    { u.ctxAt k with sq := { (u.ctxAt k).sq with late := l } } := by
  unfold State.inFlight
  split
  · exact ⟨(u.ctxAt k).sq.late, rfl⟩
  · exact ⟨_, State.ctxAt_onCtx _ _ _⟩

theorem State.inFlight_ctx_ne (u : State) (k : Nat) (ns : List Nat) (j : Nat) (h : j ≠ k) :
    (u.inFlight k ns).ctxAt j = u.ctxAt j := by
  unfold State.inFlight
  split
  · rfl
  · exact State.ctxAt_onCtx_ne _ _ _ _ h

/-- The context in which the operation of a slot acts: its registers, and all else but bookkeeping, are as before. -/
theorem State.opened_ctx (u : State) (k n p : Nat) (b : Bool) (l : Latch) : ((u.opened k n b [(p, l)]).ctxAt k).r = (u.ctxAt k).r ∧
    ((u.opened k n b [(p, l)]).ctxAt k).rest = (u.ctxAt k).rest ∧ ((u.opened k n b [(p, l)]).ctxAt k).mem.pend = (u.ctxAt k).mem.pend ∧
    ((u.opened k n b [(p, l)]).ctxAt k).sys.sstep = (u.ctxAt k).sys.sstep ∧
    ((u.opened k n b [(p, l)]).ctxAt k).sq.after = (u.ctxAt k).sq.after := by
  have h : (u.opened k n b [(p, l)]).ctxAt k = Ctx.setLatch (((u.countIssue k b)).ctxAt k) p l := by
    show ((u.countIssue k b).onCtx k (fun c => c.setLatch p l)).ctxAt k = _
    exact State.ctxAt_onCtx _ _ _
  have h2 : (u.countIssue k b).ctxAt k = { u.ctxAt k with
    sq := { (u.ctxAt k).sq with repcnt := if b then (u.ctxAt k).sq.repcnt else (u.ctxAt k).sq.repcnt + 1,
                                blocked := 0, wait := none, yielded := false, verAsks := [] }
    mem := { (u.ctxAt k).mem with barHere := mdel (u.ctxAt k).mem.barHere (b2n (u.ctxAt k).r.sup) }
    sys := { (u.ctxAt k).sys with ticks := if (u.ctxAt k).latchesRun then (u.ctxAt k).sys.ticks + 1 else (u.ctxAt k).sys.ticks } } := by
    simp only [State.countIssue, State.ctxAt_onCtx]
    rfl
  obtain ⟨e1, e2, e3, e4, e5⟩ := Ctx.setLatch_rest ((u.countIssue k b).ctxAt k) p l
  rw [h, e1, e2, e3, e4, e5, h2]
  exact ⟨rfl, rfl, rfl, rfl, rfl⟩

theorem State.opened_ctx_ne (u : State) (k n p : Nat) (b : Bool) (l : Latch) (j : Nat) (h : j ≠ k) :
    (u.opened k n b [(p, l)]).ctxAt j = u.ctxAt j := by
  have h1 : (u.opened k n b [(p, l)]).ctxAt j = (u.countIssue k b).ctxAt j := by
    show ((u.countIssue k b).onCtx k (fun c => c.setLatch p l)).ctxAt j = _
    exact State.ctxAt_onCtx_ne _ _ _ _ h
  rw [h1]
  simp only [State.countIssue]
  rw [State.ctxAt_onCtx_ne _ _ _ _ h]
  rfl

theorem State.opened_core (u : State) (k n p : Nat) (b : Bool) (l : Latch) (m : Nat) :
    { (u.opened k n b [(p, l)]).coreAt m with cycles := 0 } = { u.coreAt m with cycles := 0 } := by
  have h1 : (u.opened k n b [(p, l)]).coreAt m =
      ((State.takeFree 16 u).2.onCore (k / 4) (fun c => { c with cycles := c.cycles + 1 + (State.takeFree 16 u).1.setWidth 64 })).coreAt m := rfl
  rw [h1]
  by_cases hm : m = k / 4
  · subst hm
    rw [State.coreAt_onCore]
    rfl
  · rw [State.coreAt_onCore_ne _ _ _ _ hm]
    rfl

/-- A change of the current context that leaves all but its registers and its sequencing keeps the rest. -/
theorem kept_of_put (s u : State) (c : Ctx) (h1 : u.mem = s.mem) (h2 : u.hub = s.hub) (h3 : u.disp = s.disp) (h4 : u.mgmt = s.mgmt)
    (h5 : u.slices = s.slices) (h5' : u.walks = s.walks) (h6 : u.fq = s.fq) (h7 : u.fqIds = s.fqIds) (h8 : u.sides = s.sides) (h9 : u.core = s.core)
    (h10 : u.agenda = s.agenda) (h11 : ∀ j, j ≠ s.ck → u.ctxAt j = s.ctxAt j)
    (h12 : ∀ n, { u.coreAt n with cycles := 0 } = { s.coreAt n with cycles := 0 }) (hc : c.rest = s.me.rest) :
    Kept s (u.putCtx s.ck c) := by
  refine ⟨⟨⟨h2, h4, h5, h5', h6, h7, h8, h9, h10, fun j hj => ?_, h12⟩, h1, h3⟩, ?_⟩
  · rw [State.ctxAt_putCtx_ne _ _ _ _ hj]; exact h11 j hj
  · rw [State.ctxAt_putCtx]; exact hc

/-- A slot whose act only changes registers of its context, none of them the mode or the loops, leaves the rest of the
machine as it was. -/
theorem regs_slot (i : Instr) (sem : SlotSem) (s : State) (g : Regs → Regs) (h : s.slotReady i = true) (hp : s.endsPlain = true)
    (hc : sem.check s.fresh (s.slotEnv i) = none) (hst : sem.stall (s.slotEnv i) s.fresh = false)
    (hw : sem.wait (s.slotEnv i) s.fresh = (s.fresh, none))
    (ha : ∀ u : State, u.core = s.core → (u.ctxAt s.ck).r = s.me.r → (u.ctxAt s.ck).mem.pend = s.me.mem.pend →
      u.issue.pc = s.issue.pc → u.issue.next = s.issue.next →
      sem.act (s.slotEnv i) u = (u.onCtx s.ck (fun c => c.onR g), none))
    (hg : ∀ r, (g r).sup = r.sup ∧ (g r).loops = r.loops ∧ (g r).pc = r.pc) :
    ∃ t pc, runSlot i sem s = .next t ∧ Kept s t ∧ GoesOn s t ∧ (t.ctxAt s.ck).r = { g s.me.r with pc := pc } := by
  have hr := runSlot_ready i sem s s.fresh h hc hst hw
  obtain ⟨o1, o2, o3, o4, o5⟩ := State.opened_ctx s.fresh s.ck s.me.sq.perf s.issue.pos false (freshLatch s.me i)
  rw [ha (s.fresh.opened s.ck s.me.sq.perf false [(s.issue.pos, freshLatch s.me i)]) rfl o1 o3 rfl rfl] at hr
  simp only [State.acted] at hr
  generalize hu : s.fresh.opened s.ck s.me.sq.perf false [(s.issue.pos, freshLatch s.me i)] = u at hr o1 o2 o3 o4 o5
  obtain ⟨la, hctx⟩ : ∃ la, (((u.onCtx s.ck (fun c => c.onR g)).markPerf s.issue.pos).inFlight s.ck (vDests i)).ctxAt s.ck =
      { (u.ctxAt s.ck).onR g with sq := { (u.ctxAt s.ck).sq with late := la } } := by
    obtain ⟨la, hl⟩ := State.inFlight_ctx ((u.onCtx s.ck (fun c => c.onR g)).markPerf s.issue.pos) s.ck (vDests i)
    have hx : ((u.onCtx s.ck (fun c => c.onR g)).markPerf s.issue.pos).ctxAt s.ck = (u.ctxAt s.ck).onR g := by
      show (u.onCtx s.ck (fun c => c.onR g)).ctxAt s.ck = _
      simp
    rw [hx] at hl
    exact ⟨la, hl⟩
  have hiss : (((u.onCtx s.ck (fun c => c.onR g)).markPerf s.issue.pos).inFlight s.ck (vDests i)).issue =
      { u.issue with perf := u.issue.perf ++ [s.issue.pos] } := by
    rw [State.inFlight_issue]; rfl
  have hui : u.issue.rep = s.issue.rep ∧ u.issue.reps = s.issue.reps ∧ u.issue.next = s.issue.next ∧ u.issue.target = none ∧
      u.issue.pc = s.issue.pc := by
    subst hu; exact ⟨rfl, rfl, rfl, rfl, rfl⟩
  simp only [State.endsPlain, Bool.and_eq_true, Bool.or_eq_true, Bool.not_eq_true'] at hp
  have hfr : (s.fresh.ctxAt s.ck) = s.me := rfl
  rw [hfr] at o1 o4 o2 o5
  obtain ⟨⟨hk, hp1⟩, hp2⟩ := hp
  rw [State.finish_plain _ _ _ (by rw [hiss]; subst hu; rfl) (by rw [hiss]; subst hu; rfl) (by rw [hiss]; subst hu; rfl)
    (by rw [hiss]; subst hu; rfl) (by rw [hiss]; subst hu; rfl) (by rw [hiss]; subst hu; rfl)
    (by
      rw [hctx, hiss]
      simp only [Ctx.onR, (hg _).1, o1, hui.2.2.2.2]
      have : Seq.keptTrap { (u.ctxAt s.ck).sq with late := la } s.issue.pc s.me.r.sup = s.me.sq.keptTrap s.issue.pc s.me.r.sup := by
        simp only [Seq.keptTrap, o5]
      rw [this]
      simpa using hk)
    (by rw [hctx]; simp only [Ctx.onR, (hg _).1, o1, o4]; exact hp1)
    (by rw [hctx, hiss]; simp only [Ctx.onR, (hg _).2.1, o1]; subst hu; exact hp2)] at hr
  refine ⟨_, if s.issue.rep < s.issue.reps then s.me.r.pc else s.issue.next, hr, ?_, ?_, ?_⟩
  · refine kept_of_put s _ _ (by simp; subst hu; rfl) (by simp; subst hu; rfl) (by simp; subst hu; rfl) (by simp; subst hu; rfl)
      (by simp; subst hu; rfl) (by simp; subst hu; rfl) (by simp; subst hu; rfl) (by simp; subst hu; rfl) (by simp; subst hu; rfl)
      (by simp; subst hu; rfl) (by simp; subst hu; rfl) (fun j hj => ?_) (fun n => ?_) ?_
    · rw [State.inFlight_ctx_ne _ _ _ _ hj]
      show (u.onCtx s.ck (fun c => c.onR g)).ctxAt j = _
      rw [State.ctxAt_onCtx_ne _ _ _ _ hj]
      subst hu
      exact State.opened_ctx_ne _ _ _ _ _ _ _ hj
    · have hcore : (((u.onCtx s.ck (fun c => c.onR g)).markPerf s.issue.pos).inFlight s.ck (vDests i)).coreAt n = u.coreAt n := by
        simp only [State.coreAt, State.inFlight_cores, State.markPerf_cores, State.onCtx_cores]
      rw [hcore]
      subst hu
      exact State.opened_core s.fresh s.ck s.me.sq.perf s.issue.pos false (freshLatch s.me i) n
    · rw [hctx, ← o2]; rfl
  · show (State.ctxAt _ _).r.pc = _
    rw [State.ctxAt_putCtx, hctx, hiss]
    simp only [Ctx.closed, Ctx.onR, o1, (hg _).2.2, hui, Option.getD_none]
  · rw [State.ctxAt_putCtx, hctx, hiss]
    simp only [Ctx.closed, Ctx.onR, o1, (hg _).2.2, hui, Option.getD_none]

/-- With no result in flight toward a scalar, a write of it takes nothing from an access. -/
theorem Ctx.overwrite_none (c : Ctx) (sup : Bool) (n : Nat) (h : ∀ a ∈ c.mem.pend, a.dest ≠ .s sup n) :
    c.overwrite sup n = c := by
  unfold Ctx.overwrite
  split
  · rfl
  · have : c.mem.pend.map (fun a => if a.dest = .s sup n then { a with dest := .none } else a) = c.mem.pend := by
      conv_rhs => rw [← List.map_id c.mem.pend]
      exact List.map_congr_left (fun a ha => by simp [h a ha])
    rw [this]

/-- Nothing in flight is bound for a scalar that a ready slot names. -/
theorem slotReady_pend (s : State) (i : Instr) (n : Nat) (h : s.slotReady i = true) (hn : n ∈ sNames i) :
    ∀ a ∈ s.me.mem.pend, a.dest ≠ .s (s.me.r.sup && decide (56 ≤ n)) n := by
  simp only [State.slotReady, State.slotClear, Bool.and_eq_true, Bool.not_eq_true'] at h
  intro a ha hd
  have h1 : s.me.mem.pend.any (fun a => s.me.stallsOn [i] a.dest) = false := h.1.1.1.1.1.1.2
  rw [List.any_eq_false] at h1
  refine h1 a ha ?_
  rw [hd]
  simp [Ctx.stallsOn, hn]

/-- A slot whose one effect is a write of a scalar it names. -/
theorem scalar_slot (i : Instr) (sem : SlotSem) (s : State) (sd : Nat) (v : W64) (h : s.slotReady i = true)
    (hp : s.endsPlain = true) (hc : sem.check s.fresh (s.slotEnv i) = none) (hst : sem.stall (s.slotEnv i) s.fresh = false)
    (hw : sem.wait (s.slotEnv i) s.fresh = (s.fresh, none))
    (hn : sd ∈ sNames i)
    (ha : ∀ u : State, u.core = s.core → (u.ctxAt s.ck).r = s.me.r → u.issue.pc = s.issue.pc → u.issue.next = s.issue.next →
      sem.act (s.slotEnv i) u = (u.wr s.ck sd v, none)) :
    ∃ t, runSlot i sem s = .next t ∧ WritesS s t sd v := by
  obtain ⟨t, pc, h1, h2, h4, h3⟩ := regs_slot i sem s (fun r => r.ws sd v) h hp hc hst hw (fun u a b c d e => by
    rw [ha u a b d e]
    have : (u.ctxAt s.ck).overwrite ((u.ctxAt s.ck).r.sup && decide (56 ≤ sd)) sd = u.ctxAt s.ck := by
      apply Ctx.overwrite_none
      rw [b, c]
      exact slotReady_pend s i sd h hn
    simp only [State.wr, State.onCtx, this]) (fun r => by
      unfold Regs.ws Regs.wsMode; split
      · exact ⟨rfl, rfl, rfl⟩
      · split <;> exact ⟨rfl, rfl, rfl⟩)
  refine ⟨t, h1, ⟨h2, ?_, ?_, ?_, ?_⟩, h4⟩
  · rw [h3]; unfold Regs.ws Regs.wsMode Regs.noS; split
    · rfl
    · split <;> rfl
  · rw [h3]
    have : ({ s.me.r.ws sd v with pc := pc } : Regs).rs sd = (s.me.r.ws sd v).rs sd := rfl
    rw [this]
    by_cases h0 : sd = 0
    · simp [h0]
    · simp [h0, Regs.rs_ws_same _ _ _ h0]
  · intro n hne
    rw [h3]
    exact Regs.rs_ws_ne _ _ _ _ hne
  · intro n hn56
    rw [h3]
    unfold Regs.ws Regs.wsMode Regs.hidden
    by_cases h0 : sd = 0
    · simp [h0]
    · by_cases hs : s.me.r.sup
      · by_cases h5 : 56 ≤ sd
        · simp [h0, hs, h5]
        · have hne : n ≠ sd := by omega
          simp [h0, hs, h5, mget_mset_ne _ _ _ _ _ _ hne]
      · simp [h0, hs]

end Sys2Proof.Machine
end

