-- ==== Sys2Proof/Tests/Slice0.lean ====
section
/-!
SUPPORT. Tests on fixed values: refused terms, words written out from the encoding tables, values from the spec's worked
examples and from hand calculation, and for each statement states and operands that meet its hypotheses.
-/

namespace Sys2Proof.Tests

-- One theorem at a time: what the kernel evaluates takes memory.
set_option Elab.async false

open Sys2Proof Sys2Proof.Machine

/-! ### Terms that 04 R129 refuses -/

/-- Plain fields of each form, all zero. -/
def sr0 : SR := { g := 0, sd := 0, sa := 0, sb := 0, fn := 0 }
@[inherit_doc sr0]
def si0 : SI := { g := 0, sd := 0, sa := 0, imm := 0 }
@[inherit_doc sr0]
def su0 : SU := { g := 0, sd := 0, imm := 0 }
@[inherit_doc sr0]
def vr0 : VR := { mrg := 0, w := 0, et := 0, vd := 0, va := 0, vb := 0, dc := 0, ac := 0, bc := 0, rm := 0, mask := 0, g := 0 }
@[inherit_doc sr0]
def vq0 : VQ :=
  { op0 := 0, w := 0, fmt := 6, vd := 0, va := 0, dc := 0, ac := 0, blk := 1, rm := 0, ce := 0, cal := 0, rsv := 0, g := 0 }
@[inherit_doc sr0]
def mx0 : MX := { g := 0, acc := 0, src := 0, scl := 0, fa := 0, ba := 0, qs := 0, ca := 0, cb := 0, ce := 0, cal := 0, rm := 0, rsv := 0 }
@[inherit_doc sr0]
def mc0 : MC := { g := 0, acc := 0, acb := 0, af := 0, rm := 0, ss := 0, imm := 0, rsv := 0 }
@[inherit_doc sr0]
def lm0 : LM :=
  { g := 0, data := 0, dcl := 0, base := 0, qs := 0, se := 0, sbs := 0, we := 0, sbw := 0, ord := 0, sz := 0, imm := 0 }
@[inherit_doc sr0]
def lc0 : LC := { g := 0, sdst := 0, ssrc := 0, sdsc := 0, tag := 0, qs := 0, md := 0, fmt := 0, we := 0, sbw := 0, rsv := 0 }
@[inherit_doc sr0]
def bj0 : BJ := { g := 0, sd := 0, sa := 0, rsv := 0, off := 0 }
@[inherit_doc sr0]
def bg0 : BG := { g := 0, sd := 0, sa := 0, sb := 0, fn := 0, imm := 0 }
@[inherit_doc sr0]
def bl0 : BL := { g := 0, lc := 0, sa := 0, max := 0, last := 0, neg := 0, cc := 0, rsv := 0 }
@[inherit_doc sr0]
def bt0 : BT := { nt := 0, t0 := 0, t1 := 0, t2 := 0, t3 := 0, l0 := 0, l1 := 0, l2 := 0, l3 := 0 }

/-- Unused fields that are not zero: FN, SB, immediates, reserved fields of each form (R115, reason 9). -/
theorem test_illformed_unused_fields :
    [Instr.add { sr0 with fn := 1 }, .clz { sr0 with sb := 1 }, .shli { si0 with imm := 64 }, .rdd { si0 with sa := 1 },
      .cmp { sr0 with sd := 8 }, .vabs { vr0 with vb := 1 }, .vadd { vr0 with rm := 1 }, .vcmp { vr0 with vd := 16 },
      .vext { vr0 with bc := 2, vd := 64 }, .arow { vr0 with w := 2, et := 4, bc := 2, va := 32 }, .vqnt { vq0 with rsv := 1 },
      .mld { mx0 with acc := 1 }, .azero { mc0 with acb := 1 }, .await { mc0 with imm := 2 }, .ldvg { lm0 with dcl := 1, sz := 2, imm := 2048 },
      .cbwait { lm0 with base := 1, imm := 0x10 }, .cpy { lc0 with rsv := 1 }, .br { bj0 with sd := 1 }, .loop { bl0 with rsv := 1 },
      .bt { bt0 with t1 := 1 }, .brk { bg0 with sd := 1 }, .waitsb { bg0 with imm := 0x10000 }].all
      (fun i => !i.WellFormed) = true := by decide

/-- Reserved codes: width, element type, rounding, block, format, accumulator format, operand class, size and group level
(reason 10). -/
theorem test_illformed_reserved_codes :
    [Instr.fadd { sr0 with fn := 10 }, .vadd { vr0 with w := 3 }, .vand { vr0 with et := 15 }, .vfadd { vr0 with et := 8, rm := 5 },
      .vadd { vr0 with ac := 3 }, .vqnt { vq0 with fmt := 20 }, .vqnt { vq0 with blk := 5 }, .mma { mx0 with fa := 20 },
      .acfg { mc0 with af := 5 }, .ld { lm0 with dcl := 3 }, .ld { lm0 with sz := 7 }, .tld { lc0 with fmt := 20 },
      .bar bg0, .barwait { bg0 with imm := 7 }].all (fun i => !i.WellFormed) = true := by decide

/-- Types, classes, sizes, orders and codes that the operation does not accept (reason 14). -/
theorem test_illformed_not_accepted :
    [Instr.cmp { sr0 with fn := 6 }, .fmvx { sr0 with fn := 10 }, .rdsys { si0 with imm := 5 }, .vadd { vr0 with et := 8 },
      .vmadd { vr0 with dc := 1 }, .vbcast vr0, .vperm { vr0 with mrg := 1 }, .vext { vr0 with bc := 2, mask := 1 },
      .vcvt { vr0 with et := 14, vb := 14 }, .vqc4 vq0, .mma { mx0 with fa := 1 }, .mmas mx0, .mmaC mx0, .mmac mx0,
      .mstat { mc0 with imm := 2 }, .ldv lm0, .st { lm0 with ord := 1 }, .amo { lm0 with sz := 3, imm := 0xD000 },
      .red { lm0 with sz := 2, imm := 0x1A00 }, .stopk { lm0 with dcl := 1, sz := 2, imm := 0x0700 }, .cbpop { lm0 with imm := 1 },
      .pf { lm0 with data := 2 }, .tst { lc0 with md := 2 }, .loopw bl0, .spawn { bg0 with sb := 57 }, .handreq { bg0 with imm := 9 },
      .cstep { bg0 with imm := 0x00010FFF }, .dhint { bg0 with imm := 4 }, .mfsy { bg0 with imm := 12 }, .eret { bg0 with fn := 2 },
      .tlbinv { bg0 with fn := 3 }, .tlwait { bg0 with fn := 3 }, .barArv { bg0 with imm := 2 }, .awaitAll mc0].all
      (fun i => !i.WellFormed) = true := by decide

/-- The same forms with fields that R129 accepts. -/
theorem test_wellformed :
    [Instr.add sr0, .shli { si0 with imm := 63 }, .cmp { sr0 with sd := 7, fn := 5 }, .fadd { sr0 with fn := 9 }, .vadd { vr0 with et := 7 },
      .vqnt vq0, .mma mx0, .mmaC { mx0 with fa := 1 }, .azero mc0, .awaitAll { mc0 with imm := 1 }, .ld { lm0 with sz := 3 },
      .cbwait { lm0 with imm := 0x10 }, .tld lc0, .br bj0, .loop bl0, .bt bt0, .brk bg0, .bar { bg0 with imm := 6 }, .idleRun 5].all
      Instr.WellFormed = true := by decide

/-- A guard code is judged in its packet: code 8 is reserved without a `bt` (04 R113, reason 11), and a transfer may not
stand in a repeated packet (reason 12). -/
theorem test_packet_reasons :
    slotIllegal none false 8 (.add { sr0 with g := 8 }) = some 11 ∧ slotIllegal none true 12 (.br bj0) = some 12 ∧
      slotIllegal none false 12 (.loop { bl0 with last := 2 }) = some 14 ∧ slotIllegal none false 12 (.loop { bl0 with last := 3 }) = none ∧
      headerReason false 0 (Header.ofWord 0x11000001) = some 1 ∧ headerReason false 0 (Header.ofWord 0x05000001) = some 2 := by decide

/-! ### Decoding: words written out from 04 R116 to R128, 08 R285 -/

/-- S slots: `sub s3, s1, s2` is OP 2, SD 3 at [21:16], SA 1 at [15:10], SB 2 at [9:4]; `li s5, 1` is 05's word. -/
theorem test_decode_s :
    decSlot .s 0x08030420 = .ok (.sub { sr0 with sd := 3, sa := 1, sb := 2 }) ∧
      decSlot .s 0x78050001 = .ok (.li { su0 with sd := 5, imm := 1 }) ∧
      decSlot .s 0x0C071C02 = .ok (.addi { si0 with sd := 7, sa := 7, imm := 2 }) ∧ (decSlot .s 0).get? = none := by decide

/-- V slots: the worked words of 06. -/
theorem test_decode_v :
    decSlot .v 0x1B940A0018071020 = .ok (.vfma { vr0 with mrg := 1, et := 10, vd := 40, va := 3, vb := 7, bc := 2, mask := 2 }) ∧
      decSlot .v 0x4F020C80A0000030 = .ok (.vhist { vr0 with et := 1, vd := 50, va := 20, mask := 3 }) ∧
      (decSlot .v 0xFF00000000000000).get? = none := by decide

/-- M slots: `azero` is OP 8 with ACC at [53:49]; `await.all` is OP 12 with IMM 1 at [31:16]; `mma` is OP 4. -/
theorem test_decode_m :
    decSlot .m 0x2006000000000000 = .ok (.azero { mc0 with acc := 3 }) ∧
      decSlot .m 0x3000000000010000 = .ok (.awaitAll { mc0 with imm := 1 }) ∧
      decSlot .m 0x1004000000000000 = .ok (.mma { mx0 with acc := 2 }) ∧ (decSlot .m 0).get? = none := by decide

/-- L slots: the words of 08 and 12, and `cpy`: OP 18 at [63:57] and TAG at [34:31]. -/
theorem test_decode_l :
    decSlot .l 0x68004C0000000012 = .ok (.cbpush { lm0 with data := 0x13, imm := 0x12 }) ∧
      decSlot .l 0x4000203C000B0010 = .ok (.verld { lm0 with data := 8, base := 15, ord := 1, sz := 3, imm := 16 }) ∧
      decSlot .l 0x2400000180000000 = .ok (.cpy { lc0 with tag := 3 }) ∧ (decSlot .l 0).get? = none := by decide

/-- B slots: the worked words of 05, 10 and 11; FN tells `bar.arv` and `eret.end` apart. -/
theorem test_decode_b :
    decSlot .b 0x1801800019000140 = .ok (.loop { bl0 with sa := 6, max := 100, last := 5 }) ∧
      decSlot .b 0x800500000FFF0000 = .ok (.cstep { bg0 with sd := 5, imm := 0x0FFF0000 }) ∧
      decSlot .b 0x9400180000000001 = .ok (.dhint { bg0 with sa := 6, imm := 1 }) ∧
      decSlot .b 0x4C00000100000002 = .ok (.barArv { bg0 with fn := 1, imm := 2 }) ∧
      decSlot .b 0xC800000100000000 = .ok (.eretEnd { bg0 with fn := 1 }) ∧ (decSlot .b 0).get? = none := by decide

/-- Sidecar words: funct3 0 of custom-0 with rd 5 and rs1 6; custom-1 funct3 4 with rs2 7 and rs1 6; and, by RISC-V's own
table (log entry 9), `addi x1, x0, 5` and `c.nop`. -/
theorem test_decode_sidecar :
    decSide 0x0003028B = .xSpld 5 6 ∧ decSide 0x0073402B = .xCbpop 7 6 ∧
      decSide 0x00500093 = .sidecarRiscvInstruction (.aluImm .add false 1 0 5) false ∧
      decSide 1 = .sidecarRiscvInstruction (.aluImm .add false 0 0 0) true := by decide

/-- Headers: the worked header of 04, and its slots at byte offsets 4 and 8. -/
theorem test_decode_header :
    Header.ofWord 0x01108241 = { rsv := 0, kind := 0, stop := 1, rep := 4, stky := 0x041, pres := 0x041 } ∧
      (Header.ofWord 0x01108241).slots = ([(0, 4), (6, 8)], 16) ∧ (Header.ofWord 0x01000100).slots = ([(8, 4)], 12) := by decide

/-- The other way: encoding gives the worked words. -/
theorem test_encode_words :
    encode (.add { sr0 with sd := 8, sa := 8, sb := 7 }) = some (.s, 0x04082070) ∧
      encode (.dstat { bg0 with sd := 5, sa := 6, imm := 2 }) = some (.b, 0x9005180000000002) ∧
      encX (.xSpld 5 6) = some 0x0003028B ∧
      (Header.mk 0 0 1 4 0x041 0x041).toWord = 0x01108241 := by decide

/-! ### The state of the tests -/

/-- A context of a live task in slot 0 of core 0, in user mode, at a packet of 12 bytes, with a share of 16 KB and
with all banks and tiles. -/
def t0 : State := { (State.reset.withContext [] {} (.issue 0)) with
  agenda := [], issue := { pc := 0x1000000000000, next := 0x100000000000C, starts := [0x1000000000000] } }

/-- The context of a state changed. -/
def at_ (s : State) (f : Ctx → Ctx) : State := s.onMe f

/-- Scalars 1 to 8, condition bits 0 and 2, two vectors, mask 1 and generator 0 set. -/
def tb : State := at_ t0 fun c => { c with
  mx := { c.mx with nTiles := 32, nBanks := 4 }
  r := { c.r with
    s := [(1, 7), (2, 3), (3, 0xFFFFFFFFFFFFFFF9), (4, 0x1000), (5, 0x3F800000), (6, 0x40000000), (7, 0x8000000000000000), (8, 0xFFFFFFFFFFFFFFFF)]
    c := 0x05
    v := [(1, 0x0000000300000002000000010000FFFF), (2, 0x00000004000000030000000200000001)]
    m := [(1, 0xF0F)] } }

/-- The same in supervisor mode. -/
def tsup : State := at_ tb fun c => { c with r := { c.r with sup := true } }

/-- An instruction meets what `Completes` asks of a state. -/
def rdy (s : State) (i : Instr) : Bool := s.slotReady i && s.endsPlain
@[inherit_doc rdy]
def rdyFree (s : State) (i : Instr) : Bool := s.slotReady i && s.endsPlain && s.slotFree i
@[inherit_doc rdy]
def rdyV (s : State) (i : Instr) : Bool := rdyFree s i && (vPoison i (s.slotEnv i)).isNone
@[inherit_doc rdy]
def rdyAtOnce (s : State) (i : Instr) : Bool := rdyFree s i && s.me.mem.pend.isEmpty
/-- An instruction meets what `FaultsAt` and `BlocksIf` ask of a state. -/
def rdyTrap (s : State) (i : Instr) : Bool := s.slotReady i && s.traps

/-- The next state, if there is one. -/
def next? (o : Out State) : Option State := match o with | .next t => some t | _ => none

/-- Scalar `n`, the condition bits, the pc and vector `n` of the current context after an instruction. -/
def sAfter (s : State) (i : Instr) (n : Nat) : Option W64 := (next? (exec i s)).map (fun t => (t.ctxAt s.ck).r.rs n)
@[inherit_doc sAfter]
def cAfter (s : State) (i : Instr) (n : Nat) : Option Bool := (next? (exec i s)).map (fun t => (t.ctxAt s.ck).r.rc n)
@[inherit_doc sAfter]
def pcAfter (s : State) (i : Instr) : Option W64 := (next? (exec i s)).map (fun t => (t.ctxAt s.ck).r.pc)
@[inherit_doc sAfter]
def vAfter (s : State) (i : Instr) (n : Nat) : Option Nat := (next? (exec i s)).map (fun t => ((t.ctxAt s.ck).r.rv n).toNat)

/-! ### S slots -/

theorem test_ready_scalar_integers :
    [Instr.add { sr0 with sa := 1, sb := 2, sd := 9 }, .sub { sr0 with sa := 1, sb := 2, sd := 9 }, .addi { si0 with sa := 1, sd := 9, imm := 0x3FF },
      .mul { sr0 with sa := 3, sb := 2, sd := 9 }, .mulh { sr0 with sa := 3, sb := 2, sd := 9 }, .mulhu { sr0 with sa := 3, sb := 2, sd := 0 },
      .div { sr0 with sa := 3, sb := 2, sd := 9 }, .divu { sr0 with sa := 3, sb := 0, sd := 9 }, .rem { sr0 with sa := 7, sb := 8, sd := 9 },
      .remu { sr0 with sa := 3, sb := 2, sd := 9 }, .and { sr0 with sa := 1, sb := 2 }, .or { sr0 with sa := 1, sb := 2 },
      .xor { sr0 with sa := 1, sb := 2 }, .andn { sr0 with sa := 1, sb := 2 }, .shl { sr0 with sa := 1, sb := 8 }, .shr { sr0 with sa := 3, sb := 8 },
      .sra { sr0 with sa := 3, sb := 8 }, .shli { si0 with sa := 3, imm := 63 }, .shri { si0 with sa := 3, imm := 63 }, .srai { si0 with sa := 3, imm := 63 },
      .clz { sr0 with sa := 1 }, .ctz { sr0 with sa := 0 }, .popc { sr0 with sa := 3 }, .min { sr0 with sa := 1, sb := 3 }, .max { sr0 with sa := 1, sb := 3 },
      .minu { sr0 with sa := 1, sb := 3 }, .maxu { sr0 with sa := 1, sb := 3 }, .mov { sr0 with sa := 1 }, .sext { si0 with sa := 3, imm := 63 },
      .zext { si0 with sa := 3, imm := 0 }, .bfx { sr0 with sa := 3, sb := 4, fn := 1 }, .bfi { sr0 with sa := 3, sb := 4, sd := 1 }, .li { su0 with sd := 1 },
      .lui { su0 with sd := 1 }, .addr { su0 with sd := 1 }, .cmp { sr0 with sd := 7, fn := 5, sa := 1, sb := 2 }, .sel { sr0 with fn := 15 }].all
      (rdy tb) = true := by decide

theorem test_ready_scalar_floats :
    [Instr.fadd { sr0 with sa := 5, sb := 6, fn := 8 }, .fsub { sr0 with sa := 5, sb := 6, fn := 9 }, .fmul { sr0 with sa := 5, sb := 6 },
      .fmadd { sr0 with sa := 5, sb := 6, sd := 5 }, .fdiv { sr0 with sa := 5, sb := 6 }, .fsqrt { sr0 with sa := 5 }, .fmin { sr0 with fn := 1 },
      .fmax sr0, .fcmp { sr0 with sd := 15, fn := 4 }, .fmvx { sr0 with fn := 9 }, .fcvt { sr0 with sb := 0x3F, fn := 8 },
      .rdd { si0 with imm := 15 }, .rdsys { si0 with imm := 11 }, .rdtime sr0].all (rdy tb) = true := by decide

/-- 05 R138, by hand: 7 + (−7) wraps to 0, 7 − 3, 3 × −7, the high halves of −7 × 3, and a shift amount of 63. -/
theorem test_scalar_sums :
    sAfter tb (.add { sr0 with sa := 1, sb := 3, sd := 9 }) 9 = some 0 ∧ sAfter tb (.sub { sr0 with sa := 2, sb := 1, sd := 1 }) 1 = some 0xFFFFFFFFFFFFFFFC ∧
      sAfter tb (.addi { si0 with sa := 2, sd := 9, imm := 0x3FC }) 9 = some 0xFFFFFFFFFFFFFFFF ∧
      sAfter tb (.mul { sr0 with sa := 3, sb := 2, sd := 9 }) 9 = some 0xFFFFFFFFFFFFFFEB ∧
      sAfter tb (.mulh { sr0 with sa := 3, sb := 2, sd := 9 }) 9 = some 0xFFFFFFFFFFFFFFFF ∧
      sAfter tb (.mulhu { sr0 with sa := 3, sb := 2, sd := 9 }) 9 = some 2 ∧ sAfter tb (.shl { sr0 with sa := 1, sb := 8, sd := 9 }) 9 = some 0x8000000000000000 ∧
      sAfter tb (.srai { si0 with sa := 3, sd := 9, imm := 1 }) 9 = some 0xFFFFFFFFFFFFFFFC ∧
      sAfter tb (.add { sr0 with sa := 1, sb := 2, sd := 0 }) 0 = some 0 := by decide

/-- 05 R139, its table: −7 / 3 rounds to −2 with remainder −1, division by zero, and −2^63 / −1. -/
theorem test_scalar_division :
    sAfter tb (.div { sr0 with sa := 3, sb := 2, sd := 9 }) 9 = some 0xFFFFFFFFFFFFFFFE ∧ sAfter tb (.rem { sr0 with sa := 3, sb := 2, sd := 9 }) 9 = some 0xFFFFFFFFFFFFFFFF ∧
      sAfter tb (.div { sr0 with sa := 1, sb := 0, sd := 9 }) 9 = some 0xFFFFFFFFFFFFFFFF ∧ sAfter tb (.remu { sr0 with sa := 1, sb := 0, sd := 9 }) 9 = some 7 ∧
      sAfter tb (.div { sr0 with sa := 7, sb := 8, sd := 9 }) 9 = some 0x8000000000000000 ∧ sAfter tb (.rem { sr0 with sa := 7, sb := 8, sd := 9 }) 9 = some 0 := by decide

/-- 05 R138, R140, R142, R143, by hand: leading zeros of 7, trailing zeros of 0, the field of a 1-bit descriptor, −7 < 3 signed and not
unsigned, and the two forms of `sel` on c0 = 1. -/
theorem test_scalar_bits :
    sAfter tb (.clz { sr0 with sa := 1, sd := 9 }) 9 = some 61 ∧ sAfter tb (.ctz { sr0 with sa := 0, sd := 9 }) 9 = some 64 ∧
      sAfter tb (.bfx { sr0 with sa := 1, sb := 2, sd := 9, fn := 1 }) 9 = some 0 ∧ sAfter tb (.bfx { sr0 with sa := 3, sb := 2, sd := 9, fn := 1 }) 9 = some 0xFFFFFFFFFFFFFFFF ∧
      cAfter tb (.cmp { sr0 with sd := 1, fn := 2, sa := 3, sb := 2 }) 1 = some true ∧ cAfter tb (.cmp { sr0 with sd := 1, fn := 4, sa := 3, sb := 2 }) 1 = some false ∧
      sAfter tb (.sel { sr0 with sa := 1, sb := 2, sd := 9, fn := 0 }) 9 = some 7 ∧ sAfter tb (.sel { sr0 with sa := 1, sb := 2, sd := 9, fn := 8 }) 9 = some 3 := by decide

/-- 05 R141: the worked sequence of `li` and `lui` ends at 0x0001_0000_0004_2000. -/
theorem test_scalar_immediates :
    sAfter (at_ tb fun c => { c with r := { c.r with s := [(5, 0x100000004)] } }) (.lui { su0 with sd := 5, imm := 0x2000 }) 5 = some 0x1000000042000 ∧
      sAfter tb (.li { su0 with sd := 5, imm := 0x8000 }) 5 = some 0xFFFFFFFFFFFF8000 ∧
      sAfter tb (.addr { su0 with sd := 5, imm := 0xFFFF }) 5 = some 0xFFFFFFFFFFFC := by decide

/-- 05 R145 to R149: 1 + 2 = 3, 1 / 2, min(1, 2), 1 < 2, and the negation of 1 in FP32. -/
theorem test_scalar_floats :
    sAfter tb (.fadd { sr0 with sa := 5, sb := 6, sd := 9 }) 9 = some 0x40400000 ∧ sAfter tb (.fdiv { sr0 with sa := 5, sb := 6, sd := 9 }) 9 = some 0x3F000000 ∧
      sAfter tb (.fmin { sr0 with sa := 6, sb := 5, sd := 9 }) 9 = some 0x3F800000 ∧ cAfter tb (.fcmp { sr0 with sd := 1, fn := 2, sa := 5, sb := 6 }) 1 = some true ∧
      sAfter tb (.fmvx { sr0 with sa := 5, sb := 5, sd := 9, fn := 2 }) 9 = some 0xBF800000 ∧
      sAfter tb (.fcvt { sr0 with sa := 3, sb := 0x31, sd := 9 }) 9 = some 0xC01C000000000000 := by decide

/-! ### The B slot -/

/-- Transfers: every form is ready; a register target is aligned for one and not for the other. -/
theorem test_ready_transfers :
    [Instr.br { bj0 with off := 8 }, .call { bj0 with sd := 9, off := 8 }, .ret { bj0 with sa := 4 }, .jr { bj0 with sd := 9, sa := 4, off := 1 },
      .bt { bt0 with t0 := 0, l0 := 5 }].all (rdy tb) = true ∧ (tb.sc (4 : BitVec 6)).toNat % 4 = 0 ∧
      [Instr.ret { bj0 with sa := 1 }, .jr { bj0 with sa := 1 }].all (rdyTrap tb) = true ∧ (tb.sc (1 : BitVec 6)).toNat % 4 ≠ 0 := by decide

/-- 05 R154, R155, by hand: a branch of −2 words, the link of a call, and the leaf of a test of c0. -/
theorem test_transfers :
    pcAfter tb (.br { bj0 with off := 0xFFFFFFFE }) = some 0xFFFFFFFFFFF8 ∧ sAfter tb (.call { bj0 with sd := 9, off := 8 }) 9 = some 0x100000000000C ∧
      pcAfter tb (.call { bj0 with sd := 9, off := 8 }) = some 0x1000000000020 ∧ pcAfter tb (.ret { bj0 with sa := 4 }) = some 0x1000 ∧
      pcAfter tb (.bt { bt0 with t0 := 0, l0 := 5 }) = some 0x1000000000014 ∧ pcAfter tb (.bt { bt0 with t0 := 1, l0 := 5 }) = some 0x100000000000C ∧
      pcAfter tb (.ret { bj0 with sa := 1 }) = some 0x1000000000800 := by decide

/-- The counted loop of 05: the `loop` packet, and the state at the end of its first trip. -/
def tl : State := at_ tb fun c => { c with r := { c.r with
  lc := [(0, 3)], loops := [{ k := 0, start := 0x1000000000000, last := 0x1000000000000, while_ := false, cc := 0, neg := false, max := 100 }] } }

/-- Loops: trips within and beyond the maximum, and a packet that ends the most recent loop in each of its cases. -/
theorem test_hyp_loops :
    rdy tb (.loop { bl0 with sa := 2, max := 100, last := 5 }) = true ∧ rdyTrap tb (.loop { bl0 with sa := 1, max := 6, last := 5 }) = true ∧
      rdy tb (.loop { bl0 with sa := 0, max := 100, last := 5 }) = true ∧ rdy tb (.loopw { bl0 with max := 1, last := 5 }) = true ∧
      tl.slotReady (.mov sr0) = true ∧ tl.issue.reps ≤ tl.issue.rep ∧ tl.me.sys.sstep = false ∧ tl.traps = true ∧
      tl.me.r.loops.map (fun l => tl.issue.starts.contains l.last) = [true] := by decide

/-- 05 R161, the trips of the worked example: 3 goes round to 2, and 1 ends. -/
theorem test_loop_trips :
    pcAfter tl (.mov sr0) = some 0x1000000000000 ∧ (next? (exec (.mov sr0) tl)).map (fun t => mget 0 t.me.r.lc 0) = some 2 ∧
      (next? (exec (.mov sr0) (at_ tl fun c => { c with r := { c.r with lc := [(0, 1)] } }))).map (fun t => (t.me.r.pc, t.me.r.loops.length)) =
        some (0x100000000000C, 0) ∧
      (next? (exec (.loop { bl0 with sa := 1, max := 6, last := 5 }) tb)).map (fun t => (t.me.sys.scause.toNat % 256, t.me.sys.sdetail)) =
        some (0x17, 7) := by decide

/-- A context that may spawn: an idle sibling in slot 1 of the same reservation, and a pool of one piece. -/
def tsp : State :=
  let s := at_ tb fun c => { c with r := { c.r with d := [(12, 0x100)] } }
  { s with
    ctxs := mput s.ctxs 1 { placedCtx with st := .idle }
    disp := { s.disp with
      tasks := mput s.disp.tasks 1 { s.taskAt 1 with pieces := [(16, 64, 0)], l := { (s.taskAt 1).l with lo := 0, hi := 64, grain := 4 } }
      resvs := mput s.disp.resvs 1 { s.resvAt 1 with slots := [0, 1] } } }

theorem test_hyp_traps_and_spawns :
    rdyTrap tb (.brk { bg0 with imm := 0xFFFFFFFF }) = true ∧ rdyTrap tb (.trap { bg0 with imm := 5 }) = true ∧ rdy tb (.trap bg0) = true ∧
      tb.issue.reps ≤ tb.issue.rep ∧ rdy tb (.yield bg0) = true ∧ tb.me.sq.yielded = false ∧
      rdy (at_ tb fun c => { c with sq := { c.sq with yielded := true } }) (.yield bg0) = true ∧
      rdy tb (.exit bg0) = true ∧ tb.exitWaits tb.ck = false ∧ tb.me.exitTrap = none ∧
      rdy tsp (.spawn { bg0 with sa := 4, sb := 56, imm := 1 }) = true ∧ (tsp.sc (4 : BitVec 6)).toNat % 4 = 0 ∧ tsp.me.mem.pend = [] ∧
      (tsp.ctxAt 1).st = .idle ∧ (tsp.ctxAt 1).task = tsp.me.task ∧ (tsp.ctxAt 1).resv = tsp.me.resv ∧ rdy tsp (.nextr { bg0 with sd := 7 }) = true := by
  decide

/-- 05 R167: an entry that is not aligned, and a slot that is not idle. -/
theorem test_hyp_spawn_faults :
    rdyTrap tsp (.spawn { bg0 with sa := 1, sb := 56, imm := 1 }) = true ∧ (tsp.sc (1 : BitVec 6)).toNat % 4 ≠ 0 ∧
      rdyTrap tsp (.spawn { bg0 with sa := 4, sb := 56, imm := 2 }) = true ∧ (tsp.ctxAt 2).st ≠ .idle ∧
      (next? (exec (.spawn { bg0 with sa := 4, sb := 56, imm := 2 }) tsp)).map (fun t => (t.me.sys.scause.toNat % 256, t.me.sys.sdetail)) = some (0x16, 2) := by decide

/-- 05 R164, R165: where `brk` and `trap` leave the pc and SEPC; R166: the one context of a task retires. -/
theorem test_traps_and_exit :
    (next? (exec (.brk { bg0 with imm := 5 }) tb)).map (fun t => (t.me.r.pc, t.me.sys.sepc, t.me.sys.sdetail, t.me.sys.scause.toNat % 256)) =
        some (0x1000000000800, 0x1000000000000, 5, 0x18) ∧
      (next? (exec (.trap { bg0 with imm := 5 }) tb)).map (fun t => (t.me.r.pc, t.me.sys.sepc, t.me.sys.sdetail, t.me.sys.scause.toNat % 256)) =
        some (0x1000000000800, 0x100000000000C, 5, 0x19) ∧
      (next? (exec (.spawn { bg0 with sa := 4, sb := 1, imm := 1 }) tsp)).map (fun t => ((t.ctxAt 1).r.pc, (t.ctxAt 1).r.rs 1, (t.ctxAt 1).r.rs 2)) =
        some (0x1000, 7, 3) ∧
      (next? (exec (.exit bg0) tb)).map (fun t => decide (t.me.st = .live)) = some false := by decide

/-- Hands and bank classes: a context with one hand, all of four, a target of eight, and a class of bank 2. -/
def th : State := at_ tb fun c => { c with mx := { c.mx with hands := [0], hmax := 4 } }

theorem test_hyp_hands :
    rdy th (.handreq { bg0 with imm := 1 }) = true ∧ th.me.mx.hands.length = 1 ∧ rdyFree th (.handreq { bg0 with imm := 4 }) = true ∧
      th.me.sq.handGot = [] ∧ th.me.sq.handAsk = none ∧ rdyTrap th (.handreq { bg0 with imm := 5 }) = true ∧ th.me.mx.hmax < 5 ∧ th.me.mx.ktgt = 0 ∧
      rdy th (.handrel { bg0 with imm := 1 }) = true ∧ rdy th (.handrel { bg0 with imm := 0 }) = true ∧
      rdyTrap (at_ th fun c => { c with mx := { c.mx with hands := [0, 1], heven := true } }) (.handrel { bg0 with imm := 1 }) = true ∧
      rdy th (.blend { bg0 with imm := 3 }) = true ∧ th.me.bankBusy 3 = false ∧ rdy th (.bret { bg0 with imm := 3 }) = true ∧ th.me.mx.ops = [] := by
  decide

/-- 05 R172: a window past the allotment; a bank toward which a load, or a V-slot result not yet there, is on its way. -/
theorem test_hyp_bank_faults :
    rdyTrap th (.blend { bg0 with imm := 7 }) = true ∧ th.me.mx.nBanks ≤ 7 ∧ rdyTrap th (.bret { bg0 with imm := 7 }) = true ∧ 3 < th.me.mx.nBanks ∧
      bit th.me.mx.bankMat 3 = false ∧
      (let s := at_ th fun c => { c with mem := { c.mem with pend := [{ id := 1, kind := .ld, loc := .share 0, size := 8, va := 0, dest := .v 0x305 0 8 }] } }
      rdyTrap s (.blend { bg0 with imm := 3 }) = true ∧
        (next? (exec (.blend { bg0 with imm := 3 }) s)).map (fun t => (t.me.sys.scause.toNat % 256, t.me.sys.sdetail)) = some (5, 3)) ∧
      (let s := at_ th fun c => { c with sq := { c.sq with late := [0x305] } }
      rdyTrap s (.blend { bg0 with imm := 3 }) = true) := by decide

/-- A core whose queue of hands is led by context 0, which asks for two; and a change of hands that waits. -/
def thg : State :=
  let s := at_ th fun c => { c with sq := { c.sq with handAsk := some 2 } }
  s.onCore 0 fun n => { n with handQ := [0] }
@[inherit_doc thg]
def thc : State := at_ th fun c => { c with mx := { c.mx with chg := some { n := 2, add := [1], after := 0 } } }

theorem test_hyp_hand_grants :
    thg.headGrant 0 = some (0, [1]) ∧ (next? (exec (.handGrant 0) thg)).map (fun t => t.me.sq.handGot) = some [1] ∧
      (thc.ctxAt 0).mx.chg = some { n := 2, add := [1], after := 0 } ∧ (thc.ctxAt 0).mx.ops = [] ∧
      (next? (exec (.handChangeEffect 0) thc)).map (fun t => t.me.mx.hands) = some [0, 1] := by decide

/-- Waits: scoreboard 2 counts, a store and a failed copy are in flight, tags 1 and 4 are set. -/
def tw : State := at_ tb fun c => { c with mem := { c.mem with sb := [(2, 1)], tagBits := 0x12 } }
/-- A store of one byte in flight. -/
def acc0 : Access := { id := 1, kind := .st, loc := .share 0, size := 1, va := 0 }
@[inherit_doc tw]
def twp : State := at_ tb fun c => { c with mem := { c.mem with pend := [acc0] } }

theorem test_hyp_waits :
    rdy tw (.waitsb { bg0 with imm := 0xFFFB }) = true ∧ (List.range 16).all (fun n => n = 2 || mget 0 tw.me.mem.sb n == 0) = true ∧
      tw.slotReady (.waitsb { bg0 with imm := 4 }) = true ∧ mget 0 tw.me.mem.sb 2 = 1 ∧
      rdy tb (.fence bg0) = true ∧ tb.me.mem.pend = [] ∧ twp.slotReady (.fence bg0) = true ∧ twp.me.mem.pend.any (fun a => !a.deferred && !a.isRed) = true ∧
      rdy tb (.fenceS bg0) = true ∧ tb.me.sys.rlost = false ∧ rdyTrap (at_ tb fun c => { c with sys := { c.sys with rlost := true } }) (.fenceS bg0) = true ∧
      rdy tw (.tagwaitany { bg0 with imm := 0x30 }) = true ∧ rdy tw (.tagwaitall { bg0 with imm := 0x12 }) = true ∧ tw.me.mem.cfails = [] ∧
      [Instr.tagwaitany { bg0 with imm := 0x20 }, .tagwaitall { bg0 with imm := 0x32 }, .tagffr { bg0 with imm := 0x20, sd := 9 }].all
        (fun i => tw.slotReady i && (next? (exec i tw)).any (fun t => t.me.sq.wait.isSome && t.me.r.pc == tw.issue.pc)) = true ∧
      rdy tw (.tagffr { bg0 with imm := 0x12, sd := 9 }) = true ∧ rdy tw (.tagffr { bg0 with sd := 9 }) = true ∧ tw.tagMaskOf { bg0 with sd := 9 } = 0 := by decide

/-- 09 R306, by hand: of tags 1 and 4 the lower is taken and cleared; an empty mask gives 16. -/
theorem test_tagffr :
    sAfter tw (.tagffr { bg0 with imm := 0x12, sd := 9 }) 9 = some 1 ∧ sAfter tw (.tagffr { bg0 with sd := 9 }) 9 = some 16 ∧
      (next? (exec (.tagffr { bg0 with imm := 0x12, sd := 9 }) tw)).map (fun t => t.me.mem.tagBits) = some 0x10 := by decide

/-- Barriers and timelines: an arrival of level 2 waited for at the packet, and handle 3 bound to the barrier timeline of level 2. -/
def tbar : State := at_ tb fun c => { c with mem := { c.mem with arr := [(1, 4), (2, 5)], barHere := [(0, (2, 5, 0x1000000000000))], tl := [(3, 0x42)] } }

/-- The same with two generations done, and with partition 0 owning stack 0. -/
def tbarDone : State := { tbar with hub := { tbar.hub with barGen := [(groupKey 1 2 (unitOf 2 0), 5)], collTl := [(groupKey 1 2 (unitOf 2 0), 9)] } }

theorem test_hyp_barriers :
    rdy tb (.barArv { bg0 with fn := 1, imm := 2, sd := 9 }) = true ∧ mfind tb.me.mem.barHere (b2n tb.me.r.sup) = none ∧ tb.me.mem.pend = [] ∧
      (mget 0 tb.me.mem.arr 2).toNat < (tb.barDone tb.ck 2).toNat + 2 ∧
      rdy tbarDone (.bar { bg0 with imm := 2, sd := 9 }) = true ∧ tbarDone.me.arrivedHere 2 tbarDone.issue.pc = some 5 ∧ mget 0 tbarDone.me.mem.arr 2 = 5 ∧
      tbarDone.barDone tbarDone.ck 2 = 5 ∧ rdyFree tb (.bar { bg0 with imm := 1, sd := 9 }) = true ∧
      rdy tbarDone (.barwait { bg0 with imm := 2, sa := 2 }) = true ∧ (tbarDone.sc (2 : BitVec 6)).toNat = 3 ∧
      rdyTrap tbarDone (.barwait { bg0 with imm := 2, sa := 1 }) = true ∧ (tbarDone.sc (1 : BitVec 6)).toNat = 7 := by decide

/-- A third arrival, a first arrival of `bar`, the same later, and a token of a generation that is not complete, each blocked. -/
theorem test_hyp_barrier_waits :
    (let s := at_ tb fun c => { c with mem := { c.mem with arr := [(2, 2)] } }
    s.slotReady (.barArv { bg0 with fn := 1, imm := 2, sd := 9 }) = true ∧ (s.barDone s.ck 2).toNat + 2 ≤ (mget 0 s.me.mem.arr 2).toNat ∧
      (next? (exec (.barArv { bg0 with fn := 1, imm := 2, sd := 9 }) s)).map (fun t => t.me.sq.wait.isSome) = some true) ∧
    tb.slotReady (.bar { bg0 with imm := 2, sd := 9 }) = true ∧ (tb.barDone tb.ck 2).toNat < (mget 0 tb.me.mem.arr 2 + 1).toNat ∧
      (next? (exec (.bar { bg0 with imm := 2, sd := 9 }) tb)).map (fun t => (t.me.sq.wait.isSome, mget 0 t.me.mem.arr 2)) = some (true, 1) ∧
    tbar.slotReady (.bar { bg0 with imm := 2, sd := 9 }) = true ∧ tbar.me.arrivedHere 2 tbar.issue.pc = some 5 ∧ tbar.barDone tbar.ck 2 = 0 ∧
      tbar.slotReady (.barwait { bg0 with imm := 2, sa := 2 }) = true ∧ (tbar.sc (2 : BitVec 6)).toNat = 3 ∧
      (next? (exec (.barwait { bg0 with imm := 2, sa := 2 }) tbar)).map (fun t => t.me.sq.wait.isSome) = some true ∧
      rdyTrap tbarDone (.tlwaitRead { bg0 with fn := 2, imm := 5 }) = true := by decide

/-- 09 R309 to R312, by hand: the arrival after none is generation 1, and a token of 7 of 5 arrivals cannot be held. -/
theorem test_barriers :
    sAfter tb (.barArv { bg0 with fn := 1, imm := 2, sd := 9 }) 9 = some 1 ∧ sAfter tbarDone (.bar { bg0 with imm := 2, sd := 9 }) 9 = some 5 ∧
      (next? (exec (.barwait { bg0 with imm := 2, sa := 1 }) tbarDone)).map (fun t => t.me.sys.scause.toNat % 256) = some 0x2C := by decide

theorem test_hyp_timelines :
    (let s := at_ tbarDone fun c => { c with r := { c.r with s := [(2, 9), (3, 10), (4, 0x42), (5, 0x41)] } }
    rdy s (.tlwaitBind { bg0 with fn := 1, imm := 7, sa := 4 }) && s.tlOk s.me 0x42 && rdyTrap s (.tlwaitBind { bg0 with fn := 1, sa := 5 }) &&
      !s.tlOk s.me 0x41 && rdy s (.tlwait { bg0 with imm := 3, sa := 2 }) && decide (s.tlCount s.ck 0x42 = 9) &&
      s.slotReady (.tlwait { bg0 with imm := 3, sa := 3 }) && rdy s (.tlwaitRead { bg0 with fn := 2, imm := 3, sd := 9 }) &&
      decide (sAfter s (.tlwaitRead { bg0 with fn := 2, imm := 3, sd := 9 }) 9 = some 9) && rdyTrap s (.tlwait { bg0 with imm := 0 })) = true := by decide

/-- Slots guarded off by c1 = 0, an illegal slot, and a privileged one in user mode. -/
theorem test_hyp_slots_that_do_not_perform :
    tb.slotOff (.add { sr0 with g := 1, sd := 9 }) = true ∧ tb.endsPlain = true ∧ (slotSem (.add sr0)).isSome = true ∧
      tb.slotOff (.mmas { mx0 with g := 1, fa := 5 }) = true ∧ tb.canIssue tb.ck = true ∧ tb.traps = true ∧
      slotIllegal tb.issue.bt false 12 (.add { sr0 with g := 8 }) = some 11 ∧ privOp (.mfsy bg0) = some 0x31 ∧ tb.slotClear (.mfsy bg0) = true ∧
      tb.me.sys.asyncs = [] := by decide

/-- 04 R109, R129; 15 R375: the guard leaves s9 alone; reasons 11 and OP 0x31 reach DETAIL. -/
theorem test_slots_that_do_not_perform :
    sAfter tb (.add { sr0 with g := 1, sa := 1, sb := 2, sd := 9 }) 9 = some 0 ∧
      (next? (exec (.add { sr0 with g := 8 }) tb)).map (fun t => (t.me.sys.scause.toNat % 256, t.me.sys.sdetail)) = some (1, 0xB00) ∧
      (next? (exec (.mfsy bg0) tb)).map (fun t => (t.me.sys.scause.toNat % 256, t.me.sys.sdetail, t.me.r.sup)) = some (2, 0x31, true) := by decide

/-- Partition 0 owns Calender entries 0 to 15 and queues 0 to 3; entry 1 is valid on rung 1 of a ladder of 4 rungs, entry 2 is not valid. -/
def tc : State :=
  let s := at_ tb fun c => { c with r := { c.r with s := [(1, 0x10001), (2, 0xA0002), (3, 1), (4, 10), (5, 0x1000000), (6, 20), (7, 1), (8, 0x90002)] } }
  { s with
    mgmt := { s.mgmt with win := mput (mput s.mgmt.win 0x10018 0x1000000000) 0x10028 0x300 }
    hub := { s.hub with cal := [(32, BitVec.ofNat 64 (2 ^ 28 + 3 * 2 ^ 22 + 2 ^ 19)), (33, 5)] } }

theorem test_hyp_calender_words :
    rdy tc (.cread { bg0 with sa := 1, sd := 9 }) = true ∧ tc.ownsEntry tc.me.part 1 = true ∧ rdy tc (.cset { bg0 with sa := 8, sb := 2 }) = true ∧
      tc.ownsEntry tc.me.part 2 = true ∧ tc.guessOf tc.me = none ∧ (mget 0 tc.hub.cal (32 * 2)).getLsbD 28 = false ∧
      rdy tc (.cpin { bg0 with sa := 3, sb := 4 }) = true ∧ (mget 0 tc.hub.cal 32).getLsbD 28 = true ∧ (mget 0 tc.hub.cal 32).toNat / 2 ^ 22 % 8 = 3 ∧
      rdyTrap tc (.cread { bg0 with sa := 5 }) = true ∧ (tc.sc (5 : BitVec 6)).toNat / 2 ^ 21 ≠ 0 ∧ rdyTrap tc (.cset { bg0 with sa := 6 }) = true ∧
      tc.ownsEntry tc.me.part 20 = false := by decide

/-- 10 R316, R318, by hand: word 1 of entry 1, and the pin with rung 2. -/
theorem test_calender_words :
    sAfter tc (.cread { bg0 with sa := 1, sd := 9 }) 9 = some 5 ∧
      (next? (exec (.cpin { bg0 with sa := 3, sb := 4 }) tc)).map (fun t => (mget 0 t.hub.cal 32).toNat / 2 ^ 19 % 512) = some (2 + 3 * 8 + 256) ∧
      (next? (exec (.cread { bg0 with sa := 6, sd := 9 }) tc)).map (fun t => t.me.sys.scause.toNat % 256) = some 0x2E := by decide

/-- 10 R320, R323: a record that the context has sent to entry 1 reaches it before the context reads it; 10 R321: what an evaluation finds. -/
theorem test_hyp_calender_records :
    (let s := { tc with hub := { tc.hub with recs := [{ ctx := 0, entry := 1, words := [1, 0, 0, 0, 0, 0, 0, 0] }] } }
    let s := { s with hub := { s.hub with cal := s.hub.cal ++ [(44, 4)] } }
    let f : BG := { bg0 with sa := 11, sd := 9 }
    let s := at_ s fun c => { c with r := { c.r with s := c.r.s ++ [(11, 0xC0001)] } }
    rdy s (.cread f) = true ∧ s.guessOf s.me = none ∧ s.me.mx.ops = [] ∧ (s.entry 1).valid = true ∧
      s.hub.recs.filter (fun x => x.ctx == s.ck && x.entry == 1) = s.hub.recs ∧ (next? (exec (.cread f) s)).map (fun t => t.me.r.rs 9) = some 5) ∧
    (let x : Entry := (tc.entry 1).set 12 4
    x.length = 32 ∧ x.valid = true ∧ x.pin = false ∧ x.rerun = false ∧ x.getD 12 0 ≠ 0 ∧ x.evaluate.getD 12 0 = 0) ∧
    (let x : Entry := (tc.entry 1).set 0 ((tc.entry 1).getD 0 0 ||| 0x4000000)
    x.valid = true ∧ x.pin = false ∧ x.rerun = true ∧ x.evaluate.bits 0 19 3 = 0) := by decide +kernel

theorem test_hyp_calender_steps :
    rdyFree tc (.cstep { bg0 with sd := 9, imm := 0x00010001 }) = true ∧ tc.guessOf tc.me = none ∧
      (match next? (exec (.cstep { bg0 with sd := 9, imm := 0x00010001 }) tc) with
      | some t => decide (t.me.mem.stepWait ≠ []) && decide (t.hub.stepCount = 1) &&
          (match next? (exec .calenderReadCopyUpdate t) with | some u => decide (u.me.r.rs 9 = 1) | none => false)
      | none => false) = true ∧
      (let x : Entry := (tc.entry 1 : Entry); x.valid && !x.pin && !x.rerun && decide (x.getD 12 0 = 0)) = true ∧
      (tc.entry 2 : Entry).valid = false := by decide +kernel

theorem test_hyp_dealer :
    rdy tc (.dstat { bg0 with sa := 7, sd := 9, imm := 7 }) = true ∧ tc.grantsQueue tc.me.part 1 = true ∧ rdy tc (.dhint { bg0 with sa := 7, imm := 2 }) = true ∧
      tc.guessOf tc.me = none ∧ rdyTrap tc (.dstat { bg0 with sa := 4 }) = true ∧ tc.grantsQueue tc.me.part 10 = false ∧
      rdyTrap tc (.dhint { bg0 with sa := 5 }) = true ∧ sAfter tc (.dstat { bg0 with sa := 7, sd := 9, imm := 1 }) 9 = some 0 ∧
      (next? (exec (.dhint { bg0 with sa := 7, imm := 2 }) tc)).map (fun t => (t.queueAt 1).dealer.hint) = some 2 := by decide

theorem test_hyp_system_registers :
    [0, 1, 2, 3, 4, 5, 6, 7, 8, 9, 10, 11, 16].all (fun n => rdy tsup (.mfsy { bg0 with sd := 9, imm := n }) && rdy tsup (.mtsy { bg0 with sa := 4, imm := n })) = true ∧
      rdy tsup (.halt { bg0 with imm := 9 }) = true ∧ tsup.slotReady (.eret bg0) = true ∧ tsup.me.sys.sepc = 0 ∧ tsup.slotReady (.eretEnd { bg0 with fn := 1 }) = true := by
  decide

/-- 15 R376 to R378, R386, by hand: SSTATUS in supervisor mode, SWLOG out of range ignored and STVEC aligned; `eret` to SEPC. -/
theorem test_system_registers :
    sAfter tsup (.mfsy { bg0 with sd := 9 }) 9 = some 1 ∧ (next? (exec (.mtsy { bg0 with sa := 4, imm := 9 }) tsup)).map (fun t => t.me.sys.swlog) = some 24 ∧
      (next? (exec (.mtsy { bg0 with sa := 1, imm := 1 }) tsup)).map (fun t => t.me.sys.stvec) = some 4 ∧
      (next? (exec (.eret bg0) (at_ tsup fun c => { c with sys := { c.sys with sepc := 0x40, sdetail := 1 } }))).map (fun t => (t.me.r.pc, t.me.r.sup)) =
        some (0x40, false) ∧
      (next? (exec (.halt { bg0 with imm := 9 }) tsup)).map (fun t => ((t.coreAt 0).halted, (t.coreAt 0).haltN)) = some (true, 9) ∧
      (next? (exec (.eretEnd { bg0 with fn := 1 }) tsup)).map (fun t => (t.taskAt 1).ended.isSome) = some true := by decide

/-- A slice that holds a translation of the context's address space, and the pending invalidation of it. -/
def tinv : State := { tsup with slices := [(0, [{ part := 0, asid := 0, vbase := 0, bits := 12, pa := 0, key := 0, flags := 0x1F }])] }

theorem test_hyp_tlb_invalidation :
    tinv.slotReady (.tlbinv { bg0 with fn := 2 }) = true ∧ tinv.tlbHolds (tlbHit 0 0 2 0) = true ∧ tinv.me.mem.pend = [] ∧ tinv.me.mem.inv = none ∧
      (let s := at_ tinv fun c => { c with mem := { c.mem with inv := some (2, 0) } }
      match next? (exec (.tlbInvalidationComplete 0) s) with
      | some t => decide (mget [] t.slices 0 = []) && decide ((t.coreAt 0).tlb = []) && decide (t.me.mem.inv = some (3, 0)) && rdy t (.tlbinv { bg0 with fn := 2 })
      | none => false) = true := by decide

/-! ### V slots -/

/-- Elementwise fields: W, type, v1 and v2 into v9, merge form. -/
def vf (et : BitVec 4) : VR := { vr0 with et := et, vd := 9, va := 1, vb := 2, mrg := 1 }

theorem test_ready_vector_integers :
    [Instr.vadd (vf 0), .vsub (vf 1), .vmul (vf 2), .vmulh (vf 3), .vmadd (vf 4), .vmin (vf 5), .vmax (vf 6), .vsadd (vf 7), .vssub (vf 0), .vshl (vf 4),
      .vshr (vf 4), .vsra (vf 4), .vabs { vf 4 with vb := 0 }, .vneg { vf 4 with vb := 0 }, .vand (vf 12), .vor (vf 11), .vxor { vf 5 with w := 2 },
      .vnot { vf 5 with vb := 0, mask := 1 }, .vclz { vf 5 with vb := 0 }, .vpopc { vf 5 with vb := 0 }, .vadd { vf 4 with ac := 2 }].all (rdyV tb) = true := by decide

/-- 06 R182, by hand, in four elements of 32 bits: 0xFFFF + 1, 1 + 2, 2 + 3, 3 + 4; and the saturating sum of bytes 0xFF + 1 unsigned. -/
theorem test_vector_integers :
    vAfter tb (.vadd (vf 5)) 9 = some 0x00000007000000050000000300010000 ∧
      (vAfter tb (.vsadd (vf 1)) 9).map (· % 256) = some 255 ∧ (vAfter tb (.vadd (vf 1)) 9).map (· % 256) = some 0 ∧
      vAfter tb (.vadd { vf 5 with mask := 1 }) 9 = some 0x00000000000000050000000000010000 := by decide +kernel

theorem test_ready_vector_floats :
    [Instr.vfadd (vf 10), .vfsub { vf 11 with rm := 4 }, .vfmul (vf 8), .vfma (vf 9), .vfms (vf 10), .vfmin (vf 10), .vfmax (vf 10), .vfabs { vf 10 with vb := 0 },
      .vfneg { vf 12 with vb := 0 }, .vfrcp { vf 10 with vb := 0 }, .vfsqrt { vf 10 with vb := 0 }, .vfrsqrt { vf 10 with vb := 0 }, .vfexp2 { vf 10 with vb := 0 },
      .vflog2 { vf 10 with vb := 0 }, .vftanh { vf 10 with vb := 0 }, .vferf { vf 10 with vb := 0 }, .vfsin { vf 10 with vb := 0 }, .vfcos { vf 10 with vb := 0 },
      .vcmul (vf 12), .vcmla (vf 12), .vfadd (vf 13)].all (rdyV tb) = true := by decide

/-- FP32 vectors 1, 2, 3, 4 and 2, 2, 2, 2. -/
def tf : State := at_ tb fun c => { c with r := { c.r with
  v := [(1, 0x4080000040400000400000003F800000), (2, 0x40000000400000004000000040000000)] } }

/-- 06 R183, R187, by hand: sums, the reciprocals' first element, and (1 + 2i)(2 + 2i) = −2 + 6i. -/
theorem test_vector_floats :
    vAfter tf (.vfadd (vf 10)) 9 = some 0x40C0000040A000004080000040400000 ∧ (vAfter tf (.vfrcp { vf 10 with vb := 0 }) 9).map (· % 2 ^ 64) = some 0x3F0000003F800000 ∧
      (vAfter tf (.vcmul (vf 12)) 9).map (· % 2 ^ 64) = some 0x40C00000C0000000 ∧
      (vAfter tf (.vfexp2 { vf 10 with vb := 0 }) 9).map (fun x => x / 2 ^ 128) = some (leNat ((List.range 4).flatMap (fun _ => [0, 0, 0x80, 0x3F]))) := by
  decide +kernel

theorem test_ready_vector_masks :
    [Instr.vcmp { vf 5 with rm := 5, vd := 15, mrg := 0 }, .vfcmp { vf 10 with rm := 6, vd := 15, mrg := 0 }, .mand { vr0 with vd := 2, va := 1, vb := 1 },
      .mor { vr0 with vd := 2, va := 1, vb := 1 }, .mxor { vr0 with vd := 0, va := 1, vb := 1 }, .mnot { vr0 with vd := 2, va := 1 },
      .mpopc { vr0 with vd := 9, va := 1 }, .mffs { vr0 with vd := 9, va := 1, et := 5 }, .vsel { vf 5 with mrg := 0, mask := 1 },
      .vcvt { vf 10 with vb := 4 }].all (rdyV tb) = true := by decide

/-- 06 R188, R190, by hand: mask 0xF0F has 8 bits, its first is bit 0, and 0xFFFF = 1, 1 = 2 … are all false. -/
theorem test_vector_masks :
    sAfter tb (.mpopc { vr0 with vd := 9, va := 1 }) 9 = some 8 ∧ sAfter tb (.mffs { vr0 with vd := 9, va := 1 }) 9 = some 0 ∧
      (next? (exec (.vcmp { vf 5 with rm := 4, vd := 15, mrg := 0 }) tb)).map (fun t => (t.me.r.rm 15).toNat) = some 0xF ∧
      (vAfter tb (.vcvt { vf 10 with vb := 4 }) 9).map (· / 2 ^ 32 % 2 ^ 32) = some 0x3F800000 := by decide +kernel

theorem test_ready_vector_movement :
    [Instr.vsrseed { vr0 with va := 1, ac := 2 }, .vmov { vf 5 with vb := 0 }, .vbcast { vf 5 with bc := 2 }, .vperm { vf 5 with mrg := 0 },
      .vshuf { vf 5 with mrg := 0 }, .vslide { vf 5 with mrg := 0, bc := 2 }, .vcompress { vf 5 with mrg := 0, vb := 9, mask := 1 },
      .vcompressKeep { vf 5 with mrg := 0, vb := 9, mask := 1 }, .vexpand { vf 5 with mrg := 0, vb := 0, mask := 1 }, .vzip { vf 5 with mrg := 0, rm := 1 },
      .vunzip { vf 5 with mrg := 0 }, .vext { vf 5 with mrg := 0, vd := 9, bc := 2 }, .vins { vf 5 with mrg := 0, ac := 2, bc := 2 },
      .vred { vf 5 with mrg := 0, vb := 0, rm := 5 }, .vfred { vf 10 with mrg := 0 }, .vscan { vf 5 with mrg := 0, vb := 1 },
      .vhist { vf 1 with mrg := 0, vb := 0 }].all (rdyV tb) = true := by decide

/-- 06 R201, R204 to R208, by hand on the elements 0xFFFF, 1, 2, 3: element 3, the sum, the exclusive prefix sums and the interleaving. -/
theorem test_vector_movement :
    sAfter tb (.vext { vf 5 with mrg := 0, vd := 9, bc := 2, vb := 2 }) 9 = some 3 ∧ sAfter tb (.vred { vf 5 with mrg := 0, vb := 0 }) 9 = some 0x10005 ∧
      (vAfter tb (.vscan { vf 5 with mrg := 0, vb := 1 }) 9).map (· % 2 ^ 128) = some 0x00010002000100000000FFFF00000000 ∧
      (vAfter tb (.vzip { vf 5 with mrg := 0 }) 9).map (· % 2 ^ 128) = some 0x0000000200000001000000010000FFFF := by decide +kernel

/-- The worked example of 06: expert ids counted into eight counters. -/
def tex : State := at_ tb fun c => { c with r := { c.r with
  m := [(3, 0xFFFFFF)]
  v := [(20, BitVec.ofNat 1024 (leNat [3, 1, 0, 3, 5, 2, 3, 7, 1, 0, 6, 3, 2, 5, 7, 3, 0, 4, 3, 6, 5, 1, 4, 3])),
    (51, BitVec.ofNat 1024 (leNat ([3, 3, 2, 7, 2, 3, 2, 2].flatMap (fun b => [b, 0, 0, 0]))))] } }

theorem test_expert_counts :
    (vAfter tex (.vhist { vr0 with et := 1, vd := 50, va := 20, mask := 3 }) 50) = some (leNat ([3, 3, 2, 7, 2, 3, 2, 2].flatMap (fun b => [b, 0, 0, 0]))) ∧
      (vAfter tex (.vscan { vr0 with et := 5, vd := 52, va := 51, vb := 1 }) 52) = some (leNat ([0, 3, 6, 8, 15, 17, 20, 22].flatMap (fun b => [b, 0, 0, 0]))) := by
  decide +kernel

theorem test_ready_vector_quantisation :
    [Instr.vqnt { vq0 with vd := 8, va := 1 }, .vdq { vq0 with vd := 8, va := 1 }, .vqc4 { vq0 with fmt := 18, blk := 3, w := 1, vd := 8, va := 1, rm := 4 },
      .vdqc4 { vq0 with fmt := 18, blk := 3, w := 1, vd := 8, va := 1 }].all (rdyV tb) = true := by decide

/-- A tile of format 0 whose first row begins 1, 2. -/
def tt : State := at_ tb fun c => { c with mx := { c.mx with tiles := [(3, { st := .c, fmt := 0, el := [(0, 1), (1, 2), (32, 5)] })] } }

theorem test_hyp_tile_rows :
    [Instr.arow { vr0 with w := 2, et := 10, vd := 9, va := 3, bc := 2 }, .acol { vr0 with w := 2, et := 10, vd := 9, va := 3, bc := 2 }].all (rdyFree tt) = true ∧
      [Instr.awrow { vr0 with w := 2, et := 10, vd := 3, va := 1, bc := 2 }, .awcol { vr0 with w := 2, et := 10, vd := 3, va := 1, bc := 2 }].all (rdyV tt) = true ∧
      (tt.me.slotsOf 3).any tt.me.busy = false := by decide

/-- 06 R210: row 0 begins 1, 2, and column 0 begins 1, 5. -/
theorem test_tile_rows :
    vAfter tt (.arow { vr0 with w := 2, et := 10, vd := 9, va := 3, bc := 2 }) 9 = some 0x0000000200000001 ∧
      vAfter tt (.acol { vr0 with w := 2, et := 10, vd := 9, va := 3, bc := 2 }) 9 = some 0x0000000500000001 ∧
      (next? (exec (.awrow { vr0 with w := 2, et := 10, vd := 3, va := 1, bc := 2 }) tt)).map (fun t => ((t.me.tile 3).get 0, decide ((t.me.tile 3).st = .d))) =
        some (0xFFFF, true) := by decide +kernel

/-! ### L slots -/

/-- A share with a full word at 0x100 and a handle h2 of four slots of 128 bytes with its pointers at 1 and 2; q1 is 8; the page at the pc is
in a ready ream; mailbox 5 is open; a descriptor of 0x40 bytes at 0x400 for one row of 16 bytes, pitches 16. -/
def tlm : State :=
  let s := at_ tb fun c => { c with r := { c.r with
    s := [(1, 7), (2, 0x100), (3, 0x200), (4, 0x400), (5, 8), (6, 0x1000000000008), (8, 3), (9, 2), (10, 0x300200800)]
    q := [(1, 8)], hs := [(2, { base := 0x20, slot := 2, depth := 4, cp := 1, pp := 2 })] } }
  let s := s.onResv 1 fun v => { v with
    bytes := [(0x100, 0x2A), (0x101, 1), (0x400, 16), (0x404, 16), (0x418, 1), (0x41A, 16)]
    full := [(0x20, true)] }
  let s := s.onCore 0 fun n => { n with tlb := n.tlb.map fun x => { x with flags := 0x21F } }
  { s with
    mgmt := { s.mgmt with win := mput (mput (mput (mput (mput s.mgmt.win 0x10020 0x20) 0x302A8 1) 0x10800 0x8000000000000000) 0x10808 1) 0x10818 0x400 }
    mem := { s.mem with reams := [(0, { ready := true, quires := [(0, [(2, []), (0, List.replicate 64 0)])] })] } }

/-- Loads, stores and mailboxes. -/
theorem test_hyp_loads_and_stores :
    [Instr.ld { lm0 with base := 2, data := 9, sz := 3 }, .ldv { lm0 with base := 2, dcl := 1, data := 9, sz := 6 }, .ldvs { lm0 with base := 2, dcl := 1, data := 9, sz := 3, imm := 8 },
      .ldvg { lm0 with base := 2, dcl := 1, data := 9, sz := 2, imm := 3 }, .st { lm0 with base := 2, data := 1, sz := 0, imm := 0xFFFF }, .stv { lm0 with base := 2, dcl := 1, data := 1, sz := 6 },
      .stvs { lm0 with base := 2, dcl := 1, data := 1, sz := 3, imm := 8 }, .stvg { lm0 with base := 2, dcl := 1, data := 1, sz := 2, imm := 3 },
      .ldv { lm0 with base := 2, dcl := 2, data := 0x100, sz := 6 }].all (rdyFree tlm) = true ∧
      (tlm.placesOf (.ld { lm0 with base := 2, data := 9, sz := 3 }) 8 .read false (tlm.eaOff { lm0 with base := 2 })).2 = (none, [(0x100, .share 0x100, none)]) ∧
      (tlm.placesOf (.ld { lm0 with base := 6, data := 9, sz := 3 }) 8 .read false (tlm.eaOff { lm0 with base := 6 })).2 = (none, [(0x1000000000008, .phys 8 0, none)]) ∧
      [Instr.mbrd { si0 with sd := 9, imm := 5 }, .mbwr { si0 with sa := 1, imm := 5 }].all (rdy tlm) = true ∧ tlm.mailOpen tlm.me.part 5 = true ∧
      tlm.guessOf tlm.me = none ∧ rdyTrap tlm (.mbrd { si0 with imm := 6 }) = true ∧ rdyTrap tlm (.mbwr { si0 with imm := 63 }) = true ∧ tlm.mailOpen 0 6 = false ∧
      tlm.mailOpen 0 63 = false := by decide +kernel

/-- The same page without permission to read or write; an address that nothing translates. -/
def tdeny : State := tlm.onCore 0 fun n => { n with tlb := n.tlb.map fun x => { x with flags := 0x201 } }

theorem test_hyp_load_store_faults :
    (let f : LM := { lm0 with base := 2, data := 9, sz := 3, imm := 4 }
    let g : LM := { lm0 with base := 2, data := 9, sz := 3, imm := 0x3F00 }
    rdyTrap tlm (.ld f) = true ∧ tlm.namesOk (.ld f) f = true ∧ inWindow (tlm.resvAt 1).size true true 8 (0x104 : W64).toNat = true ∧
      inWindow (tlm.resvAt 1).size true true 8 (0x4000 : W64).toNat = false ∧ rdyTrap tlm (.st g) = true ∧
      (next? (exec (.ld f) tlm)).map (fun t => (t.me.sys.scause.toNat % 256, t.me.sys.sdetail)) = some (10, 0x104) ∧
      (next? (exec (.st g) tlm)).map (fun t => (t.me.sys.scause.toNat % 256, t.me.sys.sdetail)) = some (9, 0x4000) ∧
      (next? (exec (.ldvs { lm0 with base := 2, dcl := 1, data := 9, sz := 3, imm := 4 }) tlm)).map (fun t => (t.me.sys.scause.toNat % 256, t.me.sys.sdetail)) = some (10, 0x104)) ∧
    (let f : LM := { lm0 with base := 6, data := 9, sz := 3 }
    tdeny.slotReady (.ld f) = true ∧ tdeny.slotFree (.ld f) = true ∧ tdeny.traps = true ∧ tdeny.eaOff f = [0x1000000000008] ∧
      (match (tdeny.atAct (.ld f)).xlateCtx 0 false 0x1000000000008 .r with | (_, .err .perm) => true | _ => false) = true ∧
      [Instr.ld f, .st f].map (fun i => (next? (exec i tdeny)).map (fun t => (t.me.sys.scause.toNat % 256, t.me.sys.x0))) = [some (0x21, 0), some (0x21, 1)]) ∧
    (let s := at_ tlm fun c => { c with r := { c.r with s := (c.r.s.filter (fun e => e.1 < 6)) ++ [(6, 0x1000040000000)] } }
    let f : LM := { lm0 with base := 6, data := 9, sz := 3 }
    s.slotReady (.ld f) = true ∧ s.slotFree (.ld f) = true ∧ s.traps = true ∧
      (next? (exec (.ld f) s)).map (fun t => t.me.sq.held.map (fun h => (h.va, h.access, h.agent))) = some (some (0x1000040000000, 0, 0))) := by decide +kernel

theorem test_hyp_full_empty :
    [Instr.ldf { lm0 with base := 2, data := 9, sz := 3 }, .ldfe { lm0 with base := 2, data := 9, sz := 3 }, .ste { lm0 with base := 3, data := 1, sz := 3 },
      .stf { lm0 with base := 2, data := 1, sz := 3 }, .tagset { lm0 with base := 2, data := 5 }, .tagclr { lm0 with base := 2, data := 0 }].all (rdyAtOnce tlm) = true ∧
      tlm.wordOk 0x100 = true ∧ (tlm.resvAt 1).tag 0x20 = true ∧ (tlm.resvAt 1).tag 0x40 = false ∧
      [Instr.ldf { lm0 with base := 3, sz := 3 }, .ldfe { lm0 with base := 3, sz := 3 }, .ste { lm0 with base := 2, sz := 3 }].all (fun i => tlm.slotReady i) = true ∧
      tlm.me.mem.pend = [] := by decide +kernel

/-- 08 R248, by hand: `ldfe` takes 0x012A and empties the word; `ste` fills the other. -/
theorem test_full_empty :
    sAfter tlm (.ldfe { lm0 with base := 2, data := 9, sz := 3 }) 9 = some 0x12A ∧
      (next? (exec (.ldfe { lm0 with base := 2, data := 9, sz := 3 }) tlm)).map (fun t => (t.resvAt 1).tag 0x20) = some false ∧
      (next? (exec (.ste { lm0 with base := 3, data := 1, sz := 3 }) tlm)).map (fun t => ((t.resvAt 1).tag 0x40, leNat ((t.resvAt 1).read 0x200 8))) = some (true, 7) := by
  decide +kernel

/-- The worked row of R278: FP32 1.5, NaN, +∞, 1.5, −∞, 0.25, −0, +0. -/
def ttopk : State := tlm.onResv 1 fun v => { v with
  bytes := byteMap ([0x3FC00000, 0x7FC00001, 0x7F800000, 0x3FC00000, 0xFF800000, 0x3E800000, 0x80000000, 0].flatMap (leBytes 4)) }

theorem test_hyp_atomics_and_topk :
    [Instr.amo { lm0 with base := 2, data := 9, sz := 3, imm := 0x1001 }, .red { lm0 with base := 2, dcl := 1, data := 1, sz := 4, imm := 0x0400 },
      .pf { lm0 with base := 6 }].all (rdyFree tlm) = true ∧
      (tlm.placesOf (.amo { lm0 with base := 2, sz := 3 }) 8 .atomic true [tlm.sc (2 : BitVec 6)]).2 = (none, [(0x100, .share 0x100, none)]) ∧
      rdyAtOnce ttopk (.stopk { lm0 with dcl := 1, data := 9, sz := 2, imm := 0x0607 }) = true ∧ (ttopk.resvAt 1).badIn 0 32 = none := by decide +kernel

/-- R278's table for k = 7. -/
theorem test_topk :
    (vAfter ttopk (.stopk { lm0 with dcl := 1, data := 9, sz := 2, imm := 0x0607 }) 9).map (fun x => (List.range 7).map (lane 32 x)) = some [2, 0, 3, 5, 6, 7, 4] := by
  decide +kernel

/-- Accesses in flight: a load, an atomic add, a store and one element of a reduction, each to the word at 0x100. -/
def ta (kind : AccKind) (data : VReg) (size : Nat) (dest : Dest) : State :=
  at_ tlm fun c => { c with mem := { c.mem with pend := [{ id := 5, grp := 5, kind := kind, loc := .share 0x100, size := size, va := 0x100, data := data, dest := dest }] } }

theorem test_hyp_accesses_perform :
    (let a : Access := { id := 5, grp := 5, kind := .ld, loc := .share 0x100, size := 8, va := 0x100, dest := .s false 9 }
    let s := ta .ld 0 8 (.s false 9)
    s.me.mem.pend = [a] ∧ s.me.canPerform a = true ∧ s.accessHeld a = false ∧ s.plainHome 0 a = true ∧ a.returns = true) ∧
      (next? (exec (.loadReturn 0 5) (ta .ld 0 8 (.s false 9)))).map (fun t => (t.me.r.rs 9, t.me.mem.pend.length)) = some (0x12A, 0) ∧
      (next? (exec (.loadReturn 0 5) (ta (.amo 1 7 0) 0 8 (.s false 9)))).map (fun t => (t.me.r.rs 9, leNat ((t.resvAt 1).read 0x100 8))) = some (0x12A, 0x131) ∧
      (next? (exec (.storePerformed 0 5) (ta .st 0x55 1 .none))).map (fun t => leNat ((t.resvAt 1).read 0x100 8)) = some 0x155 ∧
      (next? (exec (.redCombine 0 5 0) (ta (.red 0 5) 1 4 .none))).map (fun t => leNat ((t.resvAt 1).read 0x100 8)) = some 0x12B ∧
      (let s := (ta .ld 0 8 (.s false 9)).onResv 1 fun v => { v with poison := [(4, true)] }
      ((s.resvAt 1).badIn 0x100 8).isSome ∧ (next? (exec (.loadReturn 0 5) s)).map (fun t => (t.me.r.rs 9, t.me.sys.asyncs.map (fun p => p.code))) = some (2, [0x22])) := by
  decide +kernel

theorem test_hyp_rings :
    [Instr.cbcfg { lm0 with data := 10, imm := 3 }, .cbpush { lm0 with imm := 0x12 }, .cbpush { lm0 with data := 0x13, imm := 0x12 }].all (rdyAtOnce tlm) = true ∧
      rdyAtOnce (tlm.onResv 1 fun v => { v with full := [(0x110, true), (0x120, true)] }) (.cbpop { lm0 with imm := 0x12 }) = true ∧
      rdyFree (tlm.onResv 1 fun v => { v with full := [(0x110, true)] }) (.cbwait { lm0 with imm := 0x12 }) = true ∧ rdyFree tlm (.cbresv { lm0 with imm := 0x12 }) = true ∧
      tlm.slotReady (.cbwait { lm0 with imm := 0x42 }) = true ∧ (tlm.me.handle 2).slot = 2 ∧ (tlm.me.handle 2).depth = 4 ∧
      (tlm.resvAt 1).tag ((tlm.me.handle 2).at 1 / 8) = false := by decide +kernel

/-- 08 R251, R252, by hand: the handle of a descriptor; a pop of one moves CP from 1 to 2, a push PP from 2 to 3 and fills its slot. -/
theorem test_rings :
    (next? (exec (.cbcfg { lm0 with data := 10, imm := 3 }) tlm)).map (fun t => t.me.handle 3) = some { base := 0x20, slot := 2, depth := 4, cp := 0, pp := 0 } ∧
      (next? (exec (.cbpop { lm0 with imm := 0x12 }) (tlm.onResv 1 fun v => { v with full := [(0x110, true)] }))).map (fun t => ((t.me.handle 2).cp, (t.resvAt 1).tag 0x110)) =
        some (2, false) ∧
      (next? (exec (.cbpush { lm0 with imm := 0x12 }) tlm)).map (fun t => ((t.me.handle 2).pp, (t.resvAt 1).tag 0x120)) = some (3, true) := by decide +kernel

theorem test_hyp_versions :
    [Instr.verld { lm0 with base := 6, data := 9, sz := 3, imm := 9 }, .verle { lm0 with base := 6, data := 9, sz := 3, imm := 8 },
      .verst { lm0 with base := 6, data := 1, sz := 3, imm := 9 }, .verfl { lm0 with base := 6, imm := 9 }, .vernew { lm0 with base := 6, data := 9 }].all (rdyAtOnce tlm) = true ∧
      ((tlm.atAct (.verld { lm0 with base := 6, sz := 3 })).place (tlm.slotEnv (.verld { lm0 with base := 6, sz := 3 })) 8 .version false (tlm.sc (6 : BitVec 6))).2 =
        .at_ 0x1000000000008 (.phys 8 0) none ∧
      tlm.reamOf tlm.me.part 8 = some 0 ∧ tlm.guessOf tlm.me = none ∧ (tlm.quire 0 0).map (fun e => e.1) = [2, 0] ∧ tlm.verArg { lm0 with imm := 9 } = 2 ∧
      tlm.slotReady (.verld { lm0 with base := 6, data := 9, sz := 3, imm := 8 }) = true ∧ tlm.slotPass (.verld { lm0 with base := 6, data := 9, sz := 3, imm := 8 }) = true ∧
      tlm.verPlace (tlm.slotEnv (.verld { lm0 with base := 6, data := 9, sz := 3, imm := 8 })) 8 false = some (0, 0) ∧ (tlm.quire 0 0).length < 8 ∧ tlm.poolFree 0 = true := by
  decide +kernel

/-- A version access in flight at the newest of a ream's line. -/
def tver (kind : AccKind) : State :=
  at_ tlm fun c => { c with mem := { c.mem with pend := [{ id := 5, grp := 5, kind := kind, loc := .phys 8 0, size := 8, va := 0x1000000000008, dest := .s false 9 }] } }

/-- 08 R279, R280: the newest number is 2; a floor of 1 leaves version 0 to be discarded. -/
theorem test_versions :
    (next? (exec (.loadReturn 0 5) (tver .vernew))).map (fun t => t.me.r.rs 9) = some 2 ∧
      (next? (exec (.storePerformed 0 5) (at_ (tver (.verfl 2)) fun c => { c with mem := { c.mem with pend := c.mem.pend.map fun a => { a with dest := .none } } }))).map
        (fun t => (t.reamAt 0).floor) = some 2 ∧
      (let s := tlm.onReam 0 fun m => { m with floor := 2 }
      (next? (exec (.versionReclaim 0 0) s)).map (fun t => (t.quire 0 0).map (fun e => e.1))) = some [2] := by decide +kernel

theorem test_hyp_copies_issued :
    [Instr.cpy { lc0 with sdst := 3, ssrc := 2, sdsc := 4, tag := 3 }, .rgather { lc0 with sdst := 3, ssrc := 2, sdsc := 4, tag := 3 },
      .rscatter { lc0 with sdst := 3, ssrc := 2, sdsc := 4, tag := 3 }, .tld { lc0 with sdst := 3, ssrc := 6, sdsc := 4, tag := 3, fmt := 6 },
      .tst { lc0 with sdst := 6, ssrc := 3, sdsc := 4, tag := 3, fmt := 6 }, .coll { lc0 with sdst := 3, ssrc := 2, sdsc := 4, tag := 3 }].all (rdyAtOnce tlm) = true ∧
      (next? (exec (.cpy { lc0 with sdst := 3, ssrc := 2, sdsc := 4, tag := 3 }) tlm)).map (fun t => ((t.coreAt 0).copies.map (fun o => (o.tag, o.dst)), mget 0 t.me.mem.tagCnt 3)) =
        some ([(3, 0x200)], 1) := by decide +kernel

/-- A copy of one row of 16 bytes from 0x100 to 0x200, issued, started, and finished. -/
def cop : CopyOp :=
  { id := 5, instr := .cpy lc0, ctx := 0, dst := 0x200, src := 0x100, desc := 0x400, tag := 3, seq := 5, words := [0x1000000010, 0, 0, 0x100001, 0, 0, 0, 0] }
@[inherit_doc cop]
def tcopy (o : CopyOp) : State := (at_ tlm fun c => { c with mem := { c.mem with tagCnt := [(3, 1)] } }).onCore 0 fun n => { n with copies := [o] }

/-- Starts, faults, accesses of a row, and completion. -/
theorem test_hyp_copies_complete :
    (let s := tcopy cop
    s.copyAt 0 5 = some cop ∧ cop.isColl = false ∧ cop.trk = false ∧ cop.listed = false ∧ s.copyMayStart 0 cop = true ∧ cop.words ≠ [] ∧ cop.descOk = true ∧
      s.cpOutside { cop with started := true } (cop.steps 0) = none ∧
      (next? (exec (.copyStart 0 5) s)).map (fun t => (t.coreAt 0).copies.map (fun o => o.started)) = some [true]) ∧
    (let o := { cop with words := [0, 0, 0, 0x100001, 0, 0, 0, 0] }
    o.descOk = false ∧ (next? (exec (.copyFault 0 5) (tcopy o))).map (fun t => (t.me.mem.cfails.map (fun x => x.cause), (t.coreAt 0).copies.length)) = some ([3], 0)) ∧
    (let o := { cop with started := true }
    let s := { tcopy o with agenda := [.row 0 5] }
    o.done < (o.steps 0).length ∧ readsOf o.row = [[{ addr := 0x100, n := 16, share := true }]] ∧ ((s.resvAt 1).badIn 0x100 16).isNone ∧
      (next? (step s)).map (fun t => (t.coreAt 0).copies.map (fun o => (o.acc, leNat o.got))) = some [(1, 0x12A)]) ∧
    (let o := { cop with started := true, acc := 1, got := leBytes 16 0x12A }
    let s := { tcopy o with agenda := [.row 0 5] }
    valuesOf o.row o.got = .inr [0x12A] ∧ (writesOf (o.row.zip [0x12A])).map (fun l => l.map (fun x => (x.addr, x.mask))) = [(List.range 16).map (fun i => (0x200 + i, 255))] ∧
      (writesOf (o.row.zip [0x12A])).all (fun l => l.all (fun x => x.share && !inSpans (srcSpans (o.steps 0)) x.addr)) = true ∧
      (next? (step s)).map (fun t => (leNat ((t.resvAt 1).read 0x200 16), (t.coreAt 0).copies.map (fun o => (o.done, o.acc)))) = some (0x12A, [(1, 0)])) ∧
    (let o := { cop with started := true, done := 1 }
    (o.steps 0).length ≤ o.done ∧ (next? (exec (.copyComplete 0 5) (tcopy o))).map (fun t => (t.me.mem.tagBits, mget 0 t.me.mem.tagCnt 3)) = some (8, 0)) := by
  decide +kernel

/-- The same with an end in global memory; a gather, which reads its list at 0x800 first and skips a row; a copy of a whole line,
which clears the line's error. -/
theorem test_hyp_copies_global_and_listed :
    (let o := { cop with started := true, src := 0x1000000000008 }
    let s := { tcopy o with agenda := [.row 0 5] }
    (readsOf o.row).map (fun l => l.map (fun p => (p.addr, p.n, p.share))) = [[(0x1000000000008, 16, false)]] ∧
      (s.xlateCtx 0 false 0x1000000000008 .r).2 = .ok { pa := 8, key := 0, flags := 0x21F } ∧ s.tileHeld 0 = false ∧ (s.badIn 8 16).isNone ∧
      (next? (step s)).map (fun t => (t.coreAt 0).copies.map (fun o => o.acc)) = some [1]) ∧
    (let o := { cop with started := true, dst := 0x1000000000008, acc := 1, got := leBytes 16 0x12A }
    let s := { tcopy o with agenda := [.row 0 5], slices := [], cores := (tcopy o).cores.map (fun e => (e.1, { e.2 with tlb := e.2.tlb.map (fun x => { x with flags := 0x1F }) })) }
    (s.xlateCtx 0 false 0x1000000000008 .w).2 = .ok { pa := 8, key := 0, flags := 0x1F } ∧
      (next? (step s)).map (fun t => (leNat (t.phys 8 0 16), (t.coreAt 0).copies.map (fun o => o.done))) = some (0x12A, [1])) ∧
    (let o := { cop with instr := .rgather lc0, words := [0x1000000010, 0, 0, 0x100001, 0x800, 0, 0, 0] }
    let s := tcopy o
    s.plainCopy 0 5 o ∧ o.listed = true ∧ s.copyMayStart 0 o = true ∧ o.descOk = true ∧
      rangePieces true none (o.d.f 4 0 64, 4 * o.d.rows) = [{ addr := 0x800, n := 4, share := true }] ∧
      (next? (exec (.copyStart 0 5) s)).map (fun t => (t.coreAt 0).copies.map (fun o => (o.acc, o.started))) = some [(1, false)] ∧
      (next? (exec (.copyStart 0 5) (tcopy { o with acc := 1, got := leBytes 4 0xFFFFFFFF }))).map (fun t => (t.coreAt 0).copies.map (fun o => (o.started, o.index 0))) =
        some [(true, none)]) ∧
    (let o := { cop with instr := .rgather lc0, words := [0x1000000010, 0, 0, 0x100001, 0x800, 0, 0, 0, 0xFFFFFFFF], started := true }
    o.row = [] ∧ (next? (step { tcopy o with agenda := [.row 0 5] })).map (fun t => (t.coreAt 0).copies.map (fun o => o.done)) = some [1]) ∧
    (let o := { cop with started := true, done := 1, words := [0x4000000040, 0, 0, 0x400001, 0, 0, 0, 0] }
    let s := (tcopy o).onResv 1 fun v => { v with poison := [(8, true), (9, true)] }
    (next? (exec (.copyComplete 0 5) s)).map (fun t => (t.resvAt 1).poison) = some [(9, true)]) := by
  unfold State.plainCopy
  decide +kernel

/-- A barrier of level 2 of a task whose one context has arrived. -/
theorem test_hyp_barrier_generation :
    (let s := at_ tb fun c => { c with mem := { c.mem with arr := [(2, 1)] } }
    s.groupAt 1 2 (unitOf 2 0) = [0] ∧ (s.ctxAt 0).counts = true ∧ (next? (exec (.barrierGenerationComplete 1 2 (unitOf 2 0)) s)).map (fun t => t.barDone 0 2) = some 1) := by
  decide +kernel

/-- A reduction of four FP32 elements over the one context of level 2, at 0x100 to 0x200 (08 R274 to R276). -/
def copc : CopyOp := { cop with instr := .coll { lc0 with fmt := 2 }, words := [0x20, 4, 0, 0, 0, 0, 0, 0] }
@[inherit_doc copc]
def tcl : State :=
  let s := (tcopy copc).onResv 1 fun v => { v with bytes := [(0x102, 0x80), (0x103, 0x3F), (0x10F, 0x40)] }
  { s with hub := { s.hub with colls := [{ task := 1, level := 2, unit_ := unitOf 2 0, k := 1, members := [0], issued := [(0, 5)] }] } }

theorem test_hyp_collective :
    (match tcl.collAt 1 2 (unitOf 2 0) with
      | some x => tcl.collOps x == [(0, copc)] && copc.collArgs == { cop := 0, level := 2, root := 0, count := 4, f := ⟨0, 0, 0, 2⟩ } && copc.hold.isNone &&
          tcl.copyMayStart 0 copc && tcl.collMet x && (tcl.collFailure x).isNone && copc.collArgs.sizeOk 1 &&
          decide (collReads copc = [[{ addr := 0x100, n := 16, share := true }]])
      | none => false) = true ∧
      (next? (step { tcl with agenda := [.row 0 5] })).map (fun t => (t.coreAt 0).copies.map (fun o => o.acc)) = some [1] ∧
      (let o := { copc with acc := 1, got := (tcl.resvAt 1).read 0x100 16 }
      let s := { tcl.onCore 0 fun n => { n with copies := [o] } with agenda := [.row 0 5] }
      (match s.collAt 1 2 (unitOf 2 0) with
        | some x => decide ((s.collOut x 0).map (fun r => (collWrites o r).length) = some 1)
        | none => false) = true ∧
        (next? (step s)).map (fun t => (leNat ((t.resvAt 1).read 0x200 4), (t.coreAt 0).copies.map (fun o => o.acc))) = some (0x3F800000, [2])) ∧
      (let o := { copc with acc := 2, got := (tcl.resvAt 1).read 0x100 16 }
      let s := tcl.onCore 0 fun n => { n with copies := [o] }
      (match s.collAt 1 2 (unitOf 2 0) with | some x => s.collDone x o | none => false) = true ∧
        (next? (exec (.collectiveComplete 1 2 (unitOf 2 0)) s)).map (fun t => (t.hub.colls.length, t.me.mem.tagBits)) = some (0, 8)) := by
  decide +kernel

/-- Two contexts of one core whose descriptors differ; and a member that issues a collective that has failed. -/
theorem test_hyp_collective_fails :
    (let o1 : CopyOp := { copc with id := 6, seq := 6, ctx := 1, words := [0x20, 8, 0, 0, 0, 0, 0, 0] }
    let s := tcl.onCore 0 fun n => { n with copies := [copc, o1] }
    let s := { s with
      ctxs := mput s.ctxs 1 { placedCtx with mem := { placedCtx.mem with tagCnt := [(3, 1)] } }
      hub := { s.hub with colls := [{ task := 1, level := 2, unit_ := unitOf 2 0, k := 1, members := [0, 1], issued := [(0, 5), (1, 6)] }] } }
    copc.collArgs ≠ o1.collArgs ∧ s.guessOf (s.ctxAt 0) = none ∧ s.guessOf (s.ctxAt 1) = none ∧
      (next? (exec (.collectiveComplete 1 2 (unitOf 2 0)) s)).map (fun t => (t.me.mem.cfails.map (fun y => y.cause), (t.ctxAt 1).mem.cfails.map (fun y => y.cause))) =
        some ([7], [7])) ∧
    (let s := tlm.onResv 1 fun v => { v with bytes := [(0x400, 0x20), (0x408, 4)] }
    let s := { s with hub := { s.hub with colls := [{ task := 1, level := 2, unit_ := unitOf 2 0, k := 1, members := [0, 4], issued := [(4, 9)], ended := true, cause := 8 }] } }
    let f : LC := { lc0 with sdst := 3, ssrc := 2, sdsc := 4, tag := 3, fmt := 2 }
    rdyAtOnce s (.coll f) = true ∧ (s.copyOp (.coll f) f).collOk = true ∧ (s.copyOp (.coll f) f).collArgs.level = 2 ∧ mget 0 s.me.mem.collNo 2 = 0 ∧
      (next? (exec (.coll f) s)).map (fun t => ((t.coreAt 0).copies.length, t.me.mem.cfails.map (fun y => (y.cause, y.tag)), mget 0 t.me.mem.collNo 2)) = some (0, [(8, 3)], 1) ∧
      (next? (exec (.coll f) { s with hub := { s.hub with colls := [] } })).map (fun t => (t.hub.colls.map (fun x => x.issued.map (fun e => e.1)))) = some [[0]]) := by
  decide +kernel

/-! ### Rows of copies and runs of collectives -/

/-- A tile of 2 × 4 BF16 elements at row 1, column 4 of a tensor of pitch 8, transposed. -/
def cot : CopyOp :=
  { cop with instr := .tld { lc0 with fmt := 5, md := 8 }, src := 0x1000000000000, words := [8, 0x400000001, 0, 0x40002, 0, 0, 0, 0] }

/-- 08 R261, by hand: the first row of the image is column 4 of rows 1 and 2, at bytes 24 and 40; 08 R265: entry 1 of the list is row 7. -/
theorem test_rows :
    ((cot.steps 0).map (fun l => l.map (fun g => (g.src.addr + g.src.bit / 8 - 0x1000000000000, g.dst.addr + g.dst.bit / 8, g.bits)))).take 2 =
        [[(24, 0x200, 16), (40, 0x202, 16)], [(26, 0x204, 16), (42, 0x206, 16)]] ∧ cot.descOk = true ∧
      (let o := { cop with instr := .rscatter lc0, words := [0x1000000010, 0, 0, 0x100002, 0x800, 0, 0, 0, 0x7FFFFFFFF] }
      (o.steps 0).map (fun l => l.map (fun g => (g.src.addr, g.dst.addr, g.bits))) = [[], [(0x110, 0x270, 128)]] ∧ o.d.rows = 2) ∧
      (let g : Seg := { src := { addr := 8, bit := 4, share := true }, dst := { addr := 16, bit := 60, share := true }, bits := 8, flip := 0x81 }
      valuesOf [g] [0xA5, 0x3C] = .inr [0x4B] ∧
        (writesOf [(g, 0x4B)]).map (fun l => l.map (fun x => (x.addr, x.mask, x.val))) = [[(23, 0xF0, 0xB0), (24, 0x0F, 0x04)]]) := by decide +kernel

/-- Runs of two members of four FP32 elements: an all-to-all gives member 1 the last halves. -/
theorem test_runs :
    (let a : CollArgs := { cop := 4, level := 2, root := 0, count := 4, f := ⟨0, 0, 0, 2⟩ }
    let rs : List Run := [{ codes := [1, 2, 3, 4] }, { codes := [5, 6, 7, 8] }]
    a.sizeOk 2 = true ∧ a.f.valid = true ∧ (collDest a rs 1).codes = [3, 4, 7, 8] ∧ (collDest { a with cop := 2 } rs 0).codes = [1, 2, 3, 4, 5, 6, 7, 8] ∧
      (collDest { a with cop := 3, root := 1 } rs 0).codes = [5, 6, 7, 8] ∧
      (collDest { a with cop := 1 } [{ codes := [0, 0, 0x3F800000, 0x40000000] }, { codes := [0, 0, 0x3F800000, 0x3F800000] }] 1).codes = [0x40000000, 0x40400000]) := by
  decide +kernel

/-! ### M slots -/

/-- One hand, FP32 operands of K = 2 in the front buffer, tile 0 of FP32, tiles 1 and 2 a CF64 pair, tile 3 of FP64. -/
def tm : State := at_ tb fun c => { c with
  r := { c.r with d := [(5, 2), (6, 2)] }
  mx := { c.mx with
    hands := [0], bankMat := 1, front := { empty := false, fb := 2, wa := 16, kb := 2 }, frontD := [0, 0, 0x80, 0x3F]
    tiles := [(0, { st := .c, el := [(0, 0x40000000)] }), (1, { st := .c, fmt := 4, pair := 1 }), (2, { st := .c, fmt := 4, pair := 2 }), (3, { st := .c, fmt := 1 })] } }
/-- Two hands and CF64 operands of K = 1; and a sparse front buffer with its metadata word fetched. -/
def tmC : State := at_ tm fun c => { c with
  r := { c.r with d := [(5, 1), (6, 1)] }, mx := { c.mx with hands := [0, 1], front := { empty := false, fb := 1, wa := 32, kb := 1 } } }
@[inherit_doc tmC]
def tmS (w : W64) : State := at_ tm fun c => { c with 
  r := { c.r with d := [(5, 4), (6, 4)] }, mx := { c.mx with front := { empty := false, fb := 4, wa := 8, sparse := true, kb := 16 }, metaW := some w } }

theorem test_hyp_matrix_products :
    [Instr.mld { mx0 with src := 1, fa := 2 }, .mldw { mx0 with src := 1, fa := 2 }, .mma { mx0 with src := 1, fa := 2 }].all (rdyAtOnce tm) = true ∧
      rdyFree tm (.mswap mc0) = true ∧ rdyAtOnce tmC (.mmaC { mx0 with acc := 1, src := 1, fa := 1 }) = true ∧
      rdyAtOnce (tmS 0x4321) (.mmas { mx0 with src := 1, fa := 4 }) = true ∧ rdyFree tm (.mmac { mx0 with scl := 3, src := 3, fa := 2, rm := 4 }) = true ∧
      tm.imgClean { mx0 with src := 1, fa := 2 } 256 = true ∧ (loadK tm.me { mx0 with src := 1, fa := 2 }, tm.me.prodK 2) = (some 2, some 2) ∧
      (let s := tmS 0x4361
      s.slotReady (.mmas { mx0 with src := 1, fa := 4 }) && s.slotFree (.mmas { mx0 with src := 1, fa := 4 }) && s.traps) = true := by decide

theorem test_hyp_matrix_tiles :
    [Instr.azero { mc0 with acc := 1 }, .acfg { mc0 with acc := 5, af := 4 }, .aclr { mc0 with acc := 2 }, .acvt { mc0 with acc := 3, acb := 0, af := 1 },
      .aadd { mc0 with acc := 0, acb := 0, rm := 4 }, .await { mc0 with acc := 1 }, .awaitAll { mc0 with imm := 1 }, .mpcset { mc0 with ss := 4 }].all (rdyFree tm) = true ∧
      rdyAtOnce tm (.aload { mc0 with acc := 5, af := 0, ss := 4 }) = true ∧ ((tm.resvAt 1).badIn 0x1000 (aloadBytes 0)).isNone ∧
      [Instr.mstat { mc0 with ss := 9 }, .mstat { mc0 with ss := 9, imm := 1 }].all (rdy tm) = true ∧ rdyTrap tm (.mpcset { mc0 with ss := 1 }) = true ∧
      tm.sc (1 : BitVec 6) = 7 := by decide

/-- 07 R218, R227, R233: a product marks its tile dirty and waits in the queue with K = 2; `acfg` of CF64 takes two slots. -/
theorem test_matrix_queue :
    (next? (exec (.mma { mx0 with src := 1, fa := 2 }) tm)).map (fun t => ((t.me.tile 0).st, t.me.mx.ops.map (fun o => (o.k, o.tiles, o.started)))) =
        some (.d, [(2, [0], false)]) ∧
      (next? (exec (.acfg { mc0 with acc := 5, af := 4 }) tm)).map (fun t => ((t.me.tile 5).pair, (t.me.tile 6).pair, (t.me.tile 6).fmt)) = some (1, 2, 4) := by decide

/-- An operation in the queue, not started and started. -/
def mop (i : Instr) (started : Bool) : MOp :=
  { id := 5, lat := { instr := i, acc := 0, acb := 0 }, started := started, img := [0, 0, 0, 0x40], h := 1, k := 2, tiles := [0], buf := { empty := false, fb := 2, data := [0, 0, 0x80, 0x3F] } }
@[inherit_doc mop]
def tmq (i : Instr) (started : Bool) : State := at_ tm fun c => { c with mx := { c.mx with ops := [mop i started] } }

theorem test_hyp_matrix_operations_run :
    [Instr.mma { mx0 with fa := 2 }, .mswap mc0, .mmac { mx0 with scl := 3, fa := 2, src := 3 }].all
        (fun i => decide ((tmq i false).me.mx.nextOp = some (mop i false)) && (tmq i false).me.mx.mayStart (mop i false)) = true ∧
      [Instr.mma { mx0 with fa := 2 }, .mmac { mx0 with scl := 3, fa := 2, src := 3 }, .mmas { mx0 with fa := 4 }, .mmaC { mx0 with fa := 1 }, .mld { mx0 with fa := 2 },
        .mldw { mx0 with fa := 2 }, .azero mc0, .acfg mc0, .aclr mc0, .aload mc0, .acvt mc0, .aadd mc0].all
        (fun i => decide ((tmq i true).me.mx.ops.find? (fun x => x.id = 5) = some (mop i true)) && (mop i true).started && (mop i true).poison.isNone &&
          (tmq i true).me.mx.ops.all (fun x => decide (5 ≤ x.id))) = true ∧ tm.guessOf tm.me = none := by decide

/-- 07 R219: one product 2 × 1 beside zeros added to 2 gives 4 in element 0. -/
theorem test_matrix_product :
    (next? (exec (.mOpComplete 0 5) (tmq (.mma { mx0 with fa := 2 }) true))).map (fun t => (((t.me.tile 0).get 0).toNat, t.me.mx.ops.length)) = some (0x40800000, 0) := by
  decide +kernel

/-- 03 R95, 07 R234, R235: a conversion or a sum takes its source tile as it stands at its start. -/
theorem test_hyp_tile_sources :
    [Instr.acvt mc0, .aadd mc0].all (fun i => decide ((tmq i false).me.mx.nextOp = some (mop i false)) && (tmq i false).me.mx.mayStart (mop i false) &&
      (next? (exec (.mOpStart 0) (tmq i false))).any (fun t => t.me.mx.ops.map (fun o => o.src.map (fun x => x.get 0)) == [[0x40000000, 0]])) = true ∧
      ((tmq (.acvt mc0) false).me.tile 0).bad = [] := by decide +kernel

/-- The swap exchanges the data; zeroing clears the tile; a conversion to FP64 of 2.0. -/
theorem test_matrix_operations :
    (next? (exec (.mOpStart 0) (tmq (.mswap mc0) false))).map (fun t => (t.me.mx.backD, t.me.mx.ops.length)) = some ([0, 0, 0x80, 0x3F], 0) ∧
      (next? (exec (.mOpComplete 0 5) (tmq (.azero mc0) true))).map (fun t => (t.me.tile 0).get 0) = some 0 := by decide


/-- The metadata word at mpc in the page at the pc (07 R221). -/
theorem test_hyp_metadata_fetch :
    (let s := at_ tb fun c => { c with r := { c.r with mpc := 0x1000000000008 } }
    s.me.st = .live ∧ s.me.mx.metaW = none ∧ s.guessOf s.me = none ∧ s.mgmt.pfe = false ∧
      (s.xlateCtx 0 s.me.r.sup s.me.r.mpc.toNat .r).2 = .ok { pa := 8, key := 0, flags := 0x1F } ∧ (List.range 8).all (fun i => !s.bad (8 + i)) = true ∧
      (next? (exec (.metadataFetch 0) s)).map (fun t => t.me.mx.metaW) = some (some 0)) := by decide

/-! ### Sidecars -/

/-- Sidecar 1 of the context runs at 0x40; the share holds a word at 0x100, a copy command at 0x500 and no tags; a handle 2 of four slots of 128
bytes with both pointers at 1. -/
def tx : State :=
  { tb.onResv 1 fun v => { v with bytes := [(0x100, 0x2A), (0x101, 1), (0x501, 2), (0x509, 1), (0x511, 4), (0x518, 0x32)] } with
    side := 1
    sides := [(1, { present := true, running := true, pc := 0x40, hs := [(2, { base := 0x20, slot := 2, depth := 4, cp := 1, pp := 1 })]
                    x := [(1, 0x100), (2, 0x200), (3, 2), (4, 0x1000000000008), (5, 0x500), (6, 3), (7, 1), (8, 0x300200800), (9, 0x55)] })] }
/-- The same with a word and a slot of the ring full. -/
def txf : State := tx.onResv 1 fun v => { v with full := [(0x20, true), (0x110, true)] }

theorem test_hyp_sidecar :
    tx.sideCan tx.side = true ∧ tx.sideWord 1 0x100 = true ∧ (txf.resvAt 1).tag 0x20 = true ∧ (tx.resvAt 1).tag 0x20 = false ∧
      (tx.xlateCtx 0 false 0x1000000000008 .r).2 = .ok { pa := 8, key := 0, flags := 0x1F } ∧ (tx.coreAt 0).l1bad = [] ∧ storeBad (tx.sideAt 1).dbad 0x208 8 = false ∧ (tx.xlateCtx 0 false 0x1000000000008 .w).2 = .ok { pa := 8, key := 0, flags := 0x1F } ∧
      tx.guessOf tx.me = none ∧ tx.tileHeld 0 = false ∧ tx.mgmt.pfe = false ∧
      [0x500, 0x508, 0x510, 0x518].all (fun a => tx.sideWord 1 a) = true ∧ copyOf (tx.sideAtWord 1 0x518) = some (.cpy { lc0 with tag := 3 }) ∧
      copyBad 0x4000 (.cpy { lc0 with tag := 3 }) (tx.sideAtWord 1 0x500) (tx.sideAtWord 1 0x508) (tx.sideAtWord 1 0x510) = none ∧
      (tx.resvAt 1).size = 0x4000 ∧ descFault 0x4000 (tx.rx 1 8) = none ∧ (tx.rx 1 3, tx.rx 1 7, ((tx.sideAt 1).handle 2).depth) = (2, 1, 4) := by decide

/-- Register `n` of sidecar 1 after an instruction, and its pc. -/
def xAfter (s : State) (i : Instr) (n : BitVec 5) : Option (W64 × W64) := (next? (exec i s)).map (fun t => (t.rx 1 n, (t.sideAt 1).pc))

/-- 08 R285: loads, a take of a full word, a store, the copy command's tag count, and the ring pointers of `x.cbpop` and `x.cbpush`. -/
theorem test_sidecar_operations :
    xAfter tx (.xSpld 10 1) 10 = some (0x12A, 0x44) ∧ xAfter tx (.xSpldfe 10 1) 10 = some (0, 0x40) ∧ xAfter txf (.xSpldfe 10 1) 10 = some (0x12A, 0x44) ∧
      (next? (exec (.xSpste 9 2) tx)).map (fun t => ((t.resvAt 1).tag 0x40, leNat ((t.resvAt 1).read 0x200 8))) = some (true, 0x55) ∧
      xAfter tx (.xGld 10 4) 10 = some (0, 0x44) ∧ (next? (exec (.xGst 9 4) tx)).map (fun t => t.byteAt 8 0) = some 0x55 ∧
      xAfter tx (.xTagwait 0) 1 = some (0x100, 0x44) ∧ xAfter tx (.xTagwait 7) 1 = some (0x100, 0x40) ∧ xAfter tx (.xRdd 10 0) 10 = some (tb.me.r.rd 0, 0x44) := by decide +kernel

/-- 08 R285: a copy command, and the ring pointers of the sidecar's handles. -/
theorem test_sidecar_copies_and_rings :
    (next? (exec (.xCopy 5) tx)).map (fun t => ((t.coreAt 0).copies.map (fun o => (o.dst, o.src, o.desc, o.tag, o.side)))) =
        some [(0x200, 0x100, 0x400, 3, 2)] ∧
      (next? (exec (.xCbcfg 8 6) tx)).map (fun t => (t.sideAt 1).handle 3) = some { base := 0x20, slot := 2, depth := 4, cp := 0, pp := 0 } ∧
      xAfter tx (.xCbwait 7 3) 0 = some (0, 0x40) ∧ xAfter txf (.xCbwait 7 3) 0 = some (0, 0x44) ∧ xAfter tx (.xCbresv 7 3) 0 = some (0, 0x44) ∧
      (next? (exec (.xCbpop 7 3) txf)).map (fun t => (((t.sideAt 1).handle 2).cp, (t.resvAt 1).tag 0x110)) = some (2, false) ∧
      (next? (exec (.xCbpush 7 3) tx)).map (fun t => (((t.sideAt 1).handle 2).pp, (t.resvAt 1).tag 0x110)) = some (2, true) := by decide +kernel

/-- An ordinary instruction of 4 bytes. -/
def rv (i : RvInstr) : Instr := .sidecarRiscvInstruction i false

/-- By hand from the RISC-V definitions: sums, a branch taken, a store and a load of the data store, `wfi`, a control register. -/
theorem test_sidecar_riscv :
    xAfter tx (rv (.lui 10 0x80000)) 10 = some (0xFFFFFFFF80000000, 0x44) ∧ xAfter tx (rv (.auipc 10 1)) 10 = some (0x1040, 0x44) ∧
      xAfter tx (rv (.aluImm .add false 10 6 0xFFF)) 10 = some (2, 0x44) ∧ xAfter tx (rv (.alu .sub false 10 7 6)) 10 = some (0xFFFFFFFFFFFFFFFE, 0x44) ∧
      xAfter tx (rv (.jal 10 8)) 10 = some (0x44, 0x50) ∧ xAfter tx (rv (.jalr 10 1 3)) 10 = some (0x44, 0x102) ∧
      xAfter tx (rv (.branch .blt 7 6 8)) 0 = some (0, 0x50) ∧ xAfter tx (rv (.branch .beq 7 6 8)) 0 = some (0, 0x44) ∧
      (next? (exec (rv (.store 0 1 9 4)) tx)).bind (fun t => xAfter t (rv (.load 0 true 10 1 4)) 10) = some (0x55, 0x48) ∧
      xAfter tx (rv .fence) 0 = some (0, 0x44) ∧ (next? (exec (rv .wfi) tx)).map (fun t => (t.sideAt 1).running) = some false ∧
      xAfter tx (rv .mret) 0 = some (0, 0) ∧ csrRw 0x340 = true ∧ xAfter tx (rv (.csr .rw false 10 9 0x340)) 10 = some (0, 0x44) := by decide +kernel

/-- 08 R286: an exception stops the sidecar and leaves trap 0x31 at its context, with the cause in x1. -/
theorem test_sidecar_exceptions :
    [(rv .ecall, 11), (rv .ebreak, 3), (rv (.illegal 0), 2), (rv (.load 3 false 10 4 0), 5), (rv (.store 3 4 9 0), 7)].all
        (fun p => (next? (exec p.1 tx)).map (fun t => ((t.sideAt 1).running, t.me.sys.asyncs.map (fun a => (a.code, a.x1)))) == some (false, [(0x31, p.2)])) = true ∧
      (let s := tx.onSide 1 fun x => { x with imem := [(0x40, 0x73)] }
      s.sideInstr 1 = some (rv .ecall) ∧ (next? (exec (.sidecarFault 11 0) s)).map (fun t => (t.sideAt 1).running) = some false) ∧
      (next? (exec (.sidecarFault 1 0x10000) (tx.onSide 1 fun x => { x with pc := 0x10000 }))).map (fun t => (t.sideAt 1).running) = some false := by decide +kernel


/-! ### Saves and restores of a slot -/

/-- Slot 0 in supervisor mode with a share of 1 MB, and slot 1 of its core parked; the share holds an image for it: version 1, no bank and no tile,
and task 1 (15 R393). -/
def tcs : State :=
  let s := tsup.onResv 1 fun v => { v with spad := 64, bytes := [(6, 1), (1272, 1)] }
  { s with ctxs := mput s.ctxs 1 { st := .parked, task := 1, resv := 1 } }

/-- The operations on slot 1 at offset 0. -/
def fcs : BG := { bg0 with imm := 1 }

theorem tcs_at (s : State) (i : Nat) (h : i < imageUnits) (e : Env) (hs : e.share.size = 0x100000) :
    winOf e.share.size ((0 : W64) + w64 (64 * i)).toNat 64 = some .share := by
  have : ((0 : W64) + w64 (64 * i)).toNat = 64 * i := by
    rw [show (0 : W64) = 0#64 from rfl, BitVec.zero_add, w64, BitVec.toNat_ofNat]; simp only [imageUnits] at h; omega
  simp only [imageUnits] at h
  rw [winOf, this, hs, if_pos (by omega)]

theorem test_hyp_save :
    rdyFree tcs (.ctxsave fcs) = true ∧ ∃ s1, (tcs.atAct (.ctxsave fcs)).imgStore (tcs.slotEnv (.ctxsave fcs)) (tcs.sc fcs.sa)
      ((tcs.ctxAt 1).imageOut (tcs.sc fcs.sa)) none = (s1, none) := by
  refine ⟨by decide +kernel, imgStore_share _ _ _ (fun p hp => ?_) _⟩
  have h0 : tcs.sc fcs.sa = 0 := by decide
  have hp' : p.1 < imageUnits := by
    simp only [Ctx.imageOut, List.mem_filterMap, Option.map_eq_some_iff, upto, List.mem_range] at hp
    obtain ⟨a, ha, b, -, rfl⟩ := hp
    exact ha
  rw [h0]
  exact tcs_at tcs p.1 hp' _ (by decide)

/-- The words of the image. -/
theorem tcs_words (s : State) (k i : Nat) (h : (s.resvAt (s.ctxAt k).resv).bytes = [(6, 1), (1272, 1)]) :
    (if i < 2048 then w64 (leNat ((s.resvAt (s.ctxAt k).resv).read (8 * i) 8)) else 0) = if i = 0 then 0x1000000000000 else if i = 159 then 1 else 0 := by
  by_cases h0 : i = 0
  · subst h0; simp only [Resv.read, h]; decide
  by_cases h1 : i = 159
  · subst h1; simp only [Resv.read, h]; decide
  have hz (b : Nat) (hb : b < 8) : mget 0 ([(6, 1), (1272, 1)] : SMap Byte) (8 * i + b) = 0 := by
    simp [mget, mfind, show ¬ 6 = 8 * i + b by omega, show ¬ 1272 = 8 * i + b by omega]
  have h2 := hz 0; have h3 := hz 1; have h4 := hz 2; have h5 := hz 3; have h6 := hz 4; have h7 := hz 5; have h8 := hz 6; have h9 := hz 7
  simp_all [Resv.read, mbytes, leNat, w64, Nat.add_assoc]

theorem tcs_load (s : State) (e : Env) (hs : e.share.size = 0x100000) (hp : (s.resvAt (s.ctxAt e.k).resv).poison = []) (l : List Nat)
    (h : ∀ i ∈ l, i < imageUnits) : s.imgLoad e 0 l = (s, .ok (l.map (fun i => (i, s.shareUnit e.k 0 i)))) :=
  imgLoad_share e 0 s l hp (fun i hi => tcs_at s i (h i hi) e hs)

/-- The control region of the image has no fault. -/
theorem tcs_image : imageReason (tcs.fresh.ctxAt 1) 1 (fun i => if i = 0 then 0x1000000000000 else if i = 159 then 1 else 0) = none := by decide +kernel

theorem tcs_check : restoreCheck fcs tcs.fresh (tcs.slotEnv (.ctxrestore fcs)) = none := by
  have h1 : slotCheck fcs (fun st => st == .idle || st == .parked) tcs.fresh (tcs.slotEnv (.ctxrestore fcs)) = none := by decide
  have hk : slotKey fcs (tcs.slotEnv (.ctxrestore fcs)) = 1 := by decide
  have ht : (tcs.fresh.taskAt (tcs.fresh.ctxAt 1).task).id = 1 := by decide
  have h2 : (tcs.fresh.ctxAt (tcs.slotEnv (.ctxrestore fcs)).k).unfenced false = false := by decide
  have h3 : (tcs.slotEnv (.ctxrestore fcs)).c.r.rs fcs.sa.toNat = 0 := by decide
  have hb : (tcs.fresh.resvAt (tcs.fresh.ctxAt (tcs.slotEnv (.ctxrestore fcs)).k).resv).bytes = [(6, 1), (1272, 1)] := by decide
  have hl := tcs_load tcs.fresh (tcs.slotEnv (.ctxrestore fcs)) (by decide) (by decide) (List.range 256)
    (fun i hi => by simp [imageUnits] at hi ⊢; omega)
  generalize tcs.slotEnv (.ctxrestore fcs) = e at *
  have hw : (fun i => (wordArray (unitArray ((List.range 256).map (fun i => (i, tcs.fresh.shareUnit e.k 0 i))))).getD i 0) =
      fun i => if i = 0 then 0x1000000000000 else if i = 159 then 1 else 0 := by
    funext i
    rw [wordArray_share]
    exact tcs_words tcs.fresh _ i hb
  simp only [restoreCheck, hk, h1, h2, h3, upto, hl, Bool.false_eq_true, if_false, hw, ht, tcs_image, Option.bind_none]

theorem slotFree_ctxrestore (s : State) (f : BG) : s.slotFree (.ctxrestore f) =
    ((restoreCheck f s.fresh (s.slotEnv (.ctxrestore f))).isNone && !false && (fenceWait false (s.slotEnv (.ctxrestore f)) s.fresh).2.isNone) := rfl

theorem test_hyp_restore :
    tcs.slotReady (.ctxrestore fcs) = true ∧ tcs.slotFree (.ctxrestore fcs) = true ∧ tcs.endsPlain = true ∧
      ∃ s1 s2 l m, (tcs.atAct (.ctxrestore fcs)).imgLoad (tcs.slotEnv (.ctxrestore fcs)) (tcs.sc fcs.sa) (List.range 256) = (s1, .ok l) ∧
        s1.imgLoad (tcs.slotEnv (.ctxrestore fcs)) (tcs.sc fcs.sa) (imageIn (tcs.ctxAt 1) (fun i => (wordArray (unitArray l)).getD i 0)) = (s2, .ok m) := by
  have h0 : tcs.sc fcs.sa = 0 := by decide
  have hl := tcs_load (tcs.atAct (.ctxrestore fcs)) (tcs.slotEnv (.ctxrestore fcs)) (by decide) (by decide)
  refine ⟨by decide, ?_, by decide, ?_⟩
  · have hw2 : (fenceWait false (tcs.slotEnv (.ctxrestore fcs)) tcs.fresh).2.isNone = true := by decide
    rw [slotFree_ctxrestore, tcs_check, hw2]; rfl
  · have hn : (tcs.ctxAt 1).mx.nBanks = 0 ∧ (tcs.ctxAt 1).mx.nTiles = 0 := by decide
    rw [h0, hl _ (fun i hi => by simp [imageUnits] at hi ⊢; omega)]
    refine ⟨_, _, _, _, rfl, hl _ (fun i hi => ?_)⟩
    simp only [imageIn, imageTiles, hn, upto, Nat.mul_zero, List.range_zero, List.map_nil, List.filter_nil, List.flatMap_nil, List.append_nil,
      List.mem_map, List.mem_range] at hi
    obtain ⟨a, ha, rfl⟩ := hi
    simp only [imageUnits]; omega

/-! ### Issue rows and traps -/

/-- A repetition with one sticky operation due, in position `p` with latch `l`. -/
def tst (p : Nat) (l : Latch) : State :=
  { at_ tlm fun c => { c with sq := { c.sq with latU := [(p, l)] } } with issue := { tlm.issue with sticky := [p], rep := 1, reps := 2 } }

theorem test_hyp_issue_rows :
    (tb.canIssue 0 = true ∧ tb.me.mx.chg = none ∧ tb.issue.drop = none ∧ tb.endsPlain = true) ∧
      (next? (exec (.idleRun 3) tb)).map (fun t => (t.me.sq.idle, t.me.r.pc)) = some (4, 0x100000000000C) ∧
      (next? (exec .idleRunEnd (at_ tb fun c => { c with sq := { c.sq with idle := 4 } }))).map (fun t => (t.coreAt 0).cycles) = some 4 ∧
      (let s := tst 0 { instr := .add { sr0 with sd := 9, sa := 1, sb := 8 } }
      s.canIssue s.ck = true ∧ s.me.latch 0 = some { instr := .add { sr0 with sd := 9, sa := 1, sb := 8 } } ∧ s.me.mx.chg = none ∧ s.me.mem.pend = [] ∧
        s.me.mem.stepWait = [] ∧ s.me.sys.shadow = [] ∧ s.me.sys.asyncs = [] ∧ s.endsPlain = true ∧
        guardOn s.me.r s.issue.bt 0 = true ∧ (next? (exec .stickyReissue s)).map (fun t => t.me.r.rs 9) = some 10) ∧
      (let s := tst 6 { instr := .ld { lm0 with data := 9, sz := 3, qs := 1 }, addrA := 0xF8 }
      s.me.latch 6 ≠ none ∧ s.endsPlain = true ∧ s.canIssue s.ck = true ∧
        (next? (exec .stickyReissue s)).map (fun t => t.me.mem.pend.map (fun a => a.va)) = some [0x100]) := by decide +kernel

/-- 04 R106, R108, R109: what `stickyReady` asks, beside the latch. -/
def rdyStep (s : State) (p : Nat) (on : Bool) : Bool :=
  s.canIssue s.ck && s.issue.sticky == [p] && (s.me.latch p).any (fun l => guardOn s.me.r s.issue.bt (guardOf l.instr) == on) && s.me.mx.chg.isNone &&
    s.me.mem.pend.isEmpty && s.me.mem.stepWait.isEmpty && s.me.sys.shadow.isEmpty && s.me.sq.late.isEmpty && s.me.sys.asyncs.isEmpty && s.endsPlain

theorem test_hyp_sticky_rows :
    (let s := tst 3 { instr := .vadd (vf 5) }
    rdyStep s 3 true = true ∧ (slotIllegal s.issue.bt true (s.issue.next - s.issue.pc).toNat (.vadd (vf 5))).isNone ∧
      (next? (exec .stickyReissue s)).map (fun t => (t.me.r.rv 9).toNat % 2 ^ 64) = some 0x0000000300010000) ∧
    (let s := tst 5 { instr := .azero mc0 }
    let s := at_ s fun c => { c with mx := { tm.me.mx with ops := [] } }
    rdyStep s 5 true = true ∧ 1 < s.me.mx.nTiles ∧ (s.me.tile 1).st ≠ .u ∧ (s.me.tile 1).pair ≠ 2 ∧
      (next? (exec .stickyReissue s)).map (fun t => (t.me.mx.ops.map (fun o => o.tiles), (t.me.latch 5).map (fun l => l.acc))) = some ([[1, 2]], some 1)) ∧
    (let s := at_ (tst 6 { instr := .cpy { lc0 with sdsc := 4, qs := 2 }, addrA := 0x200, addrB := 0x100 }) fun c => { c with r := { c.r with q := [(2, 0x1000000020)] } }
    rdyStep s 6 true = true ∧ (s.sc (4 : BitVec 6)).toNat = 0x400 ∧
      (next? (exec .stickyReissue s)).map (fun t => (t.coreAt 0).copies.map (fun o => (o.dst, o.src))) = some [(0x220, 0x110)]) ∧
    (let s := tst 6 { instr := .ld { lm0 with g := 1, data := 9, sz := 3, qs := 1 }, addrA := 0xF8 }
    rdyStep s 6 false = true ∧
      (next? (exec .stickyReissue s)).map (fun t => (t.me.mem.pend.length, (t.me.latch 6).map (fun l => l.addrA))) = some (0, some 0x100)) ∧
    (let s := at_ (tst 5 { instr := .mmas { mx0 with g := 1 } }) fun c => { c with mx := { tm.me.mx with ops := [] } }
    rdyStep s 5 false = true ∧ (next? (exec .stickyReissue s)).map (fun t => t.me.r.mpc) = some (s.me.r.mpc + 8)) := by decide +kernel

/-- A packet of `tagwaitall` on tag 1, which is clear, blocked for a cycle. -/
def tblk : State := (State.reset.withFetchWord 96 0x580000000000000201000100).onCtx 0 fun c =>
  { c with sq := { c.sq with wait := some (0, 0, 0), blocked := 1 }, sys := { c.sys with stvec := 0x2000, swlog := 0 } }

/-- 04 R111, 15 R385: an asynchronous trap ends an idle run; 05 R169, 15 R390: a park makes a change of hands take effect. -/
theorem test_hyp_async_and_hands :
    (let p : Trap := { cls := .async, code := 0x22, detail := 9 }
    let s := { at_ tb fun c => { c with sq := { c.sq with idle := 4 }, sys := { c.sys with asyncs := [p] } } with agenda := [.issue 0] }
    (List.range 4).all (fun i => !s.exitDone i) = true ∧ s.canIssue s.ck = true ∧ s.me.r.sup = false ∧ s.me.sq.replay = [] ∧ s.me.sq.held = none ∧ s.core = 0 ∧
      (next? (step s)).map (fun t => (t.me.sys.scause.toNat % 256, t.me.sq.idle)) = some (0x22, 0)) ∧
    (let s := at_ th fun c => { c with mx := { c.mx with hands := [0, 1], chg := some { n := 1, add := [], after := 0 } }, sq := { c.sq with parkReq := true } }
    s.me.mx.ops = [] ∧ (next? (exec (.contextPark 0) s)).map (fun t => (t.me.st, t.me.mx.hands, t.me.mx.chg)) = some (.parked, [0], none)) := by decide +kernel

/-- 15 R382: a wait past its limit, a pending trap and an asynchronous one of a parked context enter the handler at STVEC with the cause in SCAUSE. -/
theorem test_hyp_traps_of_contexts :
    (tblk.blockedNow 0 = some (0x1A, 0, 8) ∧ (tblk.ctxAt 0).st = .live ∧ (tblk.ctxAt 0).mx.ops = [] ∧
      2 ^ (tblk.ctxAt 0).sys.swlog.toNat ≤ (tblk.ctxAt 0).sq.blocked ∧
      (next? (exec (.waitLimitTrap 0) tblk)).map (fun t => ((t.ctxAt 0).r.pc, (t.ctxAt 0).r.sup, (t.ctxAt 0).sys.scause.toNat % 256)) = some (0x2000, true, 0x1A)) ∧
    (let p : Trap := { cls := .async, code := 0x22, detail := 9 }
    let s := at_ tb fun c => { c with sq := { c.sq with parkReq := true }, sys := { c.sys with asyncs := [p] } }
    s.me.sys.asyncs = [p] ∧ (s.taskAt s.me.task).ended = none ∧ s.me.mx.ops = [] ∧
      (next? (exec (.contextPark 0) s)).map (fun t => (t.me.st, t.me.sys.scause.toNat % 256)) = some (.live, 0x22) ∧
      (next? (exec (.contextPark 0) (at_ tb fun c => { c with sq := { c.sq with parkReq := true } }))).map (fun t => (t.me.st, t.me.sq.parkReq)) = some (.parked, false) ∧
      (next? (exec (.trapEntry 0) (at_ tb fun c => { c with sys := { c.sys with trapPend := some { trap := p, sepc := 7, srepl := 0, replay := [] } } }))).map
        (fun t => (t.me.sys.sepc, t.me.sys.sdetail)) = some (7, 9)) ∧
    (next? (exec (.shadowLatchDeliver 0 0) (at_ tb fun c => { c with sys := { c.sys with shadow := [{ dest := .s false 9, value := 6, offset := 0 }] } }))).map
      (fun t => (t.me.r.rs 9, t.me.sys.shadow.length)) = some (6, 0) := by decide +kernel


/-! ### The dispatcher -/

/-- Words in memory. -/
def words (l : List (Nat × Nat)) : SMap Byte := l.foldl (fun m e => mwrite 0 m e.1 (leBytes 8 e.2)) []

/-- The tables of partition 0's address space 0, which map 1 GB at 0x1000000000000 to 0 (17 R414, R415); a descriptor of one context, one bank and
a share of 16 KB at 0x102000. -/
def tables : List (Nat × Nat) :=
  [(0x10000, 0x11001), (0x11008, 0x12001), (0x12000, 0x13001), (0x13000, 0x1F), (0x102000, 0x1000000000000), (0x102010, 0x901000001), (0x102020, 0x200000002)]

/-- A package with a running queue 0 of partition 0 with one command at 0x100000, and words in memory. -/
def td (l : List (Nat × Nat)) : State :=
  { State.reset with
    mem := { State.reset.mem with bytes := words (tables ++ l) }
    disp := { State.reset.disp with nextTask := 7 }
    mgmt := { State.reset.mgmt with
      win := [(0x1000, 0x220001), (0x1008, 0x1000000100000), (0x1010, 0x1000000101000), (0x1020, 0x100000000), (0x1030, 0x100000000), (0x10000, 1),
        (0x10008, 0x1000000010000), (0x10010, 0x80000000), (0x10018, 0x1000000000), (0x30000, 1)] ++
        [0, 1, 2, 6, 7, 8, 12, 13, 14].map (fun n => (0x30040 + 8 * n, 1)) } }
/-- A LAUNCH of [0, 8) in chunks of 4 with level 1. -/
def launchWords : List (Nat × Nat) := [(0x100000, 0x101), (0x100008, 0x1000000102000), (0x100020, 8), (0x100028, 4)]
@[inherit_doc launchWords]
def tdl : State := td launchWords

theorem test_hyp_commands :
    (tdl.qstate 0 = 1 ∧ (tdl.queueAt 0).walk = none ∧ (tdl.queueAt 0).wait = none ∧ tdl.cmds 0 = 1 ∧
      tdl.readList 0 ((tdl.qreg 0 8).toNat + 64 * (tdl.chead 0 % 2 ^ tdl.qclog 0)) 8 = .ok [0x101, 0x1000000102000, 0, 0, 8, 4, 0, 0] ∧
      tdl.readList 0 0 0 = .ok [] ∧ (tdl.queueAt 0).dealer.guess = none) ∧
      ((tdl.checkLaunch 0 (Launch.ofWords [0x101, 0x1000000102000, 0, 0, 8, 4, 0, 0]) 0 0 (.ok []) none).toOption.isSome = true) := by decide +kernel

/-- 16 R401, R402: the task of the launch, a launch without chunks rejected with its reason, a graph's walk, and queue errors 2 and 3. -/
theorem test_commands :
    (next? (exec (.launch 0) tdl)).map (fun t => ((t.taskAt 7).id, (t.taskAt 7).l.hi, (t.queueAt 0).wait, t.chead 0)) = some (7, 8, some 7, 1) ∧
      (next? (exec (.launch 0) (td [(0x100000, 0x101), (0x100008, 0x1000000102000), (0x100020, 8)]))).map
        (fun t => ((t.queueAt 0).recs.map (fun r => (r.words.getD 0 0).toNat % 65536), t.qstate 0)) = some ([0x202], 2) ∧
      (next? (exec (.launch 0) (td [(0x100000, 0x101), (0x100008, 0x1000000102008), (0x100020, 8)]))).map
        (fun t => ((t.queueAt 0).recs.map (fun r => (r.words.getD 0 0).toNat % 65536), t.qstate 0)) = some ([0x102], 2) ∧
      (next? (exec (.graph 0) (td [(0x100000, 2), (0x100008, 0x1000000104000), (0x100010, 2)]))).map
        (fun t => (t.queueAt 0).walk.map (fun w => (w.base, w.count, w.node))) = some (some (0x1000000104000, 2, 0)) ∧
      (next? (exec (.graph 0) (td [(0x100000, 2), (0x100008, 0x1000000104000), (0x100010, 0xFFFFFFFF00000002)]))).map
        (fun t => ((t.queueAt 0).walk.isSome, t.chead 0)) = some (false, 1) ∧
      (next? (exec (.unassignedCmd 0) (td [(0x100000, 9)]))).map (fun t => (t.qstate 0, (t.qreg 0 0x30).toNat / 2 ^ 40 % 256)) = some (2, 2) ∧
      (next? (exec (.unassignedCmd 0) (tdl.setQreg 0 0x20 0x500000000))).map (fun t => (t.qstate 0, (t.qreg 0 0x30).toNat / 2 ^ 40 % 256)) = some (2, 3) := by
  decide +kernel


/-- The walk of queue 0 at node 0 of a graph of two nodes at 0x103000, whose words are given; a launch record at 0x104000. -/
def tg (w : Walk) (node : List Nat) : State :=
  (td ([(0x104000, 0x101), (0x104008, 0x1000000102000), (0x104020, 8), (0x104028, 4), (0x105000, 6)] ++
    node.zipIdx.map (fun e => (0x103000 + 8 * e.2, e.1)))).onQueue 0 fun u => { u with walk := some w }
@[inherit_doc tg]
def w0 : Walk := { id := 1, base := 0x1000000103000, count := 2, node := 0 }

/-- The nodes of the tests: TASK, COND, WHILE with at most 3 turns, CALSTEP of two entries, RERUN. -/
def nTask : List Nat := [0x100000000, 0x1000000104000]
@[inherit_doc nTask]
def nCond : List Nat := [1, 0x1000000105000, 0xFFFFFFFF00000001]
@[inherit_doc nTask]
def nWhile (a : Nat) : List Nat := [0x100000002, a, 0x300000000]
@[inherit_doc nTask]
def nCal : List Nat := [0x100000003, 0x10000]
@[inherit_doc nTask]
def nRerun : List Nat := [0x100000004, 0, 0x100000001]

/-- A state is at a node of a kind that may be acted on. -/
def atKind (s : State) (kind : Nat) : Bool :=
  match s.atNode 0 with
  | some (w, .ok n) => n.kind == kind && decide (w.node < w.count) && (n.reason w.count).isNone && w.rerun.isNone
  | _ => false
/-- A walk stopped with a reason. -/
def stopped (o : Out State) (r : Nat) : Bool :=
  (next? o).map (fun t => ((t.queueAt 0).walk.isSome, (t.queueAt 0).recs.map (fun x => (x.words.getD 0 0).toNat % 65536), t.qstate 0)) == some (false, [256 * r + 3], 2)

theorem test_hyp_graphs :
    atKind (tg w0 nTask) 0 = true ∧ atKind (tg w0 nCond) 1 = true ∧ atKind (tg w0 (nWhile 0x1000000105000)) 2 = true ∧ atKind (tg w0 nCal) 3 = true ∧
      atKind (tg w0 nRerun) 4 = true ∧ (tg w0 nCal).walkTasks w0 = [] ∧ (tg w0 nCond).wordFree w0 0x1000000105000 = true ∧
      (tg w0 nTask).readList 0 0x1000000104000 8 = .ok [0x101, 0x1000000102000, 0, 0, 8, 4, 0, 0] ∧
      ((tg w0 nTask).checkLaunch 0 (Launch.ofWords [0x101, 0x1000000102000, 0, 0, 8, 4, 0, 0]) 0 0 (.ok []) none).toOption.isSome = true ∧
      (tg w0 nCond).readList 0 0x1000000105000 1 = .ok [6] ∧ (tg w0 nCond).readList 0 0x1000000105008 1 = .ok [0] ∧
      ((tg w0 nRerun).entry 0).rerun = false := by decide +kernel

/-- 02 R57, R61: what each node does to the walk, and the reasons of nodes that stop it. -/
theorem test_graphs :
    (next? (exec (.nodeTask 0) (tg w0 nTask))).map (fun t => (t.queueAt 0).walk.map (fun w => (w.task, w.next))) = some (some (some 7, 1)) ∧
      stopped (exec (.nodeTask 0) (tg w0 [0x100000000, 0x2000000104000])) 21 = true ∧
      (next? (exec (.nodeCond 0) (tg w0 nCond))).map (fun t => (t.queueAt 0).walk.map (fun w => w.node)) = some (some 1) ∧
      (next? (exec (.nodeWhile 0) (tg w0 (nWhile 0x1000000105008)))).map (fun t => (t.queueAt 0).walk.map (fun w => (w.node, w.loops))) = some (some (1, [])) ∧
      (next? (exec (.nodeWhile 0) (tg w0 (nWhile 0x1000000105000)))).map (fun t => (t.queueAt 0).walk.map (fun w => (w.node, w.loops))) = some (some (0, [(0, 1)])) ∧
      stopped (exec (.nodeWhile 0) (tg { w0 with loops := [(0, 3)] } (nWhile 0x1000000105000))) 16 = true ∧
      (next? (exec (.nodeCalstep 0) (tg w0 nCal))).map (fun t => ((t.queueAt 0).walk.map (fun w => w.calNext), t.hub.stepCount)) = some (some (some 1), 1) ∧
      (next? (exec (.nodeRerun 0) (tg w0 nRerun))).map (fun t => (t.queueAt 0).walk.map (fun w => w.node)) = some (some 1) := by decide +kernel

/-- A node with a reserved bit; a walk whose node cannot be read; an entry that asks for a re-run. -/
theorem test_graph_stops :
    stopped (exec (.nodeCond 0) (tg w0 [0x1001, 0x1000000105000, 0xFFFFFFFF00000001])) 17 = true ∧
      stopped (exec (.nodeTask 0) (tg { w0 with base := 0x2000000103000 } nTask)) 21 = true ∧
      (let s := tg w0 nRerun
      let s := { s with hub := { s.hub with cal := [(0, 0x14000000)] } }
      (s.entry 0).rerun = true ∧
        (next? (exec (.nodeRerun 0) s)).map (fun t => (t.queueAt 0).walk.map (fun w => (w.node, w.rerun))) = some (some (1, some (1, 1)))) := by decide +kernel


/-- 10 R315: nodes that name an entry outside the partition stop the walk with a record of KIND 1 and the Calender-access code. -/
theorem test_graph_entries :
    (List.range 16).all (fun e => tdl.ownsEntry 0 e) = true ∧ tdl.ownsEntry 0 16 = false ∧
      atKind (tg w0 [0x100000004, 16, 0x100000001]) 4 = true ∧ atKind (tg w0 [0x100000003, 0x3000E]) 3 = true ∧
      [exec (.nodeRerun 0) (tg w0 [0x100000004, 16, 0x100000001]), exec (.nodeCalstep 0) (tg w0 [0x100000003, 0x3000E])].all
        (fun o => (next? o).map (fun t => ((t.queueAt 0).walk.isSome, (t.queueAt 0).recs.map (fun x => (x.words.getD 0 0).toNat % 65536), t.qstate 0)) ==
          some (false, [0x2E01], 2)) = true ∧
      (let s := tg w0 nRerun
      let s := { s with hub := { s.hub with cal := [(0, 0x14000000)] } }
      (next? (exec (.nodeRerun 0) s)).map (fun t => (t.queueAt 0).walk.map (fun w => w.calWait)) = some (some true)) := by decide +kernel

/-- Task 7 of queue 0, a launch of [0, 8) in chunks of 4 with level 1 that is ready, changed by a function. -/
def tk (f : Task → Task) : State :=
  { tdl with disp := { tdl.disp with tasks := [(7, f { id := 7, q := 0, st := .live, order := 1, l := { lo := 0, hi := 8, grain := 4, glev := 1 }
                                                       desc := [0x1000000000000, 0, 0x901000001, 0, 0x200000002, 0, 0, 0] })] } }

theorem test_hyp_tasks :
    (let s := (tk fun x => { x with st := .waiting }).onQueue 0 fun u => { u with wait := some 7 }
    s.qhome 0 = 0 ∧ (s.queueAt 0).walk = none ∧ (List.range 256).all (fun p => p == 0 || (s.queueAt p).wait.isNone) = true ∧
      s.entriesUsed 0 + (s.taskAt 7).entries ≤ 1024 ∧
      (next? (exec (.taskAdmit 0) s)).map (fun t => ((t.taskAt 7).st, (t.queueAt 0).wait)) = some (.live, none)) ∧
    (let s := (tk fun x => { x with st := .waiting }).onQueue 0 fun u => { u with wait := some 7, walk := some { w0 with task := some 7, next := 1 } }
    (next? (exec (.taskAdmit 0) s)).map (fun t => (t.queueAt 0).walk.map (fun w => (w.node, w.task))) = some (some (1, none))) ∧
    (let s := tk fun x => { x with age := 0x100000 }
    s.ready (s.taskAt 7) = true ∧ s.effPrio (s.taskAt 7) = 0 ∧ (s.taskAt 7).up < (s.taskAt 7).age / 2 ^ 20 ∧
      (next? (exec (.priorityAge 7) s)).map (fun t => t.effPrio (t.taskAt 7)) = some 1) ∧
    (let s := tk fun x => { x with age := 0x400000, up := 3 }
    s.wantsGroup (s.taskAt 7) = true ∧ s.effPrio (s.taskAt 7) = 3 ∧ (4 - min (s.taskAt 7).l.prio.toNat (s.qpmax 0)) * 2 ^ 20 ≤ (s.taskAt 7).age ∧ (next? (exec (.starvationHold 7) s)).map (fun t => (t.taskAt 7).hold) = some 1) ∧
    (let s := tk fun x => { x with l := { x.l with gang := 5 }, placed := true }
    let s := { s with hub := { s.hub with time := 5 } }
    (next? (exec (.gangStart 7) s)).map (fun t => (t.taskAt 7).started) = some true) := by decide +kernel

/-- 02 R42, R46, R47: the group takes slot 0 of core 0, whose context starts at the descriptor's address with the chunks up to 4 of [0, 8). -/
theorem test_group_place :
    ((tk id).placeReason ((tk id).taskAt 7) = none ∧ (tk id).placeOk ((tk id).taskAt 7) [0] = true ∧ ((tk id).freeSlots 0).head? = some 0 ∧
      (tk id).allTasks.all (fun u => !(tk id).stepDue u && !(tk id).before u ((tk id).taskAt 7)) = true ∧ ((tk id).taskAt 7).tracked = [] ∧ (tk id).disp.resvs = []) ∧
      (next? (exec (.groupPlace 7 [0]) (tk id))).map (fun t => ((t.ctxAt 0).st, (t.ctxAt 0).r.pc, (t.ctxAt 0).r.rd 0, (t.ctxAt 0).r.rd 1, (t.ctxAt 0).r.rd 2)) =
        some (.live, 0x1000000000000, 0, 4, 7) := by decide +kernel

/-- 02 R41, R54, R62: a task whose format entry is not there is rejected at its placement; a task completes, or ends with its record. -/
theorem test_tasks_end :
    (let s := tk fun x => { x with desc := [0x1000000000000, 0, 0x901000001, 0x5, 0x200000002, 0, 0, 0] }
    s.placeReason (s.taskAt 7) = some 6 ∧ (next? (exec (.groupPlace 7 [0]) s)).map (fun t => ((t.taskAt 7).ended, t.qstate 0)) = some (some [], 2)) ∧
    (let s := tk fun x => { x with desc := [0x1000000000000, 0, 0x901000001, 0x10140000, 0x200000002, 0, 0, 0] }
    (s.taskAt 7).tracked = [20] ∧ s.ownsEntry (s.qpart 0) 20 = false ∧
      (next? (exec (.groupPlace 7 [0]) s)).map (fun t => ((t.taskAt 7).ended, (t.queueAt 0).recs.map (fun r => (r.words.getD 0 0).toNat % 65536))) = some (some [], [0x2E01])) ∧
    (let s := tk fun x => { x with placed := true }
    s.taskDone (s.taskAt 7) = true ∧
      (next? (exec (.taskComplete 7) s)).map (fun t => ((mfind t.disp.tasks 7).isSome, (t.queueAt 0).recs.map (fun r => r.words.getD 1 0))) = some (false, [7])) ∧
    (let s := tk fun x => { x with placed := true, ended := some [1, 7] }
    s.drained 7 = true ∧ (next? (exec (.taskEnd 7) s)).map (fun t => ((t.taskAt 7).stopped, (t.queueAt 0).recs.map (fun r => r.words))) = some (true, [[1, 7]]) ∧
      (next? (exec (.taskEnd 7) (tk fun x => { x with placed := true, ended := some [] }))).map (fun t => ((mfind t.disp.tasks 7).isSome, (t.queueAt 0).recs.length)) = some (false, 0) ∧
      (next? (exec (.taskEnd 7) (s.setQstate 0 3))).map (fun t => ((mfind t.disp.tasks 7).isSome, (t.queueAt 0).recs.length)) = some (false, 0)) := by decide +kernel

/-- 16 R400: a record reaches the ring at 0x101000; a ring that does not translate stops the queue with error 5. -/
theorem test_record_write :
    (let s := tdl.onQueue 0 fun u => { u with recs := [{ words := [0xAB, 7, 0, 0, 0, 0, 0, 0] }] }
    (s.qreg 0 0).getLsbD 0 = true ∧ s.qstate 0 = 1 ∧ s.mgmt.pfe = false ∧ s.qrlog 0 = 2 ∧ s.qreg 0 0x28 = 0 ∧ s.bad 0x101000 = false ∧
      s.walk 0 0 0x1000000101000 = .ok { part := 0, asid := 0, vbase := 262144, bits := 30, pa := 0, key := 0, flags := 31 } ∧
      s.pageCheck 0 0x1000000101000 true .w { part := 0, asid := 0, vbase := 262144, bits := 30, pa := 0, key := 0, flags := 31 } =
        .ok { pa := 0x101000, key := 0, flags := 31 } ∧
      (next? (exec (.recordWrite 0) s)).map (fun t => (t.byteAt 0x101000 0, t.byteAt 0x101008 0, (t.qreg 0 0x28).toNat % 2 ^ 32)) = some (0xAB, 7, 1) ∧
      s.walk 0 0 0x1000040000000 = .err (.absent 2) ∧
      (next? (exec (.recordWrite 0) (s.setQreg 0 0x10 0x1000040000000))).map (fun t => (t.qstate 0, (t.qreg 0 0x30).toNat / 2 ^ 40 % 256)) = some (2, 5)) := by decide +kernel


/-! ### The Dealer -/

/-- The launch that queue 0 has made three times, of a descriptor that allows guesses. -/
def lg : Launch := { desc := 0x1000000102000, lo := 0, hi := 8, grain := 4, glev := 1 }
/-- A queue without commands that may guess it, on a die with one guess. -/
def tgs : State :=
  let s := (td [(0x102018, 0x40000000000000)]).onQueue 0 fun u => { u with dealer := { u.dealer with hist := [lg, lg, lg], histSpec := [true, true, true] } }
  (((s.setQreg 0 0x20 0).setQreg 0 0x40 0x100004).setWin 0x20 0x11)
/-- Guess 7 of queue 0 with a Kitty byte of line 8, matched by a launch, changed by functions. -/
def tgm (f : Dealer → Dealer) : State :=
  let s := (tk fun x => { x with guess := true, placed := true }).onQueue 0 fun u => { u with
    dealer := f { u.dealer with guess := some 7, matched := some lg, kbud := 4, kitty := [(8, [(3, 0x5A)])], kkeys := [], reads := [(9, 2)] } }
  { s with disp := { s.disp with nextTask := 8 } }

theorem test_hyp_guess_start :
    tgs.mayGuess 0 = true ∧ (tgs.queueAt 0).dealer.predict = some lg ∧
      (tgs.checkLaunch 0 lg 0 0 (.ok []) (some [])).toOption.any (fun c => (c.desc.getD 3 0).getLsbD 54 && decide (c.l = lg)) = true ∧
      tgs.wanted [0] = false ∧ tgs.disp.resvs = [] ∧
      (next? (exec (.guessStart 0 [0]) tgs)).map (fun t => ((t.queueAt 0).dealer.guess, (t.taskAt 7).placed, (t.ctxAt 0).task)) = some (some 7, true, 7) := by
  decide +kernel

/-- 11 R344, R346: an event drops a guess; a claim commits the Kitty's byte, or fails where a line it read was written since. -/
theorem test_hyp_guess_end :
    (let s := (tgm fun d => { d with matched := none }).setQreg 0 0x30 0x200000000
    s.dropCause 0 = some 13 ∧ (next? (exec (.guessDrop 0 13) s)).map (fun t => ((t.queueAt 0).dealer.guess, (t.queueAt 0).dealer.last, t.byteAt 0x203 0)) = some (none, 13, 0)) ∧
    (let s := tgm id
    s.ready (s.taskAt 7) = true ∧ s.guessBusy 7 = false ∧ s.ctxsOf 7 = [] ∧ s.dropCause 0 = none ∧ s.mgmt.pfe = false ∧
      msorted none (s.queueAt 0).dealer.kitty = true ∧ mget 0 s.mem.wts 9 = 0 ∧
      (next? (exec (.guessClaim 0) s)).map (fun t => (t.byteAt 0x203 0, (t.taskAt 7).guess, (t.queueAt 0).dealer.claimed)) = some (0x5A, false, 1)) ∧
    (let s := tgm id
    let s := { s with mem := { s.mem with wts := [(9, 3)] } }
    s.dropCause 0 = none ∧
      (next? (exec (.guessClaim 0) s)).map (fun t => (t.byteAt 0x203 0, (t.taskAt 8).l.hi, (t.queueAt 0).dealer.last)) = some (0, 8, 36)) ∧
    (let s := (tgm id).onCtx 0 fun c => { c with st := .live, task := 7, mx := { c.mx with ops := [mop (.azero mc0) false] } }
    s.ready (s.taskAt 7) = true ∧ s.guessBusy 7 = true ∧ (next? (exec (.guessClaim 0) s)).map (fun t => (t.queueAt 0).dealer.claiming) = some true) := by decide +kernel


/-! ### Pre-emption -/

/-- PRCTL names the task of the test context, which is in a state; the management window is that of the dispatcher's tests. -/
def tp (st : TaskSt) (f : Ctx → Ctx) : State :=
  let s := at_ tb f
  { s with
    mgmt := { s.mgmt with win := mput tdl.mgmt.win 0x40 1 }
    disp := { s.disp with tasks := [(1, { s.taskAt 1 with st := st, l := { s.taskAt 1 |>.l with glev := 1 } })] } }
/-- A request under way: eviction, or the return of an evicted task without or with one saved reservation. -/
def tpr (s : State) (op : Nat) (f : Task → Task) : State :=
  { s with
    mgmt := { s.mgmt with pre := some { op := op, task := 1, save := 0x2000000000000 } }
    disp := { s.disp with tasks := [(1, f (s.taskAt 1))] } }
@[inherit_doc tpr]
def sv0 : Saved := { core := 0, group := 0, slots := [0], hands := [0], nums := [0] }

/-- 16 R406 to R408: the codes of PRSTAT, the park mark, and the states of the task and its context. -/
theorem test_hyp_preemption :
    (tb.mgmt.pre = none ∧ tb.preTask = none ∧ (next? (exec .prctlPark tb)).map (fun t => t.win 0x58) = some 1 ∧
      (next? (exec .prctlEvict tb)).map (fun t => t.win 0x58) = some 1 ∧ (next? (exec .prctlResume tb)).map (fun t => t.win 0x58) = some 1) ∧
    (let s := tp .live id
    s.mgmt.pre = none ∧ s.preTask = some (s.taskAt 1) ∧ s.me.st = .live ∧ s.me.task = 1 ∧ (s.ctxsOf 1).map (fun e => e.1) = [0] ∧
      (next? (exec .prctlPark s)).map (fun t => ((t.taskAt 1).st, t.me.sq.parkReq, t.win 0x58)) = some (.parked, true, 0x100)) ∧
    (let s := tp .parked fun c => { c with st := .parked }
    s.preTask = some (s.taskAt 1) ∧ (s.taskAt 1).l.gang = 0 ∧ (s.taskAt 1).df 2 38 2 = 0 ∧
      (next? (exec .prctlEvict s)).map (fun t => (t.mgmt.pre.map (fun p => p.op), t.win 0x58)) = some (some 1, 0x100) ∧
      (next? (exec .prctlResume s)).map (fun t => ((t.taskAt 1).st, t.me.st, t.win 0x58)) = some (.live, .live, 0)) ∧
    (let s := tp .parked fun c => { c with st := .parked }
    let s := { s with disp := { s.disp with tasks := [(1, { s.taskAt 1 with l := { (s.taskAt 1).l with gang := 4 } })] } }
    s.preTask = some (s.taskAt 1) ∧ (next? (exec .prctlEvict s)).map (fun t => (t.mgmt.pre.isSome, t.win 0x58)) = some (false, 3)) ∧
    (let s := tp .evicted id
    s.preTask = some (s.taskAt 1) ∧ (next? (exec .prctlResume s)).map (fun t => (t.mgmt.pre.map (fun p => p.op), t.win 0x58)) = some (some 2, 0x100)) := by decide +kernel

/-- 16 R407 to R409: a task without reservations is evicted and returns; a save area that does not translate gives code 4. -/
theorem test_hyp_evict_and_restore :
    (let s := tpr { tp .parked id with ctxs := [], disp := { (tp .parked id).disp with resvs := [] } } 1 id
    s.ctxsOf 1 = [] ∧ s.resvOrder 1 = [] ∧ (next? (exec .evictSave s)).map (fun t => ((t.taskAt 1).st, t.win 0x58)) = some (.evicted, 0)) ∧
    (let s := tpr (tp .parked fun c => { c with st := .parked }) 1 id
    s.me.mem.pend = [] ∧ s.me.mem.recs = 0 ∧ s.me.mx.ops = [] ∧ s.copiesOf 0 = [] ∧ (s.resvOrder 1).length = 1 ∧
      (State.dmaStore 0 0 ((s.resvOrder 1).zipIdx.flatMap (fun e => s.saveBlocks e.1.2 (0x2000000000000 + saveStride * e.2))) s).isNone = true ∧
      (next? (exec .evictSave s)).map (fun t => ((t.taskAt 1).st, t.win 0x58)) = some (.parked, 4)) ∧
    (let s := tpr { tp .evicted id with ctxs := [], disp := { (tp .evicted id).disp with resvs := [] } } 2 id
    (s.taskAt 1).images = [] ∧ s.allTasks.all (fun u => !s.before u (s.taskAt 1)) = true ∧
      (next? (exec (.resumeRestore []) s)).map (fun t => ((t.taskAt 1).st, t.win 0x58)) = some (.live, 0)) ∧
    (let s := tpr { tp .evicted id with ctxs := [], disp := { (tp .evicted id).disp with resvs := [] } } 2 fun x => { x with images := [sv0], saveAt := 0x2000000000000, desc := [0, 0, 0x901000001, 0, 0, 0, 0, 0] }
    s.savedFits (s.taskAt 1) sv0 0 = true ∧ unitsKept 1 [(sv0, 0)] = true ∧
      (match State.restoreAll (s.taskAt 1) 0x2000000000000 [((sv0, 0), 0)] s with | .fault => true | _ => false) = true ∧
      (next? (exec (.resumeRestore [0]) s)).map (fun t => (t.mgmt.pre.isSome, t.win 0x58)) = some (false, 4)) := by decide +kernel

/-! ### Translation faults -/

/-- A context held for a fault on the page at 0x1000040000000 of address space 0, with or without a posted entry. -/
def hld (id : Option Nat) : Held :=
  { trap := { cls := .slot, code := 0x20, detail := 0x1000040000008 }, part := 0, die := 0, asid := 0, va := 0x1000040000008, level := 2, access := 1, id := id }
/-- Its fault queue has sixteen entries of 64 bytes at 0x106000; the queue is on. -/
def tfq (id : Option Nat) : State :=
  let s := at_ tb fun c => { c with sq := { c.sq with held := some (hld id) }, sys := { c.sys with stvec := 0x2000 } }
  { s with
    mem := { s.mem with bytes := words tables }
    mgmt := { s.mgmt with win := mput (mput tdl.mgmt.win 0x10100 0x106000) 0x10108 0x40001 } }
@[inherit_doc tfq]
def fqe : FqEnt := { part := 0, die := 0, id := 3, asid := 0, page := 0x1000040000, slot := 0, joined := 1 }

theorem test_hyp_translation_faults :
    (nearest (mget [] (td []).walks 5) 0 0 0x1000000001234 = none ∧ (td []).open_ 0 0 0x106000 64 = true ∧
      (td []).walkAt 5 0 0 0x1000000001234 = (td []).walkAll 0 0 0x1000000001234 ∧ ((td []).walkAt 5 0 0 0x1000000001234).res = .ok { part := 0, asid := 0, vbase := 262144, bits := 30, pa := 0, key := 0, flags := 31 } ∧
      (next? (exec (.pageWalk 5 0 0 0x1000000001234) (td []))).map (fun t => ((mget [] t.slices 5).length, (mget [] t.walks 5).length)) = some (1, 2) ∧
      ((td []).walkAt 5 0 0 0x1000040000008).res = .err (.absent 2)) ∧
    (let s := tfq none
    s.me.st = .live ∧ s.fq = [] ∧ s.part 0 0x108 = 0x40001 ∧ s.part 0 0x110 = 0 ∧ s.mgmt.pfe = false ∧
      (next? (exec (.faultPost 0) s)).map (fun t => (t.me.sq.held.map (fun h => h.id), t.fq.map (fun e => (e.slot, e.page)), t.phys8 0x106008 0)) =
        some (some (some 0), [(0, 0x1000040000)], 0x1000040000008)) ∧
    (let s := { tfq none with fq := [fqe] }
    (next? (exec (.faultPost 0) s)).map (fun t => (t.me.sq.held.map (fun h => h.id), t.fq.map (fun e => e.joined))) = some (some (some 3), [2])) ∧
    (let s := (tfq none).setWin 0x10108 0x40000
    s.me.mx.ops = [] ∧ s.guessOf s.me = none ∧ (next? (exec (.faultPost 0) s)).map (fun t => (t.me.r.pc, t.me.sys.sdetail)) = some (0x2000, 0x1000040000008)) ∧
    (let s := { tfq (some 3) with fq := [fqe] }
    s.joinedTo 0 0 3 = [(.ctx 0, hld (some 3))] ∧ (next? (exec (.verdictResolve 0 0 3) s)).map (fun t => (t.me.sq.held.isSome, t.fq.length)) = some (false, 0) ∧
      (next? (exec (.verdictRefuse 0 0 3) s)).map (fun t => (t.me.r.pc, t.me.r.sup)) = some (0x2000, true)) := by decide +kernel


/-! ### The management window -/

/-- A register of the management window after an instruction. -/
def wAfter (o : Out State) (a : Nat) : Option W64 := (next? o).map (fun t => t.win a)
/-- STATE and ERR of queue `q` after an instruction. -/
def qAfter (o : Out State) (q : Nat) : Option (Nat × Nat) := (next? o).map (fun t => (t.qstate q, (t.qreg q 0x30).toNat / 2 ^ 40 % 256))
/-- Queues 0 to 255 belong to partition 0. -/
def tmg : State := tdl.setWin 0x10028 0xFF00

theorem test_hyp_queue_registers :
    qAfter (exec (.qcfgEnSet 1 0x440001) tmg) 1 = some (1, 0) ∧ qAfter (exec (.qcfgEnSet 1 0x330001) tmg) 1 = some (0, 1) ∧ (tmg.qreg 0 0).getLsbD 0 = true ∧
      tmg.allTasks = [] ∧ (tmg.queueAt 0).dealer.guess = none ∧ tmg.mgmt.pre = none ∧ qAfter (exec (.qcfgEnClear 0 0) tmg) 0 = some (0, 0) ∧
      qAfter (exec (.qctlReset 0) tmg) 0 = some (1, 0) ∧ qAfter (exec (.qctlRestart 0) (tmg.setQstate 0 2)) 0 = some (1, 0) := by decide +kernel

theorem test_hyp_queue_resets_with_tasks :
    (let s := tk id
    mfind s.disp.tasks 7 = some (s.taskAt 7) ∧ (s.taskAt 7).order = 1 ∧ (s.taskAt 7).stopped = false ∧ msorted none s.disp.tasks = true ∧
      (next? (exec (.qctlReset 0) s)).map (fun t => (t.qstate 0, (t.taskAt 7).ended)) = some (3, some [])) ∧
    (let s := (tk fun x => { x with stopped := true, ended := some [] }).setQstate 0 2
    mfind s.disp.tasks 7 = some (s.taskAt 7) ∧ (s.queueAt 0).dealer.guess = none ∧
      (next? (exec (.qctlRestart 0) s)).map (fun t => (t.qstate 0, (mfind t.disp.tasks 7).isSome)) = some (1, false)) ∧
    (let s := tgm fun d => { d with matched := none }
    (next? (exec (.qspecWrite 0 0) s)).map (fun t => ((t.queueAt 0).dealer.guess, (t.queueAt 0).dealer.last)) = some (none, 16)) ∧
    wAfter (exec (.qspecWrite 0 0xFFF00004) tmg) 0x1040 = some 0x100004 ∧ msorted none tmg.disp.queues = true ∧ wAfter (exec (.dlrcfgWrite 0 0xFF) tmg) 0x20 = some 0x1F := by
  decide +kernel

/-- Entry 0 of the reams: a frame of 2 MB at 0x200000 with a pool of 4 MB at 0x400000. -/
def trm : State := ((tmg.setWin 0x10808 1).setWin 0x10810 0x400000).setWin 0x10818 0x400

theorem test_hyp_reams_and_keys :
    ((trm.setWin 0x10800 0x200000).reamOk 0 0 = true ∧ (trm.win 0x10800).getLsbD 63 = false ∧
      wAfter (exec (.reamValidSet 0 0 0x8000000000200000) trm) 0x10800 = some 0x8000000000200000 ∧
      (tmg.setWin 0x10800 0x200000).reamOk 0 0 = false ∧ wAfter (exec (.reamValidSet 0 0 0x8000000000200000) tmg) 0x10800 = some 0x2000000000200000) ∧
    (let s := { trm.setWin 0x10800 0x8000000000200000 with mem := { trm.mem with reams := [(0, {})] } }
    mfind s.mem.reams 0 = some {} ∧ (next? (exec (.reamReady 0 0) s)).map (fun t => (mfind t.mem.reams 0).map (fun m => m.ready)) = some (some true) ∧
      (next? (exec (.reamValidClear 0 0 0) s)).map (fun t => (mfind t.mem.reams 0).isSome) = some false) ∧
    msorted none tmg.mem.wkey = true ∧ (next? (exec (.keySlotWrite 0x20048 0x1234) tmg)).map (fun t => mget 0 t.mgmt.keys 0x48) = some 0x34 ∧
    (let s := (tmg.setWin 0x30280 0x20000).setWin 0x30498 0x20000
    s.winAdmits 17 0x60000 = true ∧ s.winAdmits 17 0x30010 = true ∧ (tmg.setWin 0x30280 0).winAdmits 17 0x60000 = false ∧
      (next? (exec (.registerWrite 0x60000 0x77) s)).map (fun t => mget 0 t.hub.mail 0) = some 0x77 ∧ wAfter (exec (.registerWrite 0x30010 0xFFFFF) s) 0x30010 = some 0x7FFFF) := by
  decide +kernel

/-! ### Calender and Couch events -/

/-- 10 R317, R320, R324: a preset's rungs, a clear, the window, and a record's count and sum in FP64 (1 + 1 = 2). -/
theorem test_hyp_calender_events :
    (next? (exec (.calenderPreset 3 1) tdl)).map (fun t => ((t.entry 3).valid, (t.entry 3).getD 1 0)) = some (true, 5) ∧
      (let s := { tdl with hub := { tdl.hub with cal := [(0, 0x10000000), (12, 4), (13, 0x3FF0000000000000)], recs := [{ ctx := 0, entry := 0, words := [1, 0x3FF0000000000000] }] } }
      (next? (exec (.calenderClr 0) s)).map (fun t => ((t.entry 0).getD 12 0, (t.entry 0).getD 0 0)) = some (0, 0x10000000) ∧ (s.entry 0).valid = true ∧
        (next? (exec (.statsRecordAdd 0) s)).map (fun t => ((t.entry 0).getD 12 0, (t.entry 0).getD 13 0, t.hub.recs.length)) = some (5, 0x4000000000000000, 0)) ∧
      (tdl.entry 1).valid = false ∧ (next? (exec (.calenderWindowWrite 1 9 0x55) tdl)).map (fun t => (t.entry 1).getD 9 0) = some 0x55 ∧
      (let s := { tdl with hub := { tdl.hub with recs := [{ ctx := 0, entry := 1, words := [1] }] } }
      (next? (exec (.statsRecordAdd 0) s)).map (fun t => t.hub.recs.length) = some 0) := by decide +kernel

/-- A tile at 0x200000 whose tag, at 0x300000 + 16 × 0x200, says format 5 and 256 elements, and a job on it. -/
def tco (tag : Nat) (target : Nat) : State :=
  let s := (td [(0x302000, tag)]).setWin 0x18000 0x300000
  { s with hub := { s.hub with couch := [(0, { job := some (0x200, target, 0, 1) })] } }

theorem test_hyp_couch_events :
    (let s := { tdl with hub := { tdl.hub with couch := [(0, { queue := [0x200] })] } }
    (next? (exec (.couchJobStart 0) s)).map (fun t => (mget {} t.hub.couch 0).job.map (fun j => j.1)) = some (some 0x200)) ∧
    (let s := tco 0x80000000005 6
    (mget {} s.hub.couch 0).job = some (0x200, 6, 0, 1) ∧ s.tagAddr 0x200000 = 0x302000 ∧ s.mgmt.pfe = false ∧
      (match s.jobResult 0x200 6 0 with | .inl _ => true | _ => false) = true ∧
      (next? (exec (.couchJobComplete 0) s)).map (fun t => (mget {} t.hub.couch 0).job.isSome) = some false) ∧
    (let s := tco 0 6
    s.jobResult 0x200 6 0 = .inr 10 ∧ s.cores = [] ∧ (next? (exec (.couchJobFail 0) s)).map (fun t => (mget {} t.hub.couch 0).count) = some 1) := by decide +kernel


/-! ### The platform -/

/-- A request frame of session 0 with number 0. -/
def fr (op addr len : Nat) (data : List Byte) : Frame :=
  { fcs := true, op := BitVec.ofNat 8 op, status := 0, session := 0, zero3 := 0, seq := 0, addr := BitVec.ofNat 64 addr, len := BitVec.ofNat 32 len
    keyid := 0, zero22 := 0, data := data }
/-- The package is ready, and the port may reach memory and the registers of the H-die. -/
def tpo : State :=
  let s := ((td []).setWin 0x30000 0x101).setWin 0x304A0 0x100
  let s := [0, 1, 2, 6, 7, 8, 12, 13, 14].foldl (fun (s : State) n => s.setWin (0x30040 + 8 * n) 0x101) s
  { s with mgmt := { s.mgmt with ready := true } }
/-- The last reply: its status and its data. -/
def reply (o : Out State) : Option (Nat × List Byte) := (next? o).bind fun t => t.mgmt.replies.getLast?.map fun r => (r.status.toNat, r.data)

/-- 18 R433: reads and writes of registers and memory, and the statuses of those denied. -/
theorem test_hyp_port_requests :
    [fr 1 0x40080 8 [], fr 2 0x40080 8 [1, 2, 0, 0, 0, 0, 0, 0], fr 3 0x12000 8 [], fr 4 0x500000 8 [1, 2, 3, 4, 5, 6, 7, 8]].all
        (fun f => f.fcs && decide (tpo.portSays f = .perform) && !frameBad f && decide (f.seq = (tpo.sessionOf f).exp)) = true ∧
      tpo.winAdmits 8 0x40080 = true ∧ (tpo.winRead 0x40080).2.isSome = true ∧ (tpo.winWrite 0x40080 0x201).isSome = true ∧
      ((tpo.setWin 0x304A0 0).winAdmits 8 0x40080 = false ∧ (reply (exec (.windowRead (fr 1 0x40080 8 [])) (tpo.setWin 0x304A0 0)) = some (1, [])) ∧
        reply (exec (.windowWrite (fr 2 0x40080 8 [1, 2, 0, 0, 0, 0, 0, 0])) (tpo.setWin 0x304A0 0)) = some (1, [])) ∧
      reply (exec (.windowWrite (fr 2 0x40080 8 [1, 2, 0, 0, 0, 0, 0, 0])) tpo) = some (0, []) := by decide +kernel

theorem test_hyp_port_memory :
    (tpo.memHeld (fr 3 0x12000 8 []) = false ∧ tpo.memDenied (fr 3 0x12000 8 []) = 0 ∧
      reply (exec (.memoryRead (fr 3 0x12000 8 [])) tpo) = some (0, [1, 0x30, 1, 0, 0, 0, 0, 0])) ∧
      (next? (exec (.memoryWrite (fr 4 0x500000 8 [1, 2, 3, 4, 5, 6, 7, 8])) tpo)).map (fun t => t.byteAt 0x500007 0) = some 8 ∧
      (tpo.memDenied (fr 3 0x8000000000 8 []) = 2 ∧ reply (exec (.memoryRead (fr 3 0x8000000000 8 [])) tpo) = some (2, [])) ∧
      (let f := { fr 1 0x40080 8 [] with seq := 0xFFFFFFFF }
      let s := { tpo with mgmt := { tpo.mgmt with sessions := [(0, { cache := [(0xFFFFFFFF, replyTo f 0 [9])] })] } }
      s.portSays f = .again (replyTo f 0 [9]) ∧ reply (exec (.windowRead f) s) = some (0, [9])) := by decide +kernel

/-- The staging buffer; a commit of nothing is refused, and an image whose signature holds would be taken. -/
theorem test_hyp_recovery :
    (let s := { tpo with mgmt := { tpo.mgmt with recov := true } }
    s.portSays (fr 6 0x10 8 [1, 2, 3, 4, 5, 6, 7, 8]) = .perform ∧ s.portSays (fr 6 0xFFFFFFFFFFFFFFFF 0 []) = .perform ∧ imageGood { s with mgmt := { s.mgmt with staging := [(12, 1)], stagedLen := 256 } }.staged = false ∧
      (next? (exec (.recoveryStage (fr 6 0x10 8 [1, 2, 3, 4, 5, 6, 7, 8])) s)).map (fun t => (mget 0 t.mgmt.staging 0x17, t.mgmt.stagedLen)) = some (8, 0x18) ∧
      reply (exec (.recoveryCommit (fr 6 0xFFFFFFFFFFFFFFFF 0 [])) { s with mgmt := { s.mgmt with staging := [(12, 1)], stagedLen := 256 } }) = some (2, [])) ∧
    (let f := { fr 1 0x40080 8 [] with zero3 := 1 }
    frameBad f = true ∧ reply (exec (.malformedFrame f) tpo) = some (4, [])) ∧
    (next? (exec (.fcsDrop { fr 1 0x40080 8 [] with fcs := false }) tpo)).map (fun t => mget 0 t.mgmt.errs 0xA000) = some 1 := by decide +kernel

/-- The staging buffer with an image of 256 bytes of version 7. -/
def tst7 : State := { tpo with mgmt := { tpo.mgmt with recov := true, staging := [(4, 7)], stagedLen := 256 } }

/-- It is good where its signature and digests hold and the least version allows it. -/
theorem test_hyp_good_image (h : Config.imageSigned tst7.staged = true) (hv : Config.minVersion.toNat ≤ 7) : imageGood tst7.staged = true := by
  have h4 : imageField tst7.staged 4 4 = 7 := by decide +kernel
  have h1 : (imageField tst7.staged 12 4 == 0 && imageField tst7.staged 160 96 == 0) = true := by decide +kernel
  rw [imageGood, h1, h, h4]
  simpa using hv

/-- 18 R434 to R446: a reset, the end of a boot, attestation, halts, time and the governor. -/
theorem test_hyp_platform :
    (next? (exec .packageResetWrite tpo)).map (fun t => (t.mgmt.ready, t.ctxs.length)) = some (false, 0) ∧
      (let s := { tpo with mgmt := { tpo.mgmt with booting := true } }
      (next? (exec .bringupDone s)).map (fun t => (t.mgmt.ready, t.mgmt.booting)) = some (true, false)) ∧
      (let s := { tpo with mgmt := { tpo.mgmt with attBusy := true } }
      (next? (exec .attestDone s)).map (fun t => t.mgmt.attBusy) = some false) ∧
      (tpo.enabled 3 = true ∧ (tpo.coreAt 3).halted = false ∧ (next? (exec (.haltreq 3) tpo)).map (fun t => (t.coreAt 3).halted) = some true) ∧
      (next? (exec (.release 3) (tpo.onCore 3 fun c => { c with halted := true }))).map (fun t => (t.coreAt 3).halted) = some false ∧ tpo.enabled 140 = false ∧
      (tpo.mgmt.tblock = false ∧ tpo.mgmt.tbSet = false ∧ (next? (exec (.ptpMessage (-5)) tpo)).map (fun t => (t.hub.time, t.mgmt.tblock)) = some (5, true)) := by
  decide +kernel

theorem test_hyp_platform_errors :
    (next? (exec (.flitReplay 2) tpo)).map (fun t => (mget 0 t.mgmt.errs 0x8010, mget 0 t.mgmt.replays 2, t.mgmt.pfe)) = some (1, 1, false) ∧
      (next? (exec (.flitReplay 2) { tpo with mgmt := { tpo.mgmt with replays := [(2, 16)] } })).map (fun t => t.mgmt.pfe) = some true ∧
      (next? (exec (.nocParityResend 580 false) tpo)).map (fun t => t.mgmt.pfe) = some false ∧ (next? (exec (.nocParityResend 580 true) tpo)).map (fun t => t.mgmt.pfe) = some true ∧
      (next? (exec (.dieOvertemp 3) tpo)).map (fun t => t.mgmt.pfe) = some true ∧
      (let s := (((tpo.setWin 0x40080 1000).setWin 0x40088 24).setWin 0x40090 20)
      (next? (exec (.governorTick 1001 false true) s)).map (fun t => t.win 0x40090) = some 19 ∧
        (next? (exec (.governorTick 900 false true) s)).map (fun t => t.win 0x40090) = some 21 ∧
        (next? (exec (.governorTick 980 false true) s)).map (fun t => t.win 0x40090) = some 20) ∧
      (next? (exec (.portStateChange 2 2) (tpo.setWin 0x40480 1))).map (fun t => t.win 0x40488) = some 2 := by decide +kernel

/-- A gang task in two parts, this package's part 0 and part 1 on package 9, which has announced itself; a collective of level 6 with one member. -/
def tgang : State :=
  let s := tcopy { cop with instr := .coll lc0, words := [0x60, 0, 0, 0, 0, 0, 0, 0] }
  let x : Coll := { task := 1, level := 6, unit_ := 0, k := 1, members := [0], issued := [(0, 5)] }
  { s with
    mgmt := { s.mgmt with win := mput s.mgmt.win 0x42000 0x8000000000000009, anns := [{ pkg := 9, gangid := 3, gpart := 1, gpkgs := 2 }] }
    hub := { s.hub with colls := [x] }
    disp := { s.disp with tasks := [(1, { s.taskAt 1 with l := { (s.taskAt 1).l with gang := 1, gangid := 3, gpart := 0, gpkgs := 2 } })] } }

theorem test_hyp_gangs :
    (tgang.isPeer 9 = true ∧ (next? (exec (.gangAnnounce 9 4 0 2) tgang)).map (fun t => t.mgmt.anns.length) = some 2) ∧
      (tgang.gangTask 3 = some (tgang.taskAt 1) ∧ tgang.gangMet 1 6 = true ∧
        (next? (exec (.uePacket (.barrier 3 1 7)) tgang)).map (fun t => t.hub.barRemote) = some [(groupKey 1 6 0, 1, 7)]) ∧
      (next? (exec (.uePacket (.coll 3 1 1 [0] [2])) tgang)).map (fun t => t.hub.colls.map (fun x => x.remote.length)) = some [1] ∧
      ((tgang.copyAt 0 5).map (fun o => o.ctx) = some 0 ∧ tgang.guessOf (tgang.ctxAt 0) = none ∧ (tgang.taskAt 1).l.gang = 1 ∧
        (next? (exec (.linkLost 1 0) tgang)).map (fun t => (t.hub.colls.length, t.me.mem.cfails.map (fun x => x.cause))) = some (0, [9])) := by decide +kernel

/-! ### The machine as a whole -/

/-- The worked word `add s8, s8, s7` behind the header 0x01000001, placed and run with s7 = 5 (04 R100); then `x.spld x5, 0(x6)` of a sidecar. -/
theorem test_step :
    (let s := (State.reset.withFetchWord 96 0x0408207001000001).onCtx 0 fun c => { c with r := { c.r with s := [(7, 5)] } }
    s.canIssue 0 = true ∧ s.me.sq.idle = 0 ∧ s.me.sys.asyncs = [] ∧ s.me.sq.replay = [] ∧ s.me.sq.rep = 1 ∧ s.agenda = [.issue 0] ∧
      (next? (step s)).map (fun t => ((t.ctxAt 0).r.rs 8, (t.ctxAt 0).r.pc - s.me.r.pc)) = some (5, 8)) ∧
    (let s := State.reset.withFetchWord 32 0x0003028B
    s.agenda = [.side 0 1] ∧ s.sideOn 0 0 = some 0 ∧ s.sideCan 0 = true ∧ (next? (step s)).map (fun t => (t.sideAt 0).pc) = some 4) ∧
    mwf 0 State.reset.mem.bytes = true := by decide +kernel

/-- 15 R381: a fetch whose walk meets an error of memory traps at the packet with class S. -/
theorem test_fetch_walk_error :
    (let s := { tb with
      slices := [], cores := tb.cores.map (fun e => (e.1, { e.2 with tlb := [] })), agenda := [.issue 0], mgmt := tdl.mgmt
      mem := { tb.mem with bytes := words tables, poison := [(0x400, true)] } }
    (match s.fetchPacket s.ck s.me.r.pc with | (_, .fault va (.walkError pa)) => decide (va = 0x1000000000000 ∧ pa = 0x10000) | _ => false) = true ∧
      (List.range 4).all (fun i => !s.exitDone i) = true ∧ s.canIssue s.ck = true ∧
      (next? (step s)).map (fun t => (t.me.sys.scause.toNat % 256, t.me.sys.sdetail)) = some (0x22, 0x10000)) := by decide +kernel

/-- IEEE 1619, the vector of XTS-AES-256 with the keys 2718… and 3141… and the data unit 0xFF, its first 64 bytes (17 R419). -/
theorem test_memory_encryption :
    xtsLine false ((leBytes 64 0x92459474098205513799931697418802952783336462842393975853265941312776966649575999699370245777496226357174286053234590452818281827).map
        (fun b => b.toNat)) 0xFF ((List.range 64).map (BitVec.ofNat 8)) =
      leBytes 64 0xfd88b14bcbfebe4533fcad35ac860a68443f68acf917b3668d4afef876e2315d3be6a314d412aea45723485e3f8000ea9bcf70e3996c83e48603772f103a3b1c := by decide +kernel

/-- A packet of `add s8, s8, s7` and `add s9, s7, s7` in positions 0 and 1 runs both; an event at the head of the agenda is executed. -/
theorem test_packet :
    (let s := (State.reset.withFetchWord 96 (0x04091C70 * 2 ^ 64 + 0x0408207001000003)).onCtx 0 fun c => { c with r := { c.r with s := [(7, 5)] } }
    (next? (step s)).map (fun t => ((t.ctxAt 0).r.rs 8, (t.ctxAt 0).r.rs 9)) = some (5, 10)) ∧
    (next? (step { tpo with agenda := [.event (.haltreq 3)] })).map (fun t => (t.coreAt 3).halted) = some true := by decide +kernel

/-- 18 R431, R443: registers of the window at reset. -/
theorem test_reset :
    State.reset.win 0x30000 = 0x60000 ∧ State.reset.win 0x40080 = 3600 ∧ State.reset.mgmt.ready = true ∧ State.reset.disp.nextTask = 1 := by decide

end Sys2Proof.Tests
end

section
/-!
SUPPORT. Rules for canonical memory; memory, translation and homes keep it.  Most functions of the model leave the list of
bytes as it is.  Those that write it, or start it anew, are `rekey`, `storeLine`, `commitLine`, `rekeyed` and `rebooted`, and
all writes among them go through `mset` and `mwrite`, which keep the form (`mwf_mset`, `mwf_mwrite`).
-/

namespace Sys2Proof.Machine

/-- Memory in its canonical form (00 R2): its bytes rise strictly by address, and no zero is listed. -/
def State.Canonical (s : State) : Prop := mwf 0 s.mem.bytes = true

/-- A slot operation keeps memory canonical when its wait and its act do. -/
def SlotSem.Keeps (m : SlotSem) : Prop :=
  ∀ e s, s.Canonical → (m.wait e s).1.Canonical ∧ (m.act e s).1.Canonical

namespace State

variable {s t : State}

/-! ### Rules for the form -/

/-- A fold of steps that each keep memory canonical keeps it. -/
theorem Canonical.foldl {α : Type} {f : State → α → State} {l : List α} (h : s.Canonical)
    (hf : ∀ s x, s.Canonical → (f s x).Canonical) : (l.foldl f s).Canonical :=
  List.foldlRecOn l f h fun s h x _ => hf s x h

/-- Memory that holds the same bytes is canonical too. -/
theorem Canonical.of_bytes (h : s.Canonical) (e : t.mem.bytes = s.mem.bytes) : t.Canonical := by
  unfold State.Canonical
  rwa [e]

theorem Canonical.of_some (h : s.Canonical) (e : some s = some t) : t.Canonical := Option.some.inj e ▸ h

theorem Canonical.of_fst {α : Type} {p : State × α} {x : α} (h : p.1.Canonical) (e : some p = some (t, x)) : t.Canonical := by
  cases e
  exact h

theorem Canonical.of_next (h : s.Canonical) (e : (Host.Outcome.next s : Out State) = .next t) : t.Canonical :=
  Host.Outcome.next.inj e ▸ h

/-- A result reached through a test was reached on one of its sides. -/
theorem Canonical.of_ite {p : Prop} [Decidable p] {x y : Option State} (e : (if p then x else y) = some t)
    (hx : x = some t → t.Canonical) (hy : y = some t → t.Canonical) : t.Canonical := by
  split at e
  · exact hx e
  · exact hy e

/-! ### `Machine/Memory` -/

theorem Canonical.takeFree {w} (h : s.Canonical) : (s.takeFree w).2.Canonical := h

theorem Canonical.putCtx {k c} (h : s.Canonical) : (s.putCtx k c).Canonical := h

theorem Canonical.onCtx {k f} (h : s.Canonical) : (s.onCtx k f).Canonical := h

theorem Canonical.onCore {n f} (h : s.Canonical) : (s.onCore n f).Canonical := h

theorem Canonical.onMe {f} (h : s.Canonical) : (s.onMe f).Canonical := h

theorem Canonical.onResv {r f} (h : s.Canonical) : (s.onResv r f).Canonical := h

theorem Canonical.onTask {task f} (h : s.Canonical) : (s.onTask task f).Canonical := h

theorem Canonical.onQueue {q f} (h : s.Canonical) : (s.onQueue q f).Canonical := h

theorem Canonical.onDealer {q f} (h : s.Canonical) : (s.onDealer q f).Canonical := h

theorem Canonical.onSide {n f} (h : s.Canonical) : (s.onSide n f).Canonical := h

theorem Canonical.setWin {a v} (h : s.Canonical) : (s.setWin a v).Canonical := h

theorem Canonical.setQreg {q off v} (h : s.Canonical) : (s.setQreg q off v).Canonical := h

theorem Canonical.fill {pa key} (h : s.Canonical) : (s.fill pa key).Canonical := h

theorem Canonical.rekey {line key} (h : s.Canonical) : (s.rekey line key).Canonical := by
  unfold State.rekey
  split
  · exact h
  · exact mwf_mwrite _ _ _ _ h

theorem Canonical.storeLine {pa key bs} (h : s.Canonical) : (s.storeLine pa key bs).Canonical := mwf_mwrite _ _ _ _ h.rekey

theorem Canonical.storeBytes {key fuel pa bs} (h : s.Canonical) : (s.storeBytes key fuel pa bs).Canonical := by
  induction fuel generalizing s pa bs with
  | zero => exact h
  | succ fuel ih => grind [State.storeBytes, storeLine]

theorem Canonical.physStore {pa key bs} (h : s.Canonical) : (s.physStore pa key bs).Canonical := h.storeBytes

theorem Canonical.logError {place unit_ addr} (h : s.Canonical) : (s.logError place unit_ addr).Canonical := by
  grind [State.logError, Canonical]

theorem Canonical.logLine {pa} (h : s.Canonical) : (s.logLine pa).Canonical := by grind [State.logLine, logError]

theorem Canonical.countError {place unit_} (h : s.Canonical) : (s.countError place unit_).Canonical := h

theorem Canonical.onReam {r f} (h : s.Canonical) : (s.onReam r f).Canonical := h

theorem Canonical.dropVersion {r line v} (h : s.Canonical) : (s.dropVersion r line v).Canonical := h

theorem Canonical.makeRoom {r line} (h : s.Canonical) (e : s.makeRoom r line = some t) : t.Canonical := by
  unfold State.makeRoom at e
  dsimp only at e
  split at e
  · cases e; exact h
  · obtain ⟨v, -, rfl⟩ := Option.map_eq_some_iff.1 e
    exact h.dropVersion

theorem Canonical.makeRoom_getD {r line} (h : s.Canonical) : ((s.makeRoom r line).getD s).Canonical := by
  cases e : s.makeRoom r line with
  | none => exact h
  | some u => exact h.makeRoom e

theorem Canonical.wakeVer {r line v} (h : s.Canonical) : (s.wakeVer r line v).Canonical := by grind [State.wakeVer, Canonical]

theorem Canonical.makeVersion {r line key v off bs} (h : s.Canonical) : (s.makeVersion r line key v off bs).Canonical := by
  grind [State.makeVersion, onReam, wakeVer, storeLine]

theorem Canonical.noteRead {c va pa n} (h : s.Canonical) : (s.noteRead c va pa n).Canonical := by grind [State.noteRead, onDealer]

theorem Canonical.agentNote {c key d fuel pa n} (h : s.Canonical) : (s.agentNote c key d fuel pa n).Canonical := by
  induction fuel generalizing s pa n with
  | zero => exact h
  | succ fuel ih => grind [State.agentNote, noteRead, fill]

theorem Canonical.agentStore {c pa key bs} (h : s.Canonical) : (s.agentStore c pa key bs).Canonical := by
  grind [State.agentStore, physStore, onDealer]

theorem Canonical.logPhys {c p} (h : s.Canonical) : (s.logPhys c p).Canonical := by grind [State.logPhys, logLine]

theorem Canonical.logShare {c core o} (h : s.Canonical) : (s.logShare c core o).Canonical := by grind [State.logShare, logError]

theorem Canonical.logAcc {k a} (h : s.Canonical) : (s.logAcc k a).Canonical := by grind [State.logAcc, logError]

/-! ### `Machine/Engine` -/

theorem Canonical.sendRecord {k entry ws} (h : s.Canonical) : (s.sendRecord k entry ws).Canonical := by
  grind [State.sendRecord, Canonical, onDealer, onCtx]

theorem Canonical.mComplete {k o} (h : s.Canonical) : (s.mComplete k o).Canonical := by
  grind [State.mComplete, putCtx, sendRecord, onCtx, logAcc]

theorem Canonical.mRun {k n} (h : s.Canonical) : (s.mRun k n).Canonical := by
  induction n generalizing s with
  | zero => exact h
  | succ n ih => grind [State.mRun, onCtx, mComplete]

theorem Canonical.mFinish {k} (h : s.Canonical) : (s.mFinish k).Canonical := h.mRun

theorem Canonical.execMOpStart {c} (h : s.Canonical) (e : execMOpStart c s = .next t) : t.Canonical := by
  grind [Machine.execMOpStart, onCtx]

theorem Canonical.execMOpComplete {c id} (h : s.Canonical) (e : execMOpComplete c id s = .next t) : t.Canonical := by
  grind [Machine.execMOpComplete, mComplete]

/-! ### `Machine/Translate` -/

theorem Canonical.walked {sl w} (h : s.Canonical) : (s.walked sl w).Canonical := by
  have hs := h.foldl (l := w.reads) (f := fun s x => s.fill x.1 x.2) fun _ _ h => h.fill
  grind [State.walked, Canonical]

theorem Canonical.lookup {core p asid va} (h : s.Canonical) : (s.lookup core p asid va).1.Canonical := by
  grind [State.lookup, Canonical, onCore, walked]

theorem Canonical.xlate {core p asid sup va want} (h : s.Canonical) : (s.xlate core p asid sup va want).1.Canonical := by
  grind [State.xlate, lookup]

theorem Canonical.xlateCtx {k sup va want} (h : s.Canonical) : (s.xlateCtx k sup va want).1.Canonical := by grind [State.xlateCtx, xlate]

/-! ### `Machine/Homes` -/

theorem Canonical.deliver {k d w v} (h : s.Canonical) : (s.deliver k d w v).Canonical := by
  unfold State.deliver
  split
  · exact h.onResv
  · exact h.onCtx

theorem Canonical.ecwNote {c frame key off va n} (h : s.Canonical) : (s.ecwNote c frame key off va n).Canonical := by
  grind [State.ecwNote, agentNote]

theorem Canonical.locRead {k a} (h : s.Canonical) : (s.locRead k a).st.Canonical := by grind [State.locRead, ecwNote, agentNote]

theorem Canonical.locWrite {k a bs} (h : s.Canonical) : (s.locWrite k a bs).Canonical := by
  grind [State.locWrite, Canonical, onResv, agentStore, onCore, onCtx]

theorem Canonical.logAccess {k a off} (h : s.Canonical) : (s.logAccess k a off).Canonical := by
  grind [State.logAccess, logPhys, takeFree, logError, logShare, logAcc]

theorem Canonical.effect {k a} (h : s.Canonical) : (s.effect k a).1.Canonical := by
  unfold State.effect
  dsimp only
  split <;> grind [locRead, logAccess, locWrite, onCtx, onResv, noteRead, agentStore, onDealer, makeRoom_getD, makeVersion, onReam]

theorem Canonical.perform {k a} (h : s.Canonical) : (s.perform k a).Canonical := by
  grind [State.perform, Canonical, effect, deliver, onCtx]

theorem Canonical.drain {k want} (h : s.Canonical) : (s.drain k want).Canonical := by
  unfold State.drain
  refine foldl ?_ fun _ _ h => h.perform
  split
  · exact h.mFinish
  · exact h

theorem Canonical.drainBefore {k a} (h : s.Canonical) : (s.drainBefore k a).Canonical := h.drain

theorem Canonical.launch {k l} (h : s.Canonical) : (s.launch k l).Canonical := h

theorem Canonical.performNow {k a} (h : s.Canonical) : (s.performNow k a).Canonical := by
  grind [State.performNow, Canonical, drainBefore, perform]

end State

end Sys2Proof.Machine
end

section
/-!
SUPPORT. Contexts, the Calender, trap entry and the issue of packets keep memory canonical.
-/

namespace Sys2Proof.Machine

namespace State

variable {s t : State}

/-! ### `Machine/Life` -/

theorem Canonical.release {r} (h : s.Canonical) : (s.release r).Canonical :=
  h.foldl (f := fun s k => { s with ctxs := mdel s.ctxs k, sides := mdel (mdel s.sides (2 * k)) (2 * k + 1) })
    fun _ _ h => h

theorem Canonical.releaseAll {l : List Nat} (h : s.Canonical) : (l.foldl State.release s).Canonical :=
  h.foldl fun _ _ h => h.release

theorem Canonical.noteComplete {task} (h : s.Canonical) : (s.noteComplete task).Canonical := by grind [State.noteComplete, onDealer]

theorem Canonical.preEnd {r} (h : s.Canonical) : (s.preEnd r).Canonical := h

theorem Canonical.preCheck (h : s.Canonical) : s.preCheck.Canonical := by grind [State.preCheck, preEnd]

theorem Canonical.retire {k} (h : s.Canonical) : (s.retire k).Canonical := by
  grind [State.retire, Canonical, putCtx, release, preCheck, noteComplete]

theorem Canonical.pushRecord {q ws} (h : s.Canonical) : (s.pushRecord q ws).Canonical := h

theorem Canonical.setQstate {q v} (h : s.Canonical) : (s.setQstate q v).Canonical := h.setQreg

theorem Canonical.setQerr {q v} (h : s.Canonical) : (s.setQerr q v).Canonical := h.setQreg

theorem Canonical.qstop {q err} (h : s.Canonical) : (s.qstop q err).Canonical := by grind [State.qstop, setQerr, setQstate]

theorem Canonical.graphError {q node reason detail} (h : s.Canonical) : (s.graphError q node reason detail).Canonical := by
  grind [State.graphError, qstop, pushRecord, onQueue]

theorem Canonical.walkGo {q target} (h : s.Canonical) : (s.walkGo q target).Canonical := by
  grind [State.walkGo, graphError, onQueue]

theorem Canonical.syncCopies (h : s.Canonical) : s.syncCopies.Canonical := by
  refine foldl h fun s e h => ?_
  grind [walkGo, onQueue]

theorem Canonical.dropGuess {q cause} (h : s.Canonical) : (s.dropGuess q cause).Canonical := by
  grind [State.dropGuess, Canonical, onQueue, onDealer, releaseAll]

theorem Canonical.abandon {k cause} (h : s.Canonical) : (s.abandon k cause).Canonical := by grind [State.abandon, dropGuess]

theorem Canonical.endTask {k cause pslot pc detail} (h : s.Canonical) : (s.endTask k cause pslot pc detail).Canonical := by
  grind [State.endTask, onTask, preEnd]

/-! ### `Machine/Calender` -/

theorem Canonical.putEntry {e x} (h : s.Canonical) : (s.putEntry e x).Canonical := h

theorem Canonical.evalRange {first n} (h : s.Canonical) : (s.evalRange first n).Canonical := by
  refine foldl h fun s i h => ?_
  grind [putEntry]

theorem Canonical.addRecord {r} (h : s.Canonical) : (s.addRecord r).Canonical := by grind [State.addRecord, putEntry]

theorem Canonical.takeRecord {r} (h : s.Canonical) : (s.takeRecord r).Canonical := h.addRecord

theorem Canonical.execStatsRecordAdd {i} (h : s.Canonical) (e : execStatsRecordAdd i s = .next t) : t.Canonical := by
  grind [Machine.execStatsRecordAdd, Canonical, takeRecord]

theorem Canonical.execCalenderReadCopyUpdate (h : s.Canonical) (e : execCalenderReadCopyUpdate s = .next t) : t.Canonical := by
  grind [Machine.execCalenderReadCopyUpdate, syncCopies]

theorem Canonical.execCalenderPreset {entry k} (h : s.Canonical) (e : execCalenderPreset entry k s = .next t) : t.Canonical := by
  grind [Machine.execCalenderPreset, putEntry]

theorem Canonical.execCalenderClr {entry} (h : s.Canonical) (e : execCalenderClr entry s = .next t) : t.Canonical := by
  grind [Machine.execCalenderClr, putEntry]

theorem Canonical.execCalenderWindowWrite {entry word val} (h : s.Canonical)
    (e : execCalenderWindowWrite entry word val s = .next t) : t.Canonical := by
  grind [Machine.execCalenderWindowWrite, putEntry]

/-! ### `Machine/Ops` -/

theorem Canonical.performShadow {k a} (h : s.Canonical) : (s.performShadow k a).Canonical := by
  grind [State.performShadow, effect, takeFree, onCtx]

theorem Canonical.drainToShadow {k} (h : s.Canonical) : (s.drainToShadow k).Canonical := by
  unfold State.drainToShadow
  refine onCtx (foldl (foldl h fun s a h => ?_) fun s w h => h)
  grind [performShadow, perform]

theorem Canonical.enterTrap {k p} (h : s.Canonical) : (s.enterTrap k p).Canonical := h.onCtx.drainToShadow

theorem Canonical.takeTrap {k p} (h : s.Canonical) : (s.takeTrap k p).Canonical := by
  grind [State.takeTrap, abandon, endTask, enterTrap, onCtx]

theorem Canonical.hold {k p} (h : s.Canonical) : (s.hold k p).Canonical := h

theorem Canonical.trapAt {k p} (h : s.Canonical) : (s.trapAt k p).Canonical := by grind [State.trapAt, hold, onCtx, takeTrap]

theorem Canonical.trapIssue {k pc tr} (h : s.Canonical) : (s.trapIssue k pc tr).Canonical := h.trapAt

theorem Canonical.trapDue {k pc tr} (h : s.Canonical) : (s.trapDue k pc tr).Canonical := h.trapAt

/-! ### `Machine/Packet` -/

theorem Canonical.fetch4 {k va} (h : s.Canonical) : (s.fetch4 k va).1.Canonical := by grind [State.fetch4, xlateCtx]

theorem Canonical.fetchSlots {k base l} (h : s.Canonical) : (s.fetchSlots k base l).1.Canonical := by
  induction l generalizing s with
  | nil => exact h
  | cons x l ih => grind [State.fetchSlots, fetch4]

theorem Canonical.fetchBundle {k a} (h : s.Canonical) : (s.fetchBundle k a).1.Canonical := by
  grind [State.fetchBundle, fetch4, fetchSlots]

theorem Canonical.fetchPacket {k a} (h : s.Canonical) : (s.fetchPacket k a).1.Canonical := by grind [State.fetchPacket, fetchBundle]

theorem Canonical.noteTags {full words} (h : s.Canonical) : (s.noteTags full words).Canonical := h

theorem Canonical.drainSpans {k l} (h : s.Canonical) : (s.drainSpans k l).Canonical := h.foldl fun _ _ h => h.drainBefore

theorem Canonical.land {k want} (h : s.Canonical) : (s.land k want).Canonical := by grind [State.land, onCtx]

theorem Canonical.inFlight {k ns} (h : s.Canonical) : (s.inFlight k ns).Canonical := by grind [State.inFlight, onCtx]

theorem Canonical.settle {k is} (h : s.Canonical) : (s.settle k is).Canonical := by
  grind [State.settle, Canonical, onCtx, mFinish, drain, syncCopies, land]

theorem Canonical.roomFor {k is} (h : s.Canonical) : (s.roomFor k is).Canonical := by grind [State.roomFor, land, drain, syncCopies]

theorem Canonical.nextCtx {core} (h : s.Canonical) : (s.nextCtx core).Canonical := by grind [State.nextCtx, onCore]

theorem Canonical.blockOn {k w} (h : s.Canonical) : (s.blockOn k w).Canonical := h.onCtx.nextCtx

theorem Canonical.takeAsync {k} (h : s.Canonical) : (s.takeAsync k).Canonical := by grind [State.takeAsync, putCtx, takeTrap]

theorem Canonical.markPerf {p} (h : s.Canonical) : (s.markPerf p).Canonical := h

theorem Canonical.performSlot {d e on} (h : s.Canonical) (hd : d.sem.Keeps) : (s.performSlot d e on).Canonical := by
  grind [State.performSlot, Canonical, onCtx, markPerf, inFlight, SlotSem.Keeps]

theorem Canonical.firstWait {xs} (h : s.Canonical) (hxs : ∀ x ∈ xs, x.1.sem.Keeps) : (firstWait xs s).1.Canonical := by
  induction xs generalizing s with
  | nil => exact h
  | cons x xs ih =>
    obtain ⟨d, e, on⟩ := x
    have hw := hxs _ (List.mem_cons_self ..)
    grind [firstWait, SlotSem.Keeps]

theorem Canonical.ask {what limit used} (h : s.Canonical) : (s.ask what limit used).1.Canonical := by grind [State.ask, Canonical]

theorem Canonical.afterTraps {k user tr} (h : s.Canonical) : (s.afterTraps k user tr).Canonical := by
  grind [State.afterTraps, takeTrap]

theorem Canonical.exitNow {k} (h : s.Canonical) : (s.exitNow k).Canonical := by grind [State.exitNow, onCtx, retire]

theorem Canonical.finish {k ds} (h : s.Canonical) : (s.finish k ds).Canonical := by
  grind [State.finish, abandon, hold, takeTrap, onCtx, exitNow, endTask, afterTraps, putCtx]

theorem Canonical.fresh (h : s.Canonical) : s.fresh.Canonical := h

theorem Canonical.stalled {k ds} (h : s.Canonical) : (s.stalled k ds).Canonical := by
  grind [State.stalled, roomFor, settle, drainSpans]

theorem Canonical.opened {k perf replay ls} (h : s.Canonical) : (s.opened k perf replay ls).Canonical := h

theorem Canonical.performAll {k perf xs} (h : s.Canonical) (hxs : ∀ x ∈ xs, x.1.sem.Keeps) :
    (s.performAll k perf xs).Canonical := by
  refine finish (List.foldlRecOn xs _ h.opened fun s h x hx => ?_)
  exact h.performSlot (hxs x hx)

theorem Canonical.stallOn {k} (h : s.Canonical) : (s.stallOn k).Canonical := h

/-- What each due slot finds is a due slot's. -/
theorem mem_envs {k : Nat} {v : Resv} {c : Ctx} {ds : List Due} {x : Due × Env × Bool} (hx : x ∈ s.envs k v c ds) : x.1 ∈ ds := by
  induction ds generalizing c with
  | nil => exact absurd hx List.not_mem_nil
  | cons d ds ih =>
    rcases List.mem_cons.1 hx with rfl | hx
    · exact List.mem_cons_self ..
    · exact List.mem_cons_of_mem _ (ih hx)

theorem Canonical.issueDue {k ds} (h : s.Canonical) (hds : ∀ d ∈ ds, d.sem.Keeps) : (s.issueDue k ds).Canonical := by
  have hx : ∀ x ∈ s.envs k (s.resvAt (s.ctxAt k).resv) (s.ctxAt k) ds, x.1.sem.Keeps := fun x hx => hds _ (mem_envs hx)
  have hw := h.firstWait hx
  grind [State.issueDue, takeAsync, trapDue, trapIssue, stallOn, blockOn, performAll]

theorem Canonical.runPacket {ds} (h : s.Canonical) (hds : ∀ d ∈ ds, d.sem.Keeps) : (s.runPacket ds).Canonical := by
  grind [State.runPacket, fresh, stalled, issueDue]

theorem Canonical.runSlot {i m} (h : s.Canonical) (hm : m.Keeps) (e : runSlot i m s = .next t) : t.Canonical := by
  grind [runSlot, trapIssue, runPacket]

end State

end Sys2Proof.Machine
end

section
/-!
SUPPORT. Operands, the matrix queue, accesses, copies, rings and collectives keep memory canonical.
-/

namespace Sys2Proof.Machine

namespace State

variable {s t : State}

/-! ### `Machine/Operands` -/

theorem Canonical.wr {k n v} (h : s.Canonical) : (s.wr k n v).Canonical := h

theorem Canonical.drawsOf {k rm js} (h : s.Canonical) : (s.drawsOf k rm js).2.Canonical := by grind [State.drawsOf, putCtx]

theorem Canonical.drawS {k rm} (h : s.Canonical) : (s.drawS k rm).2.Canonical := h.drawsOf

theorem Canonical.vWait {i e} (h : s.Canonical) : (vWait i e s).1.Canonical := h

theorem Canonical.wrPart {e cls num ringO w j v} (h : s.Canonical) : (s.wrPart e cls num ringO w j v).Canonical := by
  grind [State.wrPart, onCtx, performNow]

/-! ### `Machine/Matrix` -/

theorem Canonical.imgRead {e f size} (h : s.Canonical) : (s.imgRead e f size).1.Canonical := by
  grind [State.imgRead, drainBefore, logShare]

theorem Canonical.enqueue {e o} (h : s.Canonical) : (s.enqueue e o).Canonical := h

theorem Canonical.fetchMeta {k va} (h : s.Canonical) : (s.fetchMeta k va).1.Canonical := by
  grind [State.fetchMeta, xlateCtx, logPhys, ecwNote, agentNote]

theorem Canonical.metaAt {k a} (h : s.Canonical) : (s.metaAt k a).1.Canonical := by grind [State.metaAt, fetchMeta]

theorem Canonical.product {e f img bad meta_ draws reads} (h : s.Canonical) :
    (s.product e f img bad meta_ draws reads).Canonical := by
  unfold State.product
  refine enqueue ?_
  split
  · exact h
  · exact h.onCtx

theorem Canonical.stallFor {k ns} (h : s.Canonical) : (stallFor s k ns).Canonical := by grind [Machine.stallFor, mFinish]

theorem Canonical.execMetadataFetch {c} (h : s.Canonical) (e : execMetadataFetch c s = .next t) : t.Canonical := by
  grind [Machine.execMetadataFetch, fetchMeta, onCtx]

/-! ### `Machine/Access` -/

theorem Canonical.lmWait {i f e} (h : s.Canonical) : (lmWait i f e s).1.Canonical := by grind [Machine.lmWait, ask]

theorem Canonical.place {e z u store va} (h : s.Canonical) : (s.place e z u store va).1.Canonical := by
  have hx (want) := h.xlateCtx (k := e.k) (sup := e.c.r.sup) (va := va.toNat) (want := want)
  unfold State.place
  dsimp only
  split
  · exact h
  · exact h
  · exact h
  · split
    · exact h
    · split <;> exact h
  · split <;> grind [logPhys]

theorem Canonical.placeEach {e z u store l} (h : s.Canonical) : (s.placeEach e z u store l).1.Canonical := by
  induction l generalizing s with
  | nil => exact h
  | cons a l ih => grind [State.placeEach, place]

theorem Canonical.placeAll {e z u store l} (h : s.Canonical) : (s.placeAll e z u store l).1.Canonical := h.placeEach

theorem Canonical.noteDrop {cause} (h : s.Canonical) : (s.noteDrop cause).Canonical := h

/-! ### `Machine/Copies` -/

/-- A part of a copy and what follows it. -/
theorem Canonical.andThen {α β : Type} {r : State × Cp α} {f : State → α → State × Cp β} (h : r.1.Canonical)
    (hf : ∀ s x, s.Canonical → (f s x).1.Canonical) : (Cp.andThen r f).1.Canonical := by
  obtain ⟨s, _ | _ | _ | _ | _⟩ := r
  · exact hf s _ h
  all_goals exact h

theorem Canonical.cpXlate {o va store} (h : s.Canonical) : (s.cpXlate o va store).1.Canonical := by
  grind [State.cpXlate, xlateCtx]

theorem Canonical.cpEcw {c frame key off va n} (h : s.Canonical) : (s.cpEcw c frame key off va n).1.Canonical := by
  grind [State.cpEcw, logPhys, ecwNote]

theorem Canonical.cpRead {o x} (h : s.Canonical) : (s.cpRead o x).1.Canonical := by
  unfold State.cpRead
  dsimp only
  split
  · grind [logShare]
  · refine h.cpXlate.andThen fun s p h => ?_
    grind [cpEcw, logPhys, agentNote]

theorem Canonical.cpReads {o l} (h : s.Canonical) : (s.cpReads o l).1.Canonical := by
  refine List.foldlRecOn (motive := fun r : State × Cp (List Byte) => r.1.Canonical) l _ h fun r h x _ => ?_
  exact h.andThen fun _ _ h => h.cpRead.andThen fun _ _ h => h

theorem Canonical.cpWrite {o share a bs} (h : s.Canonical) : (s.cpWrite o share a bs).1.Canonical := by
  unfold State.cpWrite
  dsimp only
  split
  · grind [onResv]
  · exact h.cpXlate.andThen fun s p h => h.agentStore

theorem Canonical.cpPeek {o share a} (h : s.Canonical) : (s.cpPeek o share a).1.Canonical := by grind [State.cpPeek, noteRead]

theorem Canonical.putBytes {o open_ l} (h : s.Canonical) : (s.putBytes o open_ l).1.Canonical := by
  induction l generalizing s with
  | nil => exact h
  | cons x l ih => grind [State.putBytes, takeFree, cpPeek]

theorem Canonical.cpPuts {o open_ l} (h : s.Canonical) : (s.cpPuts o open_ l).1.Canonical := by
  refine List.foldlRecOn (motive := fun r : State × Cp Unit => r.1.Canonical) _ _ h fun r h run _ => andThen h fun s _ h => ?_
  split
  · exact h
  · grind [putBytes, cpWrite]

theorem Canonical.touch {o want tile va store} (h : s.Canonical) : (s.touch o want tile va store).1.Canonical := by
  refine h.cpXlate.andThen fun s p h => ?_
  grind [Canonical, physStore]

theorem Canonical.touchAll {o want store l} (h : s.Canonical) : (s.touchAll o want store l).1.Canonical := by
  induction l generalizing s with
  | nil => exact h
  | cons x l ih =>
    obtain ⟨_ | tile, a⟩ := x
    · exact ih h
    · exact h.touch.andThen fun s _ h => ih h

theorem Canonical.cpStep {o} (h : s.Canonical) : (s.cpStep o).1.Canonical := by
  refine andThen h fun s e h => ?_
  dsimp only
  split
  · exact h.touchAll.andThen fun _ _ h => h.cpReads.andThen fun _ _ h => h
  split
  · exact h
  split
  · exact h
  · exact h.touchAll.andThen fun _ _ h => h.cpPuts.andThen fun _ _ h => h

theorem Canonical.cpStart {o} (h : s.Canonical) : (s.cpStart o).1.Canonical := by
  have hr (p) : (Cp.andThen (s.cpRead o p) fun s bs => (s, .ok { o with got := o.got ++ bs, acc := o.acc + 1 })).1.Canonical :=
    h.cpRead.andThen fun _ _ h => h
  have ht (o1 : CopyOp) : (Cp.andThen (s, s.tensE o1) fun s e => match s.cpOutside o1 (o1.steps e) with
      | some x => (s, .fail 3 x)
      | none => (s, .ok o1)).1.Canonical := andThen h fun s e h => by split <;> exact h
  unfold State.cpStart
  grind [logShare]

theorem Canonical.onCopy {core id f} (h : s.Canonical) : (s.onCopy core id f).Canonical := h

theorem Canonical.removeCopy {core id} (h : s.Canonical) : (s.removeCopy core id).Canonical := h

theorem Canonical.scramble {o l} (h : s.Canonical) : (s.scramble o l).Canonical :=
  h.foldl fun _ _ h => h.foldl fun _ _ h => h.cpPuts

theorem Canonical.failCopy {core o cause va} (h : s.Canonical) : (s.failCopy core o cause va).Canonical := by
  grind [State.failCopy, abandon, scramble, onCtx, removeCopy]

theorem Canonical.holdCopy {core o va level access} (h : s.Canonical) : (s.holdCopy core o va level access).Canonical := by
  grind [State.holdCopy, abandon, onCopy]

theorem Canonical.cpNext {core o r} (h : s.Canonical) (e : s.cpNext core o = some (t, r)) : t.Canonical := by
  grind [State.cpNext, cpStart, cpStep]

theorem Canonical.copyWork {core o} (h : s.Canonical) (e : s.copyWork core o = .next t) : t.Canonical := by
  grind [State.copyWork, cpNext, onCopy, holdCopy, abandon]

theorem Canonical.copyFails {core o r} (h : s.Canonical) (e : s.copyFails core o = some (t, r)) : t.Canonical := by
  grind [State.copyFails, cpNext]

theorem Canonical.cpHeal {o l} (h : s.Canonical) : (s.cpHeal o l).Canonical := by grind [State.cpHeal, Canonical, onResv]

theorem Canonical.issueCopy {core o} (h : s.Canonical) : (s.issueCopy core o).Canonical := h

theorem Canonical.execCopyStart {core id} (h : s.Canonical) (e : execCopyStart core id s = .next t) : t.Canonical := by
  grind [Machine.execCopyStart, copyWork]

theorem Canonical.execCopyComplete {core id} (h : s.Canonical) (e : execCopyComplete core id s = .next t) : t.Canonical := by
  grind [Machine.execCopyComplete, cpHeal, onCtx, removeCopy]

theorem Canonical.execCopyFault {core id} (h : s.Canonical) (e : execCopyFault core id s = .next t) : t.Canonical := by
  grind [Machine.execCopyFault, copyFails, failCopy]

theorem Canonical.copyRow {core id} (h : s.Canonical) (e : s.copyRow core id = .next t) : t.Canonical := by
  grind [State.copyRow, copyWork]

/-! ### `Machine/Couch` -/

theorem Canonical.execCouchJobStart {eng} (h : s.Canonical) (e : execCouchJobStart eng s = .next t) : t.Canonical := by
  grind [Machine.execCouchJobStart, Canonical]

theorem Canonical.settleTag {eng tile num enc} (h : s.Canonical) : (s.settleTag eng tile num enc).Canonical := h.physStore

theorem Canonical.endJob {eng} (h : s.Canonical) : (s.endJob eng).Canonical := h

theorem Canonical.execCouchJobComplete {eng} (h : s.Canonical) (e : execCouchJobComplete eng s = .next t) : t.Canonical := by
  unfold Machine.execCouchJobComplete at e
  split at e
  · split at e
    · cases e
      exact (foldl h fun s i h => h.storeLine).settleTag.endJob
    · cases e
  · cases e

theorem Canonical.execCouchJobFail {eng} (h : s.Canonical) (e : execCouchJobFail eng s = .next t) : t.Canonical := by
  unfold Machine.execCouchJobFail at e
  split at e
  · split at e
    · cases e
      exact foldl h.settleTag.endJob fun s x h => h.failCopy
    · cases e
  · cases e

/-! ### `Machine/Rings` -/

theorem Canonical.moveRing {e i} (h : s.Canonical) : (s.moveRing e i).Canonical := h

theorem Canonical.execDeferredPush {c off} (h : s.Canonical) (e : execDeferredPush c off s = .next t) : t.Canonical := by
  grind [Machine.execDeferredPush, perform]

/-! ### `Machine/Coll` -/

theorem Canonical.failMember {x k id cause va} (h : s.Canonical) : (s.failMember x k id cause va).Canonical := by
  unfold State.failMember
  split
  · exact h
  · refine failCopy ?_
    split
    · exact h
    · exact h.foldl fun s ps h => h.cpPuts

theorem Canonical.joinColl {k level copy} (h : s.Canonical) : (s.joinColl k level copy).Canonical := by
  grind [State.joinColl, Canonical, onCtx, failMember]

theorem Canonical.endColl {x cause} (h : s.Canonical) : (s.endColl x cause).Canonical := h

theorem Canonical.failColl {x cause own} (h : s.Canonical) : (s.failColl x cause own).Canonical := by
  refine endColl (foldl h fun s x h => ?_)
  split
  exact h.failMember

theorem Canonical.collNext {x o r} (h : s.Canonical) (e : s.collNext x o = some (t, r)) : t.Canonical := by
  unfold State.collNext at e
  dsimp only at e
  split at e
  · cases e
  split at e
  · exact of_fst (h.cpReads.andThen fun _ _ h => h) e
  split at e
  · exact of_fst (h.cpPuts.andThen fun _ _ h => h) e
  · cases e

theorem Canonical.collFailure {x r} (h : s.Canonical) (e : s.collFailure x = some (t, r)) : t.Canonical := by
  unfold State.collFailure at e
  dsimp only at e
  split at e
  · cases e
  split at e
  · cases e; exact h
  split at e
  · cases e; exact h
  split at e
  · cases e
  split at e
  · cases e; exact h
  split at e
  · cases e; exact h
  · obtain ⟨p, -, hp⟩ := List.exists_of_findSome?_eq_some e
    split at hp
    · next hc => cases hp; exact h.collNext hc
    · cases hp

theorem Canonical.collWork {core o} (h : s.Canonical) (e : s.collWork core o = .next t) : t.Canonical := by
  grind [State.collWork, collNext, onCopy, holdCopy]

theorem Canonical.rowMove {core id} (h : s.Canonical) (e : s.rowMove core id = .next t) : t.Canonical := by
  grind [State.rowMove, collWork, copyRow]

theorem Canonical.execCollectiveComplete {task level unit_} (h : s.Canonical)
    (e : execCollectiveComplete task level unit_ s = .next t) : t.Canonical := by
  have hd (x : Coll) := h.foldl (l := s.collOps x)
    (f := fun s (k, o) => (s.removeCopy (k / 4) o.id).onCtx k (fun c => c.tagDone o.tag true)) fun s x h => h.removeCopy.onCtx
  grind [Machine.execCollectiveComplete, collFailure, failColl, endColl]

end State

end Sys2Proof.Machine
end

section
/-!
SUPPORT. Launches, control, ordering, the images of contexts and the supervisor keep memory canonical.
-/

namespace Sys2Proof.Machine

namespace State

variable {s t : State}

/-! ### `Machine/Start` -/

theorem Canonical.startSides {k} (h : s.Canonical) : (s.startSides k).Canonical := by grind [State.startSides, Canonical]

theorem Canonical.startCtx {k entry chunk args} (h : s.Canonical) : (s.startCtx k entry chunk args).Canonical := h.putCtx.startSides

/-! ### `Machine/Control` -/

theorem Canonical.jump {a} (h : s.Canonical) : (s.jump a).Canonical := h

theorem Canonical.afterEnd {k a} (h : s.Canonical) : (s.afterEnd k a).1.Canonical := by grind [State.afterEnd, fetch4]

theorem Canonical.grantHands {core k hs} (h : s.Canonical) : (s.grantHands core k hs).Canonical := h

theorem Canonical.askHands {k n} (h : s.Canonical) : (s.askHands k n).Canonical := by
  grind [State.askHands, onCore, onCtx, grantHands]

theorem Canonical.changeHands {k n add} (h : s.Canonical) : (s.changeHands k n add).Canonical := h

theorem Canonical.execHandGrant {core} (h : s.Canonical) (e : execHandGrant core s = .next t) : t.Canonical := by
  grind [Machine.execHandGrant, grantHands]

theorem Canonical.execHandChangeEffect {c} (h : s.Canonical) (e : execHandChangeEffect c s = .next t) : t.Canonical := by
  grind [Machine.execHandChangeEffect, onCtx]

/-! ### `Machine/Ordering` -/

theorem Canonical.arrive {k level} (h : s.Canonical) : (s.arrive k level).Canonical := by grind [State.arrive, Canonical, onCtx]

theorem Canonical.barWait {f full e} (h : s.Canonical) : (barWait f full e s).1.Canonical := by grind [Machine.barWait, arrive]

theorem Canonical.execBarrierGenerationComplete {task level unit_} (h : s.Canonical)
    (e : execBarrierGenerationComplete task level unit_ s = .next t) : t.Canonical := by
  grind [Machine.execBarrierGenerationComplete, Canonical]

/-! ### `Machine/Steps` -/

theorem Canonical.settleRecords {k p} (h : s.Canonical) : (s.settleRecords k p).Canonical := by
  unfold State.settleRecords
  refine foldl ?_ fun s r h => h.takeRecord
  grind [Canonical, mFinish]

/-! ### `Machine/Image` -/

theorem Canonical.imgStore {e a l tr} (h : s.Canonical) : (s.imgStore e a l tr).1.Canonical := by
  induction l generalizing s tr with
  | nil => exact h
  | cons x l ih =>
    have hp (z u st va) := h.place (e := e) (z := z) (u := u) (store := st) (va := va)
    grind [State.imgStore, takeFree, locWrite]

theorem Canonical.imgLoad {e a l} (h : s.Canonical) : (s.imgLoad e a l).1.Canonical := by
  induction l generalizing s with
  | nil => exact h
  | cons i l ih =>
    have hp (z u st va) := h.place (e := e) (z := z) (u := u) (store := st) (va := va)
    unfold State.imgLoad
    split
    · next s1 va loc ecw hq =>
      have h1 := hp 64 .read false (a + w64 (64 * i))
      rw [hq] at h1
      dsimp only
      split
      · exact h1
      · have hr := ih (h1.locRead (k := e.k) (a := { id := 0, kind := .ld, va := va, loc := loc, ecw := ecw, size := 64 }))
        split
        · next hq => exact (hq ▸ hr :)
        · exact hr
    · next hq => exact (hq ▸ hp _ _ _ _ :)
    · next hq => exact (hq ▸ hp _ _ _ _ :)

theorem Canonical.putImage {k c} (h : s.Canonical) : (s.putImage k c).Canonical := by
  grind [State.putImage, Canonical, takeFree, putCtx]

/-! ### `Machine/System` -/

theorem Canonical.tlbDrop {hit} (h : s.Canonical) : (s.tlbDrop hit).Canonical := h

theorem Canonical.tlbinvWait {f e} (h : s.Canonical) : (tlbinvWait f e s).1.Canonical := by grind [Machine.tlbinvWait, onCtx]

theorem Canonical.execTlbInvalidationComplete {c} (h : s.Canonical)
    (e : execTlbInvalidationComplete c s = .next t) : t.Canonical := by
  grind [Machine.execTlbInvalidationComplete, onCtx, tlbDrop]

theorem Canonical.execTrapEntry {c} (h : s.Canonical) (e : execTrapEntry c s = .next t) : t.Canonical := by
  grind [Machine.execTrapEntry, enterTrap]

theorem Canonical.execShadowLatchDeliver {c i} (h : s.Canonical) (e : execShadowLatchDeliver c i s = .next t) : t.Canonical := by
  grind [Machine.execShadowLatchDeliver, onCtx]

end State

end Sys2Proof.Machine
end

section
/-!
SUPPORT. The dispatcher, the Dealer and the fault queues keep memory canonical.
-/

namespace Sys2Proof.Machine

namespace State

variable {s t : State}

/-! ### `Machine/Launch` -/

theorem Canonical.tookCommand {q} (h : s.Canonical) : (s.tookCommand q).Canonical := h

theorem Canonical.rejectLaunch {q reason detail} (h : s.Canonical) : (s.rejectLaunch q reason detail).Canonical := by
  grind [State.rejectLaunch, qstop, pushRecord, dropGuess]

theorem Canonical.matchGuess {q c} (h : s.Canonical) : (s.matchGuess q c).1.Canonical := by
  grind [State.matchGuess, dropGuess, onDealer]

theorem Canonical.accept {q c walk} (h : s.Canonical) : (s.accept q c walk).1.Canonical := h.matchGuess

theorem Canonical.execLaunch {q} (h : s.Canonical) (e : execLaunch q s = .next t) : t.Canonical := by
  grind [Machine.execLaunch, tookCommand, rejectLaunch, accept]

theorem Canonical.execGraph {q} (h : s.Canonical) (e : execGraph q s = .next t) : t.Canonical := by
  grind [Machine.execGraph, Canonical, tookCommand, onQueue]

theorem Canonical.execUnassignedCmd {q} (h : s.Canonical) (e : execUnassignedCmd q s = .next t) : t.Canonical := by
  grind [Machine.execUnassignedCmd, qstop]

/-! ### `Machine/Graph` -/

theorem Canonical.onNode {q kind act} (h : s.Canonical) (ha : ∀ w n, act w n = .next t → t.Canonical)
    (e : s.onNode q kind act = .next t) : t.Canonical := by
  grind [State.onNode, graphError]

theorem Canonical.execNodeTask {q} (h : s.Canonical) (e : execNodeTask q s = .next t) : t.Canonical := by
  refine onNode h (fun w n e => ?_) e
  grind [graphError, walkGo, rejectLaunch, accept, onQueue]

theorem Canonical.execNodeCond {q} (h : s.Canonical) (e : execNodeCond q s = .next t) : t.Canonical := by
  refine onNode h (fun w n e => ?_) e
  grind [walkGo, graphError]

theorem Canonical.execNodeWhile {q} (h : s.Canonical) (e : execNodeWhile q s = .next t) : t.Canonical := by
  refine onNode h (fun w n e => ?_) e
  grind [onQueue, walkGo, graphError]

theorem Canonical.calenderStop {q e} (h : s.Canonical) : (s.calenderStop q e).Canonical := by
  grind [State.calenderStop, qstop, pushRecord, onQueue]

theorem Canonical.execNodeCalstep {q} (h : s.Canonical) (e : execNodeCalstep q s = .next t) : t.Canonical := by
  refine onNode h (fun w n e => ?_) e
  grind [calenderStop, onQueue, evalRange]

theorem Canonical.execNodeRerun {q} (h : s.Canonical) (e : execNodeRerun q s = .next t) : t.Canonical := by
  refine onNode h (fun w n e => ?_) e
  grind [calenderStop, walkGo, putEntry, graphError, onQueue]

/-! ### `Machine/Place` -/

theorem Canonical.execTaskAdmit {die} (h : s.Canonical) (e : execTaskAdmit die s = .next t) : t.Canonical := by
  grind [Machine.execTaskAdmit, Canonical, onQueue, onTask, walkGo]

theorem Canonical.execPriorityAge {task} (h : s.Canonical) (e : execPriorityAge task s = .next t) : t.Canonical := by
  grind [Machine.execPriorityAge, onTask]

theorem Canonical.execStarvationHold {task} (h : s.Canonical) (e : execStarvationHold task s = .next t) : t.Canonical := by
  grind [Machine.execStarvationHold, onTask]

theorem Canonical.reserve {task core num} (h : s.Canonical) : (s.reserve task core num).Canonical := by
  unfold State.reserve
  exact foldl h fun s x h => h.putCtx

theorem Canonical.startWithChunk {k} (h : s.Canonical) : (s.startWithChunk k).Canonical := h.onTask.startCtx

theorem Canonical.placeGroup {task cores} (h : s.Canonical) : (s.placeGroup task cores).Canonical := by
  unfold State.placeGroup
  exact foldl (foldl h fun s c h => h.reserve).onTask fun s k h => h.startWithChunk

theorem Canonical.rejectPlaced {task ws} (h : s.Canonical) : (s.rejectPlaced task ws).Canonical := by
  grind [State.rejectPlaced, qstop, pushRecord, onTask]

theorem Canonical.execGroupPlace {task cores} (h : s.Canonical) (e : execGroupPlace task cores s = .next t) : t.Canonical := by
  grind [Machine.execGroupPlace, placeGroup, rejectPlaced]

theorem Canonical.execGangStart {task} (h : s.Canonical) (e : execGangStart task s = .next t) : t.Canonical := by
  grind [Machine.execGangStart, onTask]

theorem Canonical.dropTask {task} (h : s.Canonical) : (s.dropTask task).Canonical := h.releaseAll

theorem Canonical.complete {task} (h : s.Canonical) : (s.complete task).Canonical := h.dropTask

theorem Canonical.execTaskComplete {task} (h : s.Canonical) (e : execTaskComplete task s = .next t) : t.Canonical := by
  grind [Machine.execTaskComplete, complete]

theorem Canonical.resetDone {q} (h : s.Canonical) : (s.resetDone q).Canonical := by
  grind [State.resetDone, setQerr, setQstate, setQreg]

theorem Canonical.dropCopies {task} (h : s.Canonical) : (s.dropCopies task).Canonical := h

theorem Canonical.execTaskEnd {task} (h : s.Canonical) (e : execTaskEnd task s = .next t) : t.Canonical := by
  grind [Machine.execTaskEnd, dropCopies, releaseAll, resetDone, dropTask, qstop, pushRecord, onTask, Canonical]

theorem Canonical.execRecordWrite {q} (h : s.Canonical) (e : execRecordWrite q s = .next t) : t.Canonical := by
  grind [Machine.execRecordWrite, setQerr, setQstate, onQueue, setQreg, physStore]

/-! ### `Machine/Preempt` -/

theorem Canonical.writeQcfg {q v} (h : s.Canonical) : (s.writeQcfg q v).Canonical := by
  grind [State.writeQcfg, setQreg, setQstate, setQerr]

theorem Canonical.execQcfgEnSet {q val} (h : s.Canonical) (e : execQcfgEnSet q val s = .next t) : t.Canonical := by
  grind [Machine.execQcfgEnSet, writeQcfg]

theorem Canonical.resetQueue {q} (h : s.Canonical) : (s.resetQueue q).Canonical := by
  grind [State.resetQueue, Canonical, dropGuess, onDealer, setQstate, preEnd, onQueue, resetDone]

theorem Canonical.execQcfgEnClear {q val} (h : s.Canonical) (e : execQcfgEnClear q val s = .next t) : t.Canonical := by
  grind [Machine.execQcfgEnClear, setQreg, resetQueue]

theorem Canonical.qctlReset {q} (h : s.Canonical) : (s.qctlReset q).Canonical := by grind [State.qctlReset, resetQueue]

theorem Canonical.execQctlReset {q} (h : s.Canonical) (e : execQctlReset q s = .next t) : t.Canonical := by
  grind [Machine.execQctlReset, qctlReset]

theorem Canonical.qctlRestart {q} (h : s.Canonical) : (s.qctlRestart q).Canonical := by
  grind [State.qctlRestart, Canonical, dropGuess, onDealer, setQreg, onQueue, walkGo, setQstate]

theorem Canonical.execQctlRestart {q} (h : s.Canonical) (e : execQctlRestart q s = .next t) : t.Canonical := by
  grind [Machine.execQctlRestart, qctlRestart]

theorem Canonical.writeQspec {q v} (h : s.Canonical) : (s.writeQspec q v).Canonical := by
  grind [State.writeQspec, setQreg, dropGuess]

theorem Canonical.execQspecWrite {q val} (h : s.Canonical) (e : execQspecWrite q val s = .next t) : t.Canonical := by
  grind [Machine.execQspecWrite, writeQspec]

theorem Canonical.limitGuesses {die limit n} (h : s.Canonical) : (s.limitGuesses die limit n).Canonical := by
  induction n generalizing s with
  | zero => exact h
  | succ n ih => grind [State.limitGuesses, dropGuess]

theorem Canonical.writeDlrcfg {die v} (h : s.Canonical) : (s.writeDlrcfg die v).Canonical := h.setWin.limitGuesses

theorem Canonical.execDlrcfgWrite {die val} (h : s.Canonical) (e : execDlrcfgWrite die val s = .next t) : t.Canonical := by
  grind [Machine.execDlrcfgWrite, writeDlrcfg]

theorem Canonical.park {k} (h : s.Canonical) : (s.park k).Canonical := by grind [State.park, drain, drainToShadow, onCtx, preCheck]

theorem Canonical.execContextPark {c} (h : s.Canonical) (e : execContextPark c s = .next t) : t.Canonical := by
  grind [Machine.execContextPark, takeAsync, park]

theorem Canonical.preBegin {op task} (h : s.Canonical) : (s.preBegin op task).Canonical := h

theorem Canonical.prctl {op} (h : s.Canonical) : (s.prctl op).Canonical := by
  have hp (u : State) (l : List Nat) (hu : u.Canonical) := hu.foldl (l := l) (f := fun s k =>
    if (s.ctxAt k).st = .live then s.onCtx k (fun c => { c with sq := { c.sq with parkReq := true } }) else s) fun s k h => by
      split
      · exact h.onCtx
      · exact h
  have hr (u : State) (l : List Nat) (hu : u.Canonical) := hu.foldl (l := l) (f := fun s k => s.onCtx k Ctx.resume)
    fun s k h => h.onCtx
  unfold State.prctl
  split
  · exact h
  split
  · exact h.preEnd
  dsimp only
  split
  · grind [preEnd, preBegin, onTask, preCheck]
  · grind [preEnd, preBegin]
  · grind [preEnd, preBegin, onTask]

theorem Canonical.execPrctlPark (h : s.Canonical) (e : execPrctlPark s = .next t) : t.Canonical := by
  grind [Machine.execPrctlPark, prctl]

theorem Canonical.execPrctlEvict (h : s.Canonical) (e : execPrctlEvict s = .next t) : t.Canonical := by
  grind [Machine.execPrctlEvict, prctl]

theorem Canonical.execPrctlResume (h : s.Canonical) (e : execPrctlResume s = .next t) : t.Canonical := by
  grind [Machine.execPrctlResume, prctl]

theorem Canonical.dmaStore {p asid l} (h : s.Canonical) (e : State.dmaStore p asid l s = some t) : t.Canonical := by
  induction l generalizing s with
  | nil => cases e; exact h
  | cons x l ih => grind [State.dmaStore, physStore]

theorem Canonical.execEvictSave (h : s.Canonical) (e : execEvictSave s = .next t) : t.Canonical := by
  unfold Machine.execEvictSave at e
  split at e
  · cases e
  dsimp only at e
  split at e
  · cases e
  split at e
  · grind [preEnd, logShare]
  · next hs =>
    refine of_next (preEnd (onTask (foldl (f := fun s (r : Nat × Resv) => s.release r.1) ?_ fun _ _ h => h.release))) e
    split at hs
    · cases hs
    · exact h.dmaStore hs

theorem Canonical.moveCounters {task l} (h : s.Canonical) : (s.moveCounters task l).Canonical := h

theorem Canonical.restoreSlot {y k image state c0} (h : s.Canonical)
    (e : s.restoreSlot y k image state c0 = .ok t) : t.Canonical := by
  grind [State.restoreSlot, putCtx, putImage]

theorem Canonical.restoreSlots {y base states mk l} (h : s.Canonical) (e : State.restoreSlots y base states mk l s = .ok t) :
    t.Canonical := by
  induction l generalizing s with
  | nil => cases e; exact h
  | cons x l ih => grind [State.restoreSlots, restoreSlot]

theorem Canonical.restoreResv {y v core base} (h : s.Canonical) (e : s.restoreResv y v core base = .ok t) : t.Canonical := by
  unfold State.restoreResv at e
  dsimp only at e
  split at e
  · refine restoreSlots ?_ e
    exact h.of_bytes rfl
  · cases e

theorem Canonical.restoreAll {y save l} (h : s.Canonical) (e : State.restoreAll y save l s = .ok t) : t.Canonical := by
  induction l generalizing s with
  | nil => cases e; exact h
  | cons x l ih => grind [State.restoreAll, restoreResv]

theorem Canonical.execResumeRestore {cores} (h : s.Canonical) (e : execResumeRestore cores s = .next t) : t.Canonical := by
  unfold Machine.execResumeRestore at e
  split at e
  · cases e
  dsimp only at e
  split at e
  · cases e
  split at e
  · cases e; exact h.preEnd
  · cases e; exact h.onTask.preEnd
  · next hr =>
    cases e
    exact (h.restoreAll hr).onTask.moveCounters.preEnd

/-! ### `Machine/Guess` -/

theorem Canonical.execGuessStart {q cores} (h : s.Canonical) (e : execGuessStart q cores s = .next t) : t.Canonical := by
  grind [Machine.execGuessStart, Canonical, onDealer, placeGroup]

theorem Canonical.execGuessDrop {q cause} (h : s.Canonical) (e : execGuessDrop q cause s = .next t) : t.Canonical := by
  grind [Machine.execGuessDrop, dropGuess]

theorem Canonical.settleGuess {g} (h : s.Canonical) : (s.settleGuess g).Canonical := h.foldl fun _ _ h => h.drain

theorem Canonical.commitLine {line key kit bad} (h : s.Canonical) : (s.commitLine line key kit bad).Canonical := by
  refine List.foldlRecOn (motive := fun m => mwf 0 m = true) kit _ h.rekey fun m hm e _ => ?_
  exact mwf_mset _ _ _ _ hm

theorem Canonical.commitVersions {part kkeys floors i l} (h : s.Canonical)
    (e : s.commitVersions part kkeys floors i l = some t) : t.Canonical := by
  induction l generalizing s i with
  | nil =>
    cases e
    exact h.foldl fun s f h => h.onReam
  | cons x l ih =>
    have hf := h.foldl (l := floors.filter (fun f => f.1 = i))
      (f := fun s f => s.onReam f.2.1 (fun m => { m with floor := max m.floor f.2.2 })) fun s f h => h.onReam
    obtain ⟨line, v, bs⟩ := x
    unfold State.commitVersions at e
    dsimp only at e
    split at e
    · cases e
    split at e
    · cases e
    · next hr => exact ih (hf.makeRoom hr).makeVersion e

theorem Canonical.promote {q g l d} (h : s.Canonical) : (s.promote q g l d).Canonical := by
  have hc := h.foldl (l := d.kitty) (f := fun s e => s.commitLine e.1 (mget 0 d.kkeys e.1) e.2 (mfind d.kbad e.1).isSome)
    fun s e h => h.commitLine
  have hr := hc.foldl (l := d.recs) (f := State.addRecord) fun s r h => h.addRecord
  unfold State.promote
  dsimp only
  split
  · exact hr.onTask.onDealer.complete
  · exact hr.onTask.onDealer

theorem Canonical.execGuessClaim {q} (h : s.Canonical) (e : execGuessClaim q s = .next t) : t.Canonical := by
  grind [Machine.execGuessClaim, onDealer, settleGuess, dropGuess, commitVersions, promote]

/-! ### `Machine/Faultq` -/

theorem Canonical.execPageWalk {slice part asid va} (h : s.Canonical)
    (e : execPageWalk slice part asid va s = .next t) : t.Canonical := by
  grind [Machine.execPageWalk, Canonical, walked, logLine]

theorem Canonical.setHold {r x} (h : s.Canonical) : (s.setHold r x).Canonical := by
  cases r
  · exact h.onCtx
  · exact h.onSide
  · exact h.onCopy

theorem Canonical.sideStop {n mcause mtval} (h : s.Canonical) : (s.sideStop n mcause mtval).Canonical := by
  grind [State.sideStop, Canonical, abandon, onCtx, onSide]

theorem Canonical.refuse {r x} (h : s.Canonical) : (s.refuse r x).Canonical := by
  cases r
  · exact h.setHold.takeTrap
  · exact h.sideStop
  · unfold State.refuse
    grind [setHold, failCopy]

theorem Canonical.resolve {r} (h : s.Canonical) : (s.resolve r).Canonical := by
  cases r
  · exact h.onCtx
  · exact h.setHold
  · exact h.setHold.onCopy

theorem Canonical.fqStore {part key pa bs} (h : s.Canonical) : (s.fqStore part key pa bs).Canonical := by
  grind [State.fqStore, physStore]

theorem Canonical.execFaultPost {c} (h : s.Canonical) (e : execFaultPost c s = .next t) : t.Canonical := by
  unfold Machine.execFaultPost at e
  split at e
  · cases e
  split at e
  · cases e
  dsimp only at e
  split at e
  · cases e
  split at e
  · cases e; exact h.refuse
  split at e
  · cases e; exact setHold h.fqStore
  split at e
  · cases e
  · cases e; exact setHold h.fqStore

theorem Canonical.verdict {part die id v} (h : s.Canonical) : (s.verdict part die id v).Canonical := by
  unfold State.verdict
  dsimp only
  split
  · exact h
  · refine foldl h fun s x h => ?_
    split
    · exact h.resolve
    · exact h.refuse

theorem Canonical.execVerdictResolve {part die id} (h : s.Canonical)
    (e : execVerdictResolve part die id s = .next t) : t.Canonical := by
  grind [Machine.execVerdictResolve, verdict]

theorem Canonical.execVerdictRefuse {part die id} (h : s.Canonical)
    (e : execVerdictRefuse part die id s = .next t) : t.Canonical := by
  grind [Machine.execVerdictRefuse, verdict]

theorem Canonical.writeReam {part n v} (h : s.Canonical) : (s.writeReam part n v).Canonical := by
  unfold State.writeReam
  dsimp only
  split
  · split
    · exact h
    · exact h.of_bytes rfl
  split
  · exact h.setWin
  split
  · exact h.of_bytes rfl
  · exact h.setWin.setWin

theorem Canonical.execReamValidSet {part n val} (h : s.Canonical) (e : execReamValidSet part n val s = .next t) : t.Canonical := by
  grind [Machine.execReamValidSet, writeReam]

theorem Canonical.execReamValidClear {part n val} (h : s.Canonical)
    (e : execReamValidClear part n val s = .next t) : t.Canonical := by
  grind [Machine.execReamValidClear, writeReam]

theorem Canonical.execReamReady {part n} (h : s.Canonical) (e : execReamReady part n s = .next t) : t.Canonical := by
  grind [Machine.execReamReady, Canonical]

theorem Canonical.rekeyed {k old} (h : s.Canonical) : (s.rekeyed k old).Canonical := by
  unfold State.rekeyed
  dsimp only
  split
  · exact h
  · exact List.foldlRecOn (motive := fun m => mwf 0 m = true) _ _ h fun m hm l _ => mwf_mwrite _ _ _ _ hm

theorem Canonical.writeKey {addr v} (h : s.Canonical) : (s.writeKey addr v).Canonical := by
  unfold State.writeKey
  dsimp only
  split
  · exact h
  · exact rekeyed h

theorem Canonical.execKeySlotWrite {addr val} (h : s.Canonical) (e : execKeySlotWrite addr val s = .next t) : t.Canonical := by
  grind [Machine.execKeySlotWrite, writeKey]

end State

end Sys2Proof.Machine
end

section
/-!
SUPPORT. The management window and the port keep memory canonical.
-/

namespace Sys2Proof.Machine

namespace State

variable {s t : State}

/-! ### `Machine/Sidecar` -/

theorem Canonical.wx {n r v} (h : s.Canonical) : (s.wx n r v).Canonical := h

theorem Canonical.sideLog {n data a} (h : s.Canonical) : (s.sideLog n data a).Canonical := by grind [State.sideLog, logError]

theorem Canonical.sideSetTag {n off full} (h : s.Canonical) : (s.sideSetTag n off full).Canonical := h

theorem Canonical.sideMove {n j hd prod m} (h : s.Canonical) : (s.sideMove n j hd prod m).Canonical := h

/-! ### `Machine/Window` -/

theorem Canonical.fatal (h : s.Canonical) : s.fatal.Canonical := h

theorem Canonical.rebooted (s : State) : s.rebooted.Canonical := (rfl : mwf 0 ([] : SMap Byte) = true)

theorem Canonical.readDebug {core o} (h : s.Canonical) : (s.readDebug core o).1.Canonical := by grind [State.readDebug, takeFree]

theorem Canonical.winRead {a} (h : s.Canonical) : (s.winRead a).1.Canonical := by
  unfold State.winRead
  iterate 9 (split; · exact h)
  split
  · exact h.readDebug
  · exact h

theorem Canonical.setMasked {a mask v} (h : s.Canonical) : (s.setMasked a mask v).Canonical := h

theorem Canonical.qcfgWrite {q v} (h : s.Canonical) : (s.qcfgWrite q v).Canonical := by
  grind [State.qcfgWrite, writeQcfg, setQreg, resetQueue]

theorem Canonical.writeQueue {q o v} (h : s.Canonical) : (s.writeQueue q o v).Canonical := by
  unfold State.writeQueue
  dsimp only
  split <;> grind [qcfgWrite, setMasked, qctlReset, qctlRestart, writeQspec]

theorem Canonical.writeDisp {a v} (h : s.Canonical) (e : s.writeDisp a v = some t) : t.Canonical := by
  grind [State.writeDisp, writeDlrcfg, setWin, setMasked, prctl, writeQueue]

theorem Canonical.writeStacks {p v} (h : s.Canonical) : (s.writeStacks p v).Canonical := by grind [State.writeStacks, setWin]

theorem Canonical.writeFq {p d o v} (h : s.Canonical) : (s.writeFq p d o v).Canonical := by
  unfold State.writeFq
  dsimp only
  split <;> grind [setMasked, verdict]

theorem Canonical.writeReamWord {p n o v} (h : s.Canonical) : (s.writeReamWord p n o v).Canonical := by
  unfold State.writeReamWord
  dsimp only
  split <;> grind [writeReam, setMasked]

theorem Canonical.writePart {a v} (h : s.Canonical) (e : s.writePart a v = some t) : t.Canonical := by
  unfold State.writePart at e
  dsimp only at e
  split at e
  · cases e
  split at e
  · exact h.setMasked.of_some e
  split at e
  · exact h.writeReamWord.of_some e
  split at e
  · exact h.writeFq.of_some e
  · refine of_some ?_ e
    split
    · exact h.writeStacks
    · exact h.setMasked
    · exact h.setMasked
    · exact h.setMasked
    · exact h.setWin
    · exact h.setMasked

theorem Canonical.attGo {v} (h : s.Canonical) : (s.attGo v).Canonical := by grind [State.attGo, Canonical]

theorem Canonical.writePort {a v} (h : s.Canonical) : (s.writePort a v).Canonical := by grind [State.writePort, setMasked, setWin]

theorem Canonical.writeCap {v} (h : s.Canonical) : (s.writeCap v).Canonical := by grind [State.writeCap, setWin]

theorem Canonical.writePlat {a v} (h : s.Canonical) (e : s.writePlat a v = some t) : t.Canonical := by
  unfold State.writePlat at e
  dsimp only at e
  split at e
  · cases e
  refine of_some ?_ e
  split
  · exact h.setMasked
  split
  · grind [rebooted]
  split
  · grind [setMasked]
  split
  · exact h.writeCap
  split
  · exact h.setWin
  split
  · exact h.attGo
  split
  · exact h.writePort
  split
  · split
    · exact h.setMasked
    · exact h.setMasked
    · exact h.setWin
  · exact h

theorem Canonical.haltReq {core} (h : s.Canonical) : (s.haltReq core).Canonical := by grind [State.haltReq, onCore]

theorem Canonical.haltEnd {core} (h : s.Canonical) : (s.haltEnd core).Canonical := by grind [State.haltEnd, onCore]

theorem Canonical.writeDebug {core o v} (h : s.Canonical) (e : s.writeDebug core o v = some t) : t.Canonical := by
  grind [State.writeDebug, haltReq, haltEnd]

theorem Canonical.winWrite {a v} (h : s.Canonical) (e : s.winWrite a v = some t) : t.Canonical := by
  -- one test of the address for each window; an address in none is refused
  unfold State.winWrite at e
  refine of_ite e nofun fun e => of_ite e h.writeDisp fun e => of_ite e h.writePart fun e => of_ite e h.writeKey.of_some fun e =>
    of_ite e h.setMasked.of_some fun e => of_ite e h.writePlat fun e => of_ite e (fun e => of_ite e nofun fun e => ?_) fun e =>
    of_ite e (of_some (by exact h)) fun e => of_ite e (fun e => ?_) fun e => of_ite e h.writeDebug nofun
  · exact of_ite e (of_some (by exact h)) h.of_some
  · obtain ⟨x, -, rfl⟩ := Option.map_eq_some_iff.1 e
    exact h.putEntry

theorem Canonical.execRegisterWrite {addr val} (h : s.Canonical) (e : execRegisterWrite addr val s = .next t) : t.Canonical := by
  unfold Machine.execRegisterWrite at e
  split at e
  · cases e
    cases hw : s.winWrite addr val with
    | none => exact h
    | some u => exact h.winWrite hw
  · cases e; exact h

theorem Canonical.execPackageResetWrite (_ : s.Canonical) (e : execPackageResetWrite s = .next t) : t.Canonical := by
  grind [Machine.execPackageResetWrite, rebooted]

theorem Canonical.execPowerOn (_ : s.Canonical) (e : execPowerOn s = .next t) : t.Canonical := by
  grind [Machine.execPowerOn, rebooted]

theorem Canonical.execBringupDone (h : s.Canonical) (e : execBringupDone s = .next t) : t.Canonical := by
  grind [Machine.execBringupDone, Canonical]

theorem Canonical.execAttgo (h : s.Canonical) (e : execAttgo s = .next t) : t.Canonical := by cases e; exact h

theorem Canonical.execAttestDone (h : s.Canonical) (e : execAttestDone s = .next t) : t.Canonical := by
  grind [Machine.execAttestDone, Canonical]

theorem Canonical.execHaltreq {core} (h : s.Canonical) (e : execHaltreq core s = .next t) : t.Canonical := by
  grind [Machine.execHaltreq, haltReq]

theorem Canonical.execRelease {core} (h : s.Canonical) (e : execRelease core s = .next t) : t.Canonical := by
  grind [Machine.execRelease, haltEnd]

/-! ### `Machine/Ports` -/

theorem Canonical.send {f} (h : s.Canonical) : (s.send f).Canonical := h

theorem Canonical.portDone {f status data} (h : s.Canonical) : (s.portDone f status data).Canonical := h

theorem Canonical.portTake {f op act} (h : s.Canonical) (ha : (act s).Canonical)
    (e : s.portTake f op act = .next t) : t.Canonical := by
  unfold State.portTake at e
  split at e
  · cases e
  split at e <;> cases e
  · exact ha
  · exact h.send
  · exact h.send

theorem Canonical.readRegs {a n} (h : s.Canonical) : (s.readRegs a n).1.Canonical := by
  induction n generalizing s a with
  | zero => exact h
  | succ n ih =>
    have hw := h.winRead (a := a)
    unfold State.readRegs
    split
    · exact h
    split
    · exact h
    split
    · next hq => exact (hq ▸ hw :)
    · next s1 v hq =>
      have hr := ih (a := a + 8) (hq ▸ hw : (s1, some v).1.Canonical)
      split
      · next hq => exact (hq ▸ hr :)
      · exact hr

theorem Canonical.writeRegs {a bs n} (h : s.Canonical) : (s.writeRegs a bs n).1.Canonical := by
  induction n generalizing s a bs with
  | zero => exact h
  | succ n ih => grind [State.writeRegs, winWrite]

theorem Canonical.execWindowRead {f} (h : s.Canonical) (e : execWindowRead f s = .next t) : t.Canonical := by
  refine portTake h ?_ e
  grind [readRegs, portDone]

theorem Canonical.execWindowWrite {f} (h : s.Canonical) (e : execWindowWrite f s = .next t) : t.Canonical := by
  refine portTake h ?_ e
  grind [writeRegs, portDone]

theorem Canonical.execMemoryRead {f} (h : s.Canonical) (e : execMemoryRead f s = .next t) : t.Canonical := by
  unfold Machine.execMemoryRead at e
  split at e
  · cases e
  refine portTake h ?_ e
  dsimp only
  split
  · exact h.portDone
  split
  · exact h.logLine.portDone
  · exact portDone (h.foldl fun _ _ h => h.fill)

theorem Canonical.execMemoryWrite {f} (h : s.Canonical) (e : execMemoryWrite f s = .next t) : t.Canonical := by
  unfold Machine.execMemoryWrite at e
  split at e
  · cases e
  refine portTake h ?_ e
  dsimp only
  split
  · exact h.portDone
  · exact portDone (h.foldl fun _ _ h => h.storeLine)

theorem Canonical.execRecoveryStage {f} (h : s.Canonical) (e : execRecoveryStage f s = .next t) : t.Canonical := by
  unfold Machine.execRecoveryStage at e
  split at e
  · cases e
  refine portTake h ?_ e
  exact portDone (f := f) (status := 0) (data := []) (h.of_bytes rfl)

theorem Canonical.execRecoveryCommit {f} (h : s.Canonical) (e : execRecoveryCommit f s = .next t) : t.Canonical := by
  unfold Machine.execRecoveryCommit at e
  split at e
  · cases e
  refine portTake h ?_ e
  dsimp only
  split
  · exact rebooted _
  · exact h.portDone

theorem Canonical.execMalformedFrame {f} (h : s.Canonical) (e : execMalformedFrame f s = .next t) : t.Canonical := by
  grind [Machine.execMalformedFrame, send]

theorem Canonical.execFcsDrop {f} (h : s.Canonical) (e : execFcsDrop f s = .next t) : t.Canonical := by
  grind [Machine.execFcsDrop, countError]

theorem Canonical.execPtpMessage {offset} (h : s.Canonical) (e : execPtpMessage offset s = .next t) : t.Canonical := by
  cases e
  exact h

theorem Canonical.execGangAnnounce {pkg gangid gpart gpkgs} (h : s.Canonical)
    (e : execGangAnnounce pkg gangid gpart gpkgs s = .next t) : t.Canonical := by
  grind [Machine.execGangAnnounce, Canonical]

theorem Canonical.execUePacket {p} (h : s.Canonical) (e : execUePacket p s = .next t) : t.Canonical := by
  cases p <;> grind [Machine.execUePacket, Canonical]

theorem Canonical.execLinkLost {task unit_} (h : s.Canonical) (e : execLinkLost task unit_ s = .next t) : t.Canonical := by
  grind [Machine.execLinkLost, failColl]

theorem Canonical.execPortStateChange {port st} (h : s.Canonical) (e : execPortStateChange port st s = .next t) : t.Canonical := by
  grind [Machine.execPortStateChange, setWin]

theorem Canonical.execFlitReplay {link} (h : s.Canonical) (e : execFlitReplay link s = .next t) : t.Canonical := by
  grind [Machine.execFlitReplay, Canonical, countError, fatal, logError]

theorem Canonical.execNocParityResend {router second} (h : s.Canonical)
    (e : execNocParityResend router second s = .next t) : t.Canonical := by
  grind [Machine.execNocParityResend, countError, fatal, logError]

theorem Canonical.execDieOvertemp {die} (h : s.Canonical) (e : execDieOvertemp die s = .next t) : t.Canonical := by
  grind [Machine.execDieOvertemp, fatal]

theorem Canonical.execGovernorTick {power hot cool} (h : s.Canonical)
    (e : execGovernorTick power hot cool s = .next t) : t.Canonical := by
  cases e
  exact h

end State

end Sys2Proof.Machine
end

section
/-!
SUPPORT. Loads, vector results, versions, and what the model does of itself keep memory canonical.
-/

namespace Sys2Proof.Machine

namespace State

variable {s t : State}

/-! ### `Machine/LMem` -/

theorem Canonical.wordWait {i f full tag e} (h : s.Canonical) : (wordWait i f full tag e s).1.Canonical := by
  grind [Machine.wordWait, lmWait, drainSpans, noteTags]

theorem Canonical.performEvent {k pick} (h : s.Canonical) (e : performEvent k pick s = .next t) : t.Canonical := by
  grind [Machine.performEvent, perform]

theorem Canonical.execLoadReturn {c id} (h : s.Canonical) (e : execLoadReturn c id s = .next t) : t.Canonical := by
  grind [Machine.execLoadReturn, performEvent]

theorem Canonical.execStorePerformed {c id} (h : s.Canonical) (e : execStorePerformed c id s = .next t) : t.Canonical := by
  grind [Machine.execStorePerformed, performEvent]

theorem Canonical.execRedCombine {c id elem} (h : s.Canonical) (e : execRedCombine c id elem s = .next t) : t.Canonical := by
  grind [Machine.execRedCombine, performEvent]

/-! ### `Machine/Quant` -/

theorem Canonical.putFp32s {e f l} (h : s.Canonical) : (s.putFp32s e f l).Canonical := h.foldl fun _ _ h => h.wrPart

theorem Canonical.putCodes {e f codes scales} (h : s.Canonical) : (s.putCodes e f codes scales).Canonical := by
  grind [State.putCodes, wrPart]

/-! ### `Machine/Version` -/

theorem Canonical.askVer {k a} (h : s.Canonical) : (s.askVer k a).Canonical := h

theorem Canonical.verWait {i f z store blocked e} (h : s.Canonical) (hb : ∀ e s v, s.Canonical → (blocked e s v).1.Canonical) :
    (verWait i f z store blocked e s).1.Canonical := by
  grind [verWait, lmWait, drainBefore]

theorem Canonical.execVersionReclaim {line ver} (h : s.Canonical) (e : execVersionReclaim line ver s = .next t) : t.Canonical := by
  grind [Machine.execVersionReclaim, dropVersion]

/-! ### `Machine/Sched` -/

theorem Canonical.fetchFault {k va e} (h : s.Canonical) : (s.fetchFault k va e).Canonical := by
  have hk (u : State) (b : Bool) (p : PendTrap) (hu : u.Canonical) : (if b then u.hold k p else u.takeTrap k p).Canonical := by
    split
    · exact hu.hold
    · exact hu.takeTrap
  cases e with
  | walkError pa => exact hk _ _ _ h.logPhys
  | _ => exact hk _ _ _ h

theorem Canonical.exitEnd {k} (h : s.Canonical) : (s.exitEnd k).Canonical := by grind [State.exitEnd, trapIssue, onCtx, retire]

theorem Canonical.execWaitLimitTrap {c} (h : s.Canonical) (e : execWaitLimitTrap c s = .next t) : t.Canonical := by
  grind [Machine.execWaitLimitTrap, trapDue]

theorem Canonical.execIdleRun {n} (h : s.Canonical) (e : execIdleRun n s = .next t) : t.Canonical := by
  grind [Machine.execIdleRun, Canonical, settle, finish, onCtx]

theorem Canonical.execIdleRunEnd (h : s.Canonical) (e : execIdleRunEnd s = .next t) : t.Canonical := by
  grind [Machine.execIdleRunEnd, onMe, onCore]

/-! ### `Machine/Agents` -/

theorem Canonical.tick {n u} (h : s.Canonical) : (s.tick n u).Canonical := h

theorem Canonical.strike {line} (h : s.Canonical) : (s.strike line).Canonical := h

theorem Canonical.strikeShare {r word} (h : s.Canonical) : (s.strikeShare r word).Canonical := by grind [State.strikeShare, onResv]

theorem Canonical.evictLine {line} (h : s.Canonical) : (s.evictLine line).Canonical := h

theorem Canonical.wordLost {c core place set} (h : s.Canonical) (hs : ∀ v s, s.Canonical → (set v s).Canonical) :
    (s.wordLost c core place set).Canonical := by
  grind [State.wordLost, takeFree, logError]

theorem Canonical.soft {f} (h : s.Canonical) : (s.soft f).Canonical := by
  unfold State.soft
  split
  · grind [countError]
  · exact h
  · exact h.onCore
  · grind [onDealer]
  · grind [onCtx]
  · split
    · split
      · exact h
      · exact h.wordLost fun v s h => h.onCtx
    · exact h
  · split
    · exact h
    · exact h.wordLost fun v s h => h.onSide
  · split
    · split
      · exact h
      · exact h.wordLost fun v s h => h.onResv
    · exact h
  · exact h.onSide

end State

end Sys2Proof.Machine
end

section
/-!
SUPPORT. Every slot operation keeps memory canonical: the forms that operations share, then the operations that have one of
their own.
-/

namespace Sys2Proof.Machine

open State

/-! ### Shared forms -/

theorem sWrite_keeps {sd : BitVec 6} {g : Regs → W64} : (sWrite sd g).Keeps := fun _ _ h => ⟨h, h.wr⟩

theorem cWrite_keeps {n : Nat} {g : Regs → Bool} : (cWrite n g).Keeps := fun _ _ h => ⟨h, h.onCtx⟩

theorem fWrite_keeps {f : SR} {g : Fl → Rnd → BitVec 32 → Regs → Nat} : (fWrite f g).Keeps := fun _ _ h => ⟨h, h.drawS.wr⟩

theorem mailDo_keeps {k : Nat} {kind : AccKind} {dest : Env → Dest} {data : Env → W64} : (mailDo k kind dest data).Keeps :=
  fun _ s h => ⟨h, by grind [mailDo, Canonical.noteDrop, Canonical.launch]⟩

theorem vDo_keeps {i : Instr} {act : Env → State → State} (ha : ∀ e s, s.Canonical → (act e s).Canonical) :
    (vDo i act).Keeps := fun e s h => ⟨h.vWait, by grind [vDo, Canonical.logAccess]⟩

theorem vrWith_keeps {i : Instr} {f : VR} {rounds : Bool} {act : Env → VIn → State → State}
    (ha : ∀ e x s, s.Canonical → (act e x s).Canonical) : (vrWith i f rounds act).Keeps :=
  vDo_keeps fun _ _ h => ha _ _ _ h.drawsOf

theorem vrOp_keeps {i : Instr} {f : VR} {rounds : Bool} {g : VIn → List Nat} : (vrOp i f rounds g).Keeps :=
  vrWith_keeps fun _ _ _ h => h.wrPart

theorem vrAll_keeps {i : Instr} {f : VR} {rounds : Bool} {g : VIn → List Nat} : (vrAll i f rounds g).Keeps :=
  vrWith_keeps fun _ _ _ h => h.wrPart

theorem vrMask_keeps {i : Instr} {f : VR} {g : VIn → Nat} : (vrMask i f g).Keeps :=
  vrWith_keeps fun _ _ _ h => h.onCtx

theorem vrScalar_keeps {i : Instr} {f : VR} {rounds : Bool} {g : VIn → W64} : (vrScalar i f rounds g).Keeps :=
  vrWith_keeps fun _ _ _ h => h.wr

theorem compressTo_keeps {i : Instr} {f : VR} {keep : Bool} : (compressTo i f keep).Keeps := vrWith_keeps fun _ _ _ h => h.wrPart.wr

theorem vqDo_keeps {i : Instr} {f : VQ} {act : Env → State → State} (ha : ∀ e s, s.Canonical → (act e s).Canonical) :
    (vqDo i f act).Keeps := vDo_keeps ha

theorem rowRead_keeps {i : Instr} {f : VR} {row : Bool} : (rowRead i f row).Keeps := fun e s h => by
  refine ⟨h, ?_⟩
  have hs {n : Nat} {b : Bool} : (if b then s.takeFree n else (0, s)).2.Canonical := by
    split
    · exact h.takeFree
    · exact h
  unfold rowRead
  dsimp only
  split
  · exact hs.logAcc.onCtx
  · exact hs.foldl fun _ _ h => h.wrPart

theorem rowWrite_keeps {i : Instr} {f : VR} {row : Bool} : (rowWrite i f row).Keeps :=
  fun _ _ h => ⟨h.stallFor.vWait, (vDo_keeps fun _ _ h => h.onCtx : SlotSem.Keeps _) _ _ h |>.2⟩

theorem loadSem_keeps {f : MX} : (loadSem f).Keeps :=
  fun e s h => ⟨h, by grind [loadSem, Canonical.imgRead, Canonical.onCtx, Canonical.enqueue]⟩

theorem prodSem_keeps {f : MX} : (prodSem f).Keeps := fun _ _ h => ⟨h, h.imgRead.product⟩

theorem lmDo_keeps {i : Instr} {f : LM} {wins : List Win} {z : Nat} {u : Use} {store : Bool} {eas : Env → List W64}
    {go : Env → List (W64 × Loc × Option Nat) → State → State × Option Trap}
    (hg : ∀ e l s, s.Canonical → (go e l s).1.Canonical) : (lmDo i f wins z u store eas go).Keeps :=
  fun e s h => ⟨h.lmWait, by grind [lmDo, Canonical.placeAll, Canonical.noteDrop]⟩

theorem wordDo_keeps {i : Instr} {f : LM} {full : Option Bool} {store : Bool} {tag : Option Bool} :
    (wordDo i f full store tag).Keeps :=
  fun e s h => ⟨h.wordWait, by grind [wordDo, Canonical.performNow, Canonical.onResv]⟩

theorem tagsDo_keeps {i : Instr} {f : LM} {full : Bool} : (tagsDo i f full).Keeps :=
  fun e s h => ⟨h.lmWait, by grind [tagsDo, Canonical.performNow]⟩

theorem verLoad_keeps {i : Instr} {f : LM} {kind : Nat → AccKind} {found : Nat → List Nat → Bool}
    {blocked : Env → State → VerAsk → State × Option Wait} (hb : ∀ e s v, s.Canonical → (blocked e s v).1.Canonical) :
    (verLoad i f kind found blocked).Keeps := fun e s h => by
  refine ⟨h.verWait hb, ?_⟩
  have hp : (s.place e (sizeOf f.sz) .version false e.o.addrA).1.Canonical := h.place
  unfold verLoad
  dsimp only
  split
  · next hq =>
    rw [hq] at hp
    split
    · exact hp
    split
    · exact hp.noteRead.launch
    split
    · exact hp
    · exact hp.launch
  · next hq => exact (hq ▸ hp :)
  · next hq => exact (hq ▸ hp :)

theorem verPlain_keeps {i : Instr} {f : LM} {store : Bool} {kind : Env → AccKind} {dest : Env → Dest} :
    (verPlain i f store kind dest).Keeps := lmDo_keeps fun _ _ _ h => h.launch

theorem copyDo_keeps {f : LC} {dstGlob srcGlob : Bool} {image : Env → Option W64} {i : Instr} :
    (copyDo f dstGlob srcGlob image i).Keeps := fun _ _ h => ⟨h.ask.ask, h.drainSpans.issueCopy⟩

theorem cbBlock_keeps {i : Instr} {f : LM} {prod : Bool} : (cbBlock i f prod).Keeps := fun _ _ h => ⟨h.lmWait, h⟩

/-! ### Scalar and vector operations -/

theorem semFcvt_keeps {f : SR} : (semFcvt f).Keeps := fun _ _ h => ⟨h, h.drawS.wr⟩

theorem semVshuf_keeps {f : VR} : (semVshuf f).Keeps := vrWith_keeps fun _ _ _ h => h.wrPart

theorem semVhist_keeps {f : VR} : (semVhist f).Keeps := vrWith_keeps fun _ _ _ h => h.wrPart

theorem semVcvt_keeps {f : VR} : (semVcvt f).Keeps := vDo_keeps fun _ _ h => h.drawsOf.wrPart

theorem semVsrseed_keeps {f : VR} : (semVsrseed f).Keeps := vDo_keeps fun _ _ h => h.onCtx

theorem semVqnt_keeps {f : VQ} : (semVqnt f).Keeps := vqDo_keeps fun _ s h => by
  dsimp only
  split
  · exact h.drawsOf.putCodes.sendRecord
  · exact h.drawsOf.putCodes

theorem semVdq_keeps {f : VQ} : (semVdq f).Keeps := vqDo_keeps fun _ _ h => h.putFp32s

theorem semVqc4_keeps {f : VQ} : (semVqc4 f).Keeps := vqDo_keeps fun _ s h => by
  dsimp only
  split
  · exact h.drawsOf.putCodes.sendRecord
  · exact h.drawsOf.putCodes

theorem semVdqc4_keeps {f : VQ} : (semVdqc4 f).Keeps := vqDo_keeps fun _ _ h => h.drawsOf.putFp32s

/-! ### The matrix queue -/

theorem semMswap_keeps {f : MC} : (semMswap f).Keeps := fun _ _ h => ⟨h, h.onCtx.enqueue⟩

theorem semMmas_keeps {f : MX} : (semMmas f).Keeps :=
  fun e s h => ⟨h, by grind [semMmas, Canonical.metaAt, Canonical.imgRead, Canonical.onCtx, Canonical.product]⟩

theorem semMmac_keeps {f : MX} : (semMmac f).Keeps := fun _ _ h => ⟨h, h.drawsOf.product⟩

theorem semAzero_keeps {f : MC} : (semAzero f).Keeps := fun _ _ h => ⟨h, h.onCtx.enqueue⟩

theorem semAcvt_keeps {f : MC} : (semAcvt f).Keeps := fun _ _ h => ⟨h, h.drawsOf.onCtx.enqueue⟩

theorem semAadd_keeps {f : MC} : (semAadd f).Keeps := fun _ _ h => ⟨h, h.drawsOf.onCtx.enqueue⟩

theorem semAwait_keeps {f : MC} : (semAwait f).Keeps := fun _ _ h => ⟨h.stallFor, h⟩

theorem semAwaitAll_keeps {f : MC} : (semAwaitAll f).Keeps := fun _ _ h => ⟨h.mFinish, h⟩

theorem semAclr_keeps {f : MC} : (semAclr f).Keeps := fun _ _ h => ⟨h, h.onCtx.enqueue⟩

theorem semAload_keeps {f : MC} : (semAload f).Keeps :=
  fun e s h => ⟨h, by grind [semAload, Canonical.drainBefore, Canonical.onCtx, Canonical.logShare, Canonical.enqueue]⟩

/-! ### Memory, copies and rings -/

theorem semAmo_keeps {f : LM} : (semAmo f).Keeps := lmDo_keeps fun _ _ _ h => h.launch

theorem semRed_keeps {f : LM} : (semRed f).Keeps := lmDo_keeps fun _ _ _ h => h.launch

theorem semVerst_keeps {f : LM} : (semVerst f).Keeps :=
  fun e s h => ⟨h.verWait fun _ _ _ h => h, by
    grind [semVerst, Canonical.place, Canonical.noteDrop, Canonical.performNow]⟩

theorem semPf_keeps {f : LM} : (semPf f).Keeps :=
  fun e s h => ⟨h.lmWait, by grind [semPf, Canonical.xlateCtx, Canonical.fill]⟩

theorem semStopk_keeps {f : LM} : (semStopk f).Keeps :=
  fun e s h => ⟨h.lmWait, by
    grind [semStopk, Canonical.drainBefore, Canonical.logAccess, Canonical.onCtx, Canonical.performNow, Canonical]⟩

theorem semCbpop_keeps {f : LM} : (semCbpop f).Keeps := fun _ _ h => ⟨h.lmWait.noteTags, h.performNow.moveRing⟩

theorem semCbpush_keeps {f : LM} : (semCbpush f).Keeps := fun _ s h =>
  ⟨by grind [semCbpush, Canonical.lmWait, Canonical.ask, Canonical.noteTags], by
    grind [semCbpush, Canonical.moveRing, Canonical.launch, Canonical.performNow]⟩

theorem semColl_keeps {f : LC} : (semColl f).Keeps := fun e s h => by
  obtain ⟨hw, hb⟩ : ((copyDo f true true (fun _ => none) (.coll f)).wait e s).1.Canonical ∧
      ((copyDo f true true (fun _ => none) (.coll f)).act e s).1.Canonical := copyDo_keeps e s h
  refine ⟨hw, ?_⟩
  unfold semColl
  dsimp only
  split
  · exact h.noteDrop
  split
  · split
    · exact hb.joinColl
    · exact hb.failCopy
  · exact hb

/-! ### Control and ordering -/

theorem semBt_keeps {f : BT} : (semBt f).Keeps := fun _ s h => ⟨h, by grind [semBt, Canonical.jump]⟩

theorem semLoop_keeps {f : BL} : (semLoop f).Keeps := fun _ s h => ⟨h, by
  grind [semLoop, Canonical.afterEnd, Canonical.jump, Canonical.onCtx]⟩

theorem semYield_keeps {f : BG} : (semYield f).Keeps := fun _ s h => ⟨by grind [semYield, Canonical.onCtx], h⟩

theorem semSpawn_keeps {f : BG} : (semSpawn f).Keeps :=
  fun _ s h => ⟨h, by grind [semSpawn, Canonical.drain, Canonical.startCtx]⟩

theorem semHandreq_keeps {f : BG} : (semHandreq f).Keeps := fun _ s h =>
  ⟨by grind [semHandreq, Canonical.askHands], by grind [semHandreq, Canonical.changeHands]⟩

theorem semHandrel_keeps {f : BG} : (semHandrel f).Keeps := fun _ s h => ⟨h, by
  grind [semHandrel, Canonical.changeHands]⟩

theorem semBret_keeps {f : BG} : (semBret f).Keeps := fun e s h => by
  refine ⟨h, ?_⟩
  grind [semBret, Canonical.mFinish, Canonical.onCtx]

theorem semFenceS_keeps {f : BG} : (semFenceS f).Keeps := fun e s h => ⟨h, by grind [semFenceS, Canonical]⟩

theorem semBar_keeps {f : BG} : (semBar f).Keeps := fun _ _ h => ⟨h.barWait, h.wr⟩

theorem semBarArv_keeps {f : BG} : (semBarArv f).Keeps := fun _ _ h => ⟨h.barWait, h.wr⟩

theorem semTagffr_keeps {f : BG} : (semTagffr f).Keeps :=
  fun _ s h => ⟨h, by grind [semTagffr, Canonical.wr, Canonical.onCtx]⟩

/-! ### The Calender, the Dealer and the supervisor -/

theorem semCstep_keeps {f : BG} : (semCstep f).Keeps := fun _ s h => ⟨h, by
  grind [semCstep, Canonical.noteDrop, Canonical.evalRange, Canonical.settleRecords, Canonical.onCtx]⟩

theorem semCset_keeps {f : BG} : (semCset f).Keeps := fun _ s h => ⟨h, by
  grind [semCset, Canonical.noteDrop, Canonical.settleRecords, Canonical.putEntry]⟩

theorem semCpin_keeps {f : BG} : (semCpin f).Keeps := fun _ s h => ⟨h, by
  grind [semCpin, Canonical.noteDrop, Canonical.settleRecords, Canonical.putEntry]⟩

theorem semCread_keeps {f : BG} : (semCread f).Keeps := fun _ s h => ⟨h, by
  grind [semCread, Canonical.settleRecords, Canonical.wr]⟩

theorem semDhint_keeps {f : BG} : (semDhint f).Keeps := fun _ s h => ⟨h, by
  grind [semDhint, Canonical.noteDrop, Canonical.dropGuess, Canonical.onDealer]⟩

theorem semTlbinv_keeps {f : BG} : (semTlbinv f).Keeps := fun _ _ h => ⟨h.tlbinvWait, h.onCtx⟩

theorem semCtxsave_keeps {f : BG} : (semCtxsave f).Keeps := fun e s h => by
  refine ⟨h, ?_⟩
  have hs := h.imgStore (e := e) (a := e.c.r.rs f.sa.toNat)
    (l := (s.ctxAt (slotKey f e)).imageOut (e.c.r.rs f.sa.toNat)) (tr := none)
  unfold semCtxsave
  dsimp only
  split
  · next hq => exact Canonical.onCtx (hq ▸ hs :)
  · next hq => exact (hq ▸ hs :)

theorem semCtxrestore_keeps {f : BG} : (semCtxrestore f).Keeps := fun e s h => by
  refine ⟨h, ?_⟩
  have h1 := h.imgLoad (e := e) (a := e.c.r.rs f.sa.toNat) (l := upto 256)
  unfold semCtxrestore
  dsimp only
  split
  · next hq => exact (hq ▸ h1 :)
  · next hq =>
    rw [hq] at h1
    split
    · next hq => exact (hq ▸ h1.imgLoad :)
    · next hq => exact Canonical.putImage (hq ▸ h1.imgLoad :)

/-! ### All of them -/

/-- Every slot operation keeps memory canonical. -/
theorem slotSem_keeps {i : Instr} {m : SlotSem} (e : slotSem i = some m) : m.Keeps := by
  cases i <;> cases e
  case addr | rdsys | rdtime | acfg | mpcset | mstat | cbcfg | br | call | ret | jr | loopw | brk | trap | exit | nextr | waitsb |
    fence | barwait | tagwaitany | tagwaitall | tlwait | tlwaitBind | tlwaitRead | blend | dstat | mtsy | mfsy | eret | eretEnd |
      halt => exact fun _ _ h => ⟨h, h⟩
  case add | sub | addi | mul | mulh | mulhu | div | divu | rem | remu | and | or | xor | andn | shl | shr | sra | shli | shri |
    srai | clz | ctz | popc | min | max | minu | maxu | sel | li | lui | mov | sext | zext | bfx | bfi | fmin | fmax | fmvx |
      rdd => exact sWrite_keeps
  case cmp | fcmp => exact cWrite_keeps
  case fadd | fsub | fmul | fmadd | fdiv | fsqrt => exact fWrite_keeps
  case mbrd | mbwr => exact mailDo_keeps
  case vadd | vsub | vmul | vmulh | vmadd | vabs | vneg | vmin | vmax | vsadd | vssub | vshl | vshr | vsra | vand | vor | vxor |
    vnot | vclz | vpopc | vfadd | vfsub | vfmul | vfma | vfms | vfmin | vfmax | vfabs | vfneg | vfrcp | vfrsqrt | vfsqrt | vfexp2 |
      vflog2 | vftanh | vferf | vfsin | vfcos | vcmul | vcmla | vmov | vbcast | vperm | vslide | vzip | vunzip => exact vrOp_keeps
  case vcmp | vfcmp | mand | mor | mxor | mnot => exact vrMask_keeps
  case mpopc | mffs | vext | vred | vfred => exact vrScalar_keeps
  case vsel | vexpand | vins | vscan => exact vrAll_keeps
  case vcompress | vcompressKeep => exact compressTo_keeps
  case arow | acol => exact rowRead_keeps
  case awrow | awcol => exact rowWrite_keeps
  case mld | mldw => exact loadSem_keeps
  case mma | mmaC => exact prodSem_keeps
  case ld | st | ldv | stv | ldvs | stvs | ldvg | stvg => exact lmDo_keeps fun _ _ _ h => h
  case ldf | ldfe | ste | stf => exact wordDo_keeps
  case tagset | tagclr => exact tagsDo_keeps
  case tld | tst | cpy | rgather | rscatter => exact copyDo_keeps
  case verfl | vernew => exact verPlain_keeps
  case cbwait | cbresv => exact cbBlock_keeps
  case verld =>
    exact verLoad_keeps fun _ _ _ h => by
      split
      · exact h.askVer
      · exact h
  case verle => exact verLoad_keeps fun _ _ _ h => h
  case fcvt => exact semFcvt_keeps
  case vshuf => exact semVshuf_keeps
  case vhist => exact semVhist_keeps
  case vcvt => exact semVcvt_keeps
  case vsrseed => exact semVsrseed_keeps
  case vqnt => exact semVqnt_keeps
  case vdq => exact semVdq_keeps
  case vqc4 => exact semVqc4_keeps
  case vdqc4 => exact semVdqc4_keeps
  case mswap => exact semMswap_keeps
  case mmas => exact semMmas_keeps
  case mmac => exact semMmac_keeps
  case azero => exact semAzero_keeps
  case acvt => exact semAcvt_keeps
  case aadd => exact semAadd_keeps
  case await => exact semAwait_keeps
  case awaitAll => exact semAwaitAll_keeps
  case aclr => exact semAclr_keeps
  case aload => exact semAload_keeps
  case amo => exact semAmo_keeps
  case red => exact semRed_keeps
  case verst => exact semVerst_keeps
  case pf => exact semPf_keeps
  case stopk => exact semStopk_keeps
  case cbpop => exact semCbpop_keeps
  case cbpush => exact semCbpush_keeps
  case coll => exact semColl_keeps
  case bt => exact semBt_keeps
  case loop => exact semLoop_keeps
  case yield => exact semYield_keeps
  case spawn => exact semSpawn_keeps
  case handreq => exact semHandreq_keeps
  case handrel => exact semHandrel_keeps
  case bret => exact semBret_keeps
  case fenceS => exact semFenceS_keeps
  case bar => exact semBar_keeps
  case barArv => exact semBarArv_keeps
  case tagffr => exact semTagffr_keeps
  case cstep => exact semCstep_keeps
  case cset => exact semCset_keeps
  case cpin => exact semCpin_keeps
  case cread => exact semCread_keeps
  case dhint => exact semDhint_keeps
  case tlbinv => exact semTlbinv_keeps
  case ctxsave => exact semCtxsave_keeps
  case ctxrestore => exact semCtxrestore_keeps

end Sys2Proof.Machine
end

section
/-!
SUPPORT. The sidecars keep memory canonical, and with them every instruction does.
-/

namespace Sys2Proof.Machine

/-- The state in which a sidecar's instruction leaves the package, before the sidecar itself moves on or stops. -/
def SideRes.state : SideRes → State
  | .go _ s => s
  | .stay s => s
  | .exc _ _ s => s

namespace State

variable {s t : State}

theorem Canonical.sideEnd {n : Nat} {r : SideRes} (h : r.state.Canonical) : (State.sideEnd n r).Canonical := by
  cases r with
  | go pc s => exact onSide h
  | stay s => exact h
  | exc c v s => exact sideStop h

theorem Canonical.sideRun {f : Nat → State → SideRes} (h : s.Canonical) (hf : ∀ n s, s.Canonical → (f n s).state.Canonical)
    (e : s.sideRun f = .next t) : t.Canonical := by
  unfold State.sideRun at e
  split at e
  · cases e
    exact sideEnd (hf _ _ h)
  · cases e

theorem Canonical.rvDo {i : RvInstr} {len n : Nat} (h : s.Canonical) : (Machine.rvDo i len n s).state.Canonical := by
  cases i with
  | load => grind [Machine.rvDo, SideRes.state, wx, sideLog]
  | store => grind [Machine.rvDo, SideRes.state, onSide]
  | csr op => cases op <;> grind [Machine.rvDo, SideRes.state, onSide, wx]
  | _ => exact h

theorem Canonical.sideAccess {n : Nat} {a : Access} {k : State → W64 → SideRes} (h : s.Canonical)
    (hk : ∀ s v, s.Canonical → (k s v).state.Canonical) : (s.sideAccess n a k).state.Canonical := by
  grind [State.sideAccess, SideRes.state, effect]

theorem Canonical.sideShare {n : Nat} {off : W64} {st : Option W64} {k : State → W64 → SideRes} (h : s.Canonical)
    (hk : ∀ s v, s.Canonical → (k s v).state.Canonical) : (s.sideShare n off st k).state.Canonical := by
  grind [State.sideShare, SideRes.state, sideAccess]

theorem Canonical.sideGlobal {n : Nat} {va : W64} {st : Option W64} {k : State → W64 → SideRes} (h : s.Canonical)
    (hk : ∀ s v, s.Canonical → (k s v).state.Canonical) : (s.sideGlobal n va st k).state.Canonical := by
  grind [State.sideGlobal, SideRes.state, sideAccess, xlateCtx, abandon, onSide, logPhys]

theorem Canonical.spldfeDo {rd rs1 : BitVec 5} {n : Nat} (h : s.Canonical) : (Machine.spldfeDo rd rs1 n s).state.Canonical := by
  unfold Machine.spldfeDo
  dsimp only
  split
  · exact h
  · exact h.sideShare fun _ _ h => h.sideSetTag.wx

theorem Canonical.spsteDo {rs2 rs1 : BitVec 5} {n : Nat} (h : s.Canonical) : (Machine.spsteDo rs2 rs1 n s).state.Canonical := by
  unfold Machine.spsteDo
  dsimp only
  split
  · exact h
  · exact h.sideShare fun _ _ h => h.sideSetTag

theorem Canonical.tagwaitDo {rs1 : BitVec 5} {n : Nat} (h : s.Canonical) : (Machine.tagwaitDo rs1 n s).state.Canonical := by
  grind [Machine.tagwaitDo, SideRes.state]

theorem Canonical.copyDoSide {rs1 : BitVec 5} {n : Nat} (h : s.Canonical) : (Machine.copyDoSide rs1 n s).state.Canonical := by
  refine h.sideShare fun _ _ h1 => h1.sideShare fun _ _ h2 => h2.sideShare fun _ _ h3 => h3.sideShare fun _ _ h4 => ?_
  grind [SideRes.state, issueCopy]

theorem Canonical.cbcfgDo {rs2 rs1 : BitVec 5} {n : Nat} (h : s.Canonical) : (Machine.cbcfgDo rs2 rs1 n s).state.Canonical := by
  grind [Machine.cbcfgDo, SideRes.state, onSide]

theorem Canonical.ringDo {rs2 rs1 : BitVec 5} {n : Nat} {f : Nat → Handle → Nat → SideRes} (h : s.Canonical)
    (hf : ∀ j hd m, (f j hd m).state.Canonical) : (Machine.ringDo rs2 rs1 n s f).state.Canonical := by
  grind [Machine.ringDo, SideRes.state]

theorem Canonical.cbwaitDo {rs2 rs1 : BitVec 5} {n : Nat} (h : s.Canonical) : (Machine.cbwaitDo rs2 rs1 n s).state.Canonical :=
  h.ringDo fun _ _ _ => by split <;> exact h

theorem Canonical.cbresvDo {rs2 rs1 : BitVec 5} {n : Nat} (h : s.Canonical) : (Machine.cbresvDo rs2 rs1 n s).state.Canonical :=
  h.ringDo fun _ _ _ => by split <;> exact h

theorem Canonical.sideMeaning {i : Instr} {n : Nat} (h : s.Canonical) : (Machine.sideMeaning i n s).state.Canonical := by
  unfold Machine.sideMeaning
  split
  · exact h.sideShare fun _ _ h => h.wx
  · exact h.sideShare fun _ _ h => h
  · exact h.spldfeDo
  · exact h.spsteDo
  · exact h.sideGlobal fun _ _ h => h.wx
  · exact h.sideGlobal fun _ _ h => h
  · exact h.tagwaitDo
  · exact h.wx
  · exact h.copyDoSide
  · exact h.cbcfgDo
  · exact h.cbwaitDo
  · exact h.cbresvDo
  · exact h.ringDo fun _ _ _ => h.sideMove
  · exact h.ringDo fun _ _ _ => h.sideMove
  · exact h.rvDo
  · exact h

theorem Canonical.sideTurn {n : Nat} (h : s.Canonical) : (s.sideTurn n).state.Canonical := by
  unfold State.sideTurn
  split
  · exact h.sideMeaning
  · exact h

theorem Canonical.execSidecarFault {mcause mtval : BitVec 64} (h : s.Canonical) (e : execSidecarFault mcause mtval s = .next t) :
    t.Canonical := by
  have ht := h.sideTurn (n := s.side)
  unfold Machine.execSidecarFault at e
  split at e
  · cases e
  split at e
  · next hq =>
    rw [hq] at ht
    split at e
    · cases e
      exact sideStop ht
    · cases e
  · cases e

/-- A sidecar's instruction runs what `sideMeaning` says of it. -/
theorem Canonical.sideRunMeaning {i : Instr} (h : s.Canonical) (e : s.sideRun (Machine.sideMeaning i) = .next t) : t.Canonical :=
  h.sideRun (fun _ _ h => h.sideMeaning) e

end State

theorem duesOf_keeps {l : List (Nat × Instr × DueSrc)} {d : Due} (hd : d ∈ duesOf l) : d.sem.Keeps := by
  obtain ⟨x, -, hx⟩ := List.mem_filterMap.1 hd
  obtain ⟨m, hm, rfl⟩ := Option.map_eq_some_iff.1 hx
  exact slotSem_keeps hm

namespace State

variable {s t : State}

theorem Canonical.execStickyReissue (h : s.Canonical) (e : execStickyReissue s = .next t) : t.Canonical := by
  unfold Machine.execStickyReissue at e
  split at e
  · cases e
  · cases e
    exact h.runPacket fun _ => duesOf_keeps

end State

theorem exec_of_slotSem {i : Instr} {m : SlotSem} {s : State} (e : slotSem i = some m) : exec i s = runSlot i m s := by
  cases i <;> cases e <;> rfl

/-- An instruction that is no slot operation keeps memory canonical. -/
theorem exec_canonical_of_none {i : Instr} {s t : State} (h : s.Canonical) (hm : slotSem i = none) (e : exec i s = .next t) :
    t.Canonical := by
  cases i with
  | xSpld rd rs1 => exact h.sideRunMeaning (i := .xSpld rd rs1) e
  | xSpst rs2 rs1 => exact h.sideRunMeaning (i := .xSpst rs2 rs1) e
  | xSpldfe rd rs1 => exact h.sideRunMeaning (i := .xSpldfe rd rs1) e
  | xSpste rs2 rs1 => exact h.sideRunMeaning (i := .xSpste rs2 rs1) e
  | xGld rd rs1 => exact h.sideRunMeaning (i := .xGld rd rs1) e
  | xGst rs2 rs1 => exact h.sideRunMeaning (i := .xGst rs2 rs1) e
  | xTagwait rs1 => exact h.sideRunMeaning (i := .xTagwait rs1) e
  | xRdd rd rs1 => exact h.sideRunMeaning (i := .xRdd rd rs1) e
  | xCopy rs1 => exact h.sideRunMeaning (i := .xCopy rs1) e
  | xCbcfg rs2 rs1 => exact h.sideRunMeaning (i := .xCbcfg rs2 rs1) e
  | xCbwait rs2 rs1 => exact h.sideRunMeaning (i := .xCbwait rs2 rs1) e
  | xCbresv rs2 rs1 => exact h.sideRunMeaning (i := .xCbresv rs2 rs1) e
  | xCbpop rs2 rs1 => exact h.sideRunMeaning (i := .xCbpop rs2 rs1) e
  | xCbpush rs2 rs1 => exact h.sideRunMeaning (i := .xCbpush rs2 rs1) e
  | sidecarRiscvInstruction i short => exact h.sideRunMeaning (i := .sidecarRiscvInstruction i short) e
  | idleRun => exact h.execIdleRun e
  | idleRunEnd => exact h.execIdleRunEnd e
  | stickyReissue => exact h.execStickyReissue e
  | sidecarFault => exact h.execSidecarFault e
  | loadReturn => exact h.execLoadReturn e
  | storePerformed => exact h.execStorePerformed e
  | redCombine => exact h.execRedCombine e
  | mOpStart => exact h.execMOpStart e
  | mOpComplete => exact h.execMOpComplete e
  | metadataFetch => exact h.execMetadataFetch e
  | statsRecordAdd => exact h.execStatsRecordAdd e
  | handGrant => exact h.execHandGrant e
  | handChangeEffect => exact h.execHandChangeEffect e
  | copyStart => exact h.execCopyStart e
  | copyComplete => exact h.execCopyComplete e
  | copyFault => exact h.execCopyFault e
  | deferredPush => exact h.execDeferredPush e
  | collectiveComplete => exact h.execCollectiveComplete e
  | barrierGenerationComplete => exact h.execBarrierGenerationComplete e
  | versionReclaim => exact h.execVersionReclaim e
  | couchJobStart => exact h.execCouchJobStart e
  | couchJobComplete => exact h.execCouchJobComplete e
  | couchJobFail => exact h.execCouchJobFail e
  | waitLimitTrap => exact h.execWaitLimitTrap e
  | trapEntry => exact h.execTrapEntry e
  | shadowLatchDeliver => exact h.execShadowLatchDeliver e
  | contextPark => exact h.execContextPark e
  | gangStart => exact h.execGangStart e
  | launch => exact h.execLaunch e
  | graph => exact h.execGraph e
  | taskAdmit => exact h.execTaskAdmit e
  | groupPlace => exact h.execGroupPlace e
  | priorityAge => exact h.execPriorityAge e
  | starvationHold => exact h.execStarvationHold e
  | taskComplete => exact h.execTaskComplete e
  | taskEnd => exact h.execTaskEnd e
  | recordWrite => exact h.execRecordWrite e
  | nodeTask => exact h.execNodeTask e
  | nodeCond => exact h.execNodeCond e
  | nodeWhile => exact h.execNodeWhile e
  | nodeCalstep => exact h.execNodeCalstep e
  | nodeRerun => exact h.execNodeRerun e
  | guessStart => exact h.execGuessStart e
  | guessClaim => exact h.execGuessClaim e
  | guessDrop => exact h.execGuessDrop e
  | pageWalk => exact h.execPageWalk e
  | faultPost => exact h.execFaultPost e
  | verdictResolve => exact h.execVerdictResolve e
  | verdictRefuse => exact h.execVerdictRefuse e
  | qcfgEnSet => exact h.execQcfgEnSet e
  | qcfgEnClear => exact h.execQcfgEnClear e
  | qctlRestart => exact h.execQctlRestart e
  | qctlReset => exact h.execQctlReset e
  | qspecWrite => exact h.execQspecWrite e
  | dlrcfgWrite => exact h.execDlrcfgWrite e
  | prctlPark => exact h.execPrctlPark e
  | prctlEvict => exact h.execPrctlEvict e
  | prctlResume => exact h.execPrctlResume e
  | evictSave => exact h.execEvictSave e
  | resumeRestore => exact h.execResumeRestore e
  | reamValidSet => exact h.execReamValidSet e
  | reamReady => exact h.execReamReady e
  | reamValidClear => exact h.execReamValidClear e
  | keySlotWrite => exact h.execKeySlotWrite e
  | calenderPreset => exact h.execCalenderPreset e
  | calenderClr => exact h.execCalenderClr e
  | calenderWindowWrite => exact h.execCalenderWindowWrite e
  | registerWrite => exact h.execRegisterWrite e
  | packageResetWrite => exact h.execPackageResetWrite e
  | powerOn => exact h.execPowerOn e
  | bringupDone => exact h.execBringupDone e
  | attgo => exact h.execAttgo e
  | attestDone => exact h.execAttestDone e
  | haltreq => exact h.execHaltreq e
  | release => exact h.execRelease e
  | windowRead => exact h.execWindowRead e
  | windowWrite => exact h.execWindowWrite e
  | memoryRead => exact h.execMemoryRead e
  | memoryWrite => exact h.execMemoryWrite e
  | recoveryStage => exact h.execRecoveryStage e
  | recoveryCommit => exact h.execRecoveryCommit e
  | malformedFrame => exact h.execMalformedFrame e
  | fcsDrop => exact h.execFcsDrop e
  | ptpMessage => exact h.execPtpMessage e
  | gangAnnounce => exact h.execGangAnnounce e
  | uePacket => exact h.execUePacket e
  | linkLost => exact h.execLinkLost e
  | portStateChange => exact h.execPortStateChange e
  | flitReplay => exact h.execFlitReplay e
  | nocParityResend => exact h.execNocParityResend e
  | dieOvertemp => exact h.execDieOvertemp e
  | governorTick => exact h.execGovernorTick e
  | unassignedCmd => exact h.execUnassignedCmd e
  | calenderReadCopyUpdate => exact h.execCalenderReadCopyUpdate e
  | tlbInvalidationComplete => exact h.execTlbInvalidationComplete e
  | _ => cases hm

/-- Every instruction keeps memory canonical. -/
theorem exec_canonical {i : Instr} {s t : State} (h : s.Canonical) (e : exec i s = .next t) : t.Canonical := by
  cases hm : slotSem i with
  | some m => exact h.runSlot (slotSem_keeps hm) (exec_of_slotSem hm ▸ e)
  | none => exact exec_canonical_of_none h hm e

end Sys2Proof.Machine
end

section
/-!
SUPPORT. Every plan of a step, and so every step, keeps memory canonical.
-/

namespace Sys2Proof.Machine

/-- A plan keeps memory canonical: it runs its instruction in a canonical state, or has reached one. -/
def Plan.Canonical : Plan → Prop
  | .run _ s => s.Canonical
  | .out o => ∀ t, o = .next t → t.Canonical

/-- A move keeps memory canonical. -/
def Cand.Keeps (c : Cand) : Prop := ∀ {s t}, s.Canonical → c s = .next t → t.Canonical

theorem State.Canonical.done {s : State} (h : s.Canonical) : (Plan.done s).Canonical := fun _ e => h.of_next e

theorem Plan.canonical_fault {f : Fault} : (Plan.out (.fault f)).Canonical := fun _ e => by cases e

theorem Plan.canonical_refused {r : Refusal} : (Plan.out (.refused r)).Canonical := fun _ e => by cases e

namespace State

variable {s t : State}

theorem Canonical.issueHere (h : s.Canonical) : s.issueHere.Canonical := by
  have hf := h.fetchPacket (k := s.ck) (a := s.me.r.pc)
  unfold State.issueHere
  dsimp only
  split
  · exact h.takeAsync.done
  split
  · exact Plan.canonical_fault
  · next hq =>
    rw [hq] at hf
    exact hf.fetchFault.done
  next s1 l hq =>
  rw [hq] at hf
  have h2 : ({ s1 with issue := issueOf s.me l } : State).Canonical := hf
  split
  · exact done (h2.runPacket fun _ => duesOf_keeps)
  split
  · exact h2.trapIssue.done
  split
  · exact Plan.canonical_refused
  split
  · exact h2
  split
  · exact h2
  split
  · exact h2
  · exact h2
  · refine done (h2.runPacket fun d hd => ?_)
    obtain ⟨p, -, hd⟩ := List.mem_flatMap.1 hd
    rcases List.mem_append.1 (List.mem_filter.1 hd).1 with hd | hd
    · exact duesOf_keeps hd
    · exact duesOf_keeps hd

theorem Canonical.issueCore {core : Nat} (h : s.Canonical) : (s.issueCore core).Canonical := by
  have hs : ({ s with core := core } : State).Canonical := h
  unfold State.issueCore
  dsimp only
  split
  · exact hs.exitEnd.done
  split
  · split
    · exact hs.issueHere
    split
    · exact hs.onMe.takeAsync.done
    · exact hs
  split
  · exact hs.onCore.done
  · exact Plan.canonical_refused

theorem Canonical.sidePlan {n : Nat} (h : s.Canonical) : (s.sidePlan n).Canonical := by
  have hs : ({ s with side := n } : State).Canonical := h
  unfold State.sidePlan
  dsimp only
  split
  · exact Plan.canonical_refused
  split
  · exact hs.sideLog.sideStop.done
  split
  · exact hs
  · exact hs.sideStop.done

theorem Canonical.nextTurn (h : s.Canonical) : s.nextTurn.Canonical := by
  unfold State.nextTurn
  dsimp only
  split
  · exact issueCore h
  split
  · exact sidePlan h
  · exact done (tick h)

theorem Canonical.firstEnabled {l : List Cand} {p : Plan} (h : s.Canonical) (hl : ∀ c ∈ l, c.Keeps)
    (e : s.firstEnabled l = some p) : p.Canonical := by
  induction l with
  | nil => cases e
  | cons c l ih =>
    unfold State.firstEnabled at e
    split at e
    · next hc =>
      cases e
      exact done (hl _ (List.mem_cons_self ..) h hc)
    · exact ih (fun c hc => hl c (List.mem_cons_of_mem _ hc)) e

theorem pendMove_keeps {k : Nat} {a : Access} : Cand.Keeps (if a.deferred then execDeferredPush k a.va.toNat
    else if a.isRed then execRedCombine k a.grp (a.id - a.grp)
    else if a.returns then execLoadReturn k a.id
    else execStorePerformed k a.id) := by
  split
  · exact fun h e => h.execDeferredPush e
  split
  · exact fun h e => h.execRedCombine e
  split
  · exact fun h e => h.execLoadReturn e
  · exact fun h e => h.execStorePerformed e

theorem lateMove_keeps {k : Nat} :
    Cand.Keeps fun s => if (s.ctxAt k).sq.late.isEmpty then .refused .notEnabled else .next (s.land k fun _ => true) :=
  fun h e => by
    dsimp only at e
    split at e
    · cases e
    · exact h.land.of_next e

theorem ctxMoves_keeps {k : Nat} {c : Cand} (hc : c ∈ s.ctxMoves k) : c.Keeps := by
  simp only [State.ctxMoves, List.mem_append, List.mem_map, List.mem_cons, List.not_mem_nil, or_false, or_assoc] at hc
  obtain rfl | rfl | rfl | rfl | ⟨i, -, rfl⟩ | ⟨a, -, rfl⟩ | ⟨o, -, rfl⟩ | rfl | rfl | rfl := hc
  · exact lateMove_keeps
  · exact fun h e => h.execTrapEntry e
  · exact fun h e => h.execContextPark e
  · exact fun h e => h.execWaitLimitTrap e
  · exact fun h e => h.execShadowLatchDeliver e
  · exact pendMove_keeps
  · exact fun h e => h.execMOpComplete e
  · exact fun h e => h.execMOpStart e
  · exact fun h e => h.execHandChangeEffect e
  · exact fun h e => h.execTlbInvalidationComplete e

theorem coreMoves_keeps {n : Nat} {c : Cand} (hc : c ∈ s.coreMoves n) : c.Keeps := by
  simp only [State.coreMoves, List.mem_append, List.mem_flatMap, List.mem_cons, List.not_mem_nil, or_false] at hc
  obtain ⟨o, -, rfl | rfl | rfl | rfl⟩ | rfl := hc
  · exact fun h e => h.execCopyFault e
  · exact fun h e => h.execCopyComplete e
  · exact fun h e => h.execCopyStart e
  · exact fun h e => h.rowMove e
  · exact fun h e => h.execHandGrant e

theorem hubMoves_keeps {c : Cand} (hc : c ∈ s.hubMoves) : c.Keeps := by
  simp only [State.hubMoves, List.mem_append, List.mem_map, List.mem_flatMap, List.mem_cons, List.not_mem_nil, or_false,
    or_assoc] at hc
  obtain ⟨n, -, rfl⟩ | ⟨x, -, rfl | rfl | rfl⟩ | ⟨x, -, rfl⟩ | ⟨x, -, rfl⟩ | rfl | rfl | ⟨x, -, rfl⟩ | rfl | rfl := hc
  · exact fun h e => h.execFaultPost e
  · exact fun h e => h.execCouchJobFail e
  · exact fun h e => h.execCouchJobComplete e
  · exact fun h e => h.execCouchJobStart e
  · exact fun h e => h.execCollectiveComplete e
  · exact fun h e => h.execBarrierGenerationComplete e
  · exact fun h e => h.execStatsRecordAdd e
  · exact fun h e => h.execCalenderReadCopyUpdate e
  · exact fun h e => h.execReamReady e
  · exact fun h e => h.execBringupDone e
  · exact fun h e => h.execAttestDone e

theorem dispMoves_keeps {c : Cand} (hc : c ∈ s.dispMoves) : c.Keeps := by
  simp only [State.dispMoves, List.mem_filterMap, Option.map_eq_some_iff, List.mem_append, List.mem_map, List.mem_flatMap,
    List.mem_cons, List.not_mem_nil, or_false, or_assoc] at hc
  obtain ⟨q, -, x, -, rfl⟩ | ⟨t, -, rfl | rfl | rfl | rfl | rfl⟩ | rfl | rfl | ⟨q, -, rfl⟩ | ⟨d, -, rfl⟩ |
    ⟨q, -, rfl⟩ | ⟨t, -, rfl⟩ | ⟨q, -, rfl | rfl | rfl | rfl | rfl | rfl | rfl | rfl⟩ := hc
  · exact fun h e => h.execGuessDrop e
  · exact fun h e => h.execTaskEnd e
  · exact fun h e => h.execTaskComplete e
  · exact fun h e => h.execGangStart e
  · exact fun h e => h.execPriorityAge e
  · exact fun h e => h.execStarvationHold e
  · exact fun h e => h.execEvictSave e
  · exact fun h e => h.execResumeRestore e
  · exact fun h e => h.execRecordWrite e
  · exact fun h e => h.execTaskAdmit e
  · exact fun h e => h.execGuessClaim e
  · exact fun h e => h.execGroupPlace e
  · exact fun h e => h.execNodeTask e
  · exact fun h e => h.execNodeCond e
  · exact fun h e => h.execNodeWhile e
  · exact fun h e => h.execNodeCalstep e
  · exact fun h e => h.execNodeRerun e
  · exact fun h e => h.execLaunch e
  · exact fun h e => h.execGraph e
  · exact fun h e => h.execUnassignedCmd e

theorem Canonical.ownMove (h : s.Canonical) : s.ownMove.Canonical := by
  unfold State.ownMove
  dsimp only
  cases e : s.firstEnabled _ with
  | none => exact h.nextTurn
  | some p =>
    refine h.firstEnabled (fun c hc => ?_) e
    simp only [List.mem_append, List.mem_flatMap] at hc
    obtain ((hc | hc) | ⟨x, -, hc⟩) | ⟨x, -, hc⟩ := hc
    · exact hubMoves_keeps hc
    · exact dispMoves_keeps hc
    · exact ctxMoves_keeps hc
    · exact coreMoves_keeps hc

theorem Canonical.plan (h : s.Canonical) : s.plan.Canonical := by
  unfold State.plan
  split
  · exact h.ownMove
  next m ms _ =>
  have hs : ({ s with agenda := ms } : State).Canonical := h
  dsimp only
  split
  · exact hs
  · exact hs.issueCore
  · split
    · exact hs.sidePlan
    · exact Plan.canonical_refused
  · exact fun _ e => hs.rowMove e
  · exact hs.land.done
  · exact hs.tick.done
  · exact hs.strike.done
  · exact hs.strikeShare.done
  · exact hs.soft.done
  · exact hs.evictLine.done
  · exact done hs

end State

theorem step_canonical {s t : State} (h : s.Canonical) (e : step s = .next t) : t.Canonical := by
  have hp := h.plan
  unfold step at e
  split at e
  · next hq =>
    rw [hq] at hp
    exact exec_canonical hp e
  · next hq =>
    rw [hq] at hp
    exact hp _ e

end Sys2Proof.Machine
end

/-- Settles O58: every plan of a step leaves memory canonical, by cases on the moves, and so does every instruction it runs. -/
theorem stepKeepsMemoryCanonical : Obligations.StepKeepsMemoryCanonical := by
  intro s t h e
  exact Sys2Proof.Machine.step_canonical h e

section
/-!
SUPPORT. The dispatcher's own state: what a read of a task, a queue or a reservation finds after an update of another of
them, the fields of QSTAT and CHEAD, and the rules of `DispOnly` and `Records`.
-/

namespace Sys2Proof.Machine

namespace State

variable (s : State)

/-! ### Tasks, queues and reservations -/

@[simp] theorem taskAt_onQueue (q : Nat) (f : Queue → Queue) (k : Nat) : (s.onQueue q f).taskAt k = s.taskAt k := rfl
@[simp] theorem taskAt_onDealer (q : Nat) (f : Dealer → Dealer) (k : Nat) : (s.onDealer q f).taskAt k = s.taskAt k := rfl
@[simp] theorem taskAt_pushRecord (q : Nat) (ws : List W64) (k : Nat) : (s.pushRecord q ws).taskAt k = s.taskAt k := rfl
@[simp] theorem queueAt_onTask (t : Nat) (f : Task → Task) (k : Nat) : (s.onTask t f).queueAt k = s.queueAt k := rfl
@[simp] theorem resvAt_onTask (t : Nat) (f : Task → Task) (k : Nat) : (s.onTask t f).resvAt k = s.resvAt k := rfl

theorem taskAt_onTask_ne (t k : Nat) (f : Task → Task) (h : k ≠ t) : (s.onTask t f).taskAt k = s.taskAt k := by
  simp [taskAt, onTask, mget_mput_ne _ _ _ _ _ h]

@[simp] theorem queueAt_pushRecord (q : Nat) (ws : List W64) :
    (s.pushRecord q ws).queueAt q = { s.queueAt q with recs := (s.queueAt q).recs ++ [{ words := ws }] } := by
  simp [pushRecord]

@[simp] theorem queueAt_onDealer (q : Nat) (f : Dealer → Dealer) :
    (s.onDealer q f).queueAt q = { s.queueAt q with dealer := f (s.queueAt q).dealer } := by
  simp [onDealer]

/-! ### Registers of a queue (16 R396) -/

@[simp] theorem qreg_setQreg (q off : Nat) (v : W64) : (s.setQreg q off v).qreg q off = v := by simp [qreg, setQreg]

theorem qreg_setQreg_ne (q off off' : Nat) (v : W64) (h : off' ≠ off) : (s.setQreg q off v).qreg q off' = s.qreg q off' := by
  unfold qreg setQreg
  exact win_setWin_ne _ _ _ _ (by omega)

@[simp] theorem qreg_onTask (t : Nat) (f : Task → Task) (q off : Nat) : (s.onTask t f).qreg q off = s.qreg q off := rfl
@[simp] theorem qreg_onQueue (p : Nat) (f : Queue → Queue) (q off : Nat) : (s.onQueue p f).qreg q off = s.qreg q off := rfl
@[simp] theorem qreg_onDealer (p : Nat) (f : Dealer → Dealer) (q off : Nat) : (s.onDealer p f).qreg q off = s.qreg q off := rfl
@[simp] theorem qreg_pushRecord (p : Nat) (ws : List W64) (q off : Nat) : (s.pushRecord p ws).qreg q off = s.qreg q off := rfl

/-- STATE after its own write and after one of ERR, and ERR after its own. -/
theorem qstate_setQstate (q v : Nat) : (s.setQstate q v).qstate q = v % 16 := by
  simp only [qstate, setQstate, qreg_setQreg, bf, setf, fld, BitVec.toNat_ofNat]
  omega

theorem qstate_setQerr (q v : Nat) : (s.setQerr q v).qstate q = s.qstate q := by
  simp only [qstate, setQerr, qreg_setQreg, bf, setf, fld, BitVec.toNat_ofNat]
  omega

theorem qerr_setQerr (q v : Nat) : ((s.setQerr q v).qreg q 0x30).toNat / 2 ^ 40 % 256 = v % 256 := by
  simp only [setQerr, qreg_setQreg, setf, fld, BitVec.toNat_ofNat]
  omega

/-- STATE and ERR once both have been written. -/
theorem queueSays_set (q st err : Nat) (hst : st < 16) (herr : err < 256) : ((s.setQstate q st).setQerr q err).queueSays q st err := by
  refine ⟨?_, ?_⟩
  · rw [qstate_setQerr, qstate_setQstate, Nat.mod_eq_of_lt hst]
  · rw [qerr_setQerr, Nat.mod_eq_of_lt herr]

/-- A running queue that stops has STATE 2 and the error's code. -/
theorem queueSays_qstop (q err : Nat) (h : s.qstate q = 1) (herr : err < 256) : (s.qstop q err).queueSays q 2 err := by
  rw [qstop, if_pos h]
  exact queueSays_set s q 2 err (by decide) herr

/-- A stop writes QSTAT twice, or nothing. -/
theorem qstop_cases (q err : Nat) :
    (∃ v w, s.qstop q err = (s.setQreg q 0x30 v).setQreg q 0x30 w) ∨ s.qstop q err = s := by
  unfold qstop
  split
  · exact .inl ⟨_, _, rfl⟩
  · exact .inr rfl

@[simp] theorem qstop_disp (q err : Nat) : (s.qstop q err).disp = s.disp := by
  obtain ⟨v, w, h⟩ | h := s.qstop_cases q err <;> rw [h]
  rfl
@[simp] theorem qstop_mem (q err : Nat) : (s.qstop q err).mem = s.mem := by
  obtain ⟨v, w, h⟩ | h := s.qstop_cases q err <;> rw [h]
  rfl
@[simp] theorem qstop_hub (q err : Nat) : (s.qstop q err).hub = s.hub := by
  obtain ⟨v, w, h⟩ | h := s.qstop_cases q err <;> rw [h]
  rfl
@[simp] theorem qstop_ctxs (q err : Nat) : (s.qstop q err).ctxs = s.ctxs := by
  obtain ⟨v, w, h⟩ | h := s.qstop_cases q err <;> rw [h]
  rfl
@[simp] theorem qstop_sides (q err : Nat) : (s.qstop q err).sides = s.sides := by
  obtain ⟨v, w, h⟩ | h := s.qstop_cases q err <;> rw [h]
  rfl
@[simp] theorem taskAt_qstop (q err k : Nat) : (s.qstop q err).taskAt k = s.taskAt k := by simp [taskAt]
@[simp] theorem queueAt_qstop (q err k : Nat) : (s.qstop q err).queueAt k = s.queueAt k := by simp [queueAt]

/-- A stop writes QSTAT alone of the registers of its queue. -/
theorem qreg_qstop (q err off : Nat) (h : off ≠ 0x30) : (s.qstop q err).qreg q off = s.qreg q off := by
  obtain ⟨v, w, e⟩ | e := s.qstop_cases q err <;> rw [e]
  rw [qreg_setQreg_ne _ _ _ _ _ h, qreg_setQreg_ne _ _ _ _ _ h]

end State

/-! ### Only the dispatcher changes -/

theorem DispOnly.refl (s : State) : DispOnly s s := rfl

theorem DispOnly.trans {s t u : State} (h : DispOnly s t) (h' : DispOnly t u) : DispOnly s u := Eq.trans h' h

theorem DispOnly.qstop (s : State) (q err : Nat) : DispOnly s (s.qstop q err) := by
  obtain ⟨v, w, h⟩ | h := s.qstop_cases q err <;> rw [h] <;> rfl

/-! ### Records (02 R63) -/

/-- What the words of a record say, as `Records` reads them. -/
def RecordOf (ws : List W64) (kind cause task : Nat) (detail : W64) : Prop :=
  (ws.getD 0 0).toNat % 256 = kind ∧ (ws.getD 0 0).toNat / 256 % 256 = cause % 256 ∧ ws.getD 1 0 = BitVec.ofNat 64 task ∧
    ws.getD 3 0 = detail

theorem recordOf_recordWords (kind cause : Nat) (late : Bool) (pslot cslot task : Nat) (pc detail ident clo chi : W64) (hk : kind < 256) :
    RecordOf (recordWords kind cause late pslot cslot task pc detail ident clo chi) kind cause task detail := by
  refine ⟨?_, ?_, rfl, rfl⟩ <;> simp only [recordWords, List.getD_cons_zero, w64, BitVec.toNat_ofNat] <;> split <;> omega

theorem recordOf_plainRecord (kind cause : Nat) (late : Bool) (task : Nat) (detail : W64) (hk : kind < 256) :
    RecordOf (plainRecord kind cause late task detail) kind cause task detail :=
  recordOf_recordWords _ _ _ _ _ _ _ _ _ _ _ hk

theorem records_pushRecord (s : State) (q : Nat) {ws : List W64} {kind cause task : Nat} {detail : W64}
    (h : RecordOf ws kind cause task detail) : Records s (s.pushRecord q ws) q kind cause task detail :=
  ⟨ws, congrArg Queue.recs (State.queueAt_pushRecord s q ws), h⟩

/-- A record is told by the records of its queue alone. -/
theorem Records.congr {s t s' t' : State} {q kind cause task : Nat} {detail : W64} (h : Records s t q kind cause task detail)
    (hs : (s'.queueAt q).recs = (s.queueAt q).recs) (ht : (t'.queueAt q).recs = (t.queueAt q).recs) :
    Records s' t' q kind cause task detail := by
  unfold Records
  rw [hs, ht]
  exact h

/-- A running queue that stops with a record (02 R62; 16 R398). -/
theorem State.stops_with_record (s : State) (q : Nat) {ws : List W64} {kind cause task : Nat} {detail : W64}
    (h : RecordOf ws kind cause task detail) (hst : s.qstate q = 1) :
    Records s ((s.pushRecord q ws).qstop q 0) q kind cause task detail ∧ ((s.pushRecord q ws).qstop q 0).queueSays q 2 0 ∧
      DispOnly s ((s.pushRecord q ws).qstop q 0) := by
  refine ⟨(records_pushRecord s q h).congr rfl ?_, queueSays_qstop _ _ _ hst (by decide), DispOnly.trans rfl (DispOnly.qstop _ q 0)⟩
  rw [queueAt_qstop]

end Sys2Proof.Machine
end

section
/-!
SUPPORT. Commands (16 R398): the command a queue would take next, the parameters of a launch that passes its checks, and
what acceptance and rejection do.
-/

namespace Sys2Proof.Machine

variable {s t : State} {q : Nat} {w : List W64}

/-! ### A command is taken -/

/-- A reserved bit of a command is set, or its kind is none of 16 R401 and R402. -/
def reservedBits (w : List W64) : Bool :=
  match bf (w.getD 0 0) 0 8 with
  | 1 => bf (w.getD 0 0) 24 8 != 0 || bf (w.getD 0 0) 14 2 != 0 || bf (w.getD 0 0) 11 1 != 0
  | 2 => bf (w.getD 0 0) 8 56 != 0 || [3, 4, 5, 6, 7].any (fun i => w.getD i 0 != 0)
  | _ => true

theorem bf_getD (w : List W64) (i lo n : Nat) : bf (w.getD i 0) lo n = word w i lo n := rfl

theorem State.nextCommand_command (h : s.command q w) :
    s.nextCommand q = some (if reservedBits w then .error 2 else .ok w) := by
  obtain ⟨hq, hst, hwalk, hwait, hpos, hmax, hw⟩ := h
  have hc : ¬ (256 ≤ q ∨ s.qstate q ≠ 1 ∨ s.cmds q = 0 ∨ (s.queueAt q).walk.isSome ∨ (s.queueAt q).wait.isSome) := by
    simp [hst, hwalk, hwait]
    omega
  simp only [State.nextCommand, if_neg hc, if_neg (Nat.not_lt.2 hmax), hw]
  rfl

theorem reservedBits_launch {nrd nwr : Nat} (h : isLaunch w nrd nwr) : reservedBits w = false := by
  obtain ⟨hk, h24, h14, h11, -, -⟩ := h
  simp only [reservedBits, bf_getD, hk, h24, h14, h11, bne_self_eq_false, Bool.or_false]

theorem reservedBits_graph (h0 : w.getD 0 0 = 2) (h : ∀ i, 3 ≤ i → i ≤ 7 → w.getD i 0 = 0) : reservedBits w = false := by
  have hi : ∀ i ∈ [3, 4, 5, 6, 7], w.getD i 0 = 0 := fun i hi => h i (by simp at hi; omega) (by simp at hi; omega)
  have hk : bf (2 : W64) 0 8 = 2 := by decide
  have hz : bf (2 : W64) 8 56 = 0 := by decide
  simp only [reservedBits, h0, hk, hz, bne_self_eq_false, Bool.false_or, List.any_eq_false]
  intro i m
  rw [hi i m]
  decide

theorem reservedBits_unassigned (h1 : word w 0 0 8 ≠ 1) (h2 : word w 0 0 8 ≠ 2) : reservedBits w = true := by
  unfold reservedBits
  split
  · next e => exact absurd e h1
  · next e => exact absurd e h2
  · rfl

/-- CHEAD and CTAIL once a command has been taken. -/
theorem takes_tookCommand (s : State) (q : Nat) : Takes s (s.tookCommand q) q := by
  simp only [Takes, State.tookCommand, State.chead, State.ctail, State.qreg_setQreg, bf, setf, fld, BitVec.toNat_ofNat]
  omega

/-- CHEAD and CTAIL are one register. -/
theorem Takes.of_qreg {t u : State} (h : Takes s t q) (e : u.qreg q 0x20 = t.qreg q 0x20) : Takes s u q := by
  simpa only [Takes, State.chead, State.ctail, e] using h

/-- Taking a command writes CHEAD's register and nothing else. -/
theorem State.tookCommand_eq (s : State) (q : Nat) : ∃ v, s.tookCommand q = s.setQreg q 0x20 v := ⟨_, rfl⟩

@[simp] theorem State.tookCommand_disp (s : State) (q : Nat) : (s.tookCommand q).disp = s.disp := by
  obtain ⟨v, h⟩ := s.tookCommand_eq q
  rw [h, State.setQreg_disp]

@[simp] theorem State.queueAt_tookCommand (s : State) (q p : Nat) : (s.tookCommand q).queueAt p = s.queueAt p := by
  simp [State.queueAt]

@[simp] theorem State.qstate_tookCommand (s : State) (q : Nat) : (s.tookCommand q).qstate q = s.qstate q := by
  obtain ⟨v, h⟩ := s.tookCommand_eq q
  rw [h, State.qstate, State.qreg_setQreg_ne _ _ _ _ _ (by decide), State.qstate]

theorem DispOnly.tookCommand (s : State) (q : Nat) : DispOnly s (s.tookCommand q) := by
  obtain ⟨v, h⟩ := s.tookCommand_eq q
  rw [h]
  rfl

/-! ### A launch passes its checks (02 R38) -/

/-- Whatever value a computation gives has a property. -/
def Gives {ε β : Type} (P : β → Prop) (x : Except ε β) : Prop := ∀ b, x = .ok b → P b

theorem Gives.bind {ε α β : Type} {P : β → Prop} {x : Except ε α} {f : α → Except ε β} (h : ∀ a, Gives P (f a)) : Gives P (x >>= f) := by
  cases x with
  | error e => exact fun _ e => nomatch e
  | ok a => exact h a

theorem Gives.ok {ε β : Type} {P : β → Prop} {b : β} (h : P b) : Gives P (.ok b : Except ε β) := by
  rintro _ ⟨⟩
  exact h

/-- A checked launch is the one checked, with the ranges of its table and some argument words. -/
def Checked.IsOf (l : Launch) (nrd : Nat) (c : Checked) : Prop := ∃ ws a, c.l = { l.withRanges nrd ws with argw := a }

/-- The checks change nothing of a launch but its ranges and argument words, on every path through the reads they make. -/
theorem State.checkLaunch_gives (l : Launch) (nrd nwr : Nat) (tab : Except W64 (List W64)) (args : Option (List W64)) :
    Gives (Checked.IsOf l nrd) (s.checkLaunch q l nrd nwr tab args) := by
  unfold State.checkLaunch
  refine .bind fun _ => .bind fun d => .bind fun _ => ?_
  extract_lets spec argn fromSide
  have hside : ∀ side, Gives (Checked.IsOf l nrd) (fromSide side) := fun side => by
    refine .bind fun _ => ?_
    extract_lets fromTable
    have htable : ∀ table, Gives (Checked.IsOf l nrd) (fromTable table) := fun table => by
      refine .bind fun _ => ?_
      extract_lets fromArgs
      have hargs : ∀ a, Gives (Checked.IsOf l nrd) (fromArgs a) := fun a =>
        .bind fun _ => .bind fun _ => .bind fun _ => .bind fun _ => .bind fun _ => .bind fun ws => .bind fun _ => .bind fun _ =>
          .bind fun _ => .ok ⟨ws, a, rfl⟩
      split
      · exact .bind hargs
      · split <;> exact .bind hargs
    split <;> exact .bind htable
  split <;> exact .bind hside

/-- An unaligned DESC or ARGS is the first thing the checks look for. -/
theorem State.checkLaunch_unaligned {l : Launch} (nrd nwr : Nat) (tab : Except W64 (List W64)) (args : Option (List W64))
    (h : l.desc.toNat % 64 ≠ 0 ∨ l.args.toNat % 8 ≠ 0) : s.checkLaunch q l nrd nwr tab args = .error (1, 0) := by
  have hn : (l.desc.toNat % 64 == 0 && l.args.toNat % 8 == 0) = false := by
    rcases h with h | h <;> simp [h]
  unfold State.checkLaunch
  rw [hn]
  rfl

end Sys2Proof.Machine
end

section
/-!
SUPPORT. What acceptance and rejection of a launch do, and the settling of O44.
-/

namespace Sys2Proof.Machine

variable {s t : State} {q : Nat} {w : List W64}

/-! ### Acceptance and rejection (02 R38, R47; 16 R403) -/

/-- A checked launch keeps the parameters of its words. -/
theorem Checked.params {q nrd nwr : Nat} {tab : Except W64 (List W64)} {c : Checked}
    (h : s.checkLaunch q (Launch.ofWords w) nrd nwr tab none = .ok c) :
    c.l.desc = w.getD 1 0 ∧ c.l.args = w.getD 2 0 ∧ c.l.lo = w.getD 3 0 ∧ c.l.hi = w.getD 4 0 ∧
      c.l.grain.toNat = word w 5 0 32 ∧ c.l.glev.toNat = word w 0 8 3 := by
  obtain ⟨ws, a, hl⟩ := State.checkLaunch_gives _ _ _ _ _ c h
  rw [hl]
  refine ⟨rfl, rfl, rfl, rfl, ?_, ?_⟩ <;>
    simp [Launch.withRanges, Launch.ofWords, word, Nat.shiftRight_eq_div_pow]

theorem Dealer.learn_last (d : Dealer) (c : Checked) : (d.learn c).hist.getLast? = some c.l := by
  simp [Dealer.learn, List.getLast?_reverse]

/-- The task that an accepted launch becomes where its queue has no guess. -/
def Checked.task (c : Checked) (s : State) (q walk : Nat) : Task :=
  { id := s.disp.nextTask, q := q, l := c.l, desc := c.desc, side := c.side, order := s.disp.order + 1
    entries := max 1 (c.l.reads.length + c.l.writes.length), walk := walk }

/-- One more task in the package's order, and its id given away. -/
def State.counted (s : State) : State :=
  { s with disp := { s.disp with order := s.disp.order + 1, nextTask := s.disp.nextTask + 1 } }

@[simp] theorem State.queueAt_counted (s : State) (p : Nat) : s.counted.queueAt p = s.queueAt p := rfl
@[simp] theorem State.taskAt_counted (s : State) (k : Nat) : s.counted.taskAt k = s.taskAt k := rfl

/-- Where its queue has no guess, an accepted launch is learnt, becomes a task, and waits. -/
theorem State.accept_eq (c : Checked) (walk : Nat) (h : (s.queueAt q).dealer.guess = none) :
    s.accept q c walk = (((s.onDealer q (fun d => d.learn c)).counted.onTask s.disp.nextTask (fun _ => c.task s q walk)).onQueue q
      (fun u => { u with wait := some s.disp.nextTask }), s.disp.nextTask) := by
  unfold State.accept State.matchGuess
  rw [h]
  rfl

/-- Acceptance makes the task, and writes no register. -/
theorem State.accept_accepts (c : Checked) (walk : Nat) (h : (s.queueAt q).dealer.guess = none) :
    Accepts s (s.accept q c walk).1 q c walk ∧ (s.accept q c walk).1.mgmt = s.mgmt := by
  rw [State.accept_eq c walk h]
  refine ⟨⟨?_, fun j hj => ?_, rfl, rfl, ?_, ?_, ?_, rfl⟩, rfl⟩
  · rw [State.taskAt_onQueue, State.taskAt_onTask]
    rfl
  · rw [State.taskAt_onQueue, State.taskAt_onTask_ne _ _ _ _ hj, State.taskAt_counted, State.taskAt_onDealer]
  · rw [State.queueAt_onQueue]
  · rw [State.queueAt_onQueue, State.queueAt_onTask, State.queueAt_counted, State.queueAt_onDealer]
  · rw [State.queueAt_onQueue, State.queueAt_onTask, State.queueAt_counted, State.queueAt_onDealer]
    exact Dealer.learn_last _ _

/-- A rejection where the queue has no guess: a record of KIND 2, and the queue stops. -/
theorem State.rejectLaunch_stops (r : Nat) (a : W64) (hg : (s.queueAt q).dealer.guess = none) (hst : s.qstate q = 1) :
    Records s (s.rejectLaunch q r a) q 2 r 0 a ∧ (s.rejectLaunch q r a).queueSays q 2 0 ∧
      (s.rejectLaunch q r a).disp.tasks = s.disp.tasks ∧ DispOnly s (s.rejectLaunch q r a) ∧
      (s.rejectLaunch q r a).qreg q 0x20 = s.qreg q 0x20 := by
  have hd : s.dropGuess q 37 = s := by
    simp only [State.dropGuess, hg]
  obtain ⟨hrec, hsays, honly⟩ := s.stops_with_record q (recordOf_plainRecord 2 r false 0 a (by decide)) hst
  rw [State.rejectLaunch, hd]
  refine ⟨hrec, hsays, ?_, honly, ?_⟩
  · rw [State.qstop_disp]
    rfl
  · rw [State.qreg_qstop _ _ _ _ (by decide), State.qreg_pushRecord]

/-! ### A LAUNCH, a GRAPH and any other command -/

theorem exec_launch (q : Nat) (s : State) : exec (.launch q) s = execLaunch q s := rfl
theorem exec_graph (q : Nat) (s : State) : exec (.graph q) s = execGraph q s := rfl
theorem exec_unassignedCmd (q : Nat) (s : State) : exec (.unassignedCmd q) s = execUnassignedCmd q s := rfl

/-- The range table of a launch command: it is read where the numbers of ranges are in their limits. -/
def State.launchTable (s : State) (q nrd nwr : Nat) (w : List W64) : Except W64 (List W64) :=
  if nrd ≤ 4 ∧ nwr ≤ 4 then s.readList q (w.getD 7 0).toNat (2 * (nrd + nwr)) else .ok []

/-- What a LAUNCH does once its bits are known to be in order. -/
theorem exec_launch_command {nrd nwr : Nat} (hc : s.command q w) (hl : isLaunch w nrd nwr) :
    exec (.launch q) s = match s.checkLaunch q (Launch.ofWords w) nrd nwr (s.launchTable q nrd nwr w) none with
      | .error (r, a) => .next ((s.tookCommand q).rejectLaunch q r a)
      | .ok c => .next ((s.tookCommand q).accept q c 0).1 := by
  have hn : s.nextCommand q = some (.ok w) := by
    rw [State.nextCommand_command hc, reservedBits_launch hl]
    rfl
  obtain ⟨hk, -, -, -, rfl, rfl⟩ := hl
  have hk' : ¬ bf (w.getD 0 0) 0 8 ≠ 1 := fun h => h hk
  rw [exec_launch, execLaunch, hn]
  simp only [if_neg hk']
  rfl

/-- A LAUNCH that the checks reject. -/
theorem exec_launch_rejected {nrd nwr : Nat} {r : Nat} {a : W64} (hc : s.command q w) (hl : isLaunch w nrd nwr)
    (hg : (s.queueAt q).dealer.guess = none)
    (he : s.checkLaunch q (Launch.ofWords w) nrd nwr (s.launchTable q nrd nwr w) none = .error (r, a)) :
    ∃ t, exec (.launch q) s = .next t ∧ Takes s t q ∧ Records s t q 2 r 0 a ∧ t.queueSays q 2 0 ∧
      t.disp.tasks = s.disp.tasks ∧ DispOnly s t := by
  have hst : (s.tookCommand q).qstate q = 1 := by
    rw [State.qstate_tookCommand]
    exact hc.2.1
  have hg' : ((s.tookCommand q).queueAt q).dealer.guess = none := by rwa [State.queueAt_tookCommand]
  obtain ⟨⟨ws, hrec, hws⟩, hsays, htasks, honly, hreg⟩ := State.rejectLaunch_stops r a hg' hst
  rw [State.queueAt_tookCommand] at hrec
  refine ⟨_, by rw [exec_launch_command hc hl, he], (takes_tookCommand s q).of_qreg hreg, ⟨ws, hrec, hws⟩, hsays, ?_,
    (DispOnly.tookCommand s q).trans honly⟩
  rw [htasks, State.tookCommand_disp]

/-- A LAUNCH that passes its checks. -/
theorem exec_launch_accepted {nrd nwr : Nat} {c : Checked} (hc : s.command q w) (hl : isLaunch w nrd nwr)
    (hg : (s.queueAt q).dealer.guess = none)
    (he : s.checkLaunch q (Launch.ofWords w) nrd nwr (s.launchTable q nrd nwr w) none = .ok c) :
    ∃ t, exec (.launch q) s = .next t ∧ Takes s t q ∧ Accepts s t q c 0 := by
  have hg' : ((s.tookCommand q).queueAt q).dealer.guess = none := by rwa [State.queueAt_tookCommand]
  obtain ⟨hacc, hmgmt⟩ := State.accept_accepts c 0 hg'
  refine ⟨_, by rw [exec_launch_command hc hl, he], (takes_tookCommand s q).of_qreg ?_, ?_⟩
  · rw [State.qreg, State.win, hmgmt]
    rfl
  · obtain ⟨htask, hothers, hnext, horder, hwait, hrecs, hhist, honly⟩ := hacc
    simp only [State.tookCommand_disp, State.queueAt_tookCommand, State.taskAt] at htask hothers hnext horder hwait hrecs
    exact ⟨htask, hothers, hnext, horder, hwait, hrecs, hhist, (DispOnly.tookCommand s q).trans honly⟩

theorem exec_graph_command (hc : s.command q w) (h0 : w.getD 0 0 = 2) (hz : ∀ i, 3 ≤ i → i ≤ 7 → w.getD i 0 = 0) :
    exec (.graph q) s = .next (if word w 2 32 32 = walkEnd then s.tookCommand q
      else { s.tookCommand q with disp := { (s.tookCommand q).disp with nextWalk := (s.tookCommand q).disp.nextWalk + 1 } }.onQueue q
        (fun u => { u with walk := some { id := (s.tookCommand q).disp.nextWalk, base := w.getD 1 0, count := word w 2 0 32
                                          node := word w 2 32 32 } })) := by
  have hn : s.nextCommand q = some (.ok w) := by
    rw [State.nextCommand_command hc, reservedBits_graph h0 hz]
    rfl
  have hk : ¬ bf (w.getD 0 0) 0 8 ≠ 2 := by
    rw [h0]
    decide
  rw [exec_graph, execGraph, hn]
  simp only [if_neg hk]
  rfl

/-- A GRAPH that starts a walk. -/
theorem exec_graph_starts (hc : s.command q w) (h0 : w.getD 0 0 = 2) (hz : ∀ i, 3 ≤ i → i ≤ 7 → w.getD i 0 = 0)
    (hf : word w 2 32 32 ≠ 2 ^ 32 - 1) :
    ∃ t, exec (.graph q) s = .next t ∧ Takes s t q ∧ DispOnly s t ∧ t.disp.nextWalk = s.disp.nextWalk + 1 ∧
      (t.queueAt q).walk = some { id := s.disp.nextWalk, base := w.getD 1 0, count := word w 2 0 32, node := word w 2 32 32 } := by
  have hf' : ¬ word w 2 32 32 = walkEnd := hf
  have hx := exec_graph_command hc h0 hz
  rw [if_neg hf'] at hx
  refine ⟨_, hx, (takes_tookCommand s q).of_qreg rfl, (DispOnly.tookCommand s q).trans rfl, ?_, ?_⟩
  · show (s.tookCommand q).disp.nextWalk + 1 = _
    rw [State.tookCommand_disp]
  · rw [State.queueAt_onQueue, State.tookCommand_disp]

/-- An error in the command of a queue stops it where it is. -/
theorem exec_unassigned {e : Nat} (h : s.nextCommand q = some (.error e)) (hst : s.qstate q = 1) (he : e < 256) :
    ∃ t, exec (.unassignedCmd q) s = .next t ∧ t.queueSays q 2 e ∧ t.chead q = s.chead q ∧ t.disp = s.disp := by
  refine ⟨s.qstop q e, by rw [exec_unassignedCmd, execUnassignedCmd, h], State.queueSays_qstop s q e hst he, ?_, State.qstop_disp _ _ _⟩
  rw [State.chead, State.qreg_qstop _ _ _ _ (by decide), State.chead]

/-- More commands than the ring holds are an error (16 R398). -/
theorem State.nextCommand_overfull (hq : q < 256) (hst : s.qstate q = 1) (hwalk : (s.queueAt q).walk = none)
    (hwait : (s.queueAt q).wait = none) (h : 2 ^ s.qclog q < s.cmds q) : s.nextCommand q = some (.error 3) := by
  have hc : ¬ (256 ≤ q ∨ s.qstate q ≠ 1 ∨ s.cmds q = 0 ∨ (s.queueAt q).walk.isSome ∨ (s.queueAt q).wait.isSome) := by
    have hpos : s.cmds q ≠ 0 := Nat.ne_of_gt (Nat.lt_of_le_of_lt (Nat.zero_le _) h)
    simp [hst, hwalk, hwait, hpos, hq]
  rw [State.nextCommand, if_neg hc, if_pos h]

end Sys2Proof.Machine
end

section
open Sys2Proof Sys2Proof.Machine

/-- Settles O44: by the kind of the command, its bits in order or not, and the outcome of the checks of a launch. -/
theorem commandsAreTaken : Obligations.CommandsAreTaken := by
  unfold Obligations.CommandsAreTaken
  refine ⟨?_, ?_, ?_, ?_, ?_, ?_, ?_⟩
  · intro q s w nrd nwr tab c hc hl hr hw ht hg he
    have htab : s.launchTable q nrd nwr w = .ok tab := by rw [State.launchTable, if_pos ⟨hr, hw⟩, ht]
    rw [← htab] at he
    obtain ⟨t, hx, htk, hacc⟩ := exec_launch_accepted hc hl hg he
    exact ⟨t, hx, htk, hacc, Checked.params he⟩
  · intro q s w nrd nwr tab r a hc hl hr hw ht hg he
    have htab : s.launchTable q nrd nwr w = .ok tab := by rw [State.launchTable, if_pos ⟨hr, hw⟩, ht]
    rw [← htab] at he
    exact exec_launch_rejected hc hl hg he
  · intro q s w nrd nwr hc hl hg hu
    obtain ⟨t, hx, htk, hrec, hsays, htasks, -⟩ := exec_launch_rejected hc hl hg (State.checkLaunch_unaligned nrd nwr _ none hu)
    exact ⟨t, hx, htk, hrec, hsays, htasks⟩
  · intro q s w hc h0 hz hf
    exact exec_graph_starts hc h0 hz hf
  · intro q s w hc h0 hz hf
    have hf' : word w 2 32 32 = walkEnd := hf
    exact ⟨_, by rw [exec_graph_command hc h0 hz, if_pos hf'], takes_tookCommand s q, State.tookCommand_disp s q⟩
  · intro q s w hc h1 h2
    refine exec_unassigned ?_ hc.2.1 (by decide)
    rw [State.nextCommand_command hc, reservedBits_unassigned h1 h2]
    rfl
  · intro q s hq hst hwalk hwait h
    exact exec_unassigned (State.nextCommand_overfull hq hst hwalk hwait h) hst (by decide)
end

section
/-!
SUPPORT. What reset leaves (18 R443), and the settling of O57.
-/

namespace Sys2Proof.Machine

/-! ### The state after reset (18 R443) -/

/-- A management register reads as its reset value after reset. -/
theorem State.win_reset (a : Nat) : State.reset.win a = winReset a := rfl

/-- QSTAT of every queue is zero after reset (16 R396). -/
theorem winReset_qstat (q : Nat) (h : q < 256) : winReset (0x1000 + 0x80 * q + 0x30) = 0 := by
  have hr : 0x1000 ≤ 0x1000 + 0x80 * q + 0x30 ∧ 0x1000 + 0x80 * q + 0x30 < 0x9000 := by omega
  rw [winReset, if_pos hr, if_neg (by omega), if_neg (by omega)]

/-- Every access mask admits the masters 17 and 18 after reset (17 R428). -/
theorem winReset_mask (a : Nat) (h : 0x30000 ≤ a) (h' : a < 0x304C0) : winReset a = 0x60000 := by
  rw [winReset, if_neg (by omega), if_neg (by omega), if_pos ⟨h, h'⟩]

end Sys2Proof.Machine
end

section
open Sys2Proof Sys2Proof.Machine

/-- Settles O57: memories and tables are empty after reset, and registers read as `winReset` gives them. -/
theorem resetValues : Obligations.ResetValues := by
  rintro s rfl
  refine ⟨fun _ _ => rfl, fun _ => rfl, fun _ => ⟨rfl, fun _ => rfl⟩, fun _ => ⟨rfl, rfl⟩, fun _ => rfl, fun _ => rfl, rfl, fun _ => rfl,
    rfl, ?_, ?_, by decide, by decide, by decide, rfl, rfl, rfl, rfl, rfl, rfl⟩
  · intro q hq
    rw [State.qstate, State.qreg, State.win_reset, winReset_qstat q hq]
    rfl
  · intro a h h'
    rw [State.win_reset, winReset_mask a h h']
end

section
/-!
SUPPORT. Walks and nodes (02 R57 to R61): what moving a walk does, which nodes are acted on and which stop it.
-/

namespace Sys2Proof.Machine

variable {s t : State} {q : Nat} {w : Walk} {n : Node}

/-! ### Moving and stopping a walk -/

/-- Where a walk stands once it has moved to a successor, outside a re-walk. -/
def Walk.movedTo (w : Walk) (target : Nat) : Option Walk :=
  if target = walkEnd then none else some { w with node := target, task := none, calNext := none }

theorem State.walkGo_eq {target : Nat} (hw : (s.queueAt q).walk = some w) (hr : w.rerun = none)
    (ht : target = walkEnd ∨ target < w.count) : s.walkGo q target = s.onQueue q (fun u => { u with walk := w.movedTo target }) := by
  simp only [State.walkGo, hw, hr, Walk.movedTo]
  by_cases h : target = walkEnd
  · simp only [if_pos h]
    rfl
  · have hc : ¬ w.count ≤ target := by omega
    simp only [if_neg h, if_neg hc]

theorem State.walkGo_walksTo {target : Nat} (hw : (s.queueAt q).walk = some w) (hr : w.rerun = none)
    (ht : target = walkEnd ∨ target < w.count) : DispOnly s (s.walkGo q target) ∧ WalksTo (s.walkGo q target) q w target := by
  rw [State.walkGo_eq hw hr ht]
  refine ⟨rfl, ?_⟩
  unfold WalksTo
  rw [State.queueAt_onQueue]
  rfl

/-- A walk that ends with a record stops its queue. -/
theorem State.walk_stops (s : State) (q : Nat) {ws : List W64} {kind cause task : Nat} {detail : W64}
    (h : RecordOf ws kind cause task detail) (hst : s.qstate q = 1) :
    ∃ t, t = ((s.onQueue q (fun u => { u with walk := none })).pushRecord q ws).qstop q 0 ∧ (t.queueAt q).walk = none ∧
      Records s t q kind cause task detail ∧ t.queueSays q 2 0 ∧ DispOnly s t := by
  obtain ⟨hrec, hsays, honly⟩ := (s.onQueue q (fun u => { u with walk := none })).stops_with_record q h hst
  refine ⟨_, rfl, ?_, hrec.congr ?_ rfl, hsays, DispOnly.trans rfl honly⟩
  · rw [State.queueAt_qstop, State.queueAt_pushRecord, State.queueAt_onQueue]
  · rw [State.queueAt_onQueue]

theorem State.graphError_stops (w : Walk) (reason : Nat) (a : W64) (hst : s.qstate q = 1) :
    GraphStops s (s.graphError q w.node reason a) q w reason a := by
  obtain ⟨t, rfl, hwalk, hrec, hsays, honly⟩ := s.walk_stops q (recordOf_plainRecord 3 reason false w.node a (by decide)) hst
  exact ⟨hwalk, hrec, hsays, honly⟩

theorem State.calenderStop_stops (e : Nat) (hst : s.qstate q = 1) : ∃ t, t = s.calenderStop q e ∧ (t.queueAt q).walk = none ∧
    Records s t q 1 0x2E 0 (BitVec.ofNat 64 e) ∧ t.queueSays q 2 0 ∧ DispOnly s t :=
  s.walk_stops q (recordOf_recordWords 1 0x2E false 15 0 0 0 (w64 e) 0 0 0 (by decide)) hst

/-! ### Nodes -/

theorem State.atNode_running {x : Except W64 Node} (h : s.atNode q = some (w, x)) :
    (s.queueAt q).walk = some w ∧ s.qstate q = 1 := by
  unfold State.atNode at h
  split at h
  · cases h
  · next v hv =>
    split at h
    · cases h
    · next hc =>
      have hst : s.qstate q = 1 := by
        by_contra hne
        exact hc (.inl hne)
      split at h <;> cases h <;> exact ⟨hv, hst⟩

/-- A node that may be acted on is. -/
theorem State.onNode_acts {kind : Nat} (act : Walk → Node → Out State) (h : s.nodeReady q w n kind) (hk : kind ≤ 4) :
    s.onNode q kind act = act w n := by
  obtain ⟨ha, rfl, hc, hr, -⟩ := h
  have h4 : ¬ (4 < n.kind ∨ w.count ≤ w.node) := by omega
  simp only [State.onNode, ha, if_neg h4, if_neg (Nat.not_le.2 hc), hr, ne_eq, not_true_eq_false, if_false]

/-- A node with a reason against it stops the graph. -/
theorem State.onNode_reason {r : Nat} (act : Walk → Node → Out State) (ha : s.atNode q = some (w, .ok n)) (hc : w.node < w.count)
    (hr : n.reason w.count = some r) (hk : n.kind ≤ 4) : s.onNode q n.kind act = .next (s.graphError q w.node r 0) := by
  have h4 : ¬ (4 < n.kind ∨ w.count ≤ w.node) := by omega
  simp only [State.onNode, ha, if_neg h4, if_neg (Nat.not_le.2 hc), hr, ne_eq, not_true_eq_false, if_false]

/-- A node that cannot be read stops the graph. -/
theorem State.onNode_unread {a : W64} (act : Walk → Node → Out State) (ha : s.atNode q = some (w, .error a)) (hc : w.node < w.count) :
    s.onNode q 0 act = .next (s.graphError q w.node 21 a) := by
  simp only [State.onNode, ha, if_neg (Nat.not_le.2 hc), ne_eq, not_true_eq_false, if_false]

/-- The successors of a node that R61 checks against the graph's size. -/
def Node.succ (n : Node) : List Nat :=
  match n.kind with
  | 1 => [bf n.b 0 32, bf n.b 32 32]
  | 2 => [n.next, bf n.b 0 32]
  | 4 => [n.next, bf n.b 0 32]
  | _ => [n.next]

theorem Node.reason_eq (n : Node) (count : Nat) : ∃ bad17 : Bool, n.reason count = if bad17 then some 17
    else if n.succ.any (fun x => x != walkEnd && decide (count ≤ x)) then some 18
    else if n.kind = 0 ∧ (4 < n.nrd ∨ 4 < n.nwr) then some 19 else none :=
  ⟨_, rfl⟩

/-- A node without a reason against it has its successors in the graph. -/
theorem Node.succ_of_reason {count : Nat} (h : n.reason count = none) : ∀ x ∈ n.succ, x = walkEnd ∨ x < count := by
  obtain ⟨bad17, e⟩ := n.reason_eq count
  rw [e] at h
  have hs : ¬ (n.succ.any (fun x => x != walkEnd && decide (count ≤ x)) = true) := by
    intro hs
    rw [if_pos hs] at h
    split at h <;> cases h
  intro x hx
  by_contra hc
  refine hs (List.any_eq_true.2 ⟨x, hx, ?_⟩)
  simp only [Bool.and_eq_true, bne_iff_ne, ne_eq, decide_eq_true_eq]
  omega

theorem bf_lo32 (x : W64) : bf x 0 32 = x.toNat % 2 ^ 32 := by simp [bf, fld]

theorem bf_hi32 (x : W64) : bf x 32 32 = x.toNat / 2 ^ 32 := by
  have := x.isLt
  simp only [bf, fld]
  omega

end Sys2Proof.Machine
end

section
/-!
SUPPORT. Calender entries (10 R315, R321, R322): what a read of an entry finds after an entry has been put or a run of
entries evaluated.
-/

namespace Sys2Proof.Machine

variable {s : State}

/-! ### Entries -/

/-- A run of words written one after another into a table of words that read zero unlisted. -/
theorem mget_foldl_mset (g : Nat → W64) (base : Nat) (m : SMap W64) (n a : Nat) :
    mget 0 ((upto n).foldl (fun m w => mset 0 m (base + w) (g w)) m) a =
      if base ≤ a ∧ a < base + n then g (a - base) else mget 0 m a := by
  induction n with
  | zero =>
    have h : ¬ (base ≤ a ∧ a < base + 0) := by omega
    rw [if_neg h]
    rfl
  | succ n ih =>
    rw [upto, List.range_succ, List.foldl_append, List.foldl_cons, List.foldl_nil]
    by_cases ha : a = base + n
    · have h : base ≤ base + n ∧ base + n < base + (n + 1) := by omega
      rw [ha, mget_mset_same, if_pos h, Nat.add_sub_cancel_left]
    · have h : (base ≤ a ∧ a < base + (n + 1)) ↔ (base ≤ a ∧ a < base + n) := by omega
      rw [mget_mset_ne _ _ _ _ _ _ ha]
      simp only [h]
      exact ih

/-- The words of the Calender after an entry has been put. -/
theorem State.cal_putEntry (e : Nat) (x : Entry) (a : Nat) :
    mget 0 (s.putEntry e x).hub.cal a = if 32 * e ≤ a ∧ a < 32 * e + 32 then x.getD (a - 32 * e) 0 else mget 0 s.hub.cal a :=
  mget_foldl_mset (fun w => x.getD w 0) (32 * e) s.hub.cal 32 a

theorem State.cal_putEntry_ne {e j i : Nat} (x : Entry) (hj : j ≠ e) (hi : i < 32) :
    mget 0 (s.putEntry e x).hub.cal (32 * j + i) = mget 0 s.hub.cal (32 * j + i) := by
  have h : ¬ (32 * e ≤ 32 * j + i ∧ 32 * j + i < 32 * e + 32) := by omega
  rw [State.cal_putEntry, if_neg h]

/-- An entry of 32 words reads as it was put. -/
theorem State.entry_putEntry {e : Nat} {x : Entry} (hx : x.length = 32) : (s.putEntry e x).entry e = x := by
  refine List.ext_getElem (by simp [State.entry, upto, hx]) fun i h _ => ?_
  have hi : i < 32 := by simpa [State.entry, upto] using h
  have hin : 32 * e ≤ 32 * e + i ∧ 32 * e + i < 32 * e + 32 := by omega
  simp only [State.entry, upto, List.getElem_map, List.getElem_range, State.cal_putEntry, if_pos hin, Nat.add_sub_cancel_left]
  rw [List.getD_eq_getElem]

/-- Two states with the same words of an entry have the same entry. -/
theorem State.entry_congr {t : State} {e : Nat} (h : ∀ i, i < 32 → mget 0 t.hub.cal (32 * e + i) = mget 0 s.hub.cal (32 * e + i)) :
    t.entry e = s.entry e :=
  List.map_congr_left fun i hi => h i (List.mem_range.1 hi)

@[simp] theorem State.entry_onQueue (s : State) (q : Nat) (f : Queue → Queue) (e : Nat) : (s.onQueue q f).entry e = s.entry e := rfl

theorem State.entry_length (s : State) (e : Nat) : (s.entry e).length = 32 := by simp [State.entry, upto]

/-! ### An evaluation and a widening keep the number of words -/

@[simp] theorem Entry.length_put (x : Entry) (i : Nat) (v : W64) : (x.put i v).length = x.length := List.length_set

@[simp] theorem Entry.length_ctl (x : Entry) (lo n v : Nat) : (x.ctl lo n v).length = x.length := x.length_put _ _

@[simp] theorem Entry.length_clearStats (x : Entry) : x.clearStats.length = x.length := by
  refine List.foldlRecOn (motive := fun y : Entry => y.length = x.length) _ _ rfl fun y hy i _ => ?_
  rw [Entry.length_put, hy]

@[simp] theorem Entry.length_widen (x : Entry) : x.widen.length = x.length := by
  unfold Entry.widen
  split <;> simp

@[simp] theorem Entry.length_settle (old x : Entry) : (Entry.settle old x).length = x.length := by
  unfold Entry.settle
  dsimp only
  split <;> split <;> simp

theorem Entry.length_takeRerun (x : Entry) : x.takeRerun.length = x.length := by simp [Entry.takeRerun]

theorem Entry.length_evaluate (x : Entry) : x.evaluate.length = x.length := by
  unfold Entry.evaluate
  split
  · rfl
  split
  · simp
  split
  · simp
  split
  · rfl
  extract_lets z err clip nr m1 m2 noise y hard wide n narrow y1
  have hy : y.length = x.length := by simp [y]
  have hy1 : y1.length = x.length := by
    show List.length (if _ then _ else _ : Entry) = _
    split
    · split
      · split <;> simp [wide, hy]
      · simp [wide, hy]
    · split
      · split
        · split <;> simp [narrow, hy]
        · exact hy
      · simp [hy]
  rw [Entry.length_clearStats, Entry.length_settle, hy1]

/-! ### An evaluation of a run of entries (10 R322) -/

theorem Entry.evaluate_invalid {x : Entry} (h : x.valid = false) : x.evaluate = x := by simp [Entry.evaluate, h]

/-- One entry of a run is evaluated, where it is valid. -/
def State.evalOne (s : State) (e : Nat) : State := if (s.entry e).valid then s.putEntry e (s.entry e).evaluate else s

/-- Of the machine only the Calender's words differ. -/
def CalOnly (s t : State) : Prop := ∃ c, t = { s with hub := { s.hub with cal := c } }

theorem CalOnly.refl (s : State) : CalOnly s s := ⟨s.hub.cal, rfl⟩

theorem CalOnly.trans {t u : State} (h : CalOnly s t) (h' : CalOnly t u) : CalOnly s u := by
  obtain ⟨c, rfl⟩ := h
  obtain ⟨d, rfl⟩ := h'
  exact ⟨d, rfl⟩

theorem State.putEntry_calOnly (s : State) (e : Nat) (x : Entry) : CalOnly s (s.putEntry e x) := ⟨_, rfl⟩

theorem State.evalOne_spec (s : State) (e : Nat) : CalOnly s (s.evalOne e) ∧ (s.evalOne e).entry e = (s.entry e).evaluate ∧
    ∀ j i, j ≠ e → i < 32 → mget 0 (s.evalOne e).hub.cal (32 * j + i) = mget 0 s.hub.cal (32 * j + i) := by
  unfold State.evalOne
  split
  · exact ⟨s.putEntry_calOnly e _, State.entry_putEntry (by rw [Entry.length_evaluate, State.entry_length]), fun _ _ hj hi => State.cal_putEntry_ne _ hj hi⟩
  · next h => exact ⟨.refl s, (Entry.evaluate_invalid (by simpa using h)).symm, fun _ _ _ _ => rfl⟩

/-- The first `n` entries of a run are evaluated one after another. -/
def State.evalOnes (s : State) (first : Nat) : Nat → State
  | 0 => s
  | n + 1 => (s.evalOnes first n).evalOne (first + n)

theorem State.evalOnes_eq (s : State) (first n : Nat) : (upto n).foldl (fun s i => s.evalOne (first + i)) s = s.evalOnes first n := by
  induction n with
  | zero => rfl
  | succ n ih =>
    rw [upto, List.range_succ, List.foldl_append]
    exact congrArg (fun u => State.evalOne u (first + n)) ih

/-- A run of evaluations evaluates each of its entries once, as it stood before the run, and no other. -/
theorem State.evalOnes_spec (s : State) (first n : Nat) :
    CalOnly s (s.evalOnes first n) ∧ (∀ e, first ≤ e → e < first + n → (s.evalOnes first n).entry e = (s.entry e).evaluate) ∧
      ∀ e, e < first ∨ first + n ≤ e → ∀ i, i < 32 →
        mget 0 (s.evalOnes first n).hub.cal (32 * e + i) = mget 0 s.hub.cal (32 * e + i) := by
  induction n with
  | zero => exact ⟨.refl s, fun e h h' => absurd h' (by omega), fun _ _ _ _ => rfl⟩
  | succ n ih =>
    obtain ⟨honly, hin, hout⟩ := ih
    obtain ⟨h1, h2, h3⟩ := (s.evalOnes first n).evalOne_spec (first + n)
    refine ⟨honly.trans h1, fun e he he' => ?_, fun e he i hi => ?_⟩
    · by_cases h : e = first + n
      · subst h
        exact h2.trans (congrArg Entry.evaluate (State.entry_congr (hout (first + n) (.inr (Nat.le_refl _)))))
      · exact (State.entry_congr (fun i hi => h3 e i h hi)).trans (hin e he (by omega))
    · exact (h3 e i (by omega) hi).trans (hout e (by omega) i hi)

/-- The step count rises by one, and each entry of the run is evaluated. -/
theorem State.evalRange_spec (s : State) (first n : Nat) :
    (∃ c, s.evalRange first n = { s with hub := { s.hub with cal := c, stepCount := s.hub.stepCount + 1 } }) ∧
      (∀ e, first ≤ e → e < first + n → (s.evalRange first n).entry e = (s.entry e).evaluate) ∧
      ∀ e, e < first ∨ first + n ≤ e → ∀ i, i < 32 →
        mget 0 (s.evalRange first n).hub.cal (32 * e + i) = mget 0 s.hub.cal (32 * e + i) := by
  obtain ⟨⟨c, hc⟩, hin, hout⟩ := s.evalOnes_spec first n
  have he : s.evalRange first n = { s.evalOnes first n with
      hub := { (s.evalOnes first n).hub with stepCount := (s.evalOnes first n).hub.stepCount + 1 } } := by
    rw [← State.evalOnes_eq]
    rfl
  rw [he]
  exact ⟨⟨c, by rw [hc]⟩, hin, hout⟩

end Sys2Proof.Machine
end

section
/-!
SUPPORT. What each kind of node does (02 R57 to R61; 10 R322, R331), and the settling of O45.
-/

namespace Sys2Proof.Machine

variable {s t : State} {q : Nat} {w : Walk} {n : Node}

theorem exec_nodeTask (q : Nat) (s : State) : exec (.nodeTask q) s = execNodeTask q s := rfl
theorem exec_nodeCond (q : Nat) (s : State) : exec (.nodeCond q) s = execNodeCond q s := rfl
theorem exec_nodeWhile (q : Nat) (s : State) : exec (.nodeWhile q) s = execNodeWhile q s := rfl
theorem exec_nodeCalstep (q : Nat) (s : State) : exec (.nodeCalstep q) s = execNodeCalstep q s := rfl
theorem exec_nodeRerun (q : Nat) (s : State) : exec (.nodeRerun q) s = execNodeRerun q s := rfl

/-! ### TASK -/

/-- Acceptance says nothing of its queue's walk. -/
theorem Accepts.onWalk {c : Checked} {id : Nat} (h : Accepts s t q c id) (v : Option Walk) :
    Accepts s (t.onQueue q (fun u => { u with walk := v })) q c id := by
  obtain ⟨htask, hothers, hnext, horder, hwait, hrecs, hhist, honly⟩ := h
  refine ⟨htask, hothers, hnext, horder, ?_, ?_, ?_, honly⟩ <;> rwa [State.queueAt_onQueue]

theorem nodeTask_launches {r tab : List W64} {c : Checked} (h : s.nodeReady q w n 0) (ha : s.readList q n.a.toNat 8 = .ok r)
    (hb : s.readList q n.b.toNat (2 * (n.nrd + n.nwr)) = .ok tab) (hg : (s.queueAt q).dealer.guess = none)
    (hc : s.checkLaunch q (Launch.ofWords r) n.nrd n.nwr (.ok tab) none = .ok c) :
    ∃ t, exec (.nodeTask q) s = .next t ∧ Accepts s t q c w.id ∧
      (t.queueAt q).walk = some { w with task := some s.disp.nextTask, next := n.next } := by
  obtain ⟨hacc, -⟩ := State.accept_accepts c w.id hg
  have hid : (s.accept q c w.id).2 = s.disp.nextTask := by rw [State.accept_eq c w.id hg]
  have hx : exec (.nodeTask q) s = .next ((s.accept q c w.id).1.onQueue q
      (fun u => { u with walk := some { w with task := some (s.accept q c w.id).2, next := n.next } })) := by
    rw [exec_nodeTask, execNodeTask, State.onNode_acts _ h (by decide), ha]
    simp only [hb, hc]
  rw [hid] at hx
  exact ⟨_, hx, hacc.onWalk _, by rw [State.queueAt_onQueue]⟩

theorem nodeTask_unreadable {a : W64} (h : s.nodeReady q w n 0) (ha : s.readList q n.a.toNat 8 = .error a) :
    ∃ t, exec (.nodeTask q) s = .next t ∧ GraphStops s t q w 21 a := by
  have hx : exec (.nodeTask q) s = .next (s.graphError q w.node 21 a) := by
    rw [exec_nodeTask, execNodeTask, State.onNode_acts _ h (by decide), ha]
  exact ⟨_, hx, State.graphError_stops w 21 a (State.atNode_running h.1).2⟩

/-! ### COND and WHILE -/

theorem nodeCond_branches {v : W64} (h : s.nodeReady q w n 1) (hf : s.wordFree w n.a = true)
    (hv : s.readList q n.a.toNat 1 = .ok [v]) :
    ∃ t, exec (.nodeCond q) s = .next t ∧ DispOnly s t ∧
      WalksTo t q w (if v ≠ 0 then n.b.toNat % 2 ^ 32 else n.b.toNat / 2 ^ 32) := by
  have hx : exec (.nodeCond q) s = .next (s.walkGo q (if v ≠ 0 then bf n.b 0 32 else bf n.b 32 32)) := by
    rw [exec_nodeCond, execNodeCond, State.onNode_acts _ h (by decide), hf, hv]
    rfl
  obtain ⟨hat, hk, -, hr, hre⟩ := h
  have hs : n.succ = [bf n.b 0 32, bf n.b 32 32] := by simp only [Node.succ, hk]
  have hsucc := Node.succ_of_reason hr
  rw [hs] at hsucc
  have ht : (if v ≠ 0 then bf n.b 0 32 else bf n.b 32 32) = walkEnd ∨ (if v ≠ 0 then bf n.b 0 32 else bf n.b 32 32) < w.count :=
    hsucc _ (by split <;> simp)
  rw [← bf_lo32, ← bf_hi32]
  exact ⟨_, hx, State.walkGo_walksTo (State.atNode_running hat).1 hre ht⟩

/-- The successors of a WHILE and of a RERUN node. -/
theorem nodeReady_succ {kind : Nat} (h : s.nodeReady q w n kind) (hk : kind = 2 ∨ kind = 4) :
    (n.next = walkEnd ∨ n.next < w.count) ∧ (bf n.b 0 32 = walkEnd ∨ bf n.b 0 32 < w.count) := by
  obtain ⟨-, rfl, -, hr, -⟩ := h
  have hs : n.succ = [n.next, bf n.b 0 32] := by
    rcases hk with hk | hk <;> simp only [Node.succ, hk]
  have hsucc := Node.succ_of_reason hr
  rw [hs] at hsucc
  exact ⟨hsucc _ (by simp), hsucc _ (by simp)⟩

/-- A WHILE node that goes on with its iteration counts in a table goes to a successor. -/
theorem loops_walksTo {kind target : Nat} (l : SMap Nat) (h : s.nodeReady q w n kind) (ht : target = walkEnd ∨ target < w.count) :
    ∃ t, t = (s.onQueue q (fun u => { u with walk := some { w with loops := l } })).walkGo q target ∧ DispOnly s t ∧
      WalksTo t q { w with loops := l } target := by
  obtain ⟨-, -, -, -, hre⟩ := h
  obtain ⟨honly, hto⟩ := State.walkGo_walksTo (s := s.onQueue q (fun u => { u with walk := some { w with loops := l } }))
    (w := { w with loops := l }) (by rw [State.queueAt_onQueue]) hre ht
  exact ⟨_, rfl, DispOnly.trans rfl honly, hto⟩

theorem exec_nodeWhile_ready {v : W64} (h : s.nodeReady q w n 2) (hf : s.wordFree w n.a = true)
    (hv : s.readList q n.a.toNat 1 = .ok [v]) :
    exec (.nodeWhile q) s = .next (if v = 0 then
        (s.onQueue q (fun u => { u with walk := some { w with loops := mdel w.loops w.node } })).walkGo q n.next
      else if bf n.b 32 32 < mget 0 w.loops w.node + 1 then s.graphError q w.node 16 0
      else if (mfind w.loops w.node).isNone ∧ 64 ≤ w.loops.length then s.graphError q w.node 20 0
      else (s.onQueue q (fun u => { u with walk := some { w with loops := mput w.loops w.node (mget 0 w.loops w.node + 1) } })).walkGo q
        (bf n.b 0 32)) := by
  rw [exec_nodeWhile, execNodeWhile, State.onNode_acts _ h (by decide), hf, hv]
  simp only [apply_ite Host.Outcome.next]
  rfl

theorem nodeWhile_closes (h : s.nodeReady q w n 2) (hf : s.wordFree w n.a = true) (hv : s.readList q n.a.toNat 1 = .ok [0]) :
    ∃ t, exec (.nodeWhile q) s = .next t ∧ DispOnly s t ∧ WalksTo t q { w with loops := mdel w.loops w.node } n.next := by
  obtain ⟨t, rfl, hto⟩ := loops_walksTo (mdel w.loops w.node) h (nodeReady_succ h (.inl rfl)).1
  exact ⟨_, by rw [exec_nodeWhile_ready h hf hv, if_pos rfl], hto⟩

theorem nodeWhile_iterates {v : W64} {k : Nat} (h : s.nodeReady q w n 2) (hf : s.wordFree w n.a = true)
    (hv : s.readList q n.a.toNat 1 = .ok [v]) (hne : v ≠ 0) (hk : k = mget 0 w.loops w.node + 1) (hmax : k ≤ n.b.toNat / 2 ^ 32)
    (hlen : w.loops.length < 64) :
    ∃ t, exec (.nodeWhile q) s = .next t ∧ DispOnly s t ∧ WalksTo t q { w with loops := mput w.loops w.node k } (n.b.toNat % 2 ^ 32) := by
  subst hk
  rw [← bf_hi32] at hmax
  have hfull : ¬ ((mfind w.loops w.node).isNone ∧ 64 ≤ w.loops.length) := fun hc => absurd hc.2 (Nat.not_le.2 hlen)
  obtain ⟨t, rfl, hto⟩ := loops_walksTo (mput w.loops w.node (mget 0 w.loops w.node + 1)) h (nodeReady_succ h (.inl rfl)).2
  rw [← bf_lo32]
  exact ⟨_, by rw [exec_nodeWhile_ready h hf hv, if_neg hne, if_neg (Nat.not_lt.2 hmax), if_neg hfull], hto⟩

theorem nodeWhile_exceeds {v : W64} (h : s.nodeReady q w n 2) (hf : s.wordFree w n.a = true)
    (hv : s.readList q n.a.toNat 1 = .ok [v]) (hne : v ≠ 0) (hmax : n.b.toNat / 2 ^ 32 ≤ mget 0 w.loops w.node) :
    ∃ t, exec (.nodeWhile q) s = .next t ∧ GraphStops s t q w 16 0 := by
  rw [← bf_hi32] at hmax
  exact ⟨_, by rw [exec_nodeWhile_ready h hf hv, if_neg hne, if_pos (Nat.lt_succ_of_le hmax)],
    State.graphError_stops w 16 0 (State.atNode_running h.1).2⟩

/-! ### CALSTEP and RERUN -/

/-- The first entry of a run outside a queue's partition. -/
theorem State.foreignEntry_eq_some {first num e : Nat} (hle : first ≤ e) (hlt : e < first + num) (he : s.ownsEntry (s.qpart q) e = false)
    (h : ∀ j, first ≤ j → j < e → s.ownsEntry (s.qpart q) j = true) : s.foreignEntry q first num = some e := by
  obtain ⟨i, rfl⟩ := Nat.exists_eq_add_of_le hle
  have hi : (List.range num).find? ((fun e => !s.ownsEntry (s.qpart q) e) ∘ fun i => first + i) = some i := by
    rw [List.find?_range_eq_some]
    refine ⟨by simp [he], List.mem_range.2 (by omega), fun j hj => ?_⟩
    simp [h (first + j) (by omega) (by omega)]
  rw [State.foreignEntry, upto, List.find?_map, hi]
  rfl

theorem State.foreignEntry_eq_none {first num : Nat} (h : ∀ e, first ≤ e → e < first + num → s.ownsEntry (s.qpart q) e = true) :
    s.foreignEntry q first num = none := by
  rw [State.foreignEntry, List.find?_eq_none]
  simp only [upto, List.mem_map, List.mem_range]
  rintro _ ⟨i, hi, rfl⟩
  simp [h (first + i) (by omega) (by omega)]

theorem bf_entry (x : W64) : bf x 0 12 = x.toNat % 4096 := by simp [bf, fld]
theorem bf_run (x : W64) : bf x 16 12 = x.toNat / 65536 % 4096 := rfl

theorem exec_nodeCalstep_ready (h : s.nodeReady q w n 3) (ht : s.walkTasks w = []) :
    exec (.nodeCalstep q) s = match s.foreignEntry q (n.a.toNat % 4096) (n.a.toNat / 65536 % 4096 + 1) with
      | some e => .next (s.calenderStop q e)
      | none => .next ((s.evalRange (n.a.toNat % 4096) (n.a.toNat / 65536 % 4096 + 1)).onQueue q
          (fun u => { u with walk := some { w with calNext := some n.next } })) := by
  rw [exec_nodeCalstep, execNodeCalstep, State.onNode_acts _ h (by decide), ht, bf_entry, bf_run]
  rfl

theorem nodeCalstep_evaluates {first num : Nat} (h : s.nodeReady q w n 3) (ht : s.walkTasks w = []) (hfirst : first = n.a.toNat % 4096)
    (hnum : num = n.a.toNat / 65536 % 4096 + 1) (hown : ∀ e, first ≤ e → e < first + num → s.ownsEntry (s.qpart q) e = true) :
    ∃ t, exec (.nodeCalstep q) s = .next t ∧ (t.queueAt q).walk = some { w with calNext := some n.next } ∧
      t.hub.stepCount = s.hub.stepCount + 1 ∧ t.mem = s.mem ∧ t.ctxs = s.ctxs ∧
      (∀ e, first ≤ e → e < first + num → (mget 0 s.hub.cal (32 * e)).getLsbD 28 = true → t.entry e = (s.entry e).evaluate) ∧
      ∀ e, e < first ∨ first + num ≤ e → ∀ i, i < 32 → mget 0 t.hub.cal (32 * e + i) = mget 0 s.hub.cal (32 * e + i) := by
  subst hfirst hnum
  have hx := exec_nodeCalstep_ready h ht
  rw [State.foreignEntry_eq_none hown] at hx
  obtain ⟨⟨c, hc⟩, hin, hout⟩ := s.evalRange_spec (n.a.toNat % 4096) (n.a.toNat / 65536 % 4096 + 1)
  refine ⟨_, hx, by rw [State.queueAt_onQueue], ?_, ?_, ?_, fun e he he' _ => hin e he he', hout⟩ <;> rw [hc] <;> rfl

theorem exec_nodeRerun_ready (h : s.nodeReady q w n 4) (ht : s.walkTasks w = []) :
    exec (.nodeRerun q) s = .next (if !s.ownsEntry (s.qpart q) (n.a.toNat % 4096) then s.calenderStop q (n.a.toNat % 4096)
      else if !(s.entry (n.a.toNat % 4096)).rerun then s.walkGo q n.next
      else if bf n.b 0 32 = walkEnd then
        (s.putEntry (n.a.toNat % 4096) (s.entry (n.a.toNat % 4096)).takeRerun).graphError q w.node 18 0
      else (s.putEntry (n.a.toNat % 4096) (s.entry (n.a.toNat % 4096)).takeRerun).onQueue q (fun u => { u with walk := some { w with
          node := bf n.b 0 32, rerun := some (n.next, bf n.b 32 32), calWait := true } })) := by
  rw [exec_nodeRerun, execNodeRerun, State.onNode_acts _ h (by decide), ht, bf_entry, h.2.2.2.2]
  simp only [apply_ite Host.Outcome.next]
  rfl

theorem nodeRerun_goes_on (h : s.nodeReady q w n 4) (ht : s.walkTasks w = []) (hrr : (s.entry (n.a.toNat % 4096)).rerun = false)
    (hown : s.ownsEntry (s.qpart q) (n.a.toNat % 4096) = true) :
    ∃ t, exec (.nodeRerun q) s = .next t ∧ DispOnly s t ∧ WalksTo t q w n.next := by
  have hx := exec_nodeRerun_ready h ht
  rw [hown, hrr] at hx
  exact ⟨_, hx, State.walkGo_walksTo (State.atNode_running h.1).1 h.2.2.2.2 (nodeReady_succ h (.inr rfl)).1⟩

theorem nodeRerun_widens (h : s.nodeReady q w n 4) (ht : s.walkTasks w = []) (hrr : (s.entry (n.a.toNat % 4096)).rerun = true)
    (hb : n.b.toNat % 2 ^ 32 ≠ 2 ^ 32 - 1) (hown : s.ownsEntry (s.qpart q) (n.a.toNat % 4096) = true) :
    ∃ t, exec (.nodeRerun q) s = .next t ∧ t.entry (n.a.toNat % 4096) = (s.entry (n.a.toNat % 4096)).takeRerun ∧
      (t.queueAt q).walk = some { w with node := n.b.toNat % 2 ^ 32, rerun := some (n.next, n.b.toNat / 2 ^ 32), calWait := true } ∧
      t.mem = s.mem ∧ t.ctxs = s.ctxs := by
  have hx := exec_nodeRerun_ready h ht
  have hb' : ¬ bf n.b 0 32 = walkEnd := by
    rw [bf_lo32]
    exact hb
  rw [hown, hrr] at hx
  simp only [Bool.not_true, Bool.false_eq_true, if_false, if_neg hb'] at hx
  obtain ⟨c, hc⟩ := s.putEntry_calOnly (n.a.toNat % 4096) (s.entry (n.a.toNat % 4096)).takeRerun
  refine ⟨_, hx, ?_, ?_, ?_, ?_⟩
  · rw [State.entry_onQueue, State.entry_putEntry (by rw [Entry.length_takeRerun, State.entry_length])]
  · rw [State.queueAt_onQueue, bf_lo32, bf_hi32]
  · rw [hc]
    rfl
  · rw [hc]
    rfl

/-- A CALSTEP or RERUN node that names an entry outside its queue's partition (10 R315; log entry 30). -/
theorem calender_node_foreign {e : Nat} {i : Instr} (ht : s.walkTasks w = []) (he : s.ownsEntry (s.qpart q) e = false)
    (h : (i = .nodeRerun q ∧ s.nodeReady q w n 4 ∧ e = n.a.toNat % 4096) ∨
      (i = .nodeCalstep q ∧ s.nodeReady q w n 3 ∧ n.a.toNat % 4096 ≤ e ∧ e ≤ n.a.toNat % 4096 + n.a.toNat / 65536 % 4096 ∧
        ∀ j, n.a.toNat % 4096 ≤ j → j < e → s.ownsEntry (s.qpart q) j = true)) :
    exec i s = .next (s.calenderStop q e) ∧ s.qstate q = 1 := by
  rcases h with ⟨rfl, hn, rfl⟩ | ⟨rfl, hn, hle, hlt, hj⟩
  · rw [exec_nodeRerun_ready hn ht, he]
    exact ⟨rfl, (State.atNode_running hn.1).2⟩
  · rw [exec_nodeCalstep_ready hn ht, State.foreignEntry_eq_some hle (by omega) he hj]
    exact ⟨rfl, (State.atNode_running hn.1).2⟩

/-! ### A node that stops the graph -/

/-- Each kind of node is acted on through `onNode`. -/
theorem exec_node_of_kind (s : State) (q : Nat) {kind : Nat} (hk : kind ≤ 4) :
    ∃ act, exec ([Instr.nodeTask q, .nodeCond q, .nodeWhile q, .nodeCalstep q, .nodeRerun q].getD kind (.nodeTask q)) s =
      s.onNode q kind act := by
  interval_cases kind <;> exact ⟨_, rfl⟩

theorem node_with_reason_stops {r : Nat} {i : Instr} (ha : s.atNode q = some (w, .ok n)) (hc : w.node < w.count)
    (hr : n.reason w.count = some r) (hk : n.kind ≤ 4)
    (hi : i = [Instr.nodeTask q, .nodeCond q, .nodeWhile q, .nodeCalstep q, .nodeRerun q].getD n.kind (.nodeTask q)) :
    ∃ t, exec i s = .next t ∧ GraphStops s t q w r 0 := by
  obtain ⟨act, hx⟩ := exec_node_of_kind s q hk
  rw [← hi] at hx
  exact ⟨_, hx.trans (State.onNode_reason act ha hc hr hk), State.graphError_stops w r 0 (State.atNode_running ha).2⟩

end Sys2Proof.Machine
end

section
open Sys2Proof Sys2Proof.Machine

/-- Settles O45: by the kind of the node, and for each kind by what the word or the entry that it names holds. -/
theorem graphsAreWalked : Obligations.GraphsAreWalked := by
  unfold Obligations.GraphsAreWalked
  refine ⟨?_, ?_, ?_, ?_, ?_, ?_, ?_, ?_, ?_, ?_, ?_, ?_⟩
  · intro q s w n r tab c h ha hb hg hc
    exact nodeTask_launches h ha hb hg hc
  · intro q s w n a h ha
    exact nodeTask_unreadable h ha
  · intro q s w n v h hf hv
    exact nodeCond_branches h hf hv
  · intro q s w n h hf hv
    exact nodeWhile_closes h hf hv
  · intro q s w n v k h hf hv hne hk hmax hlen
    exact nodeWhile_iterates h hf hv hne hk hmax hlen
  · intro q s w n v h hf hv hne hmax
    exact nodeWhile_exceeds h hf hv hne hmax
  · intro q s w n first num h ht hfirst hnum hown
    exact nodeCalstep_evaluates h ht hfirst hnum hown
  · intro q s w n h ht hrr hown
    exact nodeRerun_goes_on h ht hrr hown
  · intro q s w n h ht hrr hb hown
    exact nodeRerun_widens h ht hrr hb hown
  · intro q s w n e i ht he h
    obtain ⟨hx, hst⟩ := calender_node_foreign ht he h
    obtain ⟨t, rfl, hstops⟩ := State.calenderStop_stops e hst
    exact ⟨_, hx, hstops⟩
  · intro q s w n r i ha hc hr hk hi
    exact node_with_reason_stops ha hc hr hk hi
  · intro q s w a ha hc
    exact ⟨_, State.onNode_unread _ ha hc, State.graphError_stops w 21 a (State.atNode_running ha).2⟩
end

section
/-!
SUPPORT. Tasks in the dependence table (02 R39, R57, R59, R65, R66; 16 R403): admission, steps of priority, holds, the start of a
gang, and a launch that its first placement refuses.
-/

namespace Sys2Proof.Machine

variable {s t : State} {die q tk task : Nat} {x : Task}

theorem exec_taskAdmit (die : Nat) (s : State) : exec (.taskAdmit die) s = execTaskAdmit die s := rfl
theorem exec_priorityAge (task : Nat) (s : State) : exec (.priorityAge task) s = execPriorityAge task s := rfl
theorem exec_starvationHold (task : Nat) (s : State) : exec (.starvationHold task) s = execStarvationHold task s := rfl
theorem exec_gangStart (task : Nat) (s : State) : exec (.gangStart task) s = execGangStart task s := rfl
theorem exec_groupPlace (task : Nat) (cores : List Nat) (s : State) : exec (.groupPlace task cores) s = execGroupPlace task cores s := rfl

/-! ### Admission -/

/-- The one queue of a die with a task waiting is the one whose task the die's table admits. -/
theorem State.admitNext_only (hq : q < 256) (hh : s.qhome q = die) (hw : (s.queueAt q).wait = some tk)
    (ho : ∀ p, p < 256 → s.qhome p = die → p ≠ q → (s.queueAt p).wait = none) : s.admitNext die = some (q, tk) := by
  have hmem : q ∈ (upto 256).map (fun i => (mget 0 s.disp.rr die + i) % 256) :=
    List.mem_map.2 ⟨(q + 256 - mget 0 s.disp.rr die % 256) % 256, List.mem_range.2 (by omega), by omega⟩
  unfold State.admitNext
  dsimp only
  cases e : List.findSome? _ ((upto 256).map (fun i => (mget 0 s.disp.rr die + i) % 256)) with
  | none =>
    have := List.findSome?_eq_none_iff.1 e q hmem
    simp [hh, hw] at this
  | some b =>
    obtain ⟨p, hp, hb⟩ := List.exists_of_findSome?_eq_some e
    obtain ⟨i, -, rfl⟩ := List.mem_map.1 hp
    split at hb
    · next hd =>
      by_cases hpq : (mget 0 s.disp.rr die + i) % 256 = q
      · rw [hpq, hw] at hb
        exact hb.symm
      · rw [ho _ (Nat.mod_lt _ (by decide)) hd hpq] at hb
        cases hb
    · cases hb

/-- The dispatcher's turns: the next queue that a die's table looks at. -/
def State.turned (s : State) (die q : Nat) : State := { s with disp := { s.disp with rr := mset 0 s.disp.rr die (q + 1) } }

@[simp] theorem State.taskAt_turned (s : State) (die q k : Nat) : (s.turned die q).taskAt k = s.taskAt k := rfl
@[simp] theorem State.queueAt_turned (s : State) (die q k : Nat) : (s.turned die q).queueAt k = s.queueAt k := rfl

/-- A task in the table, its queue free for the next. -/
def State.admitted (s : State) (die q tk : Nat) : State :=
  ((s.onTask tk (fun x => { x with st := .live })).onQueue q (fun u => { u with wait := none })).turned die q

theorem State.taskAt_admitted : (s.admitted die q tk).taskAt tk = { s.taskAt tk with st := .live } := by
  rw [State.admitted, State.taskAt_turned, State.taskAt_onQueue, State.taskAt_onTask]

theorem State.taskAt_admitted_ne {j : Nat} (h : j ≠ tk) : (s.admitted die q tk).taskAt j = s.taskAt j := by
  rw [State.admitted, State.taskAt_turned, State.taskAt_onQueue, State.taskAt_onTask_ne _ _ _ _ h]

theorem State.queueAt_admitted : (s.admitted die q tk).queueAt q = { s.queueAt q with wait := none } := by
  rw [State.admitted, State.queueAt_turned, State.queueAt_onQueue, State.queueAt_onTask]

theorem exec_taskAdmit_only (hd : die < 4) (hn : s.admitNext die = some (q, tk)) (hroom : s.entriesUsed die + (s.taskAt tk).entries ≤ 1024) :
    exec (.taskAdmit die) s = match (s.queueAt q).walk with
      | some w => .next (if w.task = some tk then (s.admitted die q tk).walkGo q w.next else s.admitted die q tk)
      | none => .next (s.admitted die q tk) := by
  have hc : ¬ (4 ≤ die ∨ 1024 < s.entriesUsed die + (s.taskAt tk).entries) := by omega
  have hw : ((s.admitted die q tk).queueAt q).walk = (s.queueAt q).walk := by rw [State.queueAt_admitted]
  rw [exec_taskAdmit, execTaskAdmit, hn, ← hw]
  simp only [if_neg hc]
  rfl

theorem taskAdmit_admits (hd : die < 4) (hn : s.admitNext die = some (q, tk)) (hwalk : (s.queueAt q).walk = none)
    (hroom : s.entriesUsed die + (s.taskAt tk).entries ≤ 1024) :
    ∃ t, exec (.taskAdmit die) s = .next t ∧ t.taskAt tk = { s.taskAt tk with st := .live } ∧
      (∀ j, j ≠ tk → t.taskAt j = s.taskAt j) ∧ (t.queueAt q).wait = none ∧ { t with disp := {} } = { s with disp := {} } := by
  have hx := exec_taskAdmit_only hd hn hroom
  rw [hwalk] at hx
  exact ⟨_, hx, State.taskAt_admitted, fun j hj => State.taskAt_admitted_ne hj, by rw [State.queueAt_admitted], rfl⟩

theorem taskAdmit_moves_walk {w : Walk} (hd : die < 4) (hn : s.admitNext die = some (q, tk)) (hwalk : (s.queueAt q).walk = some w)
    (htask : w.task = some tk) (hr : w.rerun = none) (hnext : w.next < w.count) (hcount : w.count < 2 ^ 32)
    (hroom : s.entriesUsed die + (s.taskAt tk).entries ≤ 1024) :
    ∃ t, exec (.taskAdmit die) s = .next t ∧ t.taskAt tk = { s.taskAt tk with st := .live } ∧ (t.queueAt q).wait = none ∧
      (t.queueAt q).walk = some { w with node := w.next, task := none, calNext := none } := by
  have hx := exec_taskAdmit_only hd hn hroom
  have hwalk' : ((s.admitted die q tk).queueAt q).walk = some w := by rw [State.queueAt_admitted, hwalk]
  have hend : ¬ w.next = walkEnd := by
    unfold walkEnd
    omega
  rw [hwalk] at hx
  simp only [if_pos htask, State.walkGo_eq hwalk' hr (.inr hnext), Walk.movedTo, if_neg hend] at hx
  refine ⟨_, hx, ?_, ?_, ?_⟩
  · rw [State.taskAt_onQueue, State.taskAt_admitted]
  · rw [State.queueAt_onQueue, State.queueAt_admitted]
  · rw [State.queueAt_onQueue]

/-! ### Priority, holds and gangs -/

theorem taskIs_onTask (s : State) (task : Nat) (f : Task → Task) : TaskIs s (s.onTask task f) task (f (s.taskAt task)) :=
  ⟨State.taskAt_onTask s task f, fun _ h => State.taskAt_onTask_ne _ _ _ _ h, rfl, rfl⟩

theorem priorityAge_steps (hx : x = s.taskAt task) (hg : x.guess = false) (hr : s.ready x = true ∨ s.resuming x = true)
    (hp : s.effPrio x < 3) (hup : x.up < x.age / 2 ^ 20) :
    ∃ t, exec (.priorityAge task) s = .next t ∧ TaskIs s t task { x with up := x.up + 1 } ∧
      t.effPrio { x with up := x.up + 1 } = s.effPrio x + 1 := by
  have hdue : s.stepDue x = true := by
    simp only [State.stepDue, State.ages, hg, Bool.not_false, Bool.true_and, Bool.and_eq_true, Bool.or_eq_true, decide_eq_true_eq]
    exact ⟨⟨hr, hup⟩, hp⟩
  subst hx
  refine ⟨_, by rw [exec_priorityAge, execPriorityAge, if_pos hdue], taskIs_onTask s task _, ?_⟩
  have hq : (s.onTask task (fun t => { t with up := t.up + 1 })).qpmax (s.taskAt task).q = s.qpmax (s.taskAt task).q := rfl
  simp only [State.effPrio, hg, Bool.false_eq_true, if_false, hq] at hp ⊢
  omega

theorem starvationHold_holds (hx : x = s.taskAt task) (hr : s.wantsGroup x = true ∨ s.resuming x = true) (hp : s.effPrio x = 3)
    (hage : (4 - min x.l.prio.toNat (s.qpmax x.q)) * 2 ^ 20 ≤ x.age) (hh : x.hold = 0) :
    ∃ t, exec (.starvationHold task) s = .next t ∧ TaskIs s t task { s.taskAt task with hold := 1 } := by
  have hdue : (s.holdDue x && x.hold == 0) = true := by
    simp only [State.holdDue, hp, hh, beq_self_eq_true, Bool.and_true, Bool.and_eq_true, Bool.or_eq_true, decide_eq_true_eq]
    exact ⟨hr, hage⟩
  subst hx
  refine ⟨_, ?_, taskIs_onTask s task (fun t => { t with hold := 1 })⟩
  rw [exec_starvationHold, execStarvationHold]
  exact if_pos hdue

theorem gangStart_starts (hg : (s.taskAt task).l.gang ≠ 0) (hp : (s.taskAt task).placed = true) (hs : (s.taskAt task).started = false)
    (ht : (s.taskAt task).l.gang.toNat ≤ s.hub.time.toNat) :
    ∃ t, exec (.gangStart task) s = .next t ∧ TaskIs s t task { s.taskAt task with started := true } := by
  have hc : ((s.taskAt task).l.gang != 0 && (s.taskAt task).placed && !(s.taskAt task).started &&
      decide ((s.taskAt task).l.gang.toNat ≤ s.hub.time.toNat)) = true := by
    rw [bne_iff_ne.2 hg, hp, hs, decide_eq_true ht]
    rfl
  refine ⟨_, ?_, taskIs_onTask s task (fun t => { t with started := true })⟩
  rw [exec_gangStart, execGangStart]
  exact if_pos hc

/-! ### A first placement that refuses its launch (02 R38, R64) -/

/-- What stops a task at its first placement is a record, the task's end and a stopped queue. -/
theorem groupPlace_rejects {cores : List Nat} {ws : List W64} {kind cause : Nat} {detail : W64} (hx : x = s.taskAt task)
    (hid : x.id = task) (hg : x.guess = false) (hp : x.placed = false) (hw : s.wantsGroup x = true) (hbad : s.placeBad x = some ws)
    (hrec : RecordOf ws kind cause task detail) (hst : s.qstate x.q = 1) :
    ∃ t, exec (.groupPlace task cores) s = .next t ∧ (t.taskAt task).ended = some [] ∧ Records s t x.q kind cause task detail ∧
      t.queueSays x.q 2 0 ∧ DispOnly s t := by
  subst hx
  have hrej : exec (.groupPlace task cores) s = .next (s.rejectPlaced (s.taskAt task) ws) := by
    rw [exec_groupPlace, execGroupPlace]
    simp only [hg, hw, hp, hbad, Bool.false_eq_true, if_false, Bool.not_true]
  obtain ⟨hrecs, hsays, honly⟩ := (s.onTask task (fun x => { x with ended := some [], stopped := true })).stops_with_record
    (s.taskAt task).q hrec hst
  rw [State.rejectPlaced, hid] at hrej
  refine ⟨_, hrej, ?_, hrecs.congr ?_ rfl, hsays, DispOnly.trans rfl honly⟩
  · rw [State.taskAt_qstop, State.taskAt_pushRecord, State.taskAt_onTask]
  · rw [State.queueAt_onTask]

/-- With every tracked entry in the queue's partition, a placement is refused for a reason of 02 R64 alone. -/
theorem State.placeBad_owned (hown : ∀ e ∈ x.tracked, s.ownsEntry (s.qpart x.q) e = true) :
    s.placeBad x = (s.placeReason x).map (fun r => plainRecord 2 r false x.id 0) := by
  have hf : x.tracked.find? (fun e => !s.ownsEntry (s.qpart x.q) e) = none := by
    rw [List.find?_eq_none]
    intro e he
    simp [hown e he]
  rw [State.placeBad, hf]

end Sys2Proof.Machine
end

section
/-!
SUPPORT. How tasks end (02 R54, R55, R62): the release of reservations, completion, and the end of a task that was stopped.
-/

namespace Sys2Proof.Machine

variable {s t : State} {q task : Nat} {x : Task}

theorem exec_taskComplete (task : Nat) (s : State) : exec (.taskComplete task) s = execTaskComplete task s := rfl
theorem exec_taskEnd (task : Nat) (s : State) : exec (.taskEnd task) s = execTaskEnd task s := rfl

/-! ### The release of reservations (02 R54) -/

/-- A slot holds no context and no sidecar. -/
def State.Freed (s : State) (k : Nat) : Prop :=
  mfind s.ctxs k = none ∧ mfind s.sides (2 * k) = none ∧ mfind s.sides (2 * k + 1) = none

theorem State.Freed.reads_free {k : Nat} (h : s.Freed k) :
    (s.ctxAt k).st = .free ∧ (s.sideAt (2 * k)).present = false ∧ (s.sideAt (2 * k + 1)).present = false := by
  obtain ⟨hc, hl, hs⟩ := h
  simp only [State.ctxAt, State.sideAt, mget, hc, hl, hs]
  exact ⟨rfl, rfl, rfl⟩

/-- A slot becomes free. -/
def State.freeSlot (s : State) (k : Nat) : State :=
  { s with ctxs := mdel s.ctxs k, sides := mdel (mdel s.sides (2 * k)) (2 * k + 1) }

theorem mfind_mdel_none {β : Type} {m : SMap β} {i : Nat} (j : Nat) (h : mfind m i = none) : mfind (mdel m j) i = none := by
  by_cases hij : i = j
  · rw [hij, mfind_mdel_same]
  · rw [mfind_mdel_ne _ _ _ hij, h]

theorem State.freeSlot_freed (s : State) (k : Nat) : (s.freeSlot k).Freed k :=
  ⟨mfind_mdel_same _ _, mfind_mdel_none _ (mfind_mdel_same _ _), mfind_mdel_same _ _⟩

theorem State.Freed.freeSlot {k : Nat} (h : s.Freed k) (j : Nat) : (s.freeSlot j).Freed k := by
  obtain ⟨hc, hl, hs⟩ := h
  exact ⟨mfind_mdel_none _ hc, mfind_mdel_none _ (mfind_mdel_none _ hl), mfind_mdel_none _ (mfind_mdel_none _ hs)⟩

/-- A state that differs from another in contexts, sidecars and reservations alone, and in which no slot and no reservation is
taken that was not taken there. -/
def Shrinks (s t : State) : Prop :=
  (∃ cs sd rv, t = { s with ctxs := cs, sides := sd, disp := { s.disp with resvs := rv } }) ∧ (∀ k, s.Freed k → t.Freed k) ∧
    ∀ r, mfind s.disp.resvs r = none → mfind t.disp.resvs r = none

theorem Shrinks.refl (s : State) : Shrinks s s := ⟨⟨_, _, _, rfl⟩, fun _ h => h, fun _ h => h⟩

theorem Shrinks.trans {u : State} (h : Shrinks s t) (h' : Shrinks t u) : Shrinks s u := by
  obtain ⟨⟨cs, sd, rv, rfl⟩, hf, hr⟩ := h
  obtain ⟨⟨cs', sd', rv', rfl⟩, hf', hr'⟩ := h'
  exact ⟨⟨cs', sd', rv', rfl⟩, fun k h => hf' k (hf k h), fun r h => hr' r (hr r h)⟩

theorem State.shrinks_freeSlot (s : State) (k : Nat) : Shrinks s (s.freeSlot k) :=
  ⟨⟨_, _, s.disp.resvs, rfl⟩, fun _ h => h.freeSlot k, fun _ h => h⟩

theorem State.freeSlots_spec (l : List Nat) (s : State) :
    Shrinks s (l.foldl State.freeSlot s) ∧ (l.foldl State.freeSlot s).disp = s.disp ∧ ∀ k ∈ l, (l.foldl State.freeSlot s).Freed k := by
  induction l generalizing s with
  | nil => exact ⟨.refl s, rfl, fun k h => absurd h (by simp)⟩
  | cons j l ih =>
    obtain ⟨hs, hd, hf⟩ := ih (s.freeSlot j)
    refine ⟨(s.shrinks_freeSlot j).trans hs, hd, fun k hk => ?_⟩
    rcases List.mem_cons.1 hk with rfl | hk
    · exact hs.2.1 k (s.freeSlot_freed k)
    · exact hf k hk

theorem State.release_eq (s : State) (r : Nat) : s.release r = { (s.resvAt r).slots.foldl State.freeSlot s with
    disp := { ((s.resvAt r).slots.foldl State.freeSlot s).disp with resvs := mdel s.disp.resvs r } } := by
  obtain ⟨-, hd, -⟩ := State.freeSlots_spec (s.resvAt r).slots s
  rw [← hd]
  rfl

theorem State.release_spec (s : State) (r : Nat) :
    Shrinks s (s.release r) ∧ (s.release r).disp.resvs = mdel s.disp.resvs r ∧ ∀ k ∈ (s.resvAt r).slots, (s.release r).Freed k := by
  obtain ⟨⟨⟨cs, sd, rv, he⟩, hf, -⟩, -, hk⟩ := State.freeSlots_spec (s.resvAt r).slots s
  rw [State.release_eq]
  refine ⟨⟨⟨cs, sd, mdel s.disp.resvs r, by rw [he]⟩, hf, fun j h => mfind_mdel_none _ h⟩, rfl, hk⟩

/-- A run of releases frees what each reservation held before the run. -/
theorem State.releases_spec (l : List Nat) (s : State) :
    Shrinks s (l.foldl State.release s) ∧ ∀ r ∈ l, mfind (l.foldl State.release s).disp.resvs r = none ∧
      ∀ k ∈ (s.resvAt r).slots, (l.foldl State.release s).Freed k := by
  induction l generalizing s with
  | nil => exact ⟨.refl s, fun k h => absurd h (by simp)⟩
  | cons j l ih =>
    obtain ⟨hj, hresv, hfree⟩ := s.release_spec j
    obtain ⟨hs, hl⟩ := ih (s.release j)
    have hone : ∀ k ∈ (s.resvAt j).slots, ((j :: l).foldl State.release s).Freed k := fun k hk => hs.2.1 k (hfree k hk)
    refine ⟨hj.trans hs, fun r hr => ?_⟩
    by_cases hrj : r = j
    · subst hrj
      exact ⟨hs.2.2 r (by rw [hresv, mfind_mdel_same]), hone⟩
    · have hat : (s.release j).resvAt r = s.resvAt r := by
        simp only [State.resvAt, mget, hresv, mfind_mdel_ne _ _ _ hrj]
      have := hl r ((List.mem_cons.1 hr).resolve_left hrj)
      rwa [hat] at this

/-! ### Completion and the end of a task -/

/-- `Releases` is about reservations, contexts and sidecars alone. -/
theorem Releases.congr {u : State} (h : Releases s t task) (hr : u.disp.resvs = t.disp.resvs) (hc : u.ctxs = t.ctxs) (hs : u.sides = t.sides) :
    Releases s u task := by
  intro r hmem
  obtain ⟨hnone, hk⟩ := h r hmem
  refine ⟨by rw [hr, hnone], fun k hk' => ?_⟩
  simp only [State.ctxAt, State.sideAt, hc, hs]
  exact hk k hk'

/-- The reservations of a task are released; nothing but contexts, sidecars and reservations differs. -/
theorem State.releaseAll_spec (s : State) (task : Nat) : ∃ cs sd rv, Releases s ((s.resvsOf task).foldl State.release s) task ∧
    (s.resvsOf task).foldl State.release s = { s with ctxs := cs, sides := sd, disp := { s.disp with resvs := rv } } := by
  obtain ⟨⟨⟨cs, sd, rv, he⟩, -, -⟩, hl⟩ := State.releases_spec (s.resvsOf task) s
  exact ⟨cs, sd, rv, fun r hr => ⟨(hl r hr).1, fun k hk => ((hl r hr).2 k hk).reads_free⟩, he⟩

/-- The reservations of a task are released and its collectives forgotten. -/
def State.vacated (s : State) (task : Nat) : State :=
  { (s.resvsOf task).foldl State.release s with
    hub := { ((s.resvsOf task).foldl State.release s).hub with
      colls := ((s.resvsOf task).foldl State.release s).hub.colls.filter (fun x => x.task ≠ task) } }

theorem State.vacated_spec (s : State) (task : Nat) : ∃ cs sd rv co, Releases s (s.vacated task) task ∧
    s.vacated task = { s with ctxs := cs, sides := sd, disp := { s.disp with resvs := rv }, hub := { s.hub with colls := co } } := by
  obtain ⟨cs, sd, rv, hrel, he⟩ := s.releaseAll_spec task
  have hrel' : Releases s (s.vacated task) task := hrel.congr rfl rfl rfl
  refine ⟨cs, sd, rv, s.hub.colls.filter (fun x => x.task ≠ task), hrel', ?_⟩
  unfold State.vacated
  rw [he]

/-- A task that is dropped is gone, as what it held is. -/
theorem State.dropTask_eq (s : State) (task : Nat) :
    s.dropTask task = { s.vacated task with disp := { (s.vacated task).disp with tasks := mdel (s.vacated task).disp.tasks task } } := rfl

theorem State.dropTask_spec (s : State) (task : Nat) :
    mfind (s.dropTask task).disp.tasks task = none ∧ (∀ j, j ≠ task → (s.dropTask task).taskAt j = s.taskAt j) ∧
      Releases s (s.dropTask task) task ∧ (s.dropTask task).mem = s.mem ∧ (s.dropTask task).mgmt = s.mgmt ∧
      (s.dropTask task).disp.queues = s.disp.queues := by
  obtain ⟨cs, sd, rv, co, hrel, he⟩ := s.vacated_spec task
  rw [State.dropTask_eq]
  refine ⟨mfind_mdel_same _ _, fun j hj => ?_, hrel.congr rfl rfl rfl, ?_⟩ <;> rw [he]
  · simp only [State.taskAt, mget, mfind_mdel_ne _ _ _ hj]
  · exact ⟨rfl, rfl, rfl⟩

theorem State.queueAt_of_queues {u : State} (h : t.disp.queues = u.disp.queues) (p : Nat) : t.queueAt p = u.queueAt p := by
  rw [State.queueAt, State.queueAt, h]

theorem taskComplete_completes (hx : x = s.taskAt task) (hid : x.id = task) (hg : x.guess = false) (hd : s.taskDone x = true) :
    ∃ t, exec (.taskComplete task) s = .next t ∧ mfind t.disp.tasks task = none ∧ (∀ j, j ≠ task → t.taskAt j = s.taskAt j) ∧
      Releases s t task ∧ Records s t x.q 0 0 task 0 ∧ t.mem = s.mem ∧ t.mgmt = s.mgmt := by
  subst hx
  obtain ⟨htask, hothers, hrel, hmem, hmgmt, hqueues⟩ := s.dropTask_spec task
  have hc : exec (.taskComplete task) s = .next (s.complete (s.taskAt task)) := by
    rw [exec_taskComplete, execTaskComplete]
    simp only [hg, hd, Bool.not_false, Bool.and_self, if_true]
  rw [State.complete, hid] at hc
  refine ⟨_, hc, htask, hothers, hrel.congr rfl rfl rfl, ?_, hmem, hmgmt⟩
  refine (records_pushRecord (s.dropTask task) _ (recordOf_plainRecord 0 0 _ task 0 (by decide))).congr ?_ rfl
  rw [State.queueAt_of_queues hqueues]

/-- The copies of a task are forgotten; the cores' engines alone differ. -/
theorem State.dropCopies_eq (s : State) (task : Nat) : ∃ cs, s.dropCopies task = { s with cores := cs } := ⟨_, rfl⟩

/-- Of the machine only the management side differs. -/
def MgmtIs (s t : State) : Prop := ∃ m, t = { s with mgmt := m }

theorem MgmtIs.trans {u : State} (h : MgmtIs s t) (h' : MgmtIs t u) : MgmtIs s u := by
  obtain ⟨m, rfl⟩ := h
  obtain ⟨m', rfl⟩ := h'
  exact ⟨m', rfl⟩

theorem State.mgmtIs_setQreg (s : State) (q off : Nat) (v : W64) : MgmtIs s (s.setQreg q off v) := ⟨_, rfl⟩

/-- The end of a reset writes registers of its queue alone. -/
theorem State.mgmtIs_resetDone (s : State) (q : Nat) : MgmtIs s (s.resetDone q) := by
  unfold State.resetDone State.setQerr State.setQstate
  split
  · exact ((s.mgmtIs_setQreg _ _ _).trans (State.mgmtIs_setQreg _ _ _ _)).trans (State.mgmtIs_setQreg _ _ _ _)
  · exact ⟨s.mgmt, rfl⟩

/-- What the end of an ended task is, with a record to write and without one. -/
theorem exec_taskEnd_ended {ws : List W64} (hx : x = s.taskAt task) (hg : x.guess = false) (hs : x.stopped = false)
    (he : x.ended = some ws) (hd : s.drained task = true) :
    exec (.taskEnd task) s = .next (if s.qstate x.q = 3 || ws.isEmpty then ((s.dropCopies task).dropTask task).resetDone x.q
      else ((((s.dropCopies task).vacated task).onTask task (fun t => { t with stopped := true, pieces := [] })).pushRecord
        x.q ws).qstop x.q 0) := by
  subst hx
  rw [exec_taskEnd, execTaskEnd]
  simp only [he, hs, hg, hd, Bool.or_self, Bool.not_true, Bool.false_eq_true, if_false, apply_ite Host.Outcome.next]
  rfl

theorem taskEnd_records {ws : List W64} (hx : x = s.taskAt task) (hg : x.guess = false) (hs : x.stopped = false)
    (he : x.ended = some ws) (hd : s.drained task = true) (hst : s.qstate x.q = 1) (hne : ws ≠ []) :
    ∃ t, exec (.taskEnd task) s = .next t ∧ (t.taskAt task).stopped = true ∧ (t.taskAt task).pieces = [] ∧
      (∀ j, j ≠ task → t.taskAt j = s.taskAt j) ∧ Releases s t task ∧ t.queueSays x.q 2 0 ∧ t.mem = s.mem ∧
      (t.queueAt x.q).recs = (s.queueAt x.q).recs ++ [({ words := ws } : QRec)] := by
  have hc : ¬ ((decide (s.qstate x.q = 3) || ws.isEmpty) = true) := by simp [hst, hne]
  have hrun := exec_taskEnd_ended hx hg hs he hd
  rw [if_neg hc] at hrun
  obtain ⟨cores, hcores⟩ := s.dropCopies_eq task
  obtain ⟨cs, sd, rv, co, hrel, hvac⟩ := (s.dropCopies task).vacated_spec task
  have hrel' : Releases s ((s.dropCopies task).vacated task) task := hrel
  rw [hcores] at hvac
  refine ⟨_, hrun, ?_, ?_, fun j hj => ?_, hrel'.congr ?_ ?_ ?_, State.queueSays_qstop _ _ _ ?_ (by decide), ?_, ?_⟩
  · rw [State.taskAt_qstop, State.taskAt_pushRecord, State.taskAt_onTask]
  · rw [State.taskAt_qstop, State.taskAt_pushRecord, State.taskAt_onTask]
  · rw [State.taskAt_qstop, State.taskAt_pushRecord, State.taskAt_onTask_ne _ _ _ _ hj, hcores, hvac]
    rfl
  · rw [State.qstop_disp]
    rfl
  · rw [State.qstop_ctxs]
    rfl
  · rw [State.qstop_sides]
    rfl
  · rw [hcores, hvac]
    exact hst
  · rw [State.qstop_mem, hcores, hvac]
    rfl
  · rw [State.queueAt_qstop, State.queueAt_pushRecord, hcores, hvac]
    rfl

theorem taskEnd_resets {ws : List W64} (hx : x = s.taskAt task) (hg : x.guess = false) (hs : x.stopped = false)
    (he : x.ended = some ws) (hd : s.drained task = true) (h : s.qstate x.q = 3 ∨ ws = []) :
    ∃ t, exec (.taskEnd task) s = .next t ∧ mfind t.disp.tasks task = none ∧ Releases s t task ∧ t.mem = s.mem ∧
      (t.queueAt x.q).recs = (s.queueAt x.q).recs := by
  have hc : (decide (s.qstate x.q = 3) || ws.isEmpty) = true := by simpa using h
  have hrun := exec_taskEnd_ended hx hg hs he hd
  rw [if_pos hc] at hrun
  obtain ⟨cores, hcores⟩ := s.dropCopies_eq task
  obtain ⟨htask, -, hrel, hmem, -, hqueues⟩ := (s.dropCopies task).dropTask_spec task
  have hrel' : Releases s ((s.dropCopies task).dropTask task) task := hrel
  obtain ⟨m, hm⟩ := ((s.dropCopies task).dropTask task).mgmtIs_resetDone x.q
  rw [hm] at hrun
  refine ⟨_, hrun, htask, hrel'.congr rfl rfl rfl, hmem.trans (by rw [hcores]), ?_⟩
  exact congrArg Queue.recs (State.queueAt_of_queues (hqueues.trans (by rw [hcores])) x.q)

end Sys2Proof.Machine
end

section
/-!
SUPPORT. Stores to memory under a key (17 R419; 09 R291): a line under a key has 64 bytes, and a store changes the bytes it
writes and no other byte under its key.
-/

namespace Sys2Proof.Machine

variable {s t : State}

/-! ### Lists of bytes -/

theorem length_flatMap_of_const {α β : Type} {f : α → List β} {l : List α} {c : Nat} (h : ∀ x ∈ l, (f x).length = c) :
    (l.flatMap f).length = l.length * c := by
  rw [List.length_flatMap, List.map_congr_left h, List.map_const', List.sum_replicate, smul_eq_mul]

/-- The low bytes of a number, each by its place. -/
theorem leBytes_eq_map (n x : Nat) : leBytes n x = (List.range n).map (fun i => BitVec.ofNat 8 (x / 2 ^ (8 * i) % 256)) := by
  induction n generalizing x with
  | zero => rfl
  | succ n ih =>
    rw [List.range_succ_eq_map, List.map_cons, List.map_map, leBytes, ih]
    congr 1
    · simp
    · refine List.map_congr_left fun i _ => ?_
      have hp : 256 * 2 ^ (8 * i) = 2 ^ (8 * (i + 1)) := by
        rw [show 256 = 2 ^ 8 from rfl, ← Nat.pow_add]
        congr 1
        omega
      simp only [Function.comp_apply, Nat.succ_eq_add_one]
      rw [Nat.div_div_eq_div_mul, hp]

theorem mbytes_getD (d : Byte) (m : SMap Byte) (a n i : Nat) (b : Byte) (h : i < n) : (mbytes d m a n).getD i b = mget d m (a + i) := by
  induction n generalizing a i with
  | zero => omega
  | succ n ih =>
    cases i with
    | zero => rfl
    | succ i =>
      rw [mbytes, List.getD_cons_succ, ih (a + 1) i (by omega), Nat.add_right_comm, Nat.add_assoc]

theorem mbytes_congr {d : Byte} {m m' : SMap Byte} {a n : Nat} (h : ∀ i, i < n → mget d m (a + i) = mget d m' (a + i)) :
    mbytes d m a n = mbytes d m' a n := by
  refine List.ext_getElem (by rw [mbytes_length, mbytes_length]) fun i hi hi' => ?_
  rw [mbytes_length] at hi
  rw [← List.getD_eq_getElem _ 0, ← List.getD_eq_getElem _ 0, mbytes_getD _ _ _ _ _ _ hi, mbytes_getD _ _ _ _ _ _ hi, h i hi]

/-! ### The lengths of AES blocks and of XTS lines -/

theorem length_xorL {a b : List Nat} {n : Nat} (ha : a.length = n) (hb : b.length = n) : (xorL a b).length = n := by
  rw [xorL, List.length_zipWith, ha, hb, Nat.min_self]

theorem length_shiftRows (n : Nat) (st : List Nat) : (shiftRows n st).length = 16 := by simp [shiftRows, upto]

/-- The next word of the key schedule has four bytes where those before it have. -/
theorem length_nextWord {ws : List (List Nat)} (h8 : 8 ≤ ws.length) (h : ∀ x ∈ ws, x.length = 4) : (nextWord ws).length = 4 := by
  have hget : ∀ i, i < ws.length → (ws.getD i []).length = 4 := fun i hi => by
    rw [List.getD_eq_getElem _ _ hi]
    exact h _ (List.getElem_mem hi)
  have ht := hget (ws.length - 1) (by omega)
  unfold nextWord
  dsimp only
  refine length_xorL (hget _ (by omega)) ?_
  split
  · refine length_xorL ?_ rfl
    rw [List.length_map, List.length_append, List.length_drop, List.length_take, ht]
    rfl
  · split
    · rw [List.length_map, ht]
    · exact ht

/-- The words of a key schedule: eight of the key, and `n` more. -/
theorem length_schedule {key : List Nat} (hk : key.length = 32) (n : Nat) :
    ((upto n).foldl (fun ws _ => ws ++ [nextWord ws]) ((upto 8).map (fun i => (key.drop (4 * i)).take 4))).length = 8 + n ∧
      ∀ x ∈ (upto n).foldl (fun ws _ => ws ++ [nextWord ws]) ((upto 8).map (fun i => (key.drop (4 * i)).take 4)), x.length = 4 := by
  induction n with
  | zero =>
    refine ⟨rfl, fun x hx => ?_⟩
    obtain ⟨i, hi, rfl⟩ := List.mem_map.1 hx
    have : i < 8 := List.mem_range.1 hi
    rw [List.length_take, List.length_drop, hk]
    omega
  | succ n ih =>
    obtain ⟨hl, hw⟩ := ih
    rw [show upto (n + 1) = upto n ++ [n] from List.range_succ, List.foldl_append, List.foldl_cons, List.foldl_nil]
    refine ⟨by rw [List.length_append]; exact congrArg (· + 1) hl, fun x hx => ?_⟩
    rcases List.mem_append.1 hx with hx | hx
    · exact hw x hx
    · rw [List.mem_singleton.1 hx]
      exact length_nextWord (hl ▸ Nat.le_add_right 8 n) hw

/-- A round key has sixteen bytes. -/
theorem length_roundKeys {key : List Nat} (hk : key.length = 32) {r : Nat} (hr : r < 15) : ((roundKeys key).getD r []).length = 16 := by
  obtain ⟨hl, hw⟩ := length_schedule hk 52
  unfold roundKeys
  dsimp only
  generalize (upto 52).foldl (fun ws _ => ws ++ [nextWord ws]) ((upto 8).map (fun i => (key.drop (4 * i)).take 4)) = ws at hl hw ⊢
  have hget : ((upto 15).map (fun r => ((ws.drop (4 * r)).take 4).flatten)).getD r [] = ((ws.drop (4 * r)).take 4).flatten := by
    rw [List.getD_eq_getElem _ _ (by simpa [upto] using hr)]
    simp [upto]
  have hlen : ((ws.drop (4 * r)).take 4).length = 4 := by
    rw [List.length_take, List.length_drop, hl]
    omega
  rw [hget, ← List.flatMap_id', length_flatMap_of_const (c := 4) fun x hx => hw x (List.mem_of_mem_drop (List.mem_of_mem_take hx)), hlen]

theorem length_aesEnc {rk : List (List Nat)} (h : (rk.getD 14 []).length = 16) (x : List Nat) : (aesEnc rk x).length = 16 :=
  length_xorL (length_shiftRows _ _) h

theorem length_aesDec {rk : List (List Nat)} (h : (rk.getD 0 []).length = 16) (x : List Nat) : (aesDec rk x).length = 16 := by
  refine length_xorL ?_ h
  refine List.foldlRecOn (motive := fun st : List Nat => st.length = 16) _ _ ?_ fun st _ r _ => ?_ <;>
    rw [List.length_map, length_shiftRows]

theorem length_tweaks (n t : Nat) : (tweaks n t).length = n ∧ ∀ x ∈ tweaks n t, x.length = 16 := by
  induction n generalizing t with
  | zero => exact ⟨rfl, fun x hx => absurd hx (by simp [tweaks])⟩
  | succ n ih =>
    obtain ⟨hl, hx⟩ := ih (if t < 2 ^ 127 then 2 * t else (2 * t % 2 ^ 128) ^^^ 0x87)
    refine ⟨by rw [tweaks, List.length_cons, hl], fun x hm => ?_⟩
    rcases List.mem_cons.1 hm with rfl | hm
    · simp [upto]
    · exact hx x hm

/-- A line is 64 bytes under every key. -/
theorem length_xtsLine {keys : List Nat} (hk : keys.length = 64) (dec : Bool) (line : Nat) (bytes : List Byte) :
    (xtsLine dec keys line bytes).length = 64 := by
  have hdata : (keys.take 32).length = 32 := by rw [List.length_take, hk]; rfl
  unfold xtsLine
  dsimp only
  obtain ⟨hl, hx⟩ := length_tweaks 4 (leNat ((aesEnc (roundKeys (keys.drop 32)) ((upto 16).map (fun i => fld line (8 * i) 8))).map (BitVec.ofNat 8)))
  rw [List.length_map, length_flatMap_of_const (c := 16), List.length_zipIdx, hl]
  rintro ⟨t, j⟩ hm
  refine length_xorL ?_ (hx t (List.fst_mem_of_mem_zipIdx hm))
  split
  · exact length_aesDec (length_roundKeys hdata (by decide)) _
  · exact length_aesEnc (length_roundKeys hdata (by decide)) _

theorem State.length_crypt (s : State) (dec : Bool) (key line : Nat) {bs : List Byte} (h : bs.length = 64) :
    (s.crypt dec key line bs).length = 64 := by
  unfold State.crypt
  split
  · exact h
  · exact length_xtsLine (by rw [State.keyMat, List.length_map, mbytes_length]) _ _ _

theorem State.length_lineBytes (s : State) (line key : Nat) : (s.lineBytes line key).length = 64 := by
  have hraw : (mbytes 0 s.mem.bytes (64 * line) 64).length = 64 := mbytes_length _ _ _ _
  unfold State.lineBytes
  split
  · simp [upto]
  · dsimp only
    split
    · exact hraw
    · exact s.length_crypt _ _ _ (s.length_crypt _ _ _ hraw)

/-! ### A byte under a key -/

/-- A line whose bytes and key two states share reads alike in both. -/
theorem State.lineBytes_congr {l key : Nat} (hm : t.mgmt = s.mgmt) (hf : t.free = s.free)
    (hw : mget 0 t.mem.wkey l = mget 0 s.mem.wkey l)
    (hb : ∀ i, i < 64 → mget 0 t.mem.bytes (64 * l + i) = mget 0 s.mem.bytes (64 * l + i)) : t.lineBytes l key = s.lineBytes l key := by
  unfold State.lineBytes State.crypt State.keyMat
  rw [hm, hf, hw, mbytes_congr hb]

/-- A byte under a key is a byte of its line under that key. -/
theorem State.byteAt_eq (s : State) (a key : Nat) : s.byteAt a key = (s.lineBytes (a / 64) key).getD (a % 64) 0 := by
  unfold State.byteAt
  split
  · next h =>
    simp only [Bool.and_eq_true, decide_eq_true_eq, Bool.not_eq_true'] at h
    unfold State.lineBytes
    rw [h.2, h.1]
    simp only [Bool.false_eq_true, if_false, if_true]
    rw [mbytes_getD _ _ _ _ _ _ (Nat.mod_lt _ (by decide)), Nat.div_add_mod]
  · rfl

/-- A byte of a line that was last written under the key asked for is the one stored. -/
theorem State.byteAt_plain {a key : Nat} (hpfe : s.mgmt.pfe = false) (hw : mget 0 s.mem.wkey (a / 64) = key) :
    s.byteAt a key = mget 0 s.mem.bytes a := by
  unfold State.byteAt
  rw [hw, hpfe]
  simp

/-! ### Stores -/

/-- Of the machine only memory differs. -/
def MemIs (s t : State) : Prop := ∃ m, t = { s with mem := m }

theorem MemIs.refl (s : State) : MemIs s s := ⟨s.mem, rfl⟩

theorem MemIs.trans {u : State} (h : MemIs s t) (h' : MemIs t u) : MemIs s u := by
  obtain ⟨m, rfl⟩ := h
  obtain ⟨m', rfl⟩ := h'
  exact ⟨m', rfl⟩

theorem MemIs.mgmt (h : MemIs s t) : t.mgmt = s.mgmt := by
  obtain ⟨m, rfl⟩ := h
  rfl

theorem MemIs.free (h : MemIs s t) : t.free = s.free := by
  obtain ⟨m, rfl⟩ := h
  rfl

theorem State.memIs_rekey (s : State) (line key : Nat) : MemIs s (s.rekey line key) := by
  unfold State.rekey
  split
  · exact .refl s
  · exact ⟨_, rfl⟩

/-- A rewritten line is kept under the new key, and reads as before under it, as every other line does. -/
theorem State.rekey_spec (s : State) (line key : Nat) : mget 0 (s.rekey line key).mem.wkey line = key ∧
    (s.mgmt.pfe = false → ∀ a, (s.rekey line key).byteAt a key = s.byteAt a key) := by
  by_cases h : mget 0 s.mem.wkey line = key
  · rw [State.rekey, if_pos h]
    exact ⟨h, fun _ _ => rfl⟩
  · have hm := s.memIs_rekey line key
    have hw : (s.rekey line key).mem.wkey = mset 0 s.mem.wkey line key := by rw [State.rekey, if_neg h]
    have hb : (s.rekey line key).mem.bytes = mwrite 0 s.mem.bytes (64 * line) (s.lineBytes line key) := by rw [State.rekey, if_neg h]
    have hl := s.length_lineBytes line key
    refine ⟨by rw [hw, mget_mset_same], fun hpfe a => ?_⟩
    by_cases ha : a / 64 = line
    · rw [State.byteAt_plain (by rw [hm.mgmt, hpfe]) (by rw [ha, hw, mget_mset_same]), State.byteAt_eq, hb, ha]
      have hj : a % 64 < (s.lineBytes line key).length := by omega
      rw [show a = 64 * line + a % 64 by omega, mget_mwrite_in 0 _ _ _ _ hj, List.getD_eq_getElem _ _ (by omega)]
      congr 1
      omega
    · rw [State.byteAt_eq, State.byteAt_eq, State.lineBytes_congr hm.mgmt hm.free (by rw [hw, mget_mset_ne _ _ _ _ _ _ ha])]
      intro i hi
      rw [hb, mget_mwrite_out _ _ _ _ _ (by omega)]

theorem State.memIs_storeLine (s : State) (pa key : Nat) (bs : List Byte) : MemIs s (s.storeLine pa key bs) :=
  (s.memIs_rekey (pa / 64) key).trans ⟨_, rfl⟩

/-- A store within a line gives its bytes, and every other byte under its key is as before. -/
theorem State.byteAt_storeLine {pa key : Nat} {bs : List Byte} (hpfe : s.mgmt.pfe = false) (hfit : pa % 64 + bs.length ≤ 64) (a : Nat) :
    (s.storeLine pa key bs).byteAt a key = if pa ≤ a ∧ a < pa + bs.length then bs.getD (a - pa) 0 else s.byteAt a key := by
  obtain ⟨hwkey, hsame⟩ := s.rekey_spec (pa / 64) key
  have hm := s.memIs_rekey (pa / 64) key
  have hm' := s.memIs_storeLine pa key bs
  have hb : (s.storeLine pa key bs).mem.bytes = mwrite 0 (s.rekey (pa / 64) key).mem.bytes pa bs := rfl
  have hw : (s.storeLine pa key bs).mem.wkey = (s.rekey (pa / 64) key).mem.wkey := rfl
  rw [← hsame hpfe a]
  by_cases ha : a / 64 = pa / 64
  · rw [State.byteAt_plain (by rw [hm'.mgmt, hpfe]) (by rw [ha, hw, hwkey]), State.byteAt_plain (by rw [hm.mgmt, hpfe]) (by rw [ha, hwkey]), hb]
    split
    · next h =>
      obtain ⟨j, rfl⟩ := Nat.exists_eq_add_of_le h.1
      have hj : j < bs.length := by omega
      rw [mget_mwrite_in _ _ _ _ _ hj, Nat.add_sub_cancel_left, List.getD_eq_getElem _ _ hj]
    · next h => exact mget_mwrite_out _ _ _ _ _ (by omega)
  · have hout : ¬ (pa ≤ a ∧ a < pa + bs.length) := by omega
    rw [if_neg hout, State.byteAt_eq, State.byteAt_eq, State.lineBytes_congr (hm'.mgmt.trans hm.mgmt.symm) (hm'.free.trans hm.free.symm) (by rw [hw])]
    intro i hi
    rw [hb, mget_mwrite_out _ _ _ _ _ (by omega)]

/-- A store over several lines gives its bytes, and every other byte under its key is as before. -/
theorem State.storeBytes_spec (key fuel : Nat) (s : State) (pa : Nat) (bs : List Byte) (hpfe : s.mgmt.pfe = false)
    (hfit : pa % 64 + bs.length ≤ 64 * fuel) : MemIs s (s.storeBytes key fuel pa bs) ∧
      ∀ a, (s.storeBytes key fuel pa bs).byteAt a key = if pa ≤ a ∧ a < pa + bs.length then bs.getD (a - pa) 0 else s.byteAt a key := by
  induction fuel generalizing s pa bs with
  | zero => exact ⟨.refl s, fun a => (if_neg (by omega)).symm⟩
  | succ f ih =>
    unfold State.storeBytes
    split
    · next h =>
      rw [List.isEmpty_iff.1 h]
      exact ⟨.refl s, fun a => (if_neg (by simp)).symm⟩
    · dsimp only
      have hline := s.memIs_storeLine pa key (bs.take (64 - pa % 64))
      have hlen : (bs.take (64 - pa % 64)).length = min (64 - pa % 64) bs.length := List.length_take
      have hrest : (bs.drop (64 - pa % 64)).length = bs.length - (64 - pa % 64) := List.length_drop
      obtain ⟨hm, hb⟩ := ih (s.storeLine pa key (bs.take (64 - pa % 64))) (pa + (64 - pa % 64)) (bs.drop (64 - pa % 64))
        (hline.mgmt ▸ hpfe) (by omega)
      refine ⟨hline.trans hm, fun a => ?_⟩
      rw [hb, State.byteAt_storeLine hpfe (by omega), hlen, hrest]
      by_cases hlo : pa ≤ a ∧ a < pa + min (64 - pa % 64) bs.length
      · rw [if_neg (by omega), if_pos hlo, if_pos (by omega), List.getD_eq_getElem _ _ (by omega), List.getD_eq_getElem _ _ (by omega), List.getElem_take]
      · by_cases hhi : pa + (64 - pa % 64) ≤ a ∧ a < pa + (64 - pa % 64) + (bs.length - (64 - pa % 64))
        · rw [if_pos hhi, if_pos (by omega), List.getD_eq_getElem _ _ (by omega), List.getD_eq_getElem _ _ (by omega), List.getElem_drop]
          congr 1
          omega
        · rw [if_neg hhi, if_neg hlo, if_neg (by omega)]

/-- A store at a physical address gives its bytes, and every other byte under its key is as before. -/
theorem State.physStore_spec {pa key : Nat} {bs : List Byte} (hpfe : s.mgmt.pfe = false) : MemIs s (s.physStore pa key bs) ∧
    ∀ a, (s.physStore pa key bs).byteAt a key = if pa ≤ a ∧ a < pa + bs.length then bs.getD (a - pa) 0 else s.byteAt a key :=
  State.storeBytes_spec key _ s pa bs hpfe (by omega)

end Sys2Proof.Machine
end

section
/-!
SUPPORT. The write of a waiting completion record (16 R398, R400): its 64 bytes, the new TAIL, and a failed translation.
-/

namespace Sys2Proof.Machine

variable {s : State} {q va tail : Nat} {r : QRec} {rest : List QRec}

theorem exec_recordWrite (q : Nat) (s : State) : exec (.recordWrite q) s = execRecordWrite q s := rfl

/-- The bytes of a record: its first seven words and the time. -/
def QRec.bytes (r : QRec) (time : W64) : List Byte := (r.words.take 7 ++ [time]).flatMap (fun w => leBytes 8 w.toNat)

theorem QRec.length_bytes (time : W64) (h : r.words.length = 8) : (r.bytes time).length = 64 := by
  rw [QRec.bytes, length_flatMap_of_const (c := 8) (fun w _ => by rw [leBytes_eq_map, List.length_map, List.length_range]), List.length_append, List.length_take, h]
  rfl

theorem QRec.bytes_eq (r : QRec) (time : W64) : r.bytes time =
    (r.words.take 7 ++ [time]).flatMap (fun w => (List.range 8).map (fun i => BitVec.ofNat 8 (w.toNat / 2 ^ (8 * i) % 256))) := by
  rw [QRec.bytes]
  congr 1
  funext w
  exact leBytes_eq_map 8 w.toNat

/-- What a write of a record is where the queue may write it. -/
theorem exec_recordWrite_open (htail : tail = (s.qreg q 0x28).toNat % 2 ^ 32) (hq : q < 256) (hrecs : (s.queueAt q).recs = r :: rest)
    (hen : (s.qreg q 0).getLsbD 0 = true) (hst : s.qstate q = 1)
    (hroom : (tail + 2 ^ 32 - (s.qreg q 0x28).toNat / 2 ^ 32) % 2 ^ 32 ≠ 2 ^ s.qrlog q)
    (hva : va = (s.qreg q 0x10).toNat + 64 * (tail % 2 ^ s.qrlog q)) :
    exec (.recordWrite q) s = match s.walk (s.qpart q) (s.qasid q) va with
      | .err _ => .next ((s.setQstate q 2).setQerr q 5)
      | .ok e => match s.pageCheck (s.qpart q) va true .w e with
        | .err _ => .next ((s.setQstate q 2).setQerr q 5)
        | .ok p => if s.bad p.pa then .next ((s.setQstate q 2).setQerr q 5)
          else .next (((s.physStore p.pa p.key (r.bytes s.hub.time)).setQreg q 0x28 (setf (s.qreg q 0x28) 0 32 (tail + 1))).onQueue q
            (fun u => { u with recs := rest })) := by
  have htail' : bf (s.qreg q 0x28) 0 32 = tail := by rw [htail, bf, fld, Nat.pow_zero, Nat.div_one]
  have hhead : bf (s.qreg q 0x28) 32 32 = (s.qreg q 0x28).toNat / 2 ^ 32 := by
    rw [bf, fld]
    omega
  rw [exec_recordWrite, execRecordWrite, hrecs]
  dsimp only
  rw [htail', hhead, if_neg (by simp [hst, bit, hen]; omega), ← hva]
  rfl

theorem State.byteAt_setQreg_onQueue (s : State) (q off : Nat) (v : W64) (f : Queue → Queue) (a key : Nat) :
    ((s.setQreg q off v).onQueue q f).byteAt a key = s.byteAt a key := rfl

theorem recordWrite_writes {e : Tlb} {p : Phys} {b : List Byte} (htail : tail = (s.qreg q 0x28).toNat % 2 ^ 32) (hq : q < 256)
    (hrecs : (s.queueAt q).recs = r :: rest) (hen : (s.qreg q 0).getLsbD 0 = true) (hst : s.qstate q = 1) (hpfe : s.mgmt.pfe = false)
    (hroom : (tail + 2 ^ 32 - (s.qreg q 0x28).toNat / 2 ^ 32) % 2 ^ 32 ≠ 2 ^ s.qrlog q)
    (hva : va = (s.qreg q 0x10).toNat + 64 * (tail % 2 ^ s.qrlog q)) (hwalk : s.walk (s.qpart q) (s.qasid q) va = .ok e)
    (hpage : s.pageCheck (s.qpart q) va true .w e = .ok p) (hbad : s.bad p.pa = false) (hlen : r.words.length = 8)
    (hb : b = (r.words.take 7 ++ [s.hub.time]).flatMap
      (fun w => (List.range 8).map (fun i => BitVec.ofNat 8 (w.toNat / 2 ^ (8 * i) % 256)))) :
    ∃ t, exec (.recordWrite q) s = .next t ∧ (t.queueAt q).recs = rest ∧ (t.qreg q 0x28).toNat % 2 ^ 32 = (tail + 1) % 2 ^ 32 ∧
      (∀ i, i < 64 → some (t.byteAt (p.pa + i) p.key) = b[i]?) ∧
      (∀ a, a < p.pa ∨ p.pa + 64 ≤ a → t.byteAt a p.key = s.byteAt a p.key) ∧ t.ctxs = s.ctxs ∧ t.hub = s.hub := by
  have hrun := exec_recordWrite_open htail hq hrecs hen hst hroom hva
  rw [← QRec.bytes_eq] at hb
  rw [hwalk] at hrun
  dsimp only at hrun
  rw [hpage] at hrun
  dsimp only at hrun
  rw [hbad, if_neg (by decide), ← hb] at hrun
  have hblen : b.length = 64 := hb ▸ QRec.length_bytes _ hlen
  obtain ⟨⟨m, hm⟩, hbyte⟩ := State.physStore_spec (pa := p.pa) (key := p.key) (bs := b) hpfe
  rw [hblen] at hbyte
  refine ⟨_, hrun, ?_, ?_, fun i hi => ?_, fun a ha => ?_, ?_, ?_⟩
  · rw [State.queueAt_onQueue]
  · rw [State.qreg_onQueue, State.qreg_setQreg]
    simp only [setf, fld, BitVec.toNat_ofNat]
    omega
  · rw [State.byteAt_setQreg_onQueue, hbyte, if_pos (by omega), Nat.add_sub_cancel_left, List.getD_eq_getElem _ _ (by omega),
      List.getElem?_eq_getElem (by omega)]
  · rw [State.byteAt_setQreg_onQueue, hbyte, if_neg (by omega)]
  · rw [hm]
    generalize setf _ _ _ _ = v
    rfl
  · rw [hm]
    generalize setf _ _ _ _ = v
    rfl

theorem recordWrite_stops {e : XErr} (htail : tail = (s.qreg q 0x28).toNat % 2 ^ 32) (hq : q < 256)
    (hrecs : (s.queueAt q).recs = r :: rest) (hen : (s.qreg q 0).getLsbD 0 = true) (hst : s.qstate q = 1)
    (hroom : (tail + 2 ^ 32 - (s.qreg q 0x28).toNat / 2 ^ 32) % 2 ^ 32 ≠ 2 ^ s.qrlog q)
    (hva : va = (s.qreg q 0x10).toNat + 64 * (tail % 2 ^ s.qrlog q)) (hwalk : s.walk (s.qpart q) (s.qasid q) va = .err e) :
    ∃ t, exec (.recordWrite q) s = .next t ∧ t.queueSays q 2 5 ∧ (t.queueAt q).recs = r :: rest ∧ t.mem = s.mem := by
  have hrun := exec_recordWrite_open htail hq hrecs hen hst hroom hva
  rw [hwalk] at hrun
  have hsays := s.queueSays_set q 2 5 (by decide) (by decide)
  obtain ⟨m, hm⟩ : MgmtIs s ((s.setQstate q 2).setQerr q 5) := (s.mgmtIs_setQreg _ _ _).trans (State.mgmtIs_setQreg _ _ _ _)
  refine ⟨_, hrun, hsays, ?_, ?_⟩ <;> rw [hm]
  · exact hrecs
end Sys2Proof.Machine
end

section
/-!
SUPPORT. The start of contexts with their chunks (02 R42, R46, R47; 15 R376): what a started context holds, and what a run
of starts leaves as it was.
-/

namespace Sys2Proof.Machine

variable {s t : State} {k task : Nat} {x : Task}

/-! ### Dispatch registers (02 R47) -/

/-- Registers set from a list of words, each at its place. -/
theorem mget_foldl_zipIdx (ws : List W64) (n : Nat) (m : SMap W64) (i : Nat) :
    mget 0 ((ws.zipIdx n).foldl (fun m e => mset 0 m e.2 e.1) m) i =
      if n ≤ i ∧ i < n + ws.length then ws.getD (i - n) 0 else mget 0 m i := by
  induction ws generalizing n m with
  | nil => exact (if_neg (by simp)).symm
  | cons w ws ih =>
    rw [List.zipIdx_cons, List.foldl_cons, ih, List.length_cons]
    by_cases hi : i = n
    · subst hi
      rw [if_neg (by omega), if_pos (by omega), Nat.sub_self, mget_mset_same, List.getD_cons_zero]
    · rw [mget_mset_ne _ _ _ _ _ _ hi]
      by_cases h : n + 1 ≤ i ∧ i < n + 1 + ws.length
      · rw [if_pos h, if_pos (by omega), show i - n = i - (n + 1) + 1 by omega, List.getD_cons_succ]
      · rw [if_neg h, if_neg (by omega)]

/-- The first three dispatch registers: the chunk and the task. -/
theorem State.dregs_get (s : State) (k : Nat) (ch : W64 × W64) : mget 0 (s.dregs k ch) 0 = ch.1 ∧ mget 0 (s.dregs k ch) 1 = ch.2 ∧
    mget 0 (s.dregs k ch) 2 = w64 (s.taskAt (s.ctxAt k).task).id := by
  unfold State.dregs
  dsimp only
  refine ⟨?_, ?_, ?_⟩ <;> rw [mget_foldl_zipIdx] <;> rfl

theorem Regs.rd_withHands (r : Regs) (h n : Nat) (hn : n ≠ 4) : (r.withHands h).rd n = r.rd n := mget_mset_ne _ _ _ _ _ _ hn

/-! ### One start -/

/-- A context that starts has what its slot was reserved with. -/
def State.startedCtx (s : State) (k : Nat) (entry : W64) (chunk : W64 × W64) : Ctx :=
  { (s.ctxAt k).retired with
    st := .live
    r := ({ pc := entry, d := s.dregs k chunk } : Regs).withHands (s.ctxAt k).mx.hands.length
    sys := { stvec := w64 ((s.qreg (s.taskAt (s.ctxAt k).task).q 0x18).toNat / 4 * 4), swlog := w64 (s.taskAt (s.ctxAt k).task).wlog }
    mem := { arr := s.arrivals k (s.ctxAt k).task }
    sq := { parkReq := (s.taskAt (s.ctxAt k).task).st == .parked } }

/-- The start of sidecars changes them and the free values drawn, and nothing else. -/
theorem State.startSides_eq (s : State) (k : Nat) : ∃ f sd, s.startSides k = { s with free := f, sides := sd } := by
  unfold State.startSides
  extract_lets c t args one
  have hone : ∀ s which held, ∃ f sd, one s which held = { s with free := f, sides := sd } := by
    intro s which held
    cases held
    · exact ⟨s.free, s.sides, rfl⟩
    · exact ⟨_, _, rfl⟩
  obtain ⟨f, sd, h⟩ := hone s 0 c.loader
  obtain ⟨f', sd', h'⟩ := hone (one s 0 c.loader) 1 c.storer
  exact ⟨f', sd', by rw [h', h]⟩

theorem State.startCtx_spec (s : State) (k : Nat) (entry : W64) (ch : W64 × W64) :
    (s.startCtx k entry ch []).mem = s.mem ∧ (s.startCtx k entry ch []).disp = s.disp ∧
      (s.startCtx k entry ch []).ctxAt k = s.startedCtx k entry ch ∧ ∀ j, j ≠ k → (s.startCtx k entry ch []).ctxAt j = s.ctxAt j := by
  obtain ⟨f, sd, h⟩ := (s.putCtx k (s.startedCtx k entry ch)).startSides_eq k
  rw [show s.startCtx k entry ch [] = (s.putCtx k (s.startedCtx k entry ch)).startSides k from rfl, h]
  exact ⟨rfl, rfl, mget_mput_same _ _ _ _, fun j hj => mget_mput_ne _ _ _ _ _ hj⟩

/-- The slot of a reservation: its task, its share and its allotment are those of another context. -/
def Ctx.SameSlot (c d : Ctx) : Prop :=
  d.task = c.task ∧ d.resv = c.resv ∧ d.part = c.part ∧ d.asid = c.asid ∧ d.mx.nTiles = c.mx.nTiles ∧ d.mx.nBanks = c.mx.nBanks

/-- A context begins its task at an entry. -/
def Ctx.Begun (c : Ctx) (task : Nat) (entry : W64) : Prop :=
  c.st = .live ∧ c.r.pc = entry ∧ c.r.sup = false ∧ c.r.rd 2 = w64 task

theorem State.startedCtx_sameSlot (s : State) (k : Nat) (entry : W64) (ch : W64 × W64) :
    (s.ctxAt k).SameSlot (s.startedCtx k entry ch) := ⟨rfl, rfl, rfl, rfl, rfl, rfl⟩

theorem State.startedCtx_begun (entry : W64) (ch : W64 × W64) (hid : (s.taskAt (s.ctxAt k).task).id = task) :
    (s.startedCtx k entry ch).Begun task entry := by
  refine ⟨rfl, rfl, rfl, ?_⟩
  rw [← hid, ← (s.dregs_get k ch).2.2]
  exact Regs.rd_withHands _ _ 2 (by decide)

theorem State.startedCtx_chunk (s : State) (k : Nat) (entry : W64) (ch : W64 × W64) :
    (s.startedCtx k entry ch).r.rd 0 = ch.1 ∧ (s.startedCtx k entry ch).r.rd 1 = ch.2 := by
  obtain ⟨h0, h1, -⟩ := s.dregs_get k ch
  exact ⟨(Regs.rd_withHands _ _ 0 (by decide)).trans h0, (Regs.rd_withHands _ _ 1 (by decide)).trans h1⟩

/-- A chunk leaves a task but for its pool. -/
theorem Task.takeChunk_eq (x : Task) (d : Nat) : ∃ p, (x.takeChunk d).2 = { x with pieces := p } := by
  unfold Task.takeChunk
  dsimp only
  split
  · exact ⟨_, rfl⟩
  · exact ⟨_, rfl⟩

/-- The first chunk of a pool of one piece is its first half (02 R46). -/
theorem Task.takeChunk_first {a b d : Nat} (h : x.pieces = [(a, b, d)]) : (x.takeChunk d).1 = (w64 a, w64 (halfOf a b x.l.grain.toNat)) := by
  have hs : stealFor x.l.grain.toNat d [(a, b, d)] = [(a, b, d)] := by simp [stealFor]
  have hf : [(a, b, d)].find? (fun p => p.2.2 == d) = some (a, b, d) := by simp
  unfold Task.takeChunk
  dsimp only
  rw [h, hs, hf]

/-- The chunk with which a context starts. -/
def State.chunkFor (s : State) (k : Nat) : W64 × W64 := ((s.taskAt (s.ctxAt k).task).takeChunk (dieOf (k / 4))).1

/-- The state once the chunk of a context is taken from its task's pool. -/
def State.chunkTaken (s : State) (k : Nat) : State :=
  s.onTask (s.ctxAt k).task (fun x => (x.takeChunk (dieOf (k / 4))).2)

theorem State.startWithChunk_eq (hid : (s.taskAt (s.ctxAt k).task).id = (s.ctxAt k).task) : s.startWithChunk k =
    (s.chunkTaken k).startCtx k ((s.taskAt (s.ctxAt k).task).desc.getD 0 0) (s.chunkFor k) [] := by
  have hconst : s.chunkTaken k = s.onTask (s.ctxAt k).task
      (fun _ => ((s.taskAt (s.ctxAt k).task).takeChunk (dieOf (k / 4))).2) := rfl
  rw [hconst, State.startWithChunk, State.chunkFor]
  dsimp only
  rw [hid]

/-! ### A run of starts -/

/-- What starts of contexts of a task leave: memory, reservations, and the task but for its pool. -/
def StartKeeps (s t : State) (task : Nat) : Prop :=
  t.mem = s.mem ∧ t.disp.resvs = s.disp.resvs ∧ ∃ p, t.taskAt task = { s.taskAt task with pieces := p }

theorem StartKeeps.trans {u : State} (h : StartKeeps s t task) (h' : StartKeeps t u task) : StartKeeps s u task := by
  obtain ⟨hm, hr, p, hp⟩ := h
  obtain ⟨hm', hr', p', hp'⟩ := h'
  exact ⟨hm'.trans hm, hr'.trans hr, p', by rw [hp', hp]⟩

/-- A context of a task starts with a chunk from its pool. -/
theorem State.startWithChunk_spec (htask : (s.ctxAt k).task = task) (hid : (s.taskAt task).id = task) :
    StartKeeps s (s.startWithChunk k) task ∧ (∀ j, j ≠ k → (s.startWithChunk k).ctxAt j = s.ctxAt j) ∧
      (s.ctxAt k).SameSlot ((s.startWithChunk k).ctxAt k) ∧ ((s.startWithChunk k).ctxAt k).Begun task ((s.taskAt task).desc.getD 0 0) ∧
      ((s.startWithChunk k).ctxAt k).r.rd 0 = (s.chunkFor k).1 ∧ ((s.startWithChunk k).ctxAt k).r.rd 1 = (s.chunkFor k).2 := by
  subst htask
  obtain ⟨p, hp⟩ := (s.taskAt (s.ctxAt k).task).takeChunk_eq (dieOf (k / 4))
  have ht : (s.chunkTaken k).taskAt (s.ctxAt k).task = { s.taskAt (s.ctxAt k).task with pieces := p } := by
    rw [State.chunkTaken, State.taskAt_onTask, hp]
  obtain ⟨hmem, hdisp, hctx, hother⟩ := (s.chunkTaken k).startCtx_spec k ((s.taskAt (s.ctxAt k).task).desc.getD 0 0) (s.chunkFor k)
  rw [State.startWithChunk_eq hid, hctx]
  refine ⟨⟨hmem, (congrArg Disp.resvs hdisp).trans rfl, p, ?_⟩, hother, (s.chunkTaken k).startedCtx_sameSlot k _ _,
    State.startedCtx_begun _ _ ?_, State.startedCtx_chunk _ _ _ _⟩
  · rw [← ht, State.taskAt, hdisp]
    rfl
  · exact (congrArg Task.id ht).trans hid

theorem State.starts_spec (l : List Nat) (s : State) (hl : l.Nodup) (htask : ∀ k ∈ l, (s.ctxAt k).task = task)
    (hid : (s.taskAt task).id = task) :
    StartKeeps s (l.foldl State.startWithChunk s) task ∧ (∀ j, j ∉ l → (l.foldl State.startWithChunk s).ctxAt j = s.ctxAt j) ∧
      ∀ j ∈ l, (s.ctxAt j).SameSlot ((l.foldl State.startWithChunk s).ctxAt j) ∧
        ((l.foldl State.startWithChunk s).ctxAt j).Begun task ((s.taskAt task).desc.getD 0 0) := by
  induction l generalizing s with
  | nil => exact ⟨⟨rfl, rfl, _, rfl⟩, fun _ _ => rfl, fun j h => absurd h (by simp)⟩
  | cons k l ih =>
    obtain ⟨hk, hl⟩ := List.nodup_cons.1 hl
    obtain ⟨hkeep, hother, hslot, hbegun, -⟩ := State.startWithChunk_spec (htask k List.mem_cons_self) hid
    have hne : ∀ j ∈ l, j ≠ k := fun j hj hjk => hk (hjk ▸ hj)
    obtain ⟨p, hp⟩ := hkeep.2.2
    obtain ⟨hkeep', hother', hmem⟩ := ih (s.startWithChunk k) hl
      (fun j hj => by rw [hother j (hne j hj), htask j (List.mem_cons_of_mem _ hj)]) (by rw [hp, hid])
    refine ⟨hkeep.trans hkeep', fun j hj => ?_, fun j hj => ?_⟩
    · rw [List.foldl_cons, hother' j fun h => hj (List.mem_cons_of_mem _ h), hother j fun h => hj (h ▸ List.mem_cons_self)]
    · rw [List.foldl_cons]
      rcases List.mem_cons.1 hj with rfl | hj
      · rw [hother' j hk]
        exact ⟨hslot, hbegun⟩
      · have := hmem j hj
        rwa [hother j (hne j hj), hp] at this

/-- The first of a run of starts has the chunk that its task's pool gives before the run. -/
theorem State.starts_head {l : List Nat} (hl : (k :: l).Nodup) (htask : ∀ j ∈ k :: l, (s.ctxAt j).task = task)
    (hid : (s.taskAt task).id = task) :
    (((k :: l).foldl State.startWithChunk s).ctxAt k).r.rd 0 = (s.chunkFor k).1 ∧
      (((k :: l).foldl State.startWithChunk s).ctxAt k).r.rd 1 = (s.chunkFor k).2 := by
  obtain ⟨hk, hl⟩ := List.nodup_cons.1 hl
  obtain ⟨⟨-, -, p, hp⟩, hother, -, -, hchunk⟩ := State.startWithChunk_spec (htask k List.mem_cons_self) hid
  have hne : ∀ j ∈ l, j ≠ k := fun j hj hjk => hk (hjk ▸ hj)
  obtain ⟨-, hout, -⟩ := State.starts_spec l (s.startWithChunk k) hl
    (fun j hj => by rw [hother j (hne j hj), htask j (List.mem_cons_of_mem _ hj)]) (by rw [hp, hid])
  rw [List.foldl_cons, hout k hk]
  exact hchunk

end Sys2Proof.Machine
end

section
/-!
SUPPORT. A placement of a group (02 R42 to R47, R65): the reservation, its idle contexts, and those that start.
-/

namespace Sys2Proof.Machine

variable {s t : State} {c k task : Nat} {x : Task} {slots : List Nat}

/-! ### Slots -/

theorem State.freeSlots_nodup (s : State) (c : Nat) : (s.freeSlots c).Nodup := by
  refine List.Nodup.filter _ (List.Nodup.map (fun i j h => ?_) List.nodup_range)
  omega

/-- A free slot of a core is a slot of its die. -/
theorem State.dieOf_freeSlot (h : k ∈ s.freeSlots c) : dieOf (k / 4) = dieOf c := by
  obtain ⟨j, hj, rfl⟩ := List.mem_map.1 (List.mem_filter.1 h).1
  have : j < 4 := List.mem_range.1 hj
  congr 1
  omega

/-- The one entry of a map that a predicate holds of, where it is the one just put. -/
theorem filter_mput_single {β : Type} {p : Nat × β → Bool} {m : SMap β} {i : Nat} {v : β} (hv : p (i, v) = true)
    (hm : ∀ e ∈ m, p e = false) : (mput m i v).filter p = [(i, v)] := by
  induction m with
  | nil => simp [mput, hv]
  | cons e m ih =>
    obtain ⟨j, u⟩ := e
    have he := hm (j, u) List.mem_cons_self
    have hrest : ∀ e ∈ m, p e = false := fun e h => hm e (List.mem_cons_of_mem _ h)
    have hnone : m.filter p = [] := List.filter_eq_nil_iff.2 fun e h => by simp [hrest e h]
    unfold mput
    split
    · rw [List.filter_cons_of_pos hv, List.filter_cons_of_neg (by simp [he]), hnone]
    · split
      · rw [List.filter_cons_of_pos hv, hnone]
      · rw [List.filter_cons_of_neg (by simp [he]), ih hrest]

/-! ### The reservation -/

/-- A slot is reserved for a task: idle, with the task's partition, address space and allotment. -/
def State.Reserved (s : State) (x : Task) (r : Nat) (d : Ctx) : Prop :=
  d.st = .idle ∧ d.task = x.id ∧ d.resv = r ∧ d.part = s.qpart x.q ∧ d.asid = s.qasid x.q ∧
    d.mx.nTiles = x.df 2 16 6 ∧ d.mx.nBanks = x.df 2 0 4

theorem State.slotFor_reserved (s : State) (x : Task) (g r : Nat) (hs : List Nat) : s.Reserved x r (s.slotFor x g r hs) :=
  ⟨rfl, rfl, rfl, rfl, rfl, rfl, rfl⟩

/-- The slots of a reservation are put one by one; they alone differ. -/
theorem State.putSlots_spec (x : Task) (r : Nat) (num : Nat → Nat) (hs : Nat → List Nat) (l : List (Nat × Nat)) (s : State) :
    ∃ cs, l.foldl (fun s (k, i) => s.putCtx k (s.slotFor x (num i) r (hs i))) s = { s with ctxs := cs } ∧
      (∀ k, k ∉ l.map Prod.fst → mget {} cs k = s.ctxAt k) ∧ ∀ k ∈ l.map Prod.fst, s.Reserved x r (mget {} cs k) := by
  induction l generalizing s with
  | nil => exact ⟨s.ctxs, rfl, fun _ _ => rfl, fun k h => absurd h (by simp)⟩
  | cons e l ih =>
    obtain ⟨j, i⟩ := e
    obtain ⟨cs, he, hout, hin⟩ := ih (s.putCtx j (s.slotFor x (num i) r (hs i)))
    refine ⟨cs, he, fun k hk => ?_, fun k hk => ?_⟩
    · rw [List.map_cons, List.mem_cons, not_or] at hk
      rw [hout k hk.2]
      exact mget_mput_ne _ _ _ _ _ hk.1
    · by_cases hmem : k ∈ l.map Prod.fst
      · exact hin k hmem
      · have hkj : k = j := by simpa [hmem] using hk
        rw [hout k hmem, hkj, State.ctxAt, State.putCtx, mget_mput_same]
        exact s.slotFor_reserved _ _ _ _

/-- The reservation of slots of a core for a task. -/
def Task.resvOn (x : Task) (c group : Nat) (slots : List Nat) : Resv :=
  { core := c, task := x.id, group := group, slots := slots, spad := x.df 2 24 7 }

/-- The state with a reservation entered. -/
def State.withResv (s : State) (r : Nat) (v : Resv) : State := { s with disp := { s.disp with resvs := mput s.disp.resvs r v } }

/-- A reservation is its entry and its idle contexts; they alone differ. -/
theorem State.reserve_spec (s : State) (x : Task) (num : Nat → Nat) (hslots : slots = (s.freeSlots c).take (x.df 2 32 3)) :
    ∃ cs g, s.reserve x c num = { s.withResv (resvKey c slots) (x.resvOn c g slots) with ctxs := cs } ∧
      (∀ k, k ∉ slots → mget {} cs k = s.ctxAt k) ∧ ∀ k ∈ slots, s.Reserved x (resvKey c slots) (mget {} cs k) := by
  have hfst : slots.zipIdx.map Prod.fst = slots := List.zipIdx_map_fst _ _
  obtain ⟨cs, he, hspec⟩ := State.putSlots_spec x (resvKey c slots) num
    (fun i => ((s.handsFor c (x.demand (s.taskHands x))).getD []).getD i []) slots.zipIdx
    (s.withResv (resvKey c slots) (x.resvOn c (num 0) slots))
  rw [hfst] at hspec
  subst hslots
  exact ⟨cs, num 0, he, hspec⟩

/-! ### The placement of a group on one core -/

/-- A task at its first placement on one core: placed in this step, with its range as one piece. -/
def Task.PlacedOn (x x1 : Task) (c : Nat) (step : W64) : Prop :=
  x1.id = x.id ∧ x1.desc = x.desc ∧ x1.l = x.l ∧ x1.placed = true ∧ x1.cstep = step ∧ x1.pieces = [(x.l.lo.toNat, x.l.hi.toNat, dieOf c)]

/-- A first placement on one core reserves the slots, marks the task placed, and starts the contexts that start at once. -/
theorem State.placeGroup_one (s : State) (x : Task) (hp : x.placed = false) (hslots : slots = (s.freeSlots c).take (x.df 2 32 3))
    (hfree : ∀ e ∈ s.disp.resvs, e.2.core ≠ c ∨ e.2.task ≠ x.id) :
    ∃ u g, s.placeGroup x [c] = (slots.take (x.df 2 35 3)).foldl State.startWithChunk u ∧
      x.PlacedOn (u.taskAt x.id) c s.hub.stepCount ∧ u.mem = s.mem ∧ u.resvAt (resvKey c slots) = x.resvOn c g slots ∧
      (∀ k, k ∉ slots → u.ctxAt k = s.ctxAt k) ∧ ∀ k ∈ slots, s.Reserved x (resvKey c slots) (u.ctxAt k) := by
  obtain ⟨cs, g, he, hspec⟩ := s.reserve_spec x (fun i => if x.l.glev.toNat = 1 then x.nextGroup + i else x.nextGroup) hslots
  have hone : (mput s.disp.resvs (resvKey c slots) (x.resvOn c g slots)).filter (fun e => e.2.core == c && e.2.task == x.id) =
      [(resvKey c slots, x.resvOn c g slots)] := by
    refine filter_mput_single (by simp [Task.resvOn]) fun e hmem => ?_
    have := hfree e hmem
    rw [← not_and_or] at this
    simpa using this
  unfold State.placeGroup
  extract_lets fm n lev s1 keys gs late t1 s2 started
  have hs1 : s1 = { s.withResv (resvKey c slots) (x.resvOn c g slots) with ctxs := cs } := he
  have hresvs : s2.disp.resvs = mput s.disp.resvs (resvKey c slots) (x.resvOn c g slots) := congrArg (fun s => s.disp.resvs) hs1
  have hstarted : started = slots.take (x.df 2 35 3) := by
    unfold started
    rw [List.flatMap_cons, List.flatMap_nil, List.append_nil, hresvs, hone, List.map_cons, List.map_nil, List.flatten_cons,
      List.flatten_nil, List.append_nil]
    rfl
  have hctx : ∀ k, s2.ctxAt k = mget {} cs k := fun k => by
    rw [show s2.ctxAt k = s1.ctxAt k from rfl, hs1]
    rfl
  have htask : s2.taskAt x.id = t1 := s1.taskAt_onTask x.id _
  have hmem : s1.mem = s.mem := by
    rw [hs1]
    rfl
  refine ⟨s2, g, by rw [hstarted], ?_, hmem, ?_, ?_⟩
  · rw [htask]
    exact ⟨rfl, rfl, rfl, rfl, if_neg (by simp [hp]), if_neg (by simp [hp])⟩
  · rw [State.resvAt, hresvs, mget_mput_same]
  · simpa only [hctx] using hspec

/-! ### A placement and what it starts -/

/-- A task that no other comes before takes its turn. -/
theorem State.turnOf_of_first (h : ∀ u ∈ s.allTasks, s.stepDue u = false ∧ (s.before u x = true → s.canTake u = false)) : s.turnOf x = true := by
  rw [State.turnOf, Bool.not_eq_true', List.any_eq_false]
  intro u hu
  obtain ⟨hstep, hbefore⟩ := h u hu
  rw [hstep, Bool.false_or, Bool.and_eq_true, not_and, Bool.not_eq_true]
  exact hbefore

theorem exec_groupPlace_first (hx : x = s.taskAt task) (hg : x.guess = false) (hp : x.placed = false) (hw : s.wantsGroup x = true)
    (hbad : s.placeBad x = none) (hok : s.placeOk x [c] = true) (hturn : s.turnOf x = true) :
    exec (.groupPlace task [c]) s = .next (s.placeGroup x [c]) := by
  subst hx
  rw [exec_groupPlace, execGroupPlace]
  simp only [hg, hw, hp, hbad, hok, hturn, Bool.false_eq_true, if_false, Bool.not_true, Bool.and_self, if_true]

/-- A first placement on one core (02 R42 to R47). -/
theorem groupPlace_places {k0 : Nat} (hx : x = s.taskAt task) (hid : x.id = task) (hg : x.guess = false) (hp : x.placed = false)
    (hw : s.wantsGroup x = true) (hown : ∀ e ∈ x.tracked, s.ownsEntry (s.qpart x.q) e = true) (hreason : s.placeReason x = none)
    (hok : s.placeOk x [c] = true) (hfirst : ∀ u ∈ s.allTasks, s.stepDue u = false ∧ (s.before u x = true → s.canTake u = false))
    (hfree : ∀ e ∈ s.disp.resvs, e.2.core ≠ c ∨ e.2.task ≠ task) (hslots : slots = (s.freeSlots c).take (x.df 2 32 3))
    (hhead : slots.head? = some k0) (hstart : 1 ≤ x.df 2 35 3) :
    ∃ t, exec (.groupPlace task [c]) s = .next t ∧ t.mem = s.mem ∧ (∀ k, k ∉ slots → t.ctxAt k = s.ctxAt k) ∧
      (t.taskAt task).placed = true ∧ (t.taskAt task).cstep = s.hub.stepCount ∧
      (∀ k ∈ slots, (t.ctxAt k).task = task ∧ (t.ctxAt k).resv = resvKey c slots ∧ (t.ctxAt k).part = s.qpart x.q ∧
        (t.ctxAt k).asid = s.qasid x.q ∧ (t.ctxAt k).mx.nTiles = x.df 2 16 6 ∧ (t.ctxAt k).mx.nBanks = x.df 2 0 4) ∧
      (∀ k ∈ slots.drop (x.df 2 35 3), (t.ctxAt k).st = .idle) ∧
      (∀ k ∈ slots.take (x.df 2 35 3), (t.ctxAt k).st = .live ∧ (t.ctxAt k).r.pc = x.desc.getD 0 0 ∧ (t.ctxAt k).r.sup = false ∧
        (t.ctxAt k).r.rd 2 = BitVec.ofNat 64 task) ∧
      (t.ctxAt k0).r.rd 0 = x.l.lo ∧
      ((t.ctxAt k0).r.rd 1).toNat = min x.l.hi.toNat (x.l.lo.toNat +
        x.l.grain.toNat * cdiv (cdiv (x.l.hi.toNat - x.l.lo.toNat) x.l.grain.toNat) 2) ∧
      ∃ v, t.resvAt (resvKey c slots) = v ∧ v.core = c ∧ v.task = task ∧ v.slots = slots ∧ v.spad = x.df 2 24 7 ∧
        v.bytes = [] ∧ v.full = [] := by
  have hrun := exec_groupPlace_first hx hg hp hw (by rw [State.placeBad_owned hown, hreason, Option.map_none]) hok
    (State.turnOf_of_first hfirst)
  obtain ⟨u, g, he, ⟨hid1, hdesc, hl, hplaced, hcstep, hpieces⟩, hmem, hresv, hout, hin⟩ := s.placeGroup_one x hp hslots (by rwa [hid])
  rw [hid] at hid1 hdesc hl hplaced hcstep hpieces
  rw [he] at hrun
  have hnodup : slots.Nodup := hslots ▸ (s.freeSlots_nodup c).sublist (List.take_sublist _ _)
  have hstarts : ∀ k ∈ slots.take (x.df 2 35 3), (u.ctxAt k).task = task := fun k hk => by
    obtain ⟨-, htask, -⟩ := hin k (List.mem_of_mem_take hk)
    exact htask.trans hid
  have hstartsNodup := hnodup.sublist (List.take_sublist (x.df 2 35 3) slots)
  obtain ⟨⟨hmem', hresvs, p, htask'⟩, hother, hbegun⟩ := State.starts_spec (slots.take (x.df 2 35 3)) u hstartsNodup hstarts hid1
  obtain ⟨later, hslotsCons⟩ := List.head?_eq_some_iff.1 hhead
  have hk0 : k0 ∈ slots := hslotsCons ▸ List.mem_cons_self
  have hcons : slots.take (x.df 2 35 3) = k0 :: later.take (x.df 2 35 3 - 1) := by
    rw [hslotsCons, List.take_cons (by omega)]
  have hdie : dieOf (k0 / 4) = dieOf c := State.dieOf_freeSlot (List.mem_of_mem_take (hslots ▸ hk0))
  have hchunk : u.chunkFor k0 = (w64 x.l.lo.toNat, w64 (halfOf x.l.lo.toNat x.l.hi.toNat x.l.grain.toNat)) := by
    rw [State.chunkFor, hstarts k0 (hcons ▸ List.mem_cons_self), hdie, Task.takeChunk_first hpieces, hl]
  obtain ⟨hrd0, hrd1⟩ := State.starts_head (hcons ▸ hstartsNodup) (hcons ▸ hstarts) hid1
  rw [← hcons, hchunk] at hrd0 hrd1
  dsimp only at hrd0 hrd1
  have hhalf : halfOf x.l.lo.toNat x.l.hi.toNat x.l.grain.toNat < 2 ^ 64 := (Nat.min_le_left _ _).trans_lt x.l.hi.isLt
  refine ⟨_, hrun, hmem'.trans hmem, fun k hk => ?_, ?_, ?_, fun k hk => ?_, fun k hk => ?_, fun k hk => ?_, ?_, ?_, x.resvOn c g slots,
    ?_, rfl, hid, rfl, rfl, rfl, rfl⟩
  · rw [hother k fun h => hk (List.mem_of_mem_take h), hout k hk]
  · rw [htask', hplaced]
  · rw [htask', hcstep]
  · obtain ⟨-, htask, hresv, hpart, hasid, htiles, hbanks⟩ := hin k hk
    by_cases hlive : k ∈ slots.take (x.df 2 35 3)
    · obtain ⟨⟨htask1, hresv1, hpart1, hasid1, htiles1, hbanks1⟩, -⟩ := hbegun k hlive
      exact ⟨htask1.trans (htask.trans hid), hresv1.trans hresv, hpart1.trans hpart, hasid1.trans hasid, htiles1.trans htiles,
        hbanks1.trans hbanks⟩
    · rw [hother k hlive]
      exact ⟨htask.trans hid, hresv, hpart, hasid, htiles, hbanks⟩
  · have hnot : k ∉ slots.take (x.df 2 35 3) := fun h => List.disjoint_take_drop hnodup le_rfl h hk
    obtain ⟨hst, -⟩ := hin k (List.mem_of_mem_drop hk)
    rw [hother k hnot, hst]
  · have := (hbegun k hk).2
    rwa [hdesc] at this
  · rw [hrd0]
    exact (BitVec.ofNat_toNat _ _).trans (BitVec.setWidth_eq _)
  · rw [hrd1, w64, BitVec.toNat_ofNat, Nat.mod_eq_of_lt hhalf, halfOf]
  · rw [State.resvAt, hresvs]
    exact hresv

end Sys2Proof.Machine
end

section
open Sys2Proof Sys2Proof.Machine

/-- Settles O46: by the dispatcher's moves in the order of a task's life, from the dependence table to its record. -/
theorem tasksAreDispatched : Obligations.TasksAreDispatched := by
  unfold Obligations.TasksAreDispatched
  refine ⟨?_, ?_, ?_, ?_, ?_, ?_, ?_, ?_, ?_, ?_, ?_, ?_, ?_⟩
  · intro die q tk s hd hq hh hwait hwalk ho hroom
    exact taskAdmit_admits hd (State.admitNext_only hq hh hwait ho) hwalk hroom
  · intro die q tk s w hd hq hh hwait hwalk htask hr hnext hcount ho hroom
    exact taskAdmit_moves_walk hd (State.admitNext_only hq hh hwait ho) hwalk htask hr hnext hcount hroom
  · intro task s x hx hg hr hp hup
    exact priorityAge_steps hx hg hr hp hup
  · intro task s x hx hr hp hage hh
    exact starvationHold_holds hx hr hp hage hh
  · intro task s x hg hp hs ht
    exact gangStart_starts hg hp hs ht
  · intro task s c k0 slots x hx hid hg hp _ hw hown hreason hok hfirst hfree hslots hhead hstart _
    exact groupPlace_places hx hid hg hp hw hown hreason hok hfirst hfree hslots hhead hstart
  · intro task s cores r x hx hid hg hp hw hown hreason hst
    have hbad : s.placeBad x = some (plainRecord 2 r false task 0) := by
      rw [State.placeBad_owned hown, hreason, Option.map_some, hid]
    exact groupPlace_rejects hx hid hg hp hw hbad (recordOf_plainRecord _ _ _ _ _ (by decide)) hst
  · intro task s cores e x hx hid hg hp hw hforeign hst
    have hbad : s.placeBad x = some (recordWords 1 0x2E x.late 15 0 task 0 (w64 e) 0 0 0) := by
      rw [State.placeBad, hforeign, hid]
    exact groupPlace_rejects hx hid hg hp hw hbad (recordOf_recordWords _ _ _ _ _ _ _ _ _ _ _ (by decide)) hst
  · intro task s x hx hid hg hd
    exact taskComplete_completes hx hid hg hd
  · intro task s x ws hx hg hs he hd hst hne
    exact taskEnd_records hx hg hs he hd hst hne
  · intro task s x ws hx hg hs he hd h
    exact taskEnd_resets hx hg hs he hd h
  · intro q s r rest va e p b tail htail hq hrecs hen hst hpfe hroom hva hwalk hpage hbad hlen hb
    exact recordWrite_writes htail hq hrecs hen hst hpfe hroom hva hwalk hpage hbad hlen hb
  · intro q s r rest va e tail htail hq hrecs hen hst hroom hva hwalk
    exact recordWrite_stops htail hq hrecs hen hst hroom hva hwalk
end

section
/-!
SUPPORT. The forms of slot words (04 R116 to R123): a word is its operation code and its fields, and any of both make a word.
-/

namespace Sys2Proof

open Machine
open BitVec (extractLsb'_append_eq_of_add_le extractLsb'_append_eq_of_le extractLsb'_append_extractLsb'_eq_extractLsb'
  extractLsb'_eq_self)

/-- A form of slot words of `n` bits: its fields `α` beside an operation code of `w` bits from bit `lo` up.  A word is its
operation code and its fields, and any of both make a word. -/
structure WordForm (α : Type) (n w : Nat) where
  lo : Nat
  ofWord : BitVec n → α
  toWord : BitVec w → α → BitVec n
  op_toWord : ∀ op f, (toWord op f).extractLsb' lo w = op
  ofWord_toWord : ∀ op f, ofWord (toWord op f) = f
  toWord_ofWord : ∀ x, toWord (x.extractLsb' lo w) (ofWord x) = x

/-- A decoder that reads the words of an operation code as an operation of a form gives back the operation encoded. -/
theorem WordForm.dec_toWord {α : Type} {n w : Nat} (F : WordForm α n w) {dec : BitVec n → Dec} {op : BitVec w} {c : α → Instr}
    (h : ∀ x, x.extractLsb' F.lo w = op → dec x = .ok (c (F.ofWord x))) (f : α) : dec (F.toWord op f) = .ok (c f) := by
  rw [h _ (F.op_toWord op f), F.ofWord_toWord]

/-- The fields read from a word with an operation code make that word again. -/
theorem WordForm.word_of_op {α : Type} {n w op : Nat} (F : WordForm α n w) {x : BitVec n} (h : (x.extractLsb' F.lo w).toNat = op) :
    F.toWord (BitVec.ofNat w op) (F.ofWord x) = x := by
  rw [← h, BitVec.ofNat_toNat, BitVec.setWidth_eq, F.toWord_ofWord]

/-- Form SR (04 R116). -/
def SR.form : WordForm SR 32 6 where
  lo := 26
  ofWord := SR.ofWord
  toWord op f := f.toWord op
  op_toWord op f := by
    simp -index only [SR.toWord, extractLsb'_append_eq_of_le, extractLsb'_eq_self, Nat.reduceLeDiff, Nat.reduceSub]
  ofWord_toWord op f := by
    simp -index only [SR.ofWord, SR.toWord, extractLsb'_append_eq_of_add_le, extractLsb'_append_eq_of_le,
      extractLsb'_eq_self, Nat.reduceLeDiff, Nat.reduceAdd, Nat.reduceSub, Nat.le_refl]
  toWord_ofWord x := by
    simp -index only [SR.toWord, SR.ofWord, extractLsb'_append_extractLsb'_eq_extractLsb', extractLsb'_eq_self, Nat.reduceAdd]

/-- Form SI (04 R116). -/
def SI.form : WordForm SI 32 6 where
  lo := 26
  ofWord := SI.ofWord
  toWord op f := f.toWord op
  op_toWord op f := by
    simp -index only [SI.toWord, extractLsb'_append_eq_of_le, extractLsb'_eq_self, Nat.reduceLeDiff, Nat.reduceSub]
  ofWord_toWord op f := by
    simp -index only [SI.ofWord, SI.toWord, extractLsb'_append_eq_of_add_le, extractLsb'_append_eq_of_le,
      extractLsb'_eq_self, Nat.reduceLeDiff, Nat.reduceAdd, Nat.reduceSub, Nat.le_refl]
  toWord_ofWord x := by
    simp -index only [SI.toWord, SI.ofWord, extractLsb'_append_extractLsb'_eq_extractLsb', extractLsb'_eq_self, Nat.reduceAdd]

/-- Form SU (04 R116). -/
def SU.form : WordForm SU 32 6 where
  lo := 26
  ofWord := SU.ofWord
  toWord op f := f.toWord op
  op_toWord op f := by
    simp -index only [SU.toWord, extractLsb'_append_eq_of_le, extractLsb'_eq_self, Nat.reduceLeDiff, Nat.reduceSub]
  ofWord_toWord op f := by
    simp -index only [SU.ofWord, SU.toWord, extractLsb'_append_eq_of_add_le, extractLsb'_append_eq_of_le,
      extractLsb'_eq_self, Nat.reduceLeDiff, Nat.reduceAdd, Nat.reduceSub, Nat.le_refl]
  toWord_ofWord x := by
    simp -index only [SU.toWord, SU.ofWord, extractLsb'_append_extractLsb'_eq_extractLsb', extractLsb'_eq_self, Nat.reduceAdd]

/-- Form VR (04 R117). -/
def VR.form : WordForm VR 64 8 where
  lo := 56
  ofWord := VR.ofWord
  toWord op f := f.toWord op
  op_toWord op f := by
    simp -index only [VR.toWord, extractLsb'_append_eq_of_le, extractLsb'_eq_self, Nat.reduceLeDiff, Nat.reduceSub]
  ofWord_toWord op f := by
    simp -index only [VR.ofWord, VR.toWord, extractLsb'_append_eq_of_add_le, extractLsb'_append_eq_of_le,
      extractLsb'_eq_self, Nat.reduceLeDiff, Nat.reduceAdd, Nat.reduceSub, Nat.le_refl]
  toWord_ofWord x := by
    simp -index only [VR.toWord, VR.ofWord, extractLsb'_append_extractLsb'_eq_extractLsb', extractLsb'_eq_self, Nat.reduceAdd]

/-- Form VQ (04 R120). -/
def VQ.form : WordForm VQ 64 8 where
  lo := 56
  ofWord := VQ.ofWord
  toWord op f := f.toWord op
  op_toWord op f := by
    simp -index only [VQ.toWord, extractLsb'_append_eq_of_le, extractLsb'_eq_self, Nat.reduceLeDiff, Nat.reduceSub]
  ofWord_toWord op f := by
    simp -index only [VQ.ofWord, VQ.toWord, extractLsb'_append_eq_of_add_le, extractLsb'_append_eq_of_le,
      extractLsb'_eq_self, Nat.reduceLeDiff, Nat.reduceAdd, Nat.reduceSub, Nat.le_refl]
  toWord_ofWord x := by
    simp -index only [VQ.toWord, VQ.ofWord, extractLsb'_append_extractLsb'_eq_extractLsb', extractLsb'_eq_self, Nat.reduceAdd]

/-- Form MX (04 R121). -/
def MX.form : WordForm MX 64 6 where
  lo := 58
  ofWord := MX.ofWord
  toWord op f := f.toWord op
  op_toWord op f := by
    simp -index only [MX.toWord, extractLsb'_append_eq_of_le, extractLsb'_eq_self, Nat.reduceLeDiff, Nat.reduceSub]
  ofWord_toWord op f := by
    simp -index only [MX.ofWord, MX.toWord, extractLsb'_append_eq_of_add_le, extractLsb'_append_eq_of_le,
      extractLsb'_eq_self, Nat.reduceLeDiff, Nat.reduceAdd, Nat.reduceSub, Nat.le_refl]
  toWord_ofWord x := by
    simp -index only [MX.toWord, MX.ofWord, extractLsb'_append_extractLsb'_eq_extractLsb', extractLsb'_eq_self, Nat.reduceAdd]

/-- Form MC (04 R121). -/
def MC.form : WordForm MC 64 6 where
  lo := 58
  ofWord := MC.ofWord
  toWord op f := f.toWord op
  op_toWord op f := by
    simp -index only [MC.toWord, extractLsb'_append_eq_of_le, extractLsb'_eq_self, Nat.reduceLeDiff, Nat.reduceSub]
  ofWord_toWord op f := by
    simp -index only [MC.ofWord, MC.toWord, extractLsb'_append_eq_of_add_le, extractLsb'_append_eq_of_le,
      extractLsb'_eq_self, Nat.reduceLeDiff, Nat.reduceAdd, Nat.reduceSub, Nat.le_refl]
  toWord_ofWord x := by
    simp -index only [MC.toWord, MC.ofWord, extractLsb'_append_extractLsb'_eq_extractLsb', extractLsb'_eq_self, Nat.reduceAdd]

/-- Form LM (04 R122). -/
def LM.form : WordForm LM 64 7 where
  lo := 57
  ofWord := LM.ofWord
  toWord op f := f.toWord op
  op_toWord op f := by
    simp -index only [LM.toWord, extractLsb'_append_eq_of_le, extractLsb'_eq_self, Nat.reduceLeDiff, Nat.reduceSub]
  ofWord_toWord op f := by
    simp -index only [LM.ofWord, LM.toWord, extractLsb'_append_eq_of_add_le, extractLsb'_append_eq_of_le,
      extractLsb'_eq_self, Nat.reduceLeDiff, Nat.reduceAdd, Nat.reduceSub, Nat.le_refl]
  toWord_ofWord x := by
    simp -index only [LM.toWord, LM.ofWord, extractLsb'_append_extractLsb'_eq_extractLsb', extractLsb'_eq_self, Nat.reduceAdd]

/-- Form LC (04 R122). -/
def LC.form : WordForm LC 64 7 where
  lo := 57
  ofWord := LC.ofWord
  toWord op f := f.toWord op
  op_toWord op f := by
    simp -index only [LC.toWord, extractLsb'_append_eq_of_le, extractLsb'_eq_self, Nat.reduceLeDiff, Nat.reduceSub]
  ofWord_toWord op f := by
    simp -index only [LC.ofWord, LC.toWord, extractLsb'_append_eq_of_add_le, extractLsb'_append_eq_of_le,
      extractLsb'_eq_self, Nat.reduceLeDiff, Nat.reduceAdd, Nat.reduceSub, Nat.le_refl]
  toWord_ofWord x := by
    simp -index only [LC.toWord, LC.ofWord, extractLsb'_append_extractLsb'_eq_extractLsb', extractLsb'_eq_self, Nat.reduceAdd]

/-- Form BJ (04 R123). -/
def BJ.form : WordForm BJ 64 6 where
  lo := 58
  ofWord := BJ.ofWord
  toWord op f := f.toWord op
  op_toWord op f := by
    simp -index only [BJ.toWord, extractLsb'_append_eq_of_le, extractLsb'_eq_self, Nat.reduceLeDiff, Nat.reduceSub]
  ofWord_toWord op f := by
    simp -index only [BJ.ofWord, BJ.toWord, extractLsb'_append_eq_of_add_le, extractLsb'_append_eq_of_le,
      extractLsb'_eq_self, Nat.reduceLeDiff, Nat.reduceAdd, Nat.reduceSub, Nat.le_refl]
  toWord_ofWord x := by
    simp -index only [BJ.toWord, BJ.ofWord, extractLsb'_append_extractLsb'_eq_extractLsb', extractLsb'_eq_self, Nat.reduceAdd]

/-- Form BG (04 R123). -/
def BG.form : WordForm BG 64 6 where
  lo := 58
  ofWord := BG.ofWord
  toWord op f := f.toWord op
  op_toWord op f := by
    simp -index only [BG.toWord, extractLsb'_append_eq_of_le, extractLsb'_eq_self, Nat.reduceLeDiff, Nat.reduceSub]
  ofWord_toWord op f := by
    simp -index only [BG.ofWord, BG.toWord, extractLsb'_append_eq_of_add_le, extractLsb'_append_eq_of_le,
      extractLsb'_eq_self, Nat.reduceLeDiff, Nat.reduceAdd, Nat.reduceSub, Nat.le_refl]
  toWord_ofWord x := by
    simp -index only [BG.toWord, BG.ofWord, extractLsb'_append_extractLsb'_eq_extractLsb', extractLsb'_eq_self, Nat.reduceAdd]

/-- Form BL (04 R123). -/
def BL.form : WordForm BL 64 6 where
  lo := 58
  ofWord := BL.ofWord
  toWord op f := f.toWord op
  op_toWord op f := by
    simp -index only [BL.toWord, extractLsb'_append_eq_of_le, extractLsb'_eq_self, Nat.reduceLeDiff, Nat.reduceSub]
  ofWord_toWord op f := by
    simp -index only [BL.ofWord, BL.toWord, extractLsb'_append_eq_of_add_le, extractLsb'_append_eq_of_le,
      extractLsb'_eq_self, Nat.reduceLeDiff, Nat.reduceAdd, Nat.reduceSub, Nat.le_refl]
  toWord_ofWord x := by
    simp -index only [BL.toWord, BL.ofWord, extractLsb'_append_extractLsb'_eq_extractLsb', extractLsb'_eq_self, Nat.reduceAdd]

/-- Form BT (04 R123). -/
def BT.form : WordForm BT 64 6 where
  lo := 58
  ofWord := BT.ofWord
  toWord op f := f.toWord op
  op_toWord op f := by
    simp -index only [BT.toWord, extractLsb'_append_eq_of_le, extractLsb'_eq_self, Nat.reduceLeDiff, Nat.reduceSub]
  ofWord_toWord op f := by
    simp -index only [BT.ofWord, BT.toWord, extractLsb'_append_eq_of_add_le, extractLsb'_append_eq_of_le,
      extractLsb'_eq_self, Nat.reduceLeDiff, Nat.reduceAdd, Nat.reduceSub, Nat.le_refl]
  toWord_ofWord x := by
    simp -index only [BT.toWord, BT.ofWord, extractLsb'_append_extractLsb'_eq_extractLsb', extractLsb'_eq_self, Nat.reduceAdd]

end Sys2Proof
end

section
/-!
SUPPORT. Slot words (04 R124 to R128): the word of a well-formed operation decodes to it, and a word that decodes is the word of
what it decodes to.
-/

namespace Sys2Proof

open Machine

/-! ### Well-formed operations (04 R129) -/

theorem leastReason_isNone (l : List Nat) : (leastReason l).isNone = l.isEmpty := by
  cases l with
  | nil => rfl
  | cons r rs =>
    unfold leastReason
    split <;> rfl

theorem viol_eq_nil (c : Bool) (r : Nat) : viol c r = [] ↔ c = false := by
  cases c <;> simp [viol]

/-- The fields of a well-formed operation meet no reason of 04 R129. -/
theorem Instr.wellFormed_iff (i : Instr) : i.WellFormed = true ↔ slotViol i = [] := by
  rw [Instr.WellFormed, instrLegal, leastReason_isNone, List.isEmpty_iff]

/-- A condition of R129 that a well-formed operation lists last is false. -/
theorem Instr.WellFormed.last {i : Instr} {l : List Nat} {c : Bool} {r : Nat} (h : i.WellFormed = true)
    (hi : slotViol i = l ++ viol c r) : c = false := by
  rw [i.wellFormed_iff, hi, List.append_eq_nil_iff] at h
  exact (viol_eq_nil c r).mp h.2

theorem await_imm {f : MC} (h : (Instr.await f).WellFormed = true) : f.imm = 0 :=
  bne_eq_false_iff_eq.mp (Instr.WellFormed.last h rfl)

theorem awaitAll_imm {f : MC} (h : (Instr.awaitAll f).WellFormed = true) : f.imm = 1 :=
  bne_eq_false_iff_eq.mp (Instr.WellFormed.last h rfl)

theorem bar_fn {f : BG} (h : (Instr.bar f).WellFormed = true) : f.fn = 0 :=
  bne_eq_false_iff_eq.mp (Instr.WellFormed.last h rfl)

theorem barArv_fn {f : BG} (h : (Instr.barArv f).WellFormed = true) : f.fn = 1 :=
  bne_eq_false_iff_eq.mp (Instr.WellFormed.last h rfl)

theorem tlwait_fn {f : BG} (h : (Instr.tlwait f).WellFormed = true) : f.fn = 0 :=
  bne_eq_false_iff_eq.mp (Instr.WellFormed.last h rfl)

theorem tlwaitBind_fn {f : BG} (h : (Instr.tlwaitBind f).WellFormed = true) : f.fn = 1 :=
  bne_eq_false_iff_eq.mp (Instr.WellFormed.last h rfl)

theorem tlwaitRead_fn {f : BG} (h : (Instr.tlwaitRead f).WellFormed = true) : f.fn = 2 :=
  bne_eq_false_iff_eq.mp (Instr.WellFormed.last h rfl)

theorem eret_fn {f : BG} (h : (Instr.eret f).WellFormed = true) : f.fn = 0 :=
  bne_eq_false_iff_eq.mp (Instr.WellFormed.last h rfl)

theorem eretEnd_fn {f : BG} (h : (Instr.eretEnd f).WellFormed = true) : f.fn = 1 :=
  bne_eq_false_iff_eq.mp (Instr.WellFormed.last h rfl)

/-! ### Slot words (04 R124 to R128) -/

theorem decSlot_s (x : BitVec 32) : decSlot .s (x.zeroExtend 64) = decS x := by
  have h : (x.zeroExtend 64).extractLsb' 0 32 = x := by
    apply BitVec.eq_of_toNat_eq
    simp
    omega
  rw [decSlot, h]

/-- Decoding the word of an S-slot operation gives the operation back. -/
theorem decSlot_of_encode_s {i : Instr} {w : BitVec 64} (h : encode i = some (.s, w)) : decSlot .s w = .ok i := by
  cases i with
  | addi f | shli f | shri f | srai f | sext f | zext f | rdd f | rdsys f | mbrd f | mbwr f =>
    cases h
    exact SI.form.dec_toWord (dec := fun y => decSlot .s (y.zeroExtend 64))
      (fun _ (h : BitVec.extractLsb' 26 6 _ = _) => by rw [decSlot_s]; unfold decS; rw [h]; rfl) f
  | li f | lui f | addr f =>
    cases h
    exact SU.form.dec_toWord (dec := fun y => decSlot .s (y.zeroExtend 64))
      (fun _ (h : BitVec.extractLsb' 26 6 _ = _) => by rw [decSlot_s]; unfold decS; rw [h]; rfl) f
  | _ =>
    cases h <;> exact SR.form.dec_toWord (dec := fun y => decSlot .s (y.zeroExtend 64))
      (fun _ (h : BitVec.extractLsb' 26 6 _ = _) => by rw [decSlot_s]; unfold decS; rw [h]; rfl) _

/-- Decoding the word of a V-slot operation gives the operation back. -/
theorem decSlot_of_encode_v {i : Instr} {w : BitVec 64} (h : encode i = some (.v, w)) : decSlot .v w = .ok i := by
  cases i with
  | vqnt f | vdq f | vqc4 f | vdqc4 f =>
    cases h
    exact VQ.form.dec_toWord (dec := decV) (fun _ (h : BitVec.extractLsb' 56 8 _ = _) => by unfold decV; rw [h]; rfl) f
  | _ =>
    cases h <;>
      exact VR.form.dec_toWord (dec := decV) (fun _ (h : BitVec.extractLsb' 56 8 _ = _) => by unfold decV; rw [h]; rfl) _

/-- The reading of an `await` word: IMM says whether it waits for every tile (07 R222). -/
def awaitOf (f : MC) : Instr := if f.imm = 1 then .awaitAll f else .await f

theorem decM_await (f : MC) : decM (f.toWord 12) = .ok (awaitOf f) :=
  MC.form.dec_toWord (fun _ (h : BitVec.extractLsb' 58 6 _ = _) => by unfold decM; rw [h]; rfl) f

/-- Decoding the word of a well-formed M-slot operation gives the operation back. -/
theorem decSlot_of_encode_m {i : Instr} {w : BitVec 64} (h : encode i = some (.m, w)) (hw : i.WellFormed = true) :
    decSlot .m w = .ok i := by
  cases i with
  | mld f | mldw f | mma f | mmas f | mmac f | mmaC f =>
    cases h
    exact MX.form.dec_toWord (dec := decM) (fun _ (h : BitVec.extractLsb' 58 6 _ = _) => by unfold decM; rw [h]; rfl) f
  | await f =>
    cases h
    exact (decM_await f).trans (by simp [awaitOf, await_imm hw])
  | awaitAll f =>
    cases h
    exact (decM_await f).trans (by simp [awaitOf, awaitAll_imm hw])
  | _ =>
    cases h <;>
      exact MC.form.dec_toWord (dec := decM) (fun _ (h : BitVec.extractLsb' 58 6 _ = _) => by unfold decM; rw [h]; rfl) _

/-- Decoding the word of an L-slot operation gives the operation back. -/
theorem decSlot_of_encode_l {i : Instr} {w : BitVec 64} (h : encode i = some (.l, w)) : decSlot .l w = .ok i := by
  cases i with
  | tld f | tst f | cpy f | rgather f | rscatter f | coll f =>
    cases h
    exact LC.form.dec_toWord (dec := decL) (fun _ (h : BitVec.extractLsb' 57 7 _ = _) => by unfold decL; rw [h]; rfl) f
  | _ =>
    cases h <;>
      exact LM.form.dec_toWord (dec := decL) (fun _ (h : BitVec.extractLsb' 57 7 _ = _) => by unfold decL; rw [h]; rfl) _

/-- The readings of the words of `bar`, `tlwait` and `eret`: FN says which of the family it is (09 R309, R311; 15 R386). -/
def barOf (f : BG) : Instr := if f.fn = 1 then .barArv f else .bar f
@[inherit_doc barOf]
def tlwaitOf (f : BG) : Instr := if f.fn = 1 then .tlwaitBind f else if f.fn = 2 then .tlwaitRead f else .tlwait f
@[inherit_doc barOf]
def eretOf (f : BG) : Instr := if f.fn = 1 then .eretEnd f else .eret f

theorem decB_bar (f : BG) : decB (f.toWord 19) = .ok (barOf f) :=
  BG.form.dec_toWord (fun _ (h : BitVec.extractLsb' 58 6 _ = _) => by unfold decB; rw [h]; rfl) f

theorem decB_tlwait (f : BG) : decB (f.toWord 24) = .ok (tlwaitOf f) :=
  BG.form.dec_toWord (fun _ (h : BitVec.extractLsb' 58 6 _ = _) => by unfold decB; rw [h]; rfl) f

theorem decB_eret (f : BG) : decB (f.toWord 50) = .ok (eretOf f) :=
  BG.form.dec_toWord (fun _ (h : BitVec.extractLsb' 58 6 _ = _) => by unfold decB; rw [h]; rfl) f

/-- Decoding the word of a well-formed B-slot operation gives the operation back. -/
theorem decSlot_of_encode_b {i : Instr} {w : BitVec 64} (h : encode i = some (.b, w)) (hw : i.WellFormed = true) :
    decSlot .b w = .ok i := by
  cases i with
  | br f | call f | ret f | jr f =>
    cases h
    exact BJ.form.dec_toWord (dec := decB) (fun _ (h : BitVec.extractLsb' 58 6 _ = _) => by unfold decB; rw [h]; rfl) f
  | bt f =>
    cases h
    exact BT.form.dec_toWord (dec := decB) (fun _ (h : BitVec.extractLsb' 58 6 _ = _) => by unfold decB; rw [h]; rfl) f
  | loop f | loopw f =>
    cases h
    exact BL.form.dec_toWord (dec := decB) (fun _ (h : BitVec.extractLsb' 58 6 _ = _) => by unfold decB; rw [h]; rfl) f
  | bar f => cases h; exact (decB_bar f).trans (by simp [barOf, bar_fn hw])
  | barArv f => cases h; exact (decB_bar f).trans (by simp [barOf, barArv_fn hw])
  | tlwait f => cases h; exact (decB_tlwait f).trans (by simp [tlwaitOf, tlwait_fn hw])
  | tlwaitBind f => cases h; exact (decB_tlwait f).trans (by simp [tlwaitOf, tlwaitBind_fn hw])
  | tlwaitRead f => cases h; exact (decB_tlwait f).trans (by simp [tlwaitOf, tlwaitRead_fn hw])
  | eret f => cases h; exact (decB_eret f).trans (by simp [eretOf, eret_fn hw])
  | eretEnd f => cases h; exact (decB_eret f).trans (by simp [eretOf, eretEnd_fn hw])
  | _ =>
    cases h <;>
      exact BG.form.dec_toWord (dec := decB) (fun _ (h : BitVec.extractLsb' 58 6 _ = _) => by unfold decB; rw [h]; rfl) _

theorem decSlot_of_encode {i : Instr} {k : SlotKind} {w : BitVec 64} (h : encode i = some (k, w)) (hw : i.WellFormed = true) :
    decSlot k w = .ok i := by
  cases k with
  | s => exact decSlot_of_encode_s h
  | v => exact decSlot_of_encode_v h
  | m => exact decSlot_of_encode_m h hw
  | l => exact decSlot_of_encode_l h
  | b => exact decSlot_of_encode_b h hw

/-! ### From a word to its operation -/

theorem encode_awaitOf (f : MC) : encode (awaitOf f) = some (.m, f.toWord 12) := by
  unfold awaitOf
  split <;> rfl

theorem encode_barOf (f : BG) : encode (barOf f) = some (.b, f.toWord 19) := by
  unfold barOf
  split <;> rfl

theorem encode_tlwaitOf (f : BG) : encode (tlwaitOf f) = some (.b, f.toWord 24) := by
  unfold tlwaitOf
  split
  · rfl
  · split <;> rfl

theorem encode_eretOf (f : BG) : encode (eretOf f) = some (.b, f.toWord 50) := by
  unfold eretOf
  split <;> rfl

/-- A word that decodes to an operation of the S slot is the word of that operation. -/
theorem encode_of_decS {x : BitVec 32} {i : Instr} (h : decS x = .ok i) : encode i = some (.s, x.zeroExtend 64) := by
  unfold decS at h
  split at h
  all_goals cases h
  all_goals rename_i hop
  case h_3 | h_18 | h_19 | h_20 | h_33 | h_34 | h_49 | h_50 | h_52 | h_53 => exact congrArg (fun y => some (SlotKind.s, y.zeroExtend 64)) (SI.form.word_of_op hop)
  case h_30 | h_31 | h_37 => exact congrArg (fun y => some (SlotKind.s, y.zeroExtend 64)) (SU.form.word_of_op hop)
  all_goals exact congrArg (fun y => some (SlotKind.s, y.zeroExtend 64)) (SR.form.word_of_op hop)

/-- A word that decodes to an operation of the V slot is the word of that operation. -/
theorem encode_of_decV {x : BitVec 64} {i : Instr} (h : decV x = .ok i) : encode i = some (.v, x) := by
  unfold decV at h
  split at h
  all_goals cases h
  all_goals rename_i hop
  case h_51 | h_52 | h_53 | h_54 => exact congrArg (fun y => some (SlotKind.v, y)) (VQ.form.word_of_op hop)
  all_goals exact congrArg (fun y => some (SlotKind.v, y)) (VR.form.word_of_op hop)

/-- A word that decodes to an operation of the M slot is the word of that operation. -/
theorem encode_of_decM {x : BitVec 64} {i : Instr} (h : decM x = .ok i) : encode i = some (.m, x) := by
  unfold decM at h
  split at h
  all_goals cases h
  all_goals rename_i hop
  case h_12 => exact (encode_awaitOf _).trans (congrArg (fun y => some (SlotKind.m, y)) (MC.form.word_of_op hop))
  case h_1 | h_2 | h_4 | h_5 | h_6 | h_7 => exact congrArg (fun y => some (SlotKind.m, y)) (MX.form.word_of_op hop)
  all_goals exact congrArg (fun y => some (SlotKind.m, y)) (MC.form.word_of_op hop)

/-- A word that decodes to an operation of the L slot is the word of that operation. -/
theorem encode_of_decL {x : BitVec 64} {i : Instr} (h : decL x = .ok i) : encode i = some (.l, x) := by
  unfold decL at h
  split at h
  all_goals cases h
  all_goals rename_i hop
  case h_15 | h_16 | h_17 | h_18 | h_19 | h_33 => exact congrArg (fun y => some (SlotKind.l, y)) (LC.form.word_of_op hop)
  all_goals exact congrArg (fun y => some (SlotKind.l, y)) (LM.form.word_of_op hop)

/-- A word that decodes to an operation of the B slot is the word of that operation. -/
theorem encode_of_decB {x : BitVec 64} {i : Instr} (h : decB x = .ok i) : encode i = some (.b, x) := by
  unfold decB at h
  split at h
  all_goals cases h
  all_goals rename_i hop
  case h_17 => exact (encode_barOf _).trans (congrArg (fun y => some (SlotKind.b, y)) (BG.form.word_of_op hop))
  case h_22 => exact (encode_tlwaitOf _).trans (congrArg (fun y => some (SlotKind.b, y)) (BG.form.word_of_op hop))
  case h_35 => exact (encode_eretOf _).trans (congrArg (fun y => some (SlotKind.b, y)) (BG.form.word_of_op hop))
  case h_1 | h_3 | h_4 | h_5 => exact congrArg (fun y => some (SlotKind.b, y)) (BJ.form.word_of_op hop)
  case h_2 => exact congrArg (fun y => some (SlotKind.b, y)) (BT.form.word_of_op hop)
  case h_6 | h_7 => exact congrArg (fun y => some (SlotKind.b, y)) (BL.form.word_of_op hop)
  all_goals exact congrArg (fun y => some (SlotKind.b, y)) (BG.form.word_of_op hop)

/-- Each word that decodes is the word of what it decodes to. -/
theorem encode_of_decSlot {k : SlotKind} {w : BitVec 64} {i : Instr} (hs : k = .s → w.toNat < 2 ^ 32) (h : decSlot k w = .ok i) :
    encode i = some (k, w) := by
  cases k with
  | s =>
    have hw : (w.extractLsb' 0 32).zeroExtend 64 = w := by
      have := hs rfl
      apply BitVec.eq_of_toNat_eq
      simp
      omega
    exact (encode_of_decS h).trans (by rw [hw])
  | v => exact encode_of_decV h
  | m => exact encode_of_decM h
  | l => exact encode_of_decL h
  | b => exact encode_of_decB h

end Sys2Proof
end

section
/-!
SUPPORT. Sidecar words (08 R285) and bundle headers (04 R100), from the instruction to its word and back.
-/

namespace Sys2Proof

open Machine
open BitVec (extractLsb'_append_eq_of_add_le extractLsb'_append_eq_of_le extractLsb'_append_extractLsb'_eq_extractLsb'
  extractLsb'_eq_self)

/-! ### Sidecar words (08 R285) -/

/-- A sidecar word by its fields: funct7 is zero (08 R285). -/
def xWord (maj : BitVec 7) (f3 : BitVec 3) (rd rs1 rs2 : BitVec 5) : BitVec 32 :=
  (0 : BitVec 7) ++ rs2 ++ rs1 ++ f3 ++ rd ++ maj

section
variable (maj : BitVec 7) (f3 : BitVec 3) (rd rs1 rs2 : BitVec 5)

theorem xWord_maj : (xWord maj f3 rd rs1 rs2).extractLsb' 0 7 = maj := by
  simp -index only [xWord, extractLsb'_append_eq_of_add_le, extractLsb'_eq_self, Nat.reduceAdd, Nat.le_refl]

theorem xWord_rd : (xWord maj f3 rd rs1 rs2).extractLsb' 7 5 = rd := by
  simp -index only [xWord, extractLsb'_append_eq_of_add_le, extractLsb'_append_eq_of_le, extractLsb'_eq_self,
    Nat.reduceAdd, Nat.reduceSub, Nat.le_refl]

theorem xWord_f3 : (xWord maj f3 rd rs1 rs2).extractLsb' 12 3 = f3 := by
  simp -index only [xWord, extractLsb'_append_eq_of_add_le, extractLsb'_append_eq_of_le, extractLsb'_eq_self,
    Nat.reduceLeDiff, Nat.reduceAdd, Nat.reduceSub, Nat.le_refl]

theorem xWord_rs1 : (xWord maj f3 rd rs1 rs2).extractLsb' 15 5 = rs1 := by
  simp -index only [xWord, extractLsb'_append_eq_of_add_le, extractLsb'_append_eq_of_le, extractLsb'_eq_self,
    Nat.reduceLeDiff, Nat.reduceAdd, Nat.reduceSub, Nat.le_refl]

theorem xWord_rs2 : (xWord maj f3 rd rs1 rs2).extractLsb' 20 5 = rs2 := by
  simp -index only [xWord, extractLsb'_append_eq_of_add_le, extractLsb'_append_eq_of_le, extractLsb'_eq_self,
    Nat.reduceLeDiff, Nat.reduceAdd, Nat.reduceSub, Nat.le_refl]

theorem xWord_f7 : (xWord maj f3 rd rs1 rs2).extractLsb' 25 7 = 0 := by
  simp -index only [xWord, extractLsb'_append_eq_of_le, extractLsb'_eq_self, Nat.reduceLeDiff, Nat.reduceSub]

end

/-- A word whose funct7 is zero is the word of its fields. -/
theorem xWord_of_fields {x : BitVec 32} (h : x.extractLsb' 25 7 = 0) :
    x = xWord (x.extractLsb' 0 7) (x.extractLsb' 12 3) (x.extractLsb' 7 5) (x.extractLsb' 15 5) (x.extractLsb' 20 5) := by
  rw [xWord, ← h]
  simp -index only [extractLsb'_append_extractLsb'_eq_extractLsb', extractLsb'_eq_self, Nat.reduceAdd]

theorem bitVec3_cases : ∀ f : BitVec 3, f = 0 ∨ f = 1 ∨ f = 2 ∨ f = 3 ∨ f = 4 ∨ f = 5 ∨ f = 6 ∨ f = 7 := by decide

/-- An instruction whose word has fields that decode to it is what its word decodes to. -/
theorem decX_of_fields {i : Instr} {x : BitVec 32} (maj : BitVec 7) (f3 : BitVec 3) (rd rs1 rs2 : BitVec 5)
    (hw : some (xWord maj f3 rd rs1 rs2) = some x)
    (hi : decX (xWord maj f3 rd rs1 rs2) = some i := by
      simp only [decX, xWord_f7, xWord_maj, xWord_f3, xWord_rd, xWord_rs1, xWord_rs2]; rfl) : decX x = some i :=
  Option.some.inj hw ▸ hi

/-- The word of a sidecar instruction decodes to it. -/
theorem decX_of_encX {i : Instr} {x : BitVec 32} (h : encX i = some x) : decX x = some i := by
  cases i with
  | xSpld rd rs1 => exact decX_of_fields 0x0B 0 rd rs1 0 h
  | xSpst rs2 rs1 => exact decX_of_fields 0x0B 1 0 rs1 rs2 h
  | xSpldfe rd rs1 => exact decX_of_fields 0x0B 2 rd rs1 0 h
  | xSpste rs2 rs1 => exact decX_of_fields 0x0B 3 0 rs1 rs2 h
  | xGld rd rs1 => exact decX_of_fields 0x0B 4 rd rs1 0 h
  | xGst rs2 rs1 => exact decX_of_fields 0x0B 5 0 rs1 rs2 h
  | xTagwait rs1 => exact decX_of_fields 0x0B 6 0 rs1 0 h
  | xRdd rd rs1 => exact decX_of_fields 0x0B 7 rd rs1 0 h
  | xCopy rs1 => exact decX_of_fields 0x2B 0 0 rs1 0 h
  | xCbcfg rs2 rs1 => exact decX_of_fields 0x2B 1 0 rs1 rs2 h
  | xCbwait rs2 rs1 => exact decX_of_fields 0x2B 2 0 rs1 rs2 h
  | xCbresv rs2 rs1 => exact decX_of_fields 0x2B 3 0 rs1 rs2 h
  | xCbpop rs2 rs1 => exact decX_of_fields 0x2B 4 0 rs1 rs2 h
  | xCbpush rs2 rs1 => exact decX_of_fields 0x2B 5 0 rs1 rs2 h
  | _ => cases h

/-- A word that decodes to a sidecar instruction is its word. -/
theorem encX_of_decX {x : BitVec 32} {i : Instr} (h : decX x = some i) : encX i = some x := by
  have h7 : x.extractLsb' 25 7 = 0 := by
    by_contra h7
    rw [decX, if_pos h7] at h
    cases h
  rw [xWord_of_fields h7] at h ⊢
  generalize x.extractLsb' 0 7 = maj, x.extractLsb' 12 3 = f3, x.extractLsb' 7 5 = rd, x.extractLsb' 15 5 = rs1,
    x.extractLsb' 20 5 = rs2 at h ⊢
  simp only [decX, xWord_maj, xWord_rd, xWord_f3, xWord_rs1, xWord_rs2, xWord_f7, ne_eq, not_true_eq_false, if_false] at h
  split at h
  case isTrue hm =>
    obtain rfl : maj = 0x0B := BitVec.eq_of_toNat_eq hm
    rcases bitVec3_cases f3 with rfl | rfl | rfl | rfl | rfl | rfl | rfl | rfl <;>
      simp only [BitVec.reduceToNat, Option.ite_none_right_eq_some, Option.some.injEq] at h
    case inr.inr.inr.inr.inr.inr.inl => obtain ⟨⟨rfl, rfl⟩, rfl⟩ := h; rfl
    all_goals obtain ⟨rfl, rfl⟩ := h; rfl
  case isFalse =>
    obtain ⟨hm, hx⟩ := Option.ite_none_right_eq_some.mp h
    obtain rfl : maj = 0x2B := BitVec.eq_of_toNat_eq hm
    rcases bitVec3_cases f3 with rfl | rfl | rfl | rfl | rfl | rfl | rfl | rfl <;>
      simp only [BitVec.reduceToNat, Option.ite_none_right_eq_some, Option.some.injEq, reduceCtorEq] at hx
    case inl => obtain ⟨⟨rfl, rfl⟩, rfl⟩ := hx; rfl
    all_goals obtain ⟨rfl, rfl⟩ := hx; rfl

theorem decSide_of_decX {x : BitVec 32} {i : Instr} (h : decX x = some i) : decSide x = i := by
  rw [decSide, h]

/-! ### Headers (04 R100) -/

theorem Header.ofWord_toWord (h : Header) : Header.ofWord h.toWord = h := by
  simp -index only [Header.ofWord, Header.toWord, extractLsb'_append_eq_of_add_le, extractLsb'_append_eq_of_le,
    extractLsb'_eq_self, Nat.reduceLeDiff, Nat.reduceAdd, Nat.reduceSub, Nat.le_refl]

theorem Header.toWord_ofWord (x : BitVec 32) : (Header.ofWord x).toWord = x := by
  simp -index only [Header.ofWord, Header.toWord, extractLsb'_append_extractLsb'_eq_extractLsb', extractLsb'_eq_self,
    Nat.reduceAdd]

end Sys2Proof
end

section
open Sys2Proof Sys2Proof.Machine

/-- Settles O54: by the slot kind and the form of the operation, in which a word and its fields determine each other. -/
theorem decodeInvertsEncode : Obligations.DecodeInvertsEncode :=
  ⟨fun _ _ _ => decSlot_of_encode, fun _ _ _ => encode_of_decSlot, fun _ _ h => ⟨decX_of_encX h, decSide_of_decX (decX_of_encX h)⟩,
    fun _ _ => encX_of_decX, Header.ofWord_toWord, Header.toWord_ofWord⟩

/-- Settles O55: each word is decoded. -/
theorem workedWordsDecode : Obligations.WorkedWordsDecode := by
  unfold Obligations.WorkedWordsDecode
  decide
end

section
/-!
SUPPORT. Fetching (04 R102, R103): a fetch leaves the contexts as they were, and a bundle's slots are those its header marks.
-/

namespace Sys2Proof.Machine

namespace State

variable (s : State)

/-! ### A fetch leaves the contexts -/

theorem walked_ctxs (sl : Nat) (x : Walked) : (s.walked sl x).ctxs = s.ctxs := by
  have fills (l : List (Nat × Nat)) (s : State) : (l.foldl (fun s x => s.fill x.1 x.2) s).ctxs = s.ctxs := by
    induction l generalizing s with
    | nil => rfl
    | cons x l ih => exact (ih _).trans rfl
  unfold State.walked
  split <;> exact fills _ _

theorem lookup_ctxs (core p asid va : Nat) : (s.lookup core p asid va).1.ctxs = s.ctxs := by
  grind [State.lookup, State.onCore, walked_ctxs]

theorem xlate_ctxs (core p asid : Nat) (sup : Bool) (va : Nat) (want : Want) : (s.xlate core p asid sup va want).1.ctxs = s.ctxs := by
  grind [State.xlate, lookup_ctxs]

theorem xlateCtx_ctxs (k : Nat) (sup : Bool) (va : Nat) (want : Want) : (s.xlateCtx k sup va want).1.ctxs = s.ctxs := by
  grind [State.xlateCtx, xlate_ctxs]

theorem fetch4_ctxs (k : Nat) (va : W64) : (s.fetch4 k va).1.ctxs = s.ctxs := by
  grind [State.fetch4, xlateCtx_ctxs]

theorem fetchSlots_ctxs (k : Nat) (base : W64) (l : List (Nat × Nat)) : (s.fetchSlots k base l).1.ctxs = s.ctxs := by
  induction l generalizing s with
  | nil => rfl
  | cons x l ih => grind [State.fetchSlots, fetch4_ctxs]

theorem fetchBundle_ctxs (k : Nat) (a : W64) : (s.fetchBundle k a).1.ctxs = s.ctxs := by
  grind [State.fetchBundle, fetch4_ctxs, fetchSlots_ctxs]

theorem fetchPacket_ctxs (k : Nat) (a : W64) : (s.fetchPacket k a).1.ctxs = s.ctxs := by
  grind [State.fetchPacket, fetchBundle_ctxs]

/-- A fetch leaves each context as it was. -/
theorem ctxAt_of_fetchPacket {s s1 : State} {k : Nat} {a : W64} {r : Fetch (List Bundle)} (h : s.fetchPacket k a = (s1, r)) (j : Nat) :
    s1.ctxAt j = s.ctxAt j := by
  have hc := s.fetchPacket_ctxs k a
  rw [h] at hc
  rw [State.ctxAt, State.ctxAt, ← hc]

end State

/-! ### The slots of a bundle -/

/-- A header that marks one position has that slot, behind the header (04 R101). -/
theorem Header.slots_one {h : Header} {p : Nat} (hp : p < 9) (hk : h.kind = 0) (hpres : h.pres = BitVec.ofNat 9 (2 ^ p)) :
    h.slots = ([(p, 4)], 4 + slotBytes p) := by
  rw [Header.slots, if_pos hk, hpres]
  clear hpres
  revert p
  decide

/-- A fetched bundle that is no normal one has no slots (04 R102). -/
theorem slots_of_fetchBundle {s s1 : State} {k : Nat} {a : W64} {b : Bundle} (h : s.fetchBundle k a = (s1, .ok b))
    (hk : b.hdr.kind ≠ 0) : b.slots = [] := by
  revert h
  unfold State.fetchBundle
  split
  case h_3 s2 x heq =>
    intro h
    have hb : b.hdr = Header.ofWord x := by grind
    have hs : (Header.ofWord x).slots.1 = [] := by rw [← hb, Header.slots, if_neg hk]
    simp only [hs, State.fetchSlots, Prod.mk.injEq, Fetch.ok.injEq] at h
    rw [← h.2]
  all_goals exact fun h => nomatch h

/-- A packet that begins with a bundle that is no normal one is that bundle, and has no slots (04 R103). -/
theorem ops_of_fetchPacket {s s1 : State} {k : Nat} {a : W64} {b : Bundle} {l : List Bundle} (h : s.fetchPacket k a = (s1, .ok l))
    (hb : l.head? = some b) (hk : b.hdr.kind ≠ 0) : l.flatMap Bundle.ops = [] := by
  revert h
  unfold State.fetchPacket
  split
  case h_3 s2 x heq =>
    have hx (hbx : b = x) : b.slots = [] := slots_of_fetchBundle (hbx ▸ heq) hk
    split
    · intro h
      obtain rfl : [x] = l := by grind
      obtain rfl : x = b := by grind
      simp [Bundle.ops, hx rfl]
    · grind
  all_goals exact fun h => nomatch h

theorem ne_nil_of_fetchPacket {s s1 : State} {k : Nat} {a : W64} {l : List Bundle} (h : s.fetchPacket k a = (s1, .ok l)) : l ≠ [] := by
  grind [State.fetchPacket]

/-- The bundle of one slot that the header and the words behind it make (04 R101). -/
theorem fetchBundle_one {s s1 s2 s3 : State} {k p : Nat} {pc : W64} {h lo hi : BitVec 32} (hp : p < 9)
    (hf : s.fetch4 k pc = (s1, .ok h)) (hlo : s1.fetch4 k (pc + 4) = (s2, .ok lo))
    (hhi : if p < 2 then s3 = s2 ∧ hi = 0 else s2.fetch4 k (pc + 8) = (s3, .ok hi))
    (hk : (Header.ofWord h).kind = 0) (hpres : (Header.ofWord h).pres = BitVec.ofNat 9 (2 ^ p)) :
    s.fetchBundle k pc = (s3, .ok { addr := pc, hdr := Header.ofWord h, slots := [(p, hi ++ lo)], len := 4 + slotBytes p }) := by
  have h4 : (w64 4) = 4 := rfl
  have h8 : (w64 (4 + 4)) = 8 := rfl
  unfold State.fetchBundle
  simp only [hf, Header.slots_one hp hk hpres, State.fetchSlots, h4, h8, hlo]
  by_cases h2 : p < 2
  · rw [if_pos h2] at hhi
    obtain ⟨rfl, rfl⟩ := hhi
    simp only [h2, if_true]
  · rw [if_neg h2] at hhi
    simp only [h2, if_false, hhi]

theorem fetchPacket_one {s s1 : State} {k : Nat} {a : W64} {b : Bundle} (h : s.fetchBundle k a = (s1, .ok b)) (hs : b.hdr.stop = 1) :
    s.fetchPacket k a = (s1, .ok [b]) := by
  simp only [State.fetchPacket, h, hs, true_or, if_true]

/-! ### A packet of one slot is legal (04 R129) -/

theorem headerReason_one {h : Header} (hr : h.rsv = 0) (hk : h.kind = 0) (hst : h.stop = 1) (hsk : h.stky = 0) :
    headerReason false 0 h = none := by
  simp [headerReason, hr, hk, hst, hsk, viol, leastReason, bit]

/-- A packet of one legal slot, with nothing sticky, is legal. -/
theorem packetIllegal_one {b : Bundle} {p : Nat} {x : BitVec 64} {i : Instr} (latched : Nat → Option Instr) (hslots : b.slots = [(p, x)])
    (hr : b.hdr.rsv = 0) (hk : b.hdr.kind = 0) (hst : b.hdr.stop = 1) (hsk : b.hdr.stky = 0) (hdec : decSlot (kindOf p) x = .ok i)
    (hi : slotIllegal (btOf [b]) (b.hdr.rep != 0) b.len i = none) : packetIllegal latched [b] = none := by
  have hops : b.ops = [(p, .ok i)] := by simp [Bundle.ops, hslots, hdec]
  simp only [packetIllegal, List.zipIdx_cons, List.zipIdx_nil, List.findSome?_cons, List.findSome?_nil, List.length_singleton,
    Nat.reduceBEq, headerReason_one hr hk hst hsk]
  rw [List.findSome?_eq_none_iff.mpr]
  intro q _
  by_cases hq : p = q
  · simpa [hops, hq, slotReason, Dec.get?, hk] using hi
  · simp [hops, hq, hsk, bit]

/-! ### The plan of a core's turn (log entry 3) -/

/-- A core whose turn it is, with no context to retire and no idle run under way, issues from its current context. -/
theorem plan_issue {s s0 : State} {core : Nat} {rest : List Move} (hag : s.agenda = .issue core :: rest)
    (hs0 : s0 = { s with agenda := rest, core := core }) (hexit : ∀ i, i < 4 → s0.exitDone (4 * core + i) = false)
    (hcan : s0.canIssue s0.ck = true) (hidle : s0.me.sq.idle = 0) : s.plan = s0.issueHere := by
  subst hs0
  have hfind : (upto 4).find? (fun i => State.exitDone { s with agenda := rest, core := core } (4 * core + i)) = none :=
    List.find?_eq_none.mpr fun i hi => by simp [hexit i (List.mem_range.mp hi)]
  simp only [State.plan, hag, State.issueCore, hfind, hcan, hidle, if_true]

theorem step_issue {s s0 : State} {core : Nat} {rest : List Move} (hag : s.agenda = .issue core :: rest)
    (hs0 : s0 = { s with agenda := rest, core := core }) (hexit : ∀ i, i < 4 → s0.exitDone (4 * core + i) = false)
    (hcan : s0.canIssue s0.ck = true) (hidle : s0.me.sq.idle = 0) :
    step s = match s0.issueHere with | .run i t => exec i t | .out o => o := by
  rw [step, plan_issue hag hs0 hexit hcan hidle] <;> rfl

/-! ### What a core issues from its current context -/

section
variable {s s1 : State} {l : List Bundle}

/-- No asynchronous trap is due at the boundary of a packet (15 R385). -/
theorem async_not_due {c : Ctx} (h : c.r.sup = true ∨ c.sys.asyncs = []) :
    (!c.r.sup && !c.sys.asyncs.isEmpty && c.sq.replay.isEmpty) = false := by
  rcases h with h | h <;> simp [h]

theorem issueHere_fault {va : W64} {e : XErr} (hasync : s.me.r.sup = true ∨ s.me.sys.asyncs = [])
    (hf : s.fetchPacket s.ck s.me.r.pc = (s1, .fault va e)) : s.issueHere = .done (s1.fetchFault s.ck va e) := by
  simp only [State.issueHere, async_not_due hasync, Bool.false_eq_true, if_false, hf]

/-- A legal packet of one slot, with nothing sticky, is that slot's operation. -/
theorem issueHere_one {b : Bundle} {p : Nat} {x : BitVec 64} {i : Instr} (hasync : s.me.r.sup = true ∨ s.me.sys.asyncs = [])
    (hrep : s.me.sq.rep = 1) (hreplay : s.me.sq.replay = []) (hf : s.fetchPacket s.ck s.me.r.pc = (s1, .ok [b]))
    (hlegal : packetIllegal (fun p => (s.me.latch p).map (fun x => x.instr)) [b] = none) (hk : b.hdr.kind = 0) (hsk : b.hdr.stky = 0)
    (hslots : b.slots = [(p, x)]) (hdec : decSlot (kindOf p) x = .ok i) :
    s.issueHere = .run i { s1 with issue := { issueOf s.me [b] with pos := p } } := by
  have hops : b.ops = [(p, .ok i)] := by simp [Bundle.ops, hslots, hdec]
  have hsticky : (issueOf s.me [b]).sticky = [] := by simp [issueOf, hsk, bit]
  unfold State.issueHere
  simp only [async_not_due hasync, Bool.false_eq_true, if_false, hf]
  simp [hreplay, hrep, hlegal, hk, hops, hsticky, Dec.get?]

/-- A legal packet of several slots runs their operations together. -/
theorem issueHere_many {ops : List (Nat × Instr)} (hasync : s.me.r.sup = true ∨ s.me.sys.asyncs = [])
    (hrep : s.me.sq.rep = 1) (hreplay : s.me.sq.replay = []) (hf : s.fetchPacket s.ck s.me.r.pc = (s1, .ok l))
    (hlegal : packetIllegal (fun p => (s.me.latch p).map (fun x => x.instr)) l = none)
    (hops : l.flatMap Bundle.ops = ops.map (fun e => (e.1, .ok e.2))) (hlen : 2 ≤ ops.length) {t : State}
    (ht : t = { s1 with issue := issueOf s.me l }) :
    s.issueHere = .done (t.runPacket (byPos (duesOf (ops.map (fun e => (e.1, e.2, .fresh))) ++ t.stickyDues t.issue.sticky))) := by
  subst ht
  obtain ⟨b, hb⟩ : ∃ b, l.head? = some b := ⟨_, List.head?_eq_some_head (ne_nil_of_fetchPacket hf)⟩
  have hne : b.hdr.kind ≠ 1 := by
    intro hk
    have := hops.symm.trans (ops_of_fetchPacket hf hb (by simp [hk]))
    simp only [List.map_eq_nil_iff] at this
    simp [this] at hlen
  have hall : (l.flatMap Bundle.ops).filterMap (fun e => e.2.get?.map (fun i => (e.1, i))) = ops := by
    rw [hops]
    simp [List.filterMap_map, Dec.get?]
  obtain ⟨e1, e2, es, rfl⟩ : ∃ e1 e2 es, ops = e1 :: e2 :: es := by
    rcases ops with _ | ⟨e1, _ | ⟨e2, es⟩⟩
    · simp at hlen
    · simp at hlen
    · exact ⟨e1, e2, es, rfl⟩
  unfold State.issueHere
  simp only [async_not_due hasync, Bool.false_eq_true, if_false, hf]
  simp only [hreplay, List.isEmpty_nil, Bool.not_true, Bool.false_eq_true, if_false, hrep, if_true, hlegal, hb, hne, Nat.lt_irrefl, hall]

end

/-! ### A fetch that faults -/

/-- A packet that owes no replay traps at a fetch that is denied, or that is absent in a guess (15 R381). -/
theorem fetchFault_traps {s1 : State} {k : Nat} {va : W64} {e : XErr} {c : Ctx} (hc : s1.ctxAt k = c) (hreplay : c.sq.replay = [])
    (he : (fetchTrap va e).code ≠ 0x20 ∨ (s1.guessOf c).isSome = true) (hw : ∀ pa, e ≠ .walkError pa) :
    s1.fetchFault k va e = s1.takeTrap k { trap := fetchTrap va e, sepc := c.r.pc, srepl := 0, replay := [] } := by
  subst hc
  have hcls : (fetchTrap va e).cls = .issue := by
    cases e with
    | walkError pa => exact absurd rfl (hw pa)
    | _ => rfl
  have hheld : (decide ((fetchTrap va e).code = 0x20) && (s1.guessOf (s1.ctxAt k)).isNone) = false := by
    rcases he with h | h
    · simp [h]
    · simp [h]
  unfold State.fetchFault
  cases e with
  | walkError pa => exact absurd rfl (hw pa)
  | _ => simp [hheld, hcls, hreplay, Ctx.owed]

theorem fetchFault_walkError {s1 : State} {k : Nat} {va : W64} {pa : Nat} {c : Ctx} (hc : s1.ctxAt k = c) (hreplay : c.sq.replay = []) :
    s1.fetchFault k va (.walkError pa) = (s1.logPhys c pa).takeTrap k
      { trap := { cls := .slot, code := 0x22, detail := BitVec.ofNat 64 pa }, sepc := c.r.pc
        srepl := sreplOf c.sq.rep ((List.range 9).filter (fun p => c.sq.perf.testBit p)), replay := [] } := by
  subst hc
  simp only [State.fetchFault, fetchTrap, hreplay]
  rfl

/-! ### Sidecars and events -/

/-- A word that lies inside the instruction store is the sidecar's next instruction (08 R283). -/
theorem sideInstr_of_fits {s : State} {n : Nat} (h : (s.sideAt n).pc.toNat + 4 ≤ 0x10000) :
    s.sideInstr n = some (decSide (s.sideAt n).fetch) := by
  have hlen : (if (s.sideAt n).fetch.extractLsb' 0 2 = 3 then 4 else 2) ≤ 4 := by split <;> decide
  unfold State.sideInstr
  simp only
  rw [if_neg (by omega)]

/-- A sidecar that can run, with no error in the word at its pc, runs the instruction there. -/
theorem sidePlan_run {s t : State} {n : Nat} (ht : t = { s with side := n }) (hcan : t.sideCan n = true)
    (hpc : (t.sideAt n).pc.toNat + 4 ≤ 0x10000) (hbad : storeBad (t.sideAt n).ibad (t.sideAt n).pc.toNat 4 = false) :
    s.sidePlan n = .run (decSide (t.sideAt n).fetch) t := by
  subst ht
  simp only [State.sidePlan, hcan, hbad, sideInstr_of_fits hpc, Bool.not_true, Bool.false_eq_true, if_false]

theorem fetch4_plain {s s1 : State} {k : Nat} {va : W64} {p : Phys} (h : s.xlateCtx k (s.ctxAt k).r.sup va.toNat .x = (s1, .ok p))
    (hbad : s1.bad p.pa = false) (hecw : p.ecw = false) :
    s.fetch4 k va = (s1, .ok (BitVec.ofNat 32 (leNat (s1.phys p.pa p.key 4)))) := by
  simp [State.fetch4, h, hbad, hecw]

end Sys2Proof.Machine
end

section
open Sys2Proof Sys2Proof.Machine

/-- Settles O56: by the head of the agenda, and for a core's turn by what the fetch of its packet answers. -/
theorem stepRunsTheDecodedInstruction : Obligations.StepRunsTheDecodedInstruction := by
  unfold Obligations.StepRunsTheDecodedInstruction
  refine ⟨?_, ?_, ?_, ?_⟩
  · intro core rest s s0 hag hs0 hexit hcan hidle hasync hreplay
    have hstep := step_issue hag hs0 hexit hcan hidle
    refine ⟨?_, ?_, ?_, ?_⟩
    · intro s1 h s2 lo s3 hi p i b hrep hf hp hlo hhi hrsv hkind hstop hstky hpres hdec hb hlegal
      subst hb
      have hpacket := fetchPacket_one (fetchBundle_one hp hf hlo hhi hkind hpres) hstop
      have hok := packetIllegal_one (fun p => (s0.me.latch p).map (fun x => x.instr)) rfl hrsv hkind hstop hstky hdec hlegal
      rw [hstep, issueHere_one hasync hrep hreplay hpacket hok hkind hstky rfl hdec]
    · intro s1 l ops hrep hf hlegal hops hlen
      exact ⟨_, rfl, by rw [hstep, issueHere_many hasync hrep hreplay hf hlegal hops hlen rfl]; rfl⟩
    · intro s1 va e hf he hw
      rw [hstep, issueHere_fault hasync hf, fetchFault_traps (State.ctxAt_of_fetchPacket hf _) hreplay he hw]
      rfl
    · intro s1 va pa hf
      rw [hstep, issueHere_fault hasync hf, fetchFault_walkError (State.ctxAt_of_fetchPacket hf _) hreplay]
      rfl
  · intro s k va s1 p h hbad hecw
    exact fetch4_plain h hbad hecw
  · intro core which rest s n i s1 hag hs1 hon hcan hpc hbad hi
    subst hs1 hi
    simp only [step, State.plan, hag, hon, sidePlan_run (s := { s with agenda := rest }) rfl hcan hpc hbad]
    rfl
  · intro i rest s hag
    simp only [step, State.plan, hag]
end

section
/-!
SUPPORT. A context whose restored image left a shadow latch toward a condition bit (15 R382, R449), at an idle run
(04 R111).  The condition bits are names that every packet stalls for (04 R105), so the idle run delivers the latch.
-/

namespace Sys2Proof.Machine

/-- A live context in user mode at an idle run, with a shadow latch that holds 1 for condition bit 1. -/
def State.idleRunAtLatch : State :=
  { (State.reset.withContext [] {} (.issue 0)).onMe (fun c =>
      { c with sys := { c.sys with shadow := [{ dest := .c 1, value := 1, offset := 5 }] } }) with
    agenda := [], issue := { pc := 0x1000000000000, next := 0x1000000000004, starts := [0x1000000000000] } }

theorem State.idleRunAtLatch_ready :
    State.idleRunAtLatch.canIssue State.idleRunAtLatch.ck = true ∧ State.idleRunAtLatch.me.mx.chg = none ∧
      State.idleRunAtLatch.issue.drop = none ∧ State.idleRunAtLatch.endsPlain = true := by decide

/-- The condition bits before and after the idle run: the latch has been delivered. -/
theorem State.execIdleRun_delivers_latch :
    State.idleRunAtLatch.me.r.c = 0 ∧
      ∀ t, exec (.idleRun 0) State.idleRunAtLatch = .next t → (t.ctxAt State.idleRunAtLatch.ck).r.c = 2 := by
  have hrun : ∃ t, exec (.idleRun 0) State.idleRunAtLatch = .next t ∧ (t.ctxAt State.idleRunAtLatch.ck).r.c = 2 :=
    ⟨_, rfl, by decide +kernel⟩
  obtain ⟨t', ht', hc⟩ := hrun
  refine ⟨by decide, fun t ht => ?_⟩
  rw [ht'] at ht
  cases ht
  exact hc

end Sys2Proof.Machine
end

section
open Sys2Proof Sys2Proof.Machine

/-- Refutes O43: its first clause says that an idle run leaves every register but the pc as it was, with no premise that no
result is in flight.  A context in user mode whose image was restored with a shadow latch toward c1 (15 R382, R386, R449) stalls
at any packet until the latch has delivered (04 R105), so that the idle run changes c1. -/
theorem not_idleRunsStickySlotsAndContexts : ¬ Obligations.IdleRunsStickySlotsAndContexts := by
  unfold Obligations.IdleRunsStickySlotsAndContexts
  rintro ⟨⟨idleRun_quiet, -⟩, -⟩
  obtain ⟨hissue, hchg, hdrop, hplain⟩ := State.idleRunAtLatch_ready
  obtain ⟨hbefore, hafter⟩ := State.execIdleRun_delivers_latch
  obtain ⟨t, ht, ⟨⟨-, hregs⟩, -⟩, -⟩ := idleRun_quiet 0 _ hissue hchg hdrop hplain
  have hsame := congrArg Regs.c hregs
  simp only [Regs.noPc, hbefore, hafter t ht] at hsame
  exact absurd hsame (by decide)

end

section
/-!
SUPPORT. Entering a trap (15 R382): while the results in flight drain to shadow latches, the registers of the context
and its trap vector stay as they were, since no result is delivered; so the handler starts with the registers of the
interrupted code.
-/

namespace Sys2Proof.Machine

/-- A change of every listed context that leaves registers and system registers leaves those of each number. -/
theorem Ctx.map_entry (g : Nat × Ctx → Nat × Ctx) (hg : ∀ e, (g e).1 = e.1 ∧ (g e).2.r = e.2.r ∧ (g e).2.sys = e.2.sys)
    (m : SMap Ctx) (i : Nat) : (mget {} (m.map g) i).r = (mget {} m i).r ∧ (mget {} (m.map g) i).sys = (mget {} m i).sys := by
  induction m with
  | nil => exact ⟨rfl, rfl⟩
  | cons x m ih =>
    obtain ⟨hkey, hr, hsys⟩ := hg x
    simp only [mget, List.map_cons, mfind, hkey] at ih ⊢
    split
    · exact ⟨hr, hsys⟩
    · exact ih

/-- A store to the accumulator window changes tiles. -/
theorem Ctx.accStores_entry (l : List (Byte × Nat)) (o : Nat) (c : Ctx) :
    (l.foldl (fun c e => c.accStore (o + e.2) e.1) c).r = c.r ∧ (l.foldl (fun c e => c.accStore (o + e.2) e.1) c).sys = c.sys := by
  induction l generalizing c with
  | nil => exact ⟨rfl, rfl⟩
  | cons x l ih => exact ih _

/-- A new shadow latch leaves every register. -/
theorem Ctx.addShadow_entry (c : Ctx) (d : Dest) (v off : Nat) :
    (c.addShadow d v off).r = c.r ∧ (c.addShadow d v off).sys.stvec = c.sys.stvec := by
  unfold Ctx.addShadow
  split
  · dsimp only
    split <;> exact ⟨rfl, rfl⟩
  · exact ⟨rfl, rfl⟩

/-! ### What an access leaves of the contexts -/

namespace State

variable (s : State)

theorem rekey_ctxs (line key : Nat) : (s.rekey line key).ctxs = s.ctxs := by
  unfold State.rekey
  split <;> rfl

theorem storeLine_ctxs (pa key : Nat) (bs : List Byte) : (s.storeLine pa key bs).ctxs = s.ctxs := s.rekey_ctxs _ _

theorem storeBytes_ctxs (key f pa : Nat) (bs : List Byte) : (s.storeBytes key f pa bs).ctxs = s.ctxs := by
  induction f generalizing s pa bs with
  | zero => rfl
  | succ f ih => grind [State.storeBytes, storeLine_ctxs]

theorem agentStore_ctxs (c : Ctx) (pa key : Nat) (bs : List Byte) : (s.agentStore c pa key bs).ctxs = s.ctxs := by
  grind [State.agentStore, State.physStore, storeBytes_ctxs, onDealer_ctxs]

theorem noteRead_ctxs (c : Ctx) (va pa n : Nat) : (s.noteRead c va pa n).ctxs = s.ctxs := by
  grind [State.noteRead, onDealer_ctxs]

theorem agentNote_ctxs (c : Ctx) (key d f pa n : Nat) : (s.agentNote c key d f pa n).ctxs = s.ctxs := by
  induction f generalizing s pa n with
  | zero => rfl
  | succ f ih => grind [State.agentNote, noteRead_ctxs, fill_ctxs]

theorem logError_ctxs (place unit_ : Nat) (addr : W64) : (s.logError place unit_ addr).ctxs = s.ctxs := by
  grind [State.logError]

theorem logAccess_ctxs (k : Nat) (a : Access) (off : Nat) : (s.logAccess k a off).ctxs = s.ctxs := by
  grind [State.logAccess, State.logPhys, State.logLine, State.logShare, State.logAcc, State.takeFree, logError_ctxs]

theorem ecwNote_ctxs (c : Ctx) (frame key off va n : Nat) : (s.ecwNote c frame key off va n).ctxs = s.ctxs := by
  unfold State.ecwNote
  split
  · rfl
  · exact agentNote_ctxs _ _ _ _ _ _ _

theorem locRead_ctxs (k : Nat) (a : Access) : (s.locRead k a).st.ctxs = s.ctxs := by
  grind [State.locRead, ecwNote_ctxs, agentNote_ctxs]

theorem makeRoom_ctxs (r line : Nat) : ((s.makeRoom r line).getD s).ctxs = s.ctxs := by
  unfold State.makeRoom
  dsimp only
  split
  · rfl
  · cases lowestReclaimable (s.reamAt r).floor (s.quire r line) <;> rfl

/-! ### The registers and the trap vector -/

/-- What a trap entry takes over from a context: its registers, and its trap vector. -/
def entryOf (k : Nat) : Regs × W64 := ((s.ctxAt k).r, (s.ctxAt k).sys.stvec)

variable {s} {t : State} {k : Nat}

theorem entryOf_congr (h : t.ctxs = s.ctxs) : t.entryOf k = s.entryOf k := by
  unfold State.entryOf State.ctxAt
  rw [h]

theorem entryOf_onCtx {j : Nat} {f : Ctx → Ctx} (h : ∀ c, (f c).r = c.r ∧ (f c).sys.stvec = c.sys.stvec) :
    (s.onCtx j f).entryOf k = s.entryOf k := by
  unfold State.entryOf
  by_cases hk : k = j
  · subst hk
    rw [ctxAt_onCtx, (h _).1, (h _).2]
  · rw [ctxAt_onCtx_ne _ _ _ _ hk]

theorem entryOf_map {g : Nat × Ctx → Nat × Ctx} (hg : ∀ e, (g e).1 = e.1 ∧ (g e).2.r = e.2.r ∧ (g e).2.sys = e.2.sys) :
    State.entryOf { s with ctxs := s.ctxs.map g } k = s.entryOf k := by
  obtain ⟨hr, hsys⟩ := Ctx.map_entry g hg s.ctxs k
  exact Prod.ext hr (congrArg Sys.stvec hsys)

/-- A waiting version changes no more than the sequencing of the contexts that wait for it. -/
theorem entryOf_wakeVer (r line v : Nat) : (s.wakeVer r line v).entryOf k = s.entryOf k := by
  unfold State.wakeVer
  dsimp only
  split
  · exact entryOf_map fun e => ⟨rfl, rfl, rfl⟩
  · rfl

theorem entryOf_makeVersion (r line key v off : Nat) (bs : List Byte) :
    (s.makeVersion r line key v off bs).entryOf k = s.entryOf k := by
  unfold State.makeVersion
  rw [entryOf_wakeVer]
  exact entryOf_congr (storeLine_ctxs _ _ _ _)

theorem entryOf_locWrite (j : Nat) (a : Access) (bs : List Byte) : (s.locWrite j a bs).entryOf k = s.entryOf k := by
  unfold State.locWrite
  split
  · rfl
  · refine entryOf_congr ?_
    dsimp only
    split
    · exact agentStore_ctxs _ _ _ _ _
    · exact agentStore_ctxs _ _ _ _ _
  · rfl
  · refine entryOf_onCtx fun c => ?_
    obtain ⟨hr, hsys⟩ := Ctx.accStores_entry bs.zipIdx _ c
    exact ⟨hr, by rw [hsys]⟩

/-- A performed access changes no register but through its result, which is not part of its effect. -/
theorem entryOf_effect (j : Nat) (a : Access) : (s.effect j a).1.entryOf k = s.entryOf k := by
  have hread : (s.locRead j a).st.entryOf k = s.entryOf k := entryOf_congr (s.locRead_ctxs j a)
  have hlog (off : Nat) : (s.logAccess j a off).entryOf k = s.entryOf k := entryOf_congr (s.logAccess_ctxs j a off)
  have hnote (c : Ctx) (va pa n : Nat) : (s.noteRead c va pa n).entryOf k = s.entryOf k := entryOf_congr (s.noteRead_ctxs c va pa n)
  cases hk : a.kind with
  | ld =>
    simp only [State.effect, hk]
    split
    · exact hlog _
    · exact hread
  | st => simp only [State.effect, hk, entryOf_locWrite]
  | amo op x cmp =>
    simp only [State.effect, hk]
    split
    · exact hlog _
    · dsimp only
      split
      · rw [entryOf_locWrite, hread]
      · exact hread
  | red op et =>
    simp only [State.effect, hk]
    split
    · refine (entryOf_onCtx fun c => ?_).trans (hlog _)
      split <;> exact ⟨rfl, rfl⟩
    · rw [entryOf_locWrite, hread]
  | ringTags sl n full g => simp only [State.effect, hk]; rfl
  | tag full => simp only [State.effect, hk]; split <;> rfl
  | verld v => simp only [State.effect, hk]; grind
  | verle v => simp only [State.effect, hk]; grind
  | vernew => simp only [State.effect, hk]; grind
  | verst v =>
    simp only [State.effect, hk]
    have hroom (r line : Nat) : ((s.makeRoom r line).getD s).entryOf k = s.entryOf k := entryOf_congr (s.makeRoom_ctxs r line)
    have hstore (u : State) (c : Ctx) (p key : Nat) (bs : List Byte) : (u.agentStore c p key bs).entryOf k = u.entryOf k :=
      entryOf_congr (u.agentStore_ctxs c p key bs)
    have hdealer (u : State) (q : Nat) (f : Dealer → Dealer) : (u.onDealer q f).entryOf k = u.entryOf k := rfl
    grind [entryOf_makeVersion]
  | verfl v =>
    simp only [State.effect, hk]
    split
    · split <;> rfl
    · rfl

/-! ### Results in flight -/

/-- An access that leaves flight takes a trap to the system registers at most. -/
theorem entryOf_retire {j : Nat} (a : Access) (f : Ctx → Sys) (hf : ∀ c, (f c).stvec = c.sys.stvec) :
    (s.onCtx j (fun c => { c with mem := c.mem.retire a, sys := f c })).entryOf k = s.entryOf k :=
  entryOf_onCtx fun c => ⟨rfl, hf c⟩

/-- An access whose result names no register delivers none. -/
theorem entryOf_perform {j : Nat} {a : Access} (h : a.dest.isReg = false) : (s.perform j a).entryOf k = s.entryOf k := by
  have heff := entryOf_effect (s := s) (k := k) j a
  have hdel (u : State) (w v : Nat) : (u.deliver j a.dest w v).entryOf k = u.entryOf k := by
    cases hd : a.dest <;> simp_all only [Dest.isReg, Bool.true_eq_false]
    case none => exact entryOf_onCtx fun c => ⟨rfl, rfl⟩
    case ring off => rfl
  unfold State.perform
  dsimp only
  refine (entryOf_retire a _ fun c => ?_).trans ((entryOf_congr rfl).trans (?_ : State.entryOf _ k = _))
  · split <;> rfl
  · split
    · exact (hdel _ _ _).trans heff
    · exact heff

theorem entryOf_performShadow {j : Nat} {a : Access} : (s.performShadow j a).entryOf k = s.entryOf k := by
  have heff := entryOf_effect (s := s) (k := k) j a
  unfold State.performShadow
  dsimp only
  split
  · refine (entryOf_onCtx fun c => Ctx.addShadow_entry c _ _ _).trans ((entryOf_retire a _ fun c => ?_).trans heff)
    split <;> rfl
  · refine (entryOf_retire a _ fun c => ?_).trans heff
    split <;> rfl

theorem entryOf_foldl {α : Type} {f : State → α → State}
    (hf : ∀ u a, u.entryOf k = s.entryOf k → (f u a).entryOf k = s.entryOf k) (l : List α) {u : State}
    (hu : u.entryOf k = s.entryOf k) : (l.foldl f u).entryOf k = s.entryOf k := by
  induction l generalizing u with
  | nil => exact hu
  | cons a l ih => exact ih (hf u a hu)

/-- In user mode the shadow latches have room, so every result in flight goes to one and none to a register (15 R382). -/
theorem entryOf_drainToShadow (huser : (s.ctxAt k).r.sup = false) : (s.drainToShadow k).entryOf k = s.entryOf k := by
  have hmode (u : State) (hu : u.entryOf k = s.entryOf k) : (u.ctxAt k).r.sup = false :=
    (congrArg (fun x => x.1.sup) hu).trans huser
  unfold State.drainToShadow
  dsimp only
  refine (entryOf_onCtx (f := fun c => { c with mem := { c.mem with stepWait := [] } }) fun c => ⟨rfl, rfl⟩).trans ?_
  refine entryOf_foldl (fun u w hu => ?later) _ (entryOf_foldl (fun u a hu => ?access) _ rfl)
  case access =>
    cases hreg : a.dest.isReg
    · simpa only [Bool.false_and, Bool.false_eq_true, if_false] using (entryOf_perform hreg).trans hu
    · simpa only [hmode u hu, Bool.not_false, Bool.true_or, Bool.and_self, if_true] using entryOf_performShadow.trans hu
  case later =>
    have hfree : ((State.takeFree 32 u).2.ctxAt k).r.sup = false := hmode u hu
    simpa only [hfree, Bool.not_false, Bool.true_or, if_true] using
      (entryOf_onCtx (s := (State.takeFree 32 u).2) fun c => Ctx.addShadow_entry c _ _ _).trans hu

end State

/-! ### The entry -/

/-- The fields of SCAUSE (15 R378): the cause in [7:0], the slot position in [19:16], and an asynchronous trap in 23. -/
theorem Trap.scause_fields (p : Trap) (hcode : p.code < 256) (hpos : p.pos < 16) (hbund : p.bund ≤ 1) :
    p.scause.toNat % 256 = p.code % 256 ∧ p.scause.toNat / 0x10000 % 16 = p.pos % 16 ∧
      p.scause.getLsbD 23 = decide (p.cls = .async) := by
  have hval : p.scause.toNat = p.code + 0x10000 * p.pos + 0x400000 * p.bund + (if p.cls = .async then 0x800000 else 0) := by
    unfold Trap.scause
    split <;> · rw [w64, BitVec.toNat_ofNat]; omega
  refine ⟨?_, ?_, ?_⟩
  · rw [hval]; split <;> omega
  · rw [hval]; split <;> omega
  · rw [BitVec.getLsbD, hval, Nat.testBit_eq_decide_div_mod_eq, decide_eq_decide]
    split <;> simp_all <;> omega

/-- A trap that finds its context in user mode starts the handler with the registers of the interrupted code. -/
theorem enterTrap_enters (s : State) (p : PendTrap) (huser : s.me.r.sup = false) (hcode : p.trap.code < 256) (hpos : p.trap.pos < 16)
    (hbund : p.trap.bund ≤ 1) : Enters s (s.enterTrap s.ck p) s.me.r p.sepc p.trap p.srepl := by
  have hentry : ((s.onCtx s.ck Ctx.rebase).drainToShadow s.ck).entryOf s.ck = s.entryOf s.ck := by
    have hrebase : (s.onCtx s.ck Ctx.rebase).entryOf s.ck = s.entryOf s.ck := State.entryOf_onCtx fun c => ⟨rfl, rfl⟩
    rw [State.entryOf_drainToShadow, hrebase]
    rw [State.ctxAt_onCtx]
    exact huser
  obtain ⟨hr, hvec⟩ := Prod.mk.inj hentry
  obtain ⟨hc, hp, ha⟩ := p.trap.scause_fields hcode hpos hbund
  have hctx : (s.enterTrap s.ck p).ctxAt s.ck = (((s.onCtx s.ck Ctx.rebase).drainToShadow s.ck).ctxAt s.ck).enterTrap p :=
    State.ctxAt_onCtx _ _ _
  refine ⟨?_, ?_, ?_, ?_, ?_, ?_, ?_, ?_, ?_⟩ <;> rw [hctx]
  · simp only [Ctx.enterTrap, hr, hvec, State.me]
  · rfl
  · rfl
  · rfl
  · exact hc
  · exact hp
  · exact ha
  · rfl
  · rfl

/-- A trap of class I at a packet, other than an absent translation and a failed copy, enters at once where nothing delays
it, and no slot has performed (15 R379, R382). -/
theorem trapIssue_enters (s : State) (t : Trap) (pc : W64) (htraps : s.traps = true) (hcode : t.code < 0x20) (hpos : t.pos < 16)
    (hbund : t.bund ≤ 1) : Enters s (s.trapIssue s.ck pc t) s.me.r pc t 0 := by
  simp only [State.traps, Bool.and_eq_true, Bool.not_eq_true'] at htraps
  obtain ⟨⟨⟨huser, hguess⟩, hops⟩, -⟩ := htraps
  have hnoguess : (s.guessOf (s.ctxAt s.ck)).isSome = false := by
    rw [Option.isSome_eq_false_iff]
    exact hguess
  have htake : s.trapIssue s.ck pc t = s.enterTrap s.ck { trap := t, sepc := pc, srepl := 0, replay := [] } := by
    have h20 : t.code ≠ 0x20 := by omega
    have h2A : t.code ≠ 0x2A := by omega
    have hsup : (s.ctxAt s.ck).r.sup = false := huser
    have hmx : (s.ctxAt s.ck).mx.ops.isEmpty = true := hops
    simp only [State.trapIssue, State.trapAt, State.takeTrap, h20, h2A, hnoguess, hsup, hmx, decide_false, Bool.false_and,
      Bool.false_eq_true, if_false, if_true]
  rw [htake]
  exact enterTrap_enters s _ huser (hcode.trans (by omega)) hpos hbund

theorem State.bundOf_le (s : State) (p : Nat) : s.bundOf p ≤ 1 := by
  unfold State.bundOf
  split <;> omega

theorem State.traps_pos {s : State} (h : s.traps = true) : s.issue.pos < 9 := by
  simp only [State.traps, Bool.and_eq_true, decide_eq_true_eq] at h
  exact h.2

theorem State.traps_user {s : State} (h : s.traps = true) : s.me.r.sup = false := by
  simp only [State.traps, Bool.and_eq_true, Bool.not_eq_true'] at h
  exact h.1.1.1

end Sys2Proof.Machine
end

section
/-!
SUPPORT. A slot that issues alone and does not perform: one that is illegal (04 R129), one whose guard is false (04 R109,
R113), and a privileged one in user mode (15 R375).
-/

namespace Sys2Proof.Machine

variable {s : State} {i : Instr} {sem : SlotSem}

theorem slotSem_of_privOp {n : Nat} (h : privOp i = some n) : (slotSem i).isSome = true := by
  cases i <;> cases h <;> rfl

theorem runSlot_illegal {r : Nat} (hissue : s.canIssue s.ck = true)
    (hr : slotIllegal s.issue.bt (decide (1 < s.issue.reps)) (s.issue.next - s.issue.pc).toNat i = some r) :
    runSlot i sem s = .next (s.trapIssue s.ck s.issue.pc (illegalTrap s.issue.pos (s.bundOf s.issue.pos) r)) := by
  simp only [runSlot, hissue, Bool.not_true, Bool.false_eq_true, if_false, hr]

/-- Nothing that is in flight toward a context, or that it holds back, makes a packet of the slot stall. -/
structure State.NoStall (s : State) (i : Instr) : Prop where
  chg : s.me.mx.chg = none
  held : s.me.mem.pend.any s.accessHeld = false
  pend : s.me.mem.pend.any (fun a => s.me.stallsOn [i] a.dest) = false
  stepWait : s.me.mem.stepWait.any (fun w => s.me.stallsOn [i] w.1) = false
  shadow : s.me.latchesRun = false ∨ s.me.sys.shadow.any (fun x => s.me.stallsOn [i] x.dest) = false
  late : s.me.sq.late.any (fun n => s.me.stallsOn [i] (.v n 0 1024)) = false
  roomy : s.me.roomy [i] = true
  rings : s.me.mem.pend.isEmpty = true ∨ vRings i (freshLatch s.me i) = []

theorem State.NoStall.stalled (h : s.NoStall i) : s.fresh.stalled s.ck [{ pos := s.issue.pos, instr := i, sem := sem }] = s.fresh := by
  have hme : s.fresh.ctxAt s.ck = s.me := rfl
  have hland : s.fresh.land s.ck (fun n => s.me.stallsOn [i] (.v n 0 1024)) = s.fresh := by
    simp only [State.land, hme, h.late, Bool.not_false, if_true]
  have hsettle : s.fresh.settle s.ck [i] = s.fresh := by
    have hlatch : (s.me.latchesRun && s.me.sys.shadow.any (fun x => s.me.stallsOn [i] x.dest)) = false := by
      rcases h.shadow with hrun | hnone
      · rw [hrun, Bool.false_and]
      · rw [hnone, Bool.and_false]
    simp only [State.settle, hme, h.chg, Option.isSome_none, Bool.false_eq_true, if_false, h.pend, h.stepWait, hlatch, hland]
  simp only [State.stalled, List.map_cons, List.map_nil, hsettle, State.roomFor, hme, h.roomy, if_true]
  rcases h.rings with hnone | hrings
  · rw [if_pos hnone]
  · simp only [State.envs, Due.env, List.flatMap_cons, List.flatMap_nil, hrings, ringSpans, List.append_nil, State.drainSpans,
      List.foldl_nil, ite_self]

/-- A legal slot that nothing stalls issues as the only one of its packet. -/
theorem runSlot_issueDue (hissue : s.canIssue s.ck = true) (hstall : s.NoStall i)
    (hlegal : slotIllegal s.issue.bt (decide (1 < s.issue.reps)) (s.issue.next - s.issue.pc).toNat i = none) :
    runSlot i sem s = .next (s.fresh.issueDue s.ck [{ pos := s.issue.pos, instr := i, sem := sem }]) := by
  have hheld : (s.ctxAt s.ck).mem.pend.any s.accessHeld = false := hstall.held
  simp only [runSlot, hissue, Bool.not_true, Bool.false_eq_true, if_false, hlegal, State.runPacket, hheld, hstall.stalled]

/-- What the slot finds when it issues alone. -/
theorem envs_single {b : Bool} (hg : guardOn s.me.r s.issue.bt (guardOf i) = b) :
    s.fresh.envs s.ck (s.fresh.resvAt s.me.resv) s.me [{ pos := s.issue.pos, instr := i, sem := sem }] =
      [({ pos := s.issue.pos, instr := i, sem := sem }, s.slotEnv i, b)] := by
  subst hg
  rfl

/-! ### A privileged operation in user mode -/

theorem State.NoStall.of_slotClear (h : s.slotClear i = true) : s.NoStall i := by
  simp only [State.slotClear, Bool.and_eq_true, Bool.not_eq_true', Bool.or_eq_true, Option.isNone_iff_eq_none, List.isEmpty_iff] at h
  obtain ⟨⟨⟨⟨⟨⟨⟨⟨⟨⟨-, -⟩, -⟩, chg⟩, held⟩, pend⟩, stepWait⟩, shadow⟩, late⟩, roomy⟩, rings⟩ := h
  exact ⟨chg, held, pend, stepWait, shadow, late, roomy, by simpa only [List.isEmpty_iff] using rings⟩

theorem runSlot_privileged {n : Nat} (hp : privOp i = some n) (h : s.slotClear i = true) (huser : s.me.r.sup = false)
    (ha : s.me.sys.asyncs = []) : runSlot i sem s = .next (s.fresh.trapIssue s.ck s.issue.pc
      { cls := .issue, code := 0x02, detail := w64 n, pos := s.issue.pos, bund := s.bundOf s.issue.pos }) := by
  have hstall := State.NoStall.of_slotClear h
  simp only [State.slotClear, Bool.and_eq_true, Bool.not_eq_true', Bool.or_eq_true, Option.isNone_iff_eq_none] at h
  obtain ⟨⟨⟨⟨⟨⟨⟨⟨⟨⟨hissue, hlegal⟩, hguard⟩, -⟩, -⟩, -⟩, -⟩, -⟩, -⟩, -⟩, -⟩ := h
  have hme : s.fresh.ctxAt s.ck = s.me := rfl
  have hsup : (s.slotEnv i).c.r.sup = false := huser
  rw [runSlot_issueDue hissue hstall hlegal, State.issueDue]
  simp only [hme, ha, List.isEmpty_nil, Bool.not_true, Bool.and_false, Bool.false_and, Bool.false_eq_true, if_false, envs_single hguard,
    firstCheck, hsup, hp] <;> rfl

/-! ### A slot whose guard is false -/

theorem State.NoStall.of_slotOff (h : s.slotOff i = true) : s.NoStall i := by
  simp only [State.slotOff, Bool.and_eq_true, Bool.not_eq_true', Bool.or_eq_true, Option.isNone_iff_eq_none, List.isEmpty_iff] at h
  obtain ⟨⟨⟨⟨⟨⟨⟨-, chg⟩, pend⟩, stepWait⟩, late⟩, shadow⟩, roomy⟩, -⟩ := h
  have hnone (p : Access → Bool) : s.me.mem.pend.any p = false := by rw [pend, List.any_nil]
  exact ⟨chg, hnone _, hnone _, by rw [stepWait, List.any_nil], shadow.imp_right fun hsh => by rw [hsh, List.any_nil],
    by rw [late, List.any_nil], roomy, .inl (by rw [pend, List.isEmpty_nil])⟩

/-- The state in which the slot at issue acts, or is passed over, when it waits for nothing: the bookkeeping of the issue is
done. -/
def State.openedFor (s : State) (i : Instr) : State :=
  s.fresh.opened s.ck s.me.sq.perf false [(s.issue.pos, freshLatch s.me i)]

/-- A slot whose guard is false is passed over, and its packet ends. -/
theorem runSlot_off (h : s.slotOff i = true) : ∃ d : Due, d.instr = i ∧
    runSlot i sem s = .next (((s.openedFor i).performSlot d (s.slotEnv i) false).finish s.ck [(d, s.slotEnv i, false)]) := by
  have hstall := State.NoStall.of_slotOff h
  simp only [State.slotOff, Bool.and_eq_true, Bool.not_eq_true', Bool.or_eq_true, Option.isNone_iff_eq_none] at h
  obtain ⟨⟨⟨⟨⟨⟨⟨⟨⟨hissue, hlegal⟩, hguard⟩, -⟩, -⟩, -⟩, -⟩, -⟩, -⟩, ha⟩ := h
  refine ⟨{ pos := s.issue.pos, instr := i, sem := sem }, rfl, ?_⟩
  have hasync : (!s.me.r.sup && !s.me.sys.asyncs.isEmpty && s.me.sq.replay.isEmpty) = false := by
    rcases ha with hsup | hnone
    · simp only [hsup, Bool.not_true, Bool.false_and]
    · simp only [hnone, Bool.not_true, Bool.and_false, Bool.false_and]
  rw [runSlot_issueDue hissue hstall hlegal,
    State.issueDue_of s.fresh s.fresh s.ck _ _ s.me rfl (envs_single hguard) hasync rfl rfl rfl]
  rfl

/-- The context a slot acts in: its registers, and all but bookkeeping, are as before. -/
theorem State.openedFor_ctx : ((s.openedFor i).ctxAt s.ck).r = s.me.r ∧ ((s.openedFor i).ctxAt s.ck).rest = s.me.rest ∧
    ((s.openedFor i).ctxAt s.ck).sys.sstep = s.me.sys.sstep ∧ ((s.openedFor i).ctxAt s.ck).sq.after = s.me.sq.after := by
  obtain ⟨hr, hrest, -, hsstep, hafter⟩ := s.fresh.opened_ctx s.ck s.me.sq.perf s.issue.pos false (freshLatch s.me i)
  exact ⟨hr, hrest, hsstep, hafter⟩

/-- The bookkeeping of an issue, and whatever then becomes of the context at issue, leaves all else. -/
theorem State.openedFor_aside {cs : SMap Ctx} (hcs : ∀ j, j ≠ s.ck → mget {} cs j = (s.openedFor i).ctxAt j) (q : Issue) (c : Ctx) :
    Aside s (State.putCtx { s.openedFor i with ctxs := cs, issue := q } s.ck c) := by
  refine ⟨⟨rfl, rfl, rfl, rfl, rfl, rfl, rfl, rfl, rfl, fun j hj => ?_, fun n => ?_⟩, rfl, rfl⟩
  · exact (State.ctxAt_putCtx_ne _ _ _ _ hj).trans ((hcs j hj).trans (s.fresh.opened_ctx_ne _ _ _ _ _ _ hj))
  · exact s.fresh.opened_core s.ck s.me.sq.perf s.issue.pos false (freshLatch s.me i) n

/-- A packet that has passed its slot over ends plainly: the context closes it, with its registers as they are but the pc. -/
theorem State.finish_passed {w : State} {m : W64} {perf : List Nat} (hp : s.endsPlain = true)
    (hw : w.issue = { (s.openedFor i).issue with perf := perf }) (hr : (w.ctxAt s.ck).r = { s.me.r with mpc := m })
    (hsstep : (w.ctxAt s.ck).sys.sstep = s.me.sys.sstep) (hafter : (w.ctxAt s.ck).sq.after = s.me.sq.after)
    (xs : List (Due × Env × Bool)) :
    w.finish s.ck xs = w.putCtx s.ck ((w.ctxAt s.ck).closed w.issue) ∧ ((w.ctxAt s.ck).closed w.issue).r =
      { s.me.r with mpc := m, pc := if s.issue.rep < s.issue.reps then s.me.r.pc else s.issue.next } := by
  simp only [State.endsPlain, Bool.and_eq_true, Bool.or_eq_true, Bool.not_eq_true', Option.isNone_iff_eq_none] at hp
  obtain ⟨⟨hkept, hsup⟩, hloops⟩ := hp
  constructor
  · refine State.finish_plain w s.ck xs (by rw [hw]; rfl) (by rw [hw]; rfl) (by rw [hw]; rfl) (by rw [hw]; rfl) (by rw [hw]; rfl)
      (by rw [hw]; rfl) ?_ ?_ ?_
    · rw [Seq.keptTrap, hafter, hr, hw]
      exact hkept
    · rw [hr, hsstep]
      exact hsup
    · rw [hr, hw]
      exact hloops
  · rw [hw, Ctx.closed, hr]
    rfl

/-- A slot but `mmas` that is guarded off changes nothing but the pc. -/
theorem runSlot_off_quiet (hi : ∀ f, i ≠ .mmas f) (h : s.slotOff i = true) (hp : s.endsPlain = true) :
    ∃ t, runSlot i sem s = .next t ∧ Quiet s t := by
  obtain ⟨d, rfl, hrun⟩ := runSlot_off (sem := sem) h
  obtain ⟨hr, hrest, hsstep, hafter⟩ := State.openedFor_ctx (s := s) (i := d.instr)
  have hpass : (s.openedFor d.instr).performSlot d (s.slotEnv d.instr) false = (s.openedFor d.instr).markPerf d.pos := by
    simp only [State.performSlot, Bool.not_false, if_true]
  obtain ⟨hend, hregs⟩ := State.finish_passed hp (w := (s.openedFor d.instr).markPerf d.pos) rfl hr hsstep hafter
    [(d, s.slotEnv d.instr, false)]
  rw [hpass, hend] at hrun
  refine ⟨_, hrun, ⟨⟨State.openedFor_aside (fun _ _ => rfl) _ _, ?_⟩, ?_⟩, ?_⟩
  · rw [State.ctxAt_putCtx]
    exact hrest
  · simp only [State.ctxAt_putCtx, hregs, Regs.noPc]
  · rw [GoesOn, GoesTo, State.ctxAt_putCtx, hregs]

/-- The state in which a guarded-off `mmas` in position `p` has moved mpc on. -/
def State.mpcMoved (s : State) (i : Instr) (p : Nat) : State :=
  ((s.openedFor i).onCtx s.ck (fun c => c.nextMeta (c.r.mpc + 8))).markPerf p

theorem State.ctxAt_mpcMoved (p : Nat) :
    (s.mpcMoved i p).ctxAt s.ck = ((s.openedFor i).ctxAt s.ck).nextMeta (s.me.r.mpc + 8) := by
  rw [← State.openedFor_ctx.1]
  exact (s.openedFor i).ctxAt_onCtx s.ck (fun c => c.nextMeta (c.r.mpc + 8))

theorem State.ctxAt_mpcMoved_ne (p : Nat) {j : Nat} (hj : j ≠ s.ck) : (s.mpcMoved i p).ctxAt j = (s.openedFor i).ctxAt j :=
  (s.openedFor i).ctxAt_onCtx_ne s.ck j (fun c => c.nextMeta (c.r.mpc + 8)) hj

/-- A guarded-off `mmas` moves mpc on, and a word fetched for the old one no longer counts (07 R220). -/
theorem runSlot_off_mmas {f : MX} (h : s.slotOff (.mmas f) = true) (hp : s.endsPlain = true) :
    ∃ t, runSlot (.mmas f) sem s = .next t ∧ Aside s t ∧ GoesOn s t ∧
      (t.ctxAt s.ck).r.noPc = { s.me.r.noPc with mpc := s.me.r.mpc + 8 } ∧
      { (t.ctxAt s.ck).rest with mx := {} } = { s.me.rest with mx := {} } ∧
      (t.ctxAt s.ck).mx = { s.me.mx with metaW := none } := by
  obtain ⟨d, hd, hrun⟩ := runSlot_off (sem := sem) h
  obtain ⟨hr, hrest, hsstep, hafter⟩ := State.openedFor_ctx (s := s) (i := .mmas f)
  have hpass : (s.openedFor (.mmas f)).performSlot d (s.slotEnv (.mmas f)) false = s.mpcMoved (.mmas f) d.pos := by
    simp only [State.performSlot, hd, Bool.not_false, if_true] <;> rfl
  have hctx := State.ctxAt_mpcMoved (s := s) (i := .mmas f) d.pos
  obtain ⟨hend, hregs⟩ := State.finish_passed hp (w := s.mpcMoved (.mmas f) d.pos) (m := s.me.r.mpc + 8) rfl
    (by rw [hctx, ← hr]; rfl) (by rw [hctx]; exact hsstep) (by rw [hctx]; exact hafter) [(d, s.slotEnv (.mmas f), false)]
  rw [hpass, hend] at hrun
  refine ⟨_, hrun, State.openedFor_aside (fun j hj => State.ctxAt_mpcMoved_ne d.pos hj) _ _, ?_, ?_, ?_, ?_⟩
  · rw [GoesOn, GoesTo, State.ctxAt_putCtx, hregs]
  · simp only [State.ctxAt_putCtx, hregs, Regs.noPc]
  · rw [State.ctxAt_putCtx, hctx, ← hrest]
    rfl
  · have hmx : ((s.openedFor (.mmas f)).ctxAt s.ck).mx = s.me.mx :=
      (congrArg Ctx.mx hrest : (Ctx.rest _).mx = (Ctx.rest _).mx)
    rw [State.ctxAt_putCtx, hctx, Ctx.closed, Ctx.nextMeta, hmx]

end Sys2Proof.Machine
end

section
open Sys2Proof Sys2Proof.Machine

/-- Settles O16: a guarded-off slot is passed over, `mmas` with its step of mpc; an illegal slot fails the checks of 04 R129, and a
privileged one in user mode the first check of class I, so that each trap is entered with no slot performed. -/
theorem slotsThatDoNotPerform : Obligations.SlotsThatDoNotPerform := by
  unfold Obligations.SlotsThatDoNotPerform
  refine ⟨fun i s hsem hi h hp => ?_, fun f s h hp => ?_, fun i s r hsem hissue htraps hr => ?_, fun i s n hpriv h htraps ha => ?_⟩
  · obtain ⟨sem, hsem⟩ := Option.isSome_iff_exists.mp hsem
    rw [exec_of_slotSem hsem]
    exact runSlot_off_quiet hi h hp
  · rw [exec_of_slotSem rfl]
    exact runSlot_off_mmas h hp
  · obtain ⟨sem, hsem⟩ := Option.isSome_iff_exists.mp hsem
    have hpos := State.traps_pos htraps
    have hdetail : s.issue.pos + 16 * s.bundOf s.issue.pos + 256 * r =
        s.issue.pos + (if s.issue.second.contains s.issue.pos then 16 else 0) + 256 * r := by
      unfold State.bundOf
      split <;> rfl
    have henters := trapIssue_enters s (illegalTrap s.issue.pos (s.bundOf s.issue.pos) r) s.issue.pc htraps (show 1 < 32 by decide)
      (Nat.lt_trans hpos (by decide)) (s.bundOf_le _)
    rw [illegalTrap, hdetail] at henters
    refine ⟨_, ?_, henters⟩
    rw [exec_of_slotSem hsem, runSlot_illegal hissue hr, illegalTrap, hdetail]
  · obtain ⟨sem, hsem⟩ := Option.isSome_iff_exists.mp (slotSem_of_privOp hpriv)
    have hpos := State.traps_pos htraps
    refine ⟨_, (exec_of_slotSem hsem).trans (runSlot_privileged hpriv h (State.traps_user htraps) ha), ?_⟩
    exact trapIssue_enters s.fresh _ s.issue.pc htraps (show 2 < 32 by decide) (Nat.lt_trans hpos (by decide)) (s.bundOf_le _)

end

section
/-!
SUPPORT. Operands of the vector slots as lists: the elements of a number, their packing, and the merge by mask (03 R69; 06
R173).
-/

namespace Sys2Proof.Machine

/-! ### Elements -/

theorem lane_lt (b x j : Nat) : lane b x j < 2 ^ b := Nat.mod_lt _ (Nat.two_pow_pos b)

theorem lane_succ (b x j : Nat) : lane b x (j + 1) = lane b (x / 2 ^ b) j := by
  rw [lane, lane, Nat.div_div_eq_div_mul, ← Nat.pow_add, Nat.mul_succ, Nat.add_comm]

theorem lane_add_mul {b a j : Nat} (x : Nat) (h : a < 2 ^ b) :
    lane b (a + 2 ^ b * x) 0 = a ∧ lane b (a + 2 ^ b * x) (j + 1) = lane b x j := by
  refine ⟨?_, ?_⟩
  · rw [lane, Nat.mul_zero, Nat.pow_zero, Nat.div_one, Nat.add_mul_mod_self_left, Nat.mod_eq_of_lt h]
  · rw [lane_succ, Nat.add_mul_div_left _ _ (Nat.two_pow_pos b), Nat.div_eq_of_lt h, Nat.zero_add]

/-- An element of the low `w` bits is that of the whole. -/
theorem lane_mod {b w j : Nat} (x : Nat) (h : b * (j + 1) ≤ w) : lane b (x % 2 ^ w) j = lane b x j := by
  have hsplit : w = b * j + (w - b * j) := by rw [Nat.mul_succ] at h; omega
  rw [lane, lane, hsplit, Nat.pow_add, Nat.mod_mul_right_div_self, Nat.mod_mod_of_dvd]
  exact Nat.pow_dvd_pow 2 (by rw [Nat.mul_succ] at h; omega)

theorem elems_eq (b n x : Nat) : elems b n x = (List.range n).map (lane b x) := by
  induction n generalizing x with
  | zero => rfl
  | succ n ih =>
    rw [elems, ih, List.range_succ_eq_map, List.map_cons, List.map_map]
    refine congrArg₂ _ (by simp [lane]) (List.map_congr_left fun j _ => (lane_succ b x j).symm)

theorem packEl_lt (b : Nat) (l : List Nat) : packEl b l < 2 ^ (b * l.length) := by
  induction l with
  | nil => simp [packEl]
  | cons x t ih =>
    have hx : x % 2 ^ b < 2 ^ b := Nat.mod_lt _ (Nat.two_pow_pos b)
    have hstep : 2 ^ b * packEl b t + 2 ^ b ≤ 2 ^ b * 2 ^ (b * t.length) := by
      rw [← Nat.mul_succ]
      exact Nat.mul_le_mul_left _ ih
    rw [packEl, List.length_cons, Nat.mul_succ, Nat.add_comm (b * _), Nat.pow_add]
    omega

theorem lane_packEl (b j : Nat) (l : List Nat) : lane b (packEl b l) j = l.getD j 0 % 2 ^ b := by
  induction l generalizing j with
  | nil => simp [packEl, lane]
  | cons x t ih =>
    obtain ⟨h0, hs⟩ := lane_add_mul (j := j - 1) (packEl b t) (Nat.mod_lt x (Nat.two_pow_pos b))
    cases j with
    | zero => exact h0
    | succ j => rw [packEl, List.getD_cons_succ, ← ih j]; exact hs

theorem getD_map_range {n j : Nat} (p : Nat → Nat) (h : j < n) : ((List.range n).map p).getD j 0 = p j := by
  rw [List.getD_eq_getElem _ _ (by simpa using h), List.getElem_map, List.getElem_range]

theorem getD_map_range_ge {n j : Nat} (p : Nat → Nat) (h : n ≤ j) : ((List.range n).map p).getD j 0 = 0 := by
  rw [List.getD_eq_default _ _ (by simpa using h)]

theorem lane_packEl_range {b n j : Nat} (p : Nat → Nat) (h : j < n) : lane b (packEl b ((List.range n).map p)) j = p j % 2 ^ b := by
  rw [lane_packEl, getD_map_range p h]

/-- A list of a known length is the list of its entries by number. -/
theorem eq_map_range {n : Nat} {l : List Nat} {p : Nat → Nat} (hlen : l.length = n) (h : ∀ j, j < n → l.getD j 0 = p j) :
    l = (List.range n).map p := by
  subst hlen
  refine List.ext_getElem (by simp) fun j hj _ => ?_
  rw [List.getElem_map, List.getElem_range, ← h j hj, List.getD_eq_getElem _ _ hj]

theorem zipWith_range {α β γ : Type} (n : Nat) (g : α → β → γ) (p : Nat → α) (q : Nat → β) :
    List.zipWith g ((List.range n).map p) ((List.range n).map q) = (List.range n).map (fun j => g (p j) (q j)) := by
  rw [List.zipWith_map, List.zipWith_self]

theorem zip_range {α β : Type} (n : Nat) (p : Nat → α) (q : Nat → β) :
    ((List.range n).map p).zip ((List.range n).map q) = (List.range n).map (fun j => (p j, q j)) := zipWith_range n _ p q

/-! ### Masks -/

theorem maskMerge_range (m : MaskReg) (b : Nat) (mrg : Bool) (p q : Nat → Nat) (n i : Nat) :
    maskMerge m b mrg i ((List.range n).map p) ((List.range n).map q) =
      (List.range n).map (fun j => if enabled m b (i + j) then p j else if mrg then q j else 0) := by
  induction n generalizing i p q with
  | zero => rfl
  | succ n ih =>
    simp only [List.range_succ_eq_map, List.map_cons, List.map_map, maskMerge, Nat.add_zero]
    refine congrArg₂ _ rfl ((ih _ _ _).trans (List.map_congr_left fun j _ => ?_))
    simp only [Function.comp_apply, Nat.succ_eq_add_one, Nat.add_assoc, Nat.add_comm 1]

/-! ### Every other entry -/

theorem evens_range {α : Type} (n : Nat) (p : Nat → α) :
    evens ((List.range (2 * n)).map p) = (List.range n).map (fun j => p (2 * j)) := by
  induction n generalizing p with
  | zero => rfl
  | succ n ih =>
    simp only [Nat.mul_succ, List.range_succ_eq_map, List.map_cons, List.map_map, evens]
    exact congrArg₂ _ rfl ((ih _).trans (List.map_congr_left fun j _ => rfl))

theorem evens_range_odd {α : Type} (n : Nat) (p : Nat → α) :
    evens ((List.range (2 * n + 1)).map p) = (List.range (n + 1)).map (fun j => p (2 * j)) := by
  induction n generalizing p with
  | zero => rfl
  | succ n ih =>
    rw [List.range_succ_eq_map (n := n + 1), show 2 * (n + 1) + 1 = (2 * n + 1) + 1 + 1 from rfl]
    simp only [List.range_succ_eq_map (n := 2 * n + 1 + 1), List.range_succ_eq_map (n := 2 * n + 1), List.map_cons, List.map_map, evens]
    exact congrArg₂ _ rfl ((ih _).trans (List.map_congr_left fun j _ => rfl))

theorem evens_drop_range {α : Type} (n : Nat) (p : Nat → α) :
    evens (((List.range (2 * n)).map p).drop 1) = (List.range n).map (fun j => p (2 * j + 1)) := by
  cases n with
  | zero => rfl
  | succ n =>
    rw [show 2 * (n + 1) = (2 * n + 1) + 1 from rfl, List.range_succ_eq_map (n := 2 * n + 1), List.map_cons, List.map_map,
      List.drop_succ_cons, List.drop_zero, evens_range_odd]
    rfl

end Sys2Proof.Machine
end

section
/-!
SUPPORT. The state while a slot that issues alone acts, and how its packet ends (04 R102; 15 R379): an act on registers, on the
share or on the records of the context leaves what the end of the packet looks at, so the packet ends plainly.
-/

namespace Sys2Proof.Machine

/-- The record of a packet when its first slot acts: nothing has happened yet. -/
def State.openIssue (s : State) : Issue :=
  { s.fresh.issue with
    faults := [], after := none, target := none, retire := false, ret := false, stop := false
    perf := (upto 9).filter (fun p => s.me.sq.perf.testBit p) }

/-- `v` is a state in which the slot at issue in `s` acts: all that the end of the packet looks at is as the bookkeeping of
the issue left it. -/
structure Acting (s v : State) : Prop where
  beyond : Beyond s v
  issue : v.issue = s.openIssue
  sup : (v.ctxAt s.ck).r.sup = s.me.r.sup
  loops : (v.ctxAt s.ck).r.loops = s.me.r.loops
  pc : (v.ctxAt s.ck).r.pc = s.me.r.pc
  sstep : (v.ctxAt s.ck).sys.sstep = s.me.sys.sstep
  after : (v.ctxAt s.ck).sq.after = s.me.sq.after

/-- `t` is what is left of `v` once the packet has ended: the pc and the sequencing of the context have moved on. -/
structure Ends (s v t : State) : Prop where
  beyond : Beyond s t
  mem : t.mem = v.mem
  disp : t.disp = v.disp
  hub : t.hub = v.hub
  rest : (t.ctxAt s.ck).rest = (v.ctxAt s.ck).rest
  regs : (t.ctxAt s.ck).r.noPc = (v.ctxAt s.ck).r.noPc
  goes : GoesOn s t

variable {s v t : State} {i : Instr}

theorem State.coreAt_congr {u : State} (h : u.cores = v.cores) (n : Nat) : u.coreAt n = v.coreAt n := by
  unfold State.coreAt
  rw [h]

/-- What a change of the current context alone leaves. -/
theorem Beyond.of_ctx {u : State} (h : Beyond s v) (hmgmt : u.mgmt = v.mgmt) (hslices : u.slices = v.slices) (hwalks : u.walks = v.walks)
    (hfq : u.fq = v.fq) (hids : u.fqIds = v.fqIds) (hsides : u.sides = v.sides) (hcore : u.core = v.core) (hagenda : u.agenda = v.agenda)
    (hctx : ∀ j, j ≠ s.ck → u.ctxAt j = v.ctxAt j) (hcores : u.cores = v.cores) : Beyond s u := by
  obtain ⟨mgmt, slices, walks, fq, ids, sides, core, agenda, ctx, cores⟩ := h
  exact ⟨hmgmt.trans mgmt, hslices.trans slices, hwalks.trans walks, hfq.trans fq, hids.trans ids, hsides.trans sides,
    hcore.trans core, hagenda.trans agenda, fun j hj => (hctx j hj).trans (ctx j hj),
    fun n => by rw [State.coreAt_congr hcores]; exact cores n⟩

theorem Beyond.onCtx (h : Beyond s v) (f : Ctx → Ctx) : Beyond s (v.onCtx s.ck f) :=
  h.of_ctx rfl rfl rfl rfl rfl rfl rfl rfl (fun _ hj => State.ctxAt_onCtx_ne _ _ _ _ hj) rfl

theorem Beyond.putCtx (h : Beyond s v) (c : Ctx) : Beyond s (v.putCtx s.ck c) :=
  h.of_ctx rfl rfl rfl rfl rfl rfl rfl rfl (fun _ hj => State.ctxAt_putCtx_ne _ _ _ _ hj) rfl

/-- The turn stays with the same context. -/
theorem Beyond.ck (h : Beyond s v) : v.ck = s.ck := by
  obtain ⟨-, -, -, -, -, -, core, -, -, cores⟩ := h
  have hcur := congrArg Core.cur (cores s.core)
  simp only at hcur
  rw [State.ck, State.ck, core, hcur]

theorem Beyond.me (h : Beyond s v) : v.me = v.ctxAt s.ck := by rw [State.me, h.ck]

/-! ### The start -/

theorem State.openedFor_acting (s : State) (i : Instr) : Acting s (s.openedFor i) := by
  obtain ⟨hr, -, -, hsstep, hafter⟩ := s.fresh.opened_ctx s.ck s.me.sq.perf s.issue.pos false (freshLatch s.me i)
  have hregs : ((s.openedFor i).ctxAt s.ck).r = s.me.r := hr
  exact ⟨⟨rfl, rfl, rfl, rfl, rfl, rfl, rfl, rfl, fun j hj => s.fresh.opened_ctx_ne _ _ _ _ _ _ hj,
    fun n => s.fresh.opened_core s.ck s.me.sq.perf s.issue.pos false (freshLatch s.me i) n⟩, rfl, by rw [hregs], by rw [hregs],
    by rw [hregs], hsstep, hafter⟩

/-! ### Acts -/

theorem Acting.onCtx (h : Acting s v) {f : Ctx → Ctx} (hr : ∀ c, (f c).r.sup = c.r.sup ∧ (f c).r.loops = c.r.loops ∧ (f c).r.pc = c.r.pc)
    (hsys : ∀ c, (f c).sys.sstep = c.sys.sstep) (hsq : ∀ c, (f c).sq.after = c.sq.after) : Acting s (v.onCtx s.ck f) := by
  have hctx : (v.onCtx s.ck f).ctxAt s.ck = f (v.ctxAt s.ck) := State.ctxAt_onCtx _ _ _
  obtain ⟨hsup, hloops, hpc⟩ := hr (v.ctxAt s.ck)
  exact ⟨h.beyond.onCtx f, h.issue, by rw [hctx, hsup, h.sup], by rw [hctx, hloops, h.loops], by rw [hctx, hpc, h.pc],
    by rw [hctx, hsys, h.sstep], by rw [hctx, hsq, h.after]⟩

/-- A change of registers but the mode, the loops and the pc. -/
theorem Acting.onR (h : Acting s v) {g : Regs → Regs} (hg : ∀ r, (g r).sup = r.sup ∧ (g r).loops = r.loops ∧ (g r).pc = r.pc) :
    Acting s (v.onCtx s.ck (fun c => c.onR g)) :=
  h.onCtx (fun c => hg c.r) (fun _ => rfl) fun _ => rfl

/-! ### The end -/

/-- An act that met no fault is followed by the end of its packet. -/
theorem Acting.finish (h : Acting s v) (hp : s.endsPlain = true) (xs : List (Due × Env × Bool)) :
    Ends s v ((State.acted s.ck s.issue.pos i (v, none)).finish s.ck xs) := by
  simp only [State.endsPlain, Bool.and_eq_true, Bool.or_eq_true, Bool.not_eq_true', Option.isNone_iff_eq_none] at hp
  obtain ⟨⟨hkept, hsup⟩, hloops⟩ := hp
  obtain ⟨late, hctx⟩ := State.inFlight_ctx (v.markPerf s.issue.pos) s.ck (vDests i)
  have hmark : (v.markPerf s.issue.pos).ctxAt s.ck = v.ctxAt s.ck := rfl
  rw [hmark] at hctx
  have hissue : ((v.markPerf s.issue.pos).inFlight s.ck (vDests i)).issue = { s.openIssue with perf := s.openIssue.perf ++ [s.issue.pos] } := by
    rw [State.inFlight_issue]
    exact congrArg (fun q : Issue => { q with perf := q.perf ++ [s.issue.pos] }) h.issue
  have hbeyond : Beyond s ((v.markPerf s.issue.pos).inFlight s.ck (vDests i)) :=
    h.beyond.of_ctx (State.inFlight_mgmt _ _ _) (State.inFlight_slices _ _ _) (State.inFlight_walks _ _ _) (State.inFlight_fq _ _ _)
      (State.inFlight_fqIds _ _ _) (State.inFlight_sides _ _ _) (State.inFlight_core _ _ _) (State.inFlight_agenda _ _ _)
      (fun j hj => State.inFlight_ctx_ne _ _ _ j hj) (State.inFlight_cores _ _ _)
  generalize hw : (v.markPerf s.issue.pos).inFlight s.ck (vDests i) = w at hctx hissue hbeyond
  have hwmem : w.mem = v.mem := by subst hw; exact State.inFlight_mem _ _ _
  have hwdisp : w.disp = v.disp := by subst hw; exact State.inFlight_disp _ _ _
  have hwhub : w.hub = v.hub := by subst hw; exact State.inFlight_hub _ _ _
  have hend : w.finish s.ck xs = w.putCtx s.ck ((w.ctxAt s.ck).closed w.issue) := by
    refine State.finish_plain w s.ck xs (by rw [hissue]; rfl) (by rw [hissue]; rfl) (by rw [hissue]; rfl) (by rw [hissue]; rfl)
      (by rw [hissue]; rfl) (by rw [hissue]; rfl) ?_ ?_ ?_
    · rw [Seq.keptTrap, hctx, hissue]
      simp only [h.after, h.sup]
      exact hkept
    · rw [hctx, h.sup, h.sstep]
      exact hsup
    · rw [hctx, hissue, h.loops]
      exact hloops
  have hacted : State.acted s.ck s.issue.pos i (v, none) = w := hw
  rw [hacted, hend]
  refine ⟨hbeyond.putCtx _, hwmem, hwdisp, hwhub, ?_, ?_, ?_⟩
  · rw [State.ctxAt_putCtx, hctx]
    rfl
  · rw [State.ctxAt_putCtx, hctx]
    rfl
  · rw [GoesOn, GoesTo, State.ctxAt_putCtx, hctx, hissue]
    simp only [Ctx.closed, h.pc]
    rfl

/-- A slot that waits for nothing and whose act meets no fault completes. -/
theorem slot_ends {m : SlotSem} (hsem : slotSem i = some m) (hready : s.slotReady i = true) (hfree : s.slotFree i = true)
    (hplain : s.endsPlain = true) (hwait : (m.wait (s.slotEnv i) s.fresh).1 = s.fresh)
    (hact : m.act (s.slotEnv i) (s.openedFor i) = (v, none)) (h : Acting s v) : ∃ t, exec i s = .next t ∧ Ends s v t := by
  simp only [State.slotFree, hsem, Bool.and_eq_true, Bool.not_eq_true', Option.isNone_iff_eq_none] at hfree
  obtain ⟨⟨hcheck, hstall⟩, hnone⟩ := hfree
  have hrun := runSlot_ready i m s s.fresh hready hcheck hstall (Prod.ext hwait hnone)
  refine ⟨_, (exec_of_slotSem hsem).trans hrun, ?_⟩
  have hact' : m.act (s.slotEnv i) (s.fresh.opened s.ck s.me.sq.perf false [(s.issue.pos, freshLatch s.me i)]) = (v, none) := hact
  rw [hact']
  exact h.finish hplain _

/-- A V slot (06 R173 to R181) whose ring sources hold no error completes with what its act does. -/
theorem vDo_ends {m : SlotSem} {act : Env → State → State} (hsem : slotSem i = some m) (hwait : m.wait = vWait i)
    (hdo : m.act = (vDo i act).act) (hready : s.slotReady i = true) (hfree : s.slotFree i = true)
    (hclean : (vPoison i (s.slotEnv i)).isNone) (hplain : s.endsPlain = true)
    (h : Acting s (act (s.slotEnv i) (s.openedFor i))) :
    ∃ t, exec i s = .next t ∧ Ends s (act (s.slotEnv i) (s.openedFor i)) t := by
  refine slot_ends hsem hready hfree hplain (by rw [hwait]; rfl) ?_ h
  rw [hdo]
  simp only [vDo, Option.isNone_iff_eq_none.mp hclean]

end Sys2Proof.Machine
end

section
/-!
SUPPORT. Vector operands: what a slot that issues alone reads (06 R176, 04 R118), and the writes of its destinations, one register
or ring slot after another (04 R119, 06 R176).
-/

namespace Sys2Proof.Machine

/-! ### Bits and bytes -/

/-- Writing the low bits of a vector leaves the others. -/
theorem setf_low {n w : Nat} (x : BitVec n) (v : Nat) (h : w ≤ n) :
    (setf x 0 w v).toNat % 2 ^ w = v % 2 ^ w ∧ (setf x 0 w v).toNat / 2 ^ w = x.toNat / 2 ^ w := by
  have hpos := Nat.two_pow_pos w
  have hv : v % 2 ^ w < 2 ^ w := Nat.mod_lt _ hpos
  have hval : (setf x 0 w v).toNat = v % 2 ^ w + 2 ^ w * (x.toNat / 2 ^ w) := by
    have hx := Nat.mod_add_div x.toNat (2 ^ w)
    have hdiv : x.toNat / 2 ^ w < 2 ^ (n - w) := by
      rw [Nat.div_lt_iff_lt_mul hpos, ← Nat.pow_add, Nat.sub_add_cancel h]
      exact x.isLt
    have hlt : v % 2 ^ w + 2 ^ w * (x.toNat / 2 ^ w) < 2 ^ n := by
      have hle : 2 ^ w * (x.toNat / 2 ^ w) + 2 ^ w ≤ 2 ^ w * 2 ^ (n - w) := by
        rw [← Nat.mul_succ]
        exact Nat.mul_le_mul_left _ hdiv
      rw [← Nat.pow_add, Nat.add_sub_cancel' h] at hle
      omega
    rw [setf, fld, Nat.pow_zero, Nat.div_one, Nat.mul_one, Nat.mul_one, BitVec.toNat_ofNat,
      show x.toNat - x.toNat % 2 ^ w + v % 2 ^ w = v % 2 ^ w + 2 ^ w * (x.toNat / 2 ^ w) by omega, Nat.mod_eq_of_lt hlt]
  rw [hval]
  exact ⟨by rw [Nat.add_mul_mod_self_left, Nat.mod_mod], by rw [Nat.add_mul_div_left _ _ hpos, Nat.div_eq_of_lt hv, Nat.zero_add]⟩

theorem toNat_ofNat_mod {w n : Nat} (x : Nat) (h : w ≤ n) : (BitVec.ofNat n (x % 2 ^ w)).toNat = x % 2 ^ w := by
  rw [BitVec.toNat_ofNat, Nat.mod_eq_of_lt (Nat.lt_of_lt_of_le (Nat.mod_lt _ (Nat.two_pow_pos w)) (Nat.pow_le_pow_right (by decide) h))]

theorem leBytes_length (n x : Nat) : (leBytes n x).length = n := by
  induction n generalizing x with
  | zero => rfl
  | succ n ih => rw [leBytes, List.length_cons, ih]

theorem leNat_leBytes (n x : Nat) : leNat (leBytes n x) = x % 256 ^ n := by
  induction n generalizing x with
  | zero => simp [leBytes, leNat, Nat.mod_one]
  | succ n ih =>
    have hlow : x % 256 % 2 ^ 8 = x % 256 := Nat.mod_mod x 256
    rw [leBytes, leNat, ih, BitVec.toNat_ofNat, hlow, Nat.pow_succ', Nat.mod_mul (a := 256)]

/-- What was written to a share is what a read of the place finds. -/
theorem read_write (r : Resv) (off : Nat) (bs : List Byte) : (r.write off bs).read off bs.length = bs := by
  refine List.ext_getElem (mbytes_length _ _ _ _) fun j hj hj' => ?_
  rw [← List.getD_eq_getElem _ 0 hj, Resv.read, mbytes_getD _ _ _ _ _ _ hj']
  exact mget_mwrite_in 0 bs r.bytes off j hj'

theorem read_write_out (r : Resv) {off a n : Nat} {bs : List Byte} (h : a + n ≤ off ∨ off + bs.length ≤ a) :
    (r.write off bs).read a n = r.read a n :=
  mbytes_congr fun j hj => mget_mwrite_out 0 bs r.bytes off (a + j) (by omega)

/-! ### Widths -/

theorem widthOf_cases {w : BitVec 2} (h : w ≠ 3) : widthOf w = 256 ∨ widthOf w = 512 ∨ widthOf w = 1024 := by
  revert w; decide

/-! ### Operands -/

variable {s v : State} {i : Instr}

/-- A register or ring slot of an operand holds what the statements read there. -/
theorem part_slotEnv {cls num o w j : Nat} {dst : Bool} (h : cls ≠ 0 → o = num % 128) :
    (s.slotEnv i).part cls num o w j dst = s.vBits cls num j w dst := by
  unfold Env.part State.vBits
  split
  · rfl
  · next hcls => rw [h hcls]; rfl

/-- The elements of a source operand of a class in use. -/
theorem src_slotEnv {cls num o w b n : Nat} (h : cls ≠ 0 → cls ≠ 2 → o = num % 128) :
    (s.slotEnv i).src cls num o w b n = (List.range n).map (s.vSrc cls num w b) := by
  unfold Env.src State.vSrc
  by_cases h2 : cls = 2
  · simp only [h2, if_true, List.map_const', List.length_range]
    rfl
  · simp only [h2, if_false]
    rw [part_slotEnv (fun h0 => h h0 h2), elems_eq]

theorem vSrc_lt (s : State) (cls num w b j : Nat) : s.vSrc cls num w b j < 2 ^ b := by
  unfold State.vSrc
  split
  · exact Nat.mod_lt _ (Nat.two_pow_pos b)
  · exact lane_lt _ _ _

/-! ### Ring slots -/

/-- The `n` destinations of an operand from one on do not overlap, if they are ring slots (08 R250). -/
def State.SlotsApart (s : State) (num w n : Nat) : Prop :=
  ∀ i j, i < j → j < n → s.ringAt num i true + w / 8 ≤ s.ringAt num j true ∨ s.ringAt num j true + w / 8 ≤ s.ringAt num i true

theorem State.slotsApart_one (s : State) (num w : Nat) : s.SlotsApart num w 1 := fun i j hij hj => absurd hij (by omega)

theorem mod_ne_of_lt {d a b : Nat} (hab : a < b) (hd : b < a + d) : a % d ≠ b % d := by
  intro h
  have hdvd : d ∣ b - a := (Nat.modEq_iff_dvd' (Nat.le_of_lt hab)).mp h
  have := Nat.le_of_dvd (by omega) hdvd
  omega

/-- Slots that a check of the ring operand passed stand apart (06 R176). -/
theorem slotsApart_of_check {num w n o : Nat} {x : RingRef} (hx : x = { h := num / 128 % 16, o := o, r := n, bytes := w / 8, dst := true })
    (hc : x.check s.me = none) : s.SlotsApart num w n := by
  subst hx
  intro i j hij hj
  simp only [RingRef.check] at hc
  split at hc
  · cases hc
  split at hc
  · cases hc
  split at hc
  · cases hc
  next hslot hbytes hdepth =>
    simp only [State.ringAt, Handle.at]
    generalize s.me.handle (num / 128 % 16) = hd at *
    simp only [if_true]
    have hne := mod_ne_of_lt (d := hd.depth) (a := hd.pp + num % 128 + i) (b := hd.pp + num % 128 + j) (by omega) (by omega)
    generalize (hd.pp + num % 128 + i) % hd.depth = p at *
    generalize (hd.pp + num % 128 + j) % hd.depth = q at *
    rcases Nat.lt_or_gt_of_ne hne with hlt | hgt
    · left
      have := Nat.mul_le_mul_right (hd.slot * 64) (Nat.succ_le_of_lt hlt)
      rw [Nat.succ_mul] at this
      omega
    · right
      have := Nat.mul_le_mul_right (hd.slot * 64) (Nat.succ_le_of_lt hgt)
      rw [Nat.succ_mul] at this
      omega

end Sys2Proof.Machine
end

section
/-!
SUPPORT. The writes of a vector slot's destinations, one register or ring slot after another (04 R119, 06 R176).
-/

namespace Sys2Proof.Machine

variable {s v t : State} {i : Instr}

/-- In `v` the slot at issue in `s` has drawn from generators and has written the values of a list to its destinations of `w` bits
from one on, and nothing else has changed. -/
structure Wrote (s v : State) (gens : List Nat) (dc vd w : Nat) (l : List Nat) : Prop where
  acting : Acting s v
  rest : (v.ctxAt s.ck).rest = s.me.rest
  noVG : (v.ctxAt s.ck).r.noVG = s.me.r.noVG
  gens : (v.ctxAt s.ck).r.gens = (s.me.r.drawList gens).2.gens
  lands : Lands s v dc vd w l.length
  value : ∀ j, j < l.length → v.vBits dc vd j w true = l.getD j 0 % 2 ^ w

theorem openedFor_aside (s : State) (i : Instr) : Aside s (s.openedFor i) := ⟨⟨rfl, (s.openedFor_acting i).beyond⟩, rfl, rfl⟩

/-- Nothing is written yet. -/
theorem Wrote.nil {gens : List Nat} {dc vd w : Nat} (hacting : Acting s v) (haside : Aside s v)
    (hrest : (v.ctxAt s.ck).rest = s.me.rest) (hregs : (v.ctxAt s.ck).r = { s.me.r with gens := (s.me.r.drawList gens).2.gens }) :
    Wrote s v gens dc vd w [] := by
  have hrv (j : Nat) : (v.ctxAt s.ck).r.rv j = s.me.r.rv j := by rw [hregs]; rfl
  obtain ⟨houtside, hmem, hdisp⟩ := haside
  refine ⟨hacting, hrest, by rw [hregs]; rfl, by rw [hregs], ?_, fun j hj => absurd hj (Nat.not_lt_zero j)⟩
  unfold Lands
  split
  · exact ⟨⟨houtside, hmem, hdisp⟩, fun j _ => hrv j, fun j _ _ => by rw [hrv]⟩
  · have hresv (r : Nat) : v.resvAt r = s.resvAt r := by rw [State.resvAt, hdisp]; rfl
    exact ⟨houtside, by rw [hmem], by rw [hdisp], fun r _ => hresv r, by rw [hresv], fun a _ => by rw [hresv], hrv⟩

/-- The next register of the destination. -/
theorem Wrote.register {gens : List Nat} {vd w x : Nat} {l : List Nat} (h : Wrote s v gens 0 vd w l) (hw : w ≤ 1024) :
    Wrote s (v.onCtx s.ck (fun c => c.onR (fun r => r.wvBits (vd + l.length) 0 w x))) gens 0 vd w (l ++ [x]) := by
  obtain ⟨hacting, hrest, hnoVG, hgens, hlands, hvalue⟩ := h
  have hacting' := hacting.onR (g := fun r => r.wvBits (vd + l.length) 0 w x) fun r => ⟨rfl, rfl, rfl⟩
  have hctx : (v.onCtx s.ck (fun c => c.onR (fun r => r.wvBits (vd + l.length) 0 w x))).ctxAt s.ck =
    (v.ctxAt s.ck).onR (fun r => r.wvBits (vd + l.length) 0 w x) := State.ctxAt_onCtx _ _ _
  generalize hu : v.onCtx s.ck (fun c => c.onR (fun r => r.wvBits (vd + l.length) 0 w x)) = u at hacting' hctx
  have hsame : (u.ctxAt s.ck).r.rv (vd + l.length) = setf ((v.ctxAt s.ck).r.rv (vd + l.length)) 0 w x := by
    rw [hctx]; exact Regs.rv_wvBits_same _ _ _ _ _
  have hne (j : Nat) (hj : j ≠ vd + l.length) : (u.ctxAt s.ck).r.rv j = (v.ctxAt s.ck).r.rv j := by
    rw [hctx]; exact Regs.rv_wvBits_ne _ _ _ _ _ _ hj
  obtain ⟨hlow, hhigh⟩ := setf_low ((v.ctxAt s.ck).r.rv (vd + l.length)) x hw
  have hbits (j : Nat) (q : State) (hq : Beyond s q) : q.vBits 0 vd j w true = ((q.ctxAt s.ck).r.rv (vd + j)).toNat % 2 ^ w := by
    rw [State.vBits, hq.me]; rfl
  simp only [Lands, if_true] at hlands
  obtain ⟨⟨⟨hhub, -⟩, hmem, hdisp⟩, hother, hupper⟩ := hlands
  refine ⟨hacting', by rw [hctx, ← hrest]; rfl, by rw [hctx, ← hnoVG]; rfl, by rw [hctx, ← hgens]; rfl, ?_, fun j hj => ?_⟩
  · simp only [Lands, if_true, List.length_append, List.length_singleton]
    refine ⟨⟨⟨by rw [← hu]; exact hhub, hacting'.beyond⟩, by rw [← hu]; exact hmem, by rw [← hu]; exact hdisp⟩, fun j hj => ?_,
      fun j hlo hhi => ?_⟩
    · rw [hne j (by omega)]
      exact hother j (by omega)
    · by_cases hlast : j = vd + l.length
      · rw [hlast, hsame, hhigh, hother _ (by omega)]
      · rw [hne j hlast]
        exact hupper j hlo (by omega)
  · rw [List.length_append, List.length_singleton] at hj
    rw [hbits j u hacting'.beyond]
    by_cases hlast : j = l.length
    · rw [hlast, hsame, hlow, List.getD_append_right _ _ _ _ (Nat.le_refl _), Nat.sub_self, List.getD_cons_zero]
    · rw [hne _ (by omega), ← hbits j v hacting.beyond, hvalue j (by omega), List.getD_append _ _ _ _ (by omega)]

/-- With nothing in flight an access that no scoreboard counts leaves nothing behind. -/
theorem Mems.retire_eq_self {m : Mems} {a : Access} (hpend : m.pend = []) (ha : a.sbSet = none) : m.retire a = m := by
  unfold Mems.retire
  simp only [hpend, List.filter_nil, ha]
  rw [← hpend]

/-- A store to the share with nothing of the context in flight (06 R180): the bytes are there, and the order has gone on. -/
theorem performNow_share {k off n : Nat} (va pkt : W64) (pos : Nat) (data : BitVec 1024) (h : (v.ctxAt k).mem.pend = []) :
    ∃ u : State, v.performNow k { id := 0, kind := .st, va := va, loc := .share off, size := n, data := data, pkt := pkt, pos := pos } = u ∧
      (∀ j, u.ctxAt j = v.ctxAt j) ∧ u.disp = (v.onResv (v.ctxAt k).resv (fun r => r.write off (leBytes n data.toNat))).disp ∧
      { u.mem with now := 0 } = { v.mem with now := 0 } ∧ u.hub = v.hub ∧ u.mgmt = v.mgmt ∧ u.slices = v.slices ∧ u.walks = v.walks ∧
      u.fq = v.fq ∧ u.fqIds = v.fqIds ∧ u.sides = v.sides ∧ u.core = v.core ∧ u.agenda = v.agenda ∧ u.cores = v.cores ∧ u.issue = v.issue := by
  have hpend : (({ v with seq := v.seq + 1 } : State).ctxAt k).mem.pend = [] := h
  have hctx (u : State) (a : Access) (ha : a.sbSet = none) (hu : u.ctxAt k = v.ctxAt k) :
      { u.ctxAt k with mem := (u.ctxAt k).mem.retire a, sys := (u.ctxAt k).sys } = v.ctxAt k := by
    rw [hu, Mems.retire_eq_self h ha]
  refine ⟨_, rfl, fun j => ?_, ?_⟩
  · simp only [State.performNow, State.drainBefore, State.drain, hpend, neededBy, List.foldr_nil, List.any_nil, Bool.false_eq_true, if_false,
      List.foldl_nil, State.perform, State.effect, State.locWrite]
    by_cases hj : j = k
    · rw [hj, State.ctxAt_onCtx]
      exact hctx _ _ rfl rfl
    · rw [State.ctxAt_onCtx_ne _ _ _ _ hj]
      rfl
  · simp only [State.performNow, State.drainBefore, State.drain, hpend, neededBy, List.foldr_nil, List.any_nil, Bool.false_eq_true, if_false,
      List.foldl_nil, State.perform, State.effect, State.locWrite]
    exact ⟨rfl, rfl, rfl, rfl, rfl, rfl, rfl, rfl, rfl, rfl, rfl, rfl, rfl⟩

theorem hs_of_noVG {r r' : Regs} (h : r.noVG = r'.noVG) : r.hs = r'.hs := (congrArg Regs.hs h : r.noVG.hs = r'.noVG.hs)

/-- A ring slot is where the context at issue finds it. -/
theorem Beyond.ringAt (h : Beyond s v) (hhs : (v.ctxAt s.ck).r.hs = s.me.r.hs) (num j : Nat) (dst : Bool) :
    v.ringAt num j dst = s.ringAt num j dst := by
  have hhandle (n : Nat) : v.me.handle n = s.me.handle n := by rw [h.me, Ctx.handle, hhs]; rfl
  rw [State.ringAt, hhandle]
  rfl

/-- The next ring slot of the destination. -/
theorem Wrote.slot {gens : List Nat} {dc vd w x o : Nat} {e : Env} {l : List Nat} (h : Wrote s v gens dc vd w l) (hdc : dc ≠ 0)
    (hw : w ≤ 1024) (hbytes : 8 ∣ w) (he : e = s.slotEnv i) (ho : o = vd % 128) (hpend : s.me.mem.pend = [])
    (hapart : s.SlotsApart vd w (l.length + 1)) :
    Wrote s (v.wrPart e dc vd o w l.length x) gens dc vd w (l ++ [x]) := by
  subst he ho
  obtain ⟨hacting, hrest, hnoVG, hgens, hlands, hvalue⟩ := h
  have hresv : (v.ctxAt s.ck).resv = s.me.resv := (congrArg Ctx.resv hrest : (Ctx.rest _).resv = (Ctx.rest _).resv)
  have hmems : (v.ctxAt s.ck).mem.pend = [] :=
    (congrArg (fun c => c.mem.pend) hrest : (Ctx.rest _).mem.pend = (Ctx.rest _).mem.pend).trans hpend
  obtain ⟨u, hu, hctx, hdisp, hmem, hhub, hmgmt, hslices, hwalks, hfq, hids, hsides, hcore, hagenda, hcores, hissue⟩ :=
    performNow_share (n := w / 8) (off := s.ringAt vd l.length true) (w64 (s.ringAt vd l.length true)) v.issue.pc (s.slotEnv i).pos
      (BitVec.ofNat 1024 (x % 2 ^ w)) hmems
  have hput : v.wrPart (s.slotEnv i) dc vd (vd % 128) w l.length x = u := by
    rw [State.wrPart, if_neg hdc]
    exact hu
  have hsize : 256 ^ (w / 8) = 2 ^ w := by
    rw [show 256 = 2 ^ 8 from rfl, ← Nat.pow_mul, Nat.mul_div_cancel' hbytes]
  have hbs : leBytes (w / 8) (BitVec.ofNat 1024 (x % 2 ^ w)).toNat = leBytes (w / 8) (x % 2 ^ w) := by
    rw [toNat_ofNat_mod x hw]
  rw [hput]
  rw [hresv, hbs] at hdisp
  generalize hb : leBytes (w / 8) (x % 2 ^ w) = bs at hdisp
  have hlen : bs.length = w / 8 := by rw [← hb]; exact leBytes_length _ _
  have hbeyond : Beyond s u :=
    hacting.beyond.of_ctx hmgmt hslices hwalks hfq hids hsides hcore hagenda (fun j _ => hctx j) hcores
  have hacting' : Acting s u := by
    obtain ⟨-, issue, sup, loops, pc, sstep, after⟩ := hacting
    exact ⟨hbeyond, hissue.trans issue, by rw [hctx, sup], by rw [hctx, loops], by rw [hctx, pc], by rw [hctx, sstep], by rw [hctx, after]⟩
  have hthere : u.resvAt s.me.resv = (v.resvAt s.me.resv).write (s.ringAt vd l.length true) bs := by
    rw [State.resvAt, hdisp]; exact mget_mput_same _ _ _ _
  have helse (r : Nat) (hr : r ≠ s.me.resv) : u.resvAt r = v.resvAt r := by
    rw [State.resvAt, hdisp]; exact mget_mput_ne _ _ _ _ _ hr
  simp only [Lands, hdc, if_false] at hlands
  obtain ⟨⟨hhub0, -⟩, hmem0, hdisp0, helse0, hresv0, hbytes0, hrv0⟩ := hlands
  have hread (j : Nat) (q : State) (hq : Beyond s q) (hqr : (q.ctxAt s.ck).r.hs = s.me.r.hs) (hqv : (q.ctxAt s.ck).resv = s.me.resv) :
      q.vBits dc vd j w true = leNat ((q.resvAt s.me.resv).read (s.ringAt vd j true) (w / 8)) := by
    rw [State.vBits, if_neg hdc, hq.ringAt hqr, hq.me, hqv]
  refine ⟨hacting', by rw [hctx]; exact hrest, by rw [hctx]; exact hnoVG, by rw [hctx]; exact hgens, ?_, fun j hj => ?_⟩
  · simp only [Lands, hdc, if_false, List.length_append, List.length_singleton]
    refine ⟨⟨hhub.trans hhub0, hbeyond⟩, hmem.trans hmem0, by rw [hdisp]; exact hdisp0, fun r hr => (helse r hr).trans (helse0 r hr),
      by rw [hthere]; exact hresv0, fun a ha => ?_, fun j => by rw [hctx]; exact hrv0 j⟩
    rw [hthere]
    refine (mget_mwrite_out 0 bs _ _ a ?_).trans (hbytes0 a fun j hj => ha j (by omega))
    rw [hlen]
    exact ha l.length (by omega)
  · rw [List.length_append, List.length_singleton] at hj
    rw [hread j u hbeyond (by rw [hctx]; exact hs_of_noVG hnoVG) (by rw [hctx]; exact hresv), hthere]
    by_cases hlast : j = l.length
    · subst hlast
      rw [← hlen, read_write, ← hb, leNat_leBytes, hsize, Nat.mod_mod, List.getD_append_right _ _ _ _ (Nat.le_refl _), Nat.sub_self,
        List.getD_cons_zero]
    · rw [read_write_out _ (by rw [hlen]; exact hapart j l.length (by omega) (by omega)), ← hread j v hacting.beyond (hs_of_noVG hnoVG) hresv,
        hvalue j (by omega), List.getD_append _ _ _ _ (by omega)]

/-- What a slot's destination field asks of the state: it is a register, or its ring slots stand apart and nothing of the context
is in flight (06 R176, R180). -/
structure State.CanLand (s : State) (dc vd w n : Nat) : Prop where
  width : w = 256 ∨ w = 512 ∨ w = 1024
  pend : dc ≠ 0 → s.me.mem.pend = []
  apart : dc ≠ 0 → s.SlotsApart vd w n

/-- The next destination. -/
theorem Wrote.part {gens : List Nat} {dc vd w x o n : Nat} {l : List Nat} (h : Wrote s v gens dc vd w l) (hland : s.CanLand dc vd w n)
    (hn : l.length < n) (ho : dc ≠ 0 → o = vd % 128) :
    Wrote s (v.wrPart (s.slotEnv i) dc vd o w l.length x) gens dc vd w (l ++ [x]) := by
  obtain ⟨hwidth, hpend, hapart⟩ := hland
  by_cases hdc : dc = 0
  · subst hdc
    exact h.register (by omega)
  · exact h.slot hdc (by omega) (by omega) rfl (ho hdc) (hpend hdc) fun a b hab hb => hapart hdc a b hab (by omega)

/-- Destinations written in turn. -/
theorem Wrote.parts {gens : List Nat} {dc vd w o n : Nat} {l : List Nat} (hland : s.CanLand dc vd w n) (ho : dc ≠ 0 → o = vd % 128)
    (xs : List Nat) (h : Wrote s v gens dc vd w l) (hn : l.length + xs.length ≤ n) :
    Wrote s ((xs.zipIdx l.length).foldl (fun u p => u.wrPart (s.slotEnv i) dc vd o w p.2 p.1) v) gens dc vd w (l ++ xs) := by
  induction xs generalizing l v with
  | nil => simpa using h
  | cons x xs ih =>
    rw [List.length_cons] at hn
    have hnext := ih (h.part (i := i) (x := x) hland (by omega) ho) (by rw [List.length_append, List.length_singleton]; omega)
    rw [List.append_assoc, List.length_append, List.length_singleton] at hnext
    exact hnext

/-- What was changed at the destinations, and nothing else outside the registers, is all that was changed at the end. -/
theorem Lands.ends {dc vd w n : Nat} (h : Lands s v dc vd w n) (hbeyond : Beyond s t) (hmem : t.mem = v.mem) (hdisp : t.disp = v.disp)
    (hhub : t.hub = v.hub) (hrv : ∀ j, (t.ctxAt s.ck).r.rv j = (v.ctxAt s.ck).r.rv j) : Lands s t dc vd w n := by
  have hresv (r : Nat) : t.resvAt r = v.resvAt r := by rw [State.resvAt, hdisp]; rfl
  unfold Lands at h ⊢
  split
  · next hdc =>
    rw [if_pos hdc] at h
    obtain ⟨⟨⟨hub, -⟩, mem, disp⟩, other, upper⟩ := h
    exact ⟨⟨⟨hhub.trans hub, hbeyond⟩, hmem.trans mem, hdisp.trans disp⟩, fun j hj => (hrv j).trans (other j hj),
      fun j hlo hhi => by rw [hrv]; exact upper j hlo hhi⟩
  · next hdc =>
    rw [if_neg hdc] at h
    obtain ⟨⟨hub, -⟩, mem, disp, others, parts, bytes, regs⟩ := h
    exact ⟨⟨hhub.trans hub, hbeyond⟩, by rw [hmem]; exact mem, by rw [hdisp]; exact disp, fun r hr => (hresv r).trans (others r hr),
      by rw [hresv]; exact parts, fun a ha => by rw [hresv]; exact bytes a ha, fun j => (hrv j).trans (regs j)⟩

/-- A destination holds at the end what it held, if its handle and its share are the same. -/
theorem vBits_ends {dc vd j w : Nat} (hb : Beyond s v) (hbeyond : Beyond s t) (hdisp : t.disp = v.disp)
    (hrv : ∀ j, (t.ctxAt s.ck).r.rv j = (v.ctxAt s.ck).r.rv j) (hhs : (v.ctxAt s.ck).r.hs = s.me.r.hs)
    (hhs' : (t.ctxAt s.ck).r.hs = s.me.r.hs) (hres : (t.ctxAt s.ck).resv = (v.ctxAt s.ck).resv) :
    t.vBits dc vd j w true = v.vBits dc vd j w true := by
  have hresv (r : Nat) : t.resvAt r = v.resvAt r := by rw [State.resvAt, hdisp]; rfl
  simp only [State.vBits, hbeyond.ringAt hhs', hb.ringAt hhs, hbeyond.me, hb.me, hrv, hres, hresv]

/-- Once the packet has ended, the destinations hold what was written, and all else is kept. -/
theorem Wrote.ends {gens : List Nat} {dc vd w : Nat} {l : List Nat} (h : Wrote s v gens dc vd w l) (he : Ends s v t) :
    (t.ctxAt s.ck).rest = s.me.rest ∧ (t.ctxAt s.ck).r.noVG = s.me.r.noVG ∧ GoesOn s t ∧
      (t.ctxAt s.ck).r.gens = (s.me.r.drawList gens).2.gens ∧ Lands s t dc vd w l.length ∧
      ∀ j, j < l.length → t.vBits dc vd j w true = l.getD j 0 % 2 ^ w := by
  obtain ⟨hbeyond, hmem, hdisp, hhub, hrest, hregs, hgoes⟩ := he
  have hv : (t.ctxAt s.ck).r.v = (v.ctxAt s.ck).r.v := (congrArg Regs.v hregs : (Regs.noPc _).v = (Regs.noPc _).v)
  have hrv (j : Nat) : (t.ctxAt s.ck).r.rv j = (v.ctxAt s.ck).r.rv j := by rw [Regs.rv, hv]; rfl
  have hnoVG : (t.ctxAt s.ck).r.noVG = (v.ctxAt s.ck).r.noVG := (congrArg (fun r : Regs => { r with v := [], gens := [] }) hregs : _)
  have hres : (t.ctxAt s.ck).resv = (v.ctxAt s.ck).resv := (congrArg Ctx.resv hrest : (Ctx.rest _).resv = (Ctx.rest _).resv)
  exact ⟨hrest.trans h.rest, hnoVG.trans h.noVG, hgoes,
    (congrArg Regs.gens hregs : (Regs.noPc _).gens = (Regs.noPc _).gens).trans h.gens, h.lands.ends hbeyond hmem hdisp hhub hrv,
    fun j hj => (vBits_ends h.acting.beyond hbeyond hdisp hrv (hs_of_noVG h.noVG) (hs_of_noVG (hnoVG.trans h.noVG)) hres).trans (h.value j hj)⟩

end Sys2Proof.Machine
end

section
/-!
SUPPORT. Operations of form VR: what the fields that 04 R129 lets pass are, the inputs of an operation as functions of the element
(06 R173, R179), and what an operation that writes every element, or the enabled ones, completes with.
-/

namespace Sys2Proof.Machine

variable {s v t : State} {i : Instr} {f : VR}

/-! ### Fields that 04 R129 lets pass -/

theorem slotViol_of_ready (h : s.slotReady i = true) : slotViol i = [] := by
  simp only [State.slotReady, State.slotClear, Bool.and_eq_true] at h
  obtain ⟨⟨⟨⟨⟨⟨⟨⟨⟨⟨⟨-, hlegal⟩, -⟩, -⟩, -⟩, -⟩, -⟩, -⟩, -⟩, -⟩, -⟩, -⟩ := h
  rw [slotIllegal, leastReason_isNone, List.isEmpty_iff, List.append_eq_nil_iff, List.append_eq_nil_iff, List.append_eq_nil_iff] at hlegal
  exact hlegal.1.1.1

/-- The fields of a VR slot pass the entry of its operation (04 R129; 06 R175). -/
structure VEntry.Passes (e : VEntry) (f : VR) : Prop where
  w : f.w ≠ 3
  types : e.types f.et.toNat = true
  vd : vdViol e.vd f.vd f.dc = []
  va : vsViol e.va (f.et == 13) f.va f.ac = []
  vb : vsViol e.vb (f.et == 13) f.vb f.bc = []
  rm : rmViol e.rm f.rm = []

theorem VEntry.passes {e : VEntry} (h : vrViol e f = []) : e.Passes f := by
  simp only [vrViol, List.append_eq_nil_iff, viol_eq_nil] at h
  obtain ⟨⟨⟨⟨⟨⟨⟨⟨hw, -⟩, htypes⟩, hvd⟩, hva⟩, hvb⟩, hrm⟩, -⟩, -⟩ := h
  exact ⟨by simpa using hw, by simpa using htypes, hvd, hva, hvb, hrm⟩

theorem nz_eq_false {n : Nat} {x : BitVec n} : nz x = false ↔ x = 0 := by simp [nz]

/-- No source has the reserved class 3. -/
theorem class_ne_three {u : VsUse} {wide : Bool} {x : BitVec 11} {c : BitVec 2} (h : vsViol u wide x c = []) : c ≠ 3 := by
  rintro rfl
  cases u <;> simp [vsViol, viol, nz] at h

theorem class_eq_one {c : BitVec 2} (h3 : c ≠ 3) (h0 : c.toNat ≠ 0) (h2 : c.toNat ≠ 2) : c = 1 := by
  revert c; decide

theorem dst_eq_one {c : BitVec 1} (h0 : c.toNat ≠ 0) : c = 1 := by
  revert c; decide

/-! ### Elements -/

theorem tyBits_pos (et : Nat) : 0 < tyBits et := by
  unfold tyBits; repeat' split
  all_goals decide

theorem tyBits_dvd (et : Nat) : tyBits et ∣ 128 := by
  unfold tyBits; repeat' split
  all_goals decide

theorem eight_dvd_tyBits (et : Nat) : 8 ∣ tyBits et := by
  unfold tyBits; repeat' split
  all_goals decide

theorem tyBits_mul_vCount (f : VR) : tyBits f.et.toNat * vCount f = widthOf f.w :=
  Nat.mul_div_cancel' (Nat.dvd_trans (tyBits_dvd _) (Dvd.intro _ (show 128 * (2 * 2 ^ f.w.toNat) = widthOf f.w by unfold widthOf; omega)))

theorem State.va_lt (s : State) (f : VR) (j : Nat) : s.va f j < 2 ^ tyBits f.et.toNat := vSrc_lt _ _ _ _ _ _
theorem State.vb_lt (s : State) (f : VR) (j : Nat) : s.vb f j < 2 ^ tyBits f.et.toNat := vSrc_lt _ _ _ _ _ _
theorem State.vd_lt (s : State) (f : VR) (j : Nat) : s.vd f j < 2 ^ tyBits f.et.toNat := lane_lt _ _ _

/-! ### Draws (03 R93, R94) -/

theorem drawList_length (r : Regs) (js : List Nat) : (r.drawList js).1.length = js.length := by
  induction js generalizing r with
  | nil => rfl
  | cons j js ih => exact congrArg (· + 1) (ih _)

theorem drawList_regs (r : Regs) (js : List Nat) : (r.drawList js).2 = { r with gens := (r.drawList js).2.gens } := by
  induction js generalizing r with
  | nil => rfl
  | cons j js ih => exact (ih (r.draw j).2).trans rfl

/-- What an operation draws in a mode, and what that leaves of its context. -/
theorem drawsOf_eq (rm : Nat) (js : List Nat) (hregs : (v.ctxAt s.ck).r = s.me.r) :
    (v.drawsOf s.ck rm js).1 = (List.range js.length).map (s.drawAt (srGens rm js)) ∧
      ((v.drawsOf s.ck rm js).2 = v ∧ srGens rm js = [] ∨
        (v.drawsOf s.ck rm js).2 = v.putCtx s.ck ((v.ctxAt s.ck).onR fun r => { r with gens := (s.me.r.drawList (srGens rm js)).2.gens })) := by
  unfold State.drawsOf srGens
  by_cases h : rm = 4
  · simp only [h, if_true, hregs]
    refine ⟨List.ext_getElem (by simp [drawList_length]) fun j hj _ => ?_, Or.inr ?_⟩
    · rw [List.getElem_map, List.getElem_range, State.drawAt, List.getD_eq_getElem _ _ hj]
    · rw [Ctx.onR, hregs, ← drawList_regs]
  · simp only [h, if_false]
    have hzero : (List.range js.length).map (s.drawAt []) = (List.range js.length).map (fun _ => (0 : BitVec 32)) := rfl
    exact ⟨by simp only [hzero, List.map_const', List.length_range], Or.inl ⟨trivial, trivial⟩⟩

/-- The state in which an operation writes, its draws taken. -/
theorem Wrote.drawn (s : State) (i : Instr) (rm : Nat) (js : List Nat) (dc vd w : Nat) :
    Wrote s ((s.openedFor i).drawsOf s.ck rm js).2 (srGens rm js) dc vd w [] := by
  obtain ⟨hr, hrest, -, -⟩ := State.openedFor_ctx (s := s) (i := i)
  have hacting := s.openedFor_acting i
  rcases (drawsOf_eq rm js hr).2 with ⟨hsame, hnone⟩ | hput
  · rw [hsame, hnone]
    exact Wrote.nil hacting (openedFor_aside s i) hrest (by rw [hr]; rfl)
  · rw [hput]
    obtain ⟨⟨hhub, -⟩, hmem, hdisp⟩ := openedFor_aside s i
    have hacting' := hacting.onR (g := fun r => { r with gens := (s.me.r.drawList (srGens rm js)).2.gens }) fun r => ⟨rfl, rfl, rfl⟩
    refine Wrote.nil hacting' ⟨⟨hhub, hacting'.beyond⟩, hmem, hdisp⟩ ?_ ?_
    · rw [State.ctxAt_putCtx, ← hrest]; rfl
    · rw [State.ctxAt_putCtx, Ctx.onR, hr]

/-! ### A slot that is ready -/

/-- What `CompletesV` asks of a state. -/
structure State.VReady (s : State) (i : Instr) : Prop where
  ready : s.slotReady i = true
  free : s.slotFree i = true
  clean : (vPoison i (s.slotEnv i)).isNone
  plain : s.endsPlain = true

theorem completesV_of {post : State → State → Prop} (h : ∀ s, s.VReady i → ∃ t, exec i s = .next t ∧ post s t) : CompletesV i post :=
  fun s ready free clean plain => h s ⟨ready, free, clean, plain⟩

theorem State.VReady.legal (h : s.VReady i) : slotViol i = [] := slotViol_of_ready h.ready

theorem State.VReady.ends {m : SlotSem} {act : Env → State → State} (h : s.VReady i) (hsem : slotSem i = some m) (hwait : m.wait = vWait i)
    (hdo : m.act = (vDo i act).act) (ha : Acting s (act (s.slotEnv i) (s.openedFor i))) :
    ∃ t, exec i s = .next t ∧ Ends s (act (s.slotEnv i) (s.openedFor i)) t :=
  vDo_ends hsem hwait hdo h.ready h.free h.clean h.plain ha

/-- Nothing of the context is in flight where an operation has a ring operand (06 R180). -/
theorem pend_of_ready (h : s.slotReady i = true) (hring : vRings i (freshLatch s.me i) ≠ []) : s.me.mem.pend = [] := by
  simp only [State.slotReady, State.slotClear, Bool.and_eq_true, Bool.or_eq_true, List.isEmpty_iff] at h
  obtain ⟨⟨-, hpend⟩, -⟩ := h
  exact hpend.resolve_right hring

/-! ### Operands of form VR -/

theorem ringD_vr (hf : formOf i = .vr f) (h : f.dc.toNat ≠ 0) : (s.slotEnv i).o.ringD = f.vd.toNat % 128 := by
  have hone := dst_eq_one h
  simp only [State.slotEnv, freshLatch, hf, hone, if_true, bf, fld, Nat.pow_zero, Nat.div_one, Nat.reducePow]

theorem ringA_vr (hf : formOf i = .vr f) (h3 : f.ac ≠ 3) (h0 : f.ac.toNat ≠ 0) (h2 : f.ac.toNat ≠ 2) :
    (s.slotEnv i).o.ringA = f.va.toNat % 128 := by
  have hone := class_eq_one h3 h0 h2
  simp only [State.slotEnv, freshLatch, hf, hone, if_true, bf, fld, Nat.pow_zero, Nat.div_one, Nat.reducePow]

theorem ringB_vr (hf : formOf i = .vr f) (h3 : f.bc ≠ 3) (h0 : f.bc.toNat ≠ 0) (h2 : f.bc.toNat ≠ 2) :
    (s.slotEnv i).o.ringB = f.vb.toNat % 128 := by
  have hone := class_eq_one h3 h0 h2
  simp only [State.slotEnv, freshLatch, hf, hone, if_true, bf, fld, Nat.pow_zero, Nat.div_one, Nat.reducePow]

/-- A register or a ring slot of the destination class can take a result. -/
theorem State.VReady.canLand (h : s.VReady i) (hf : formOf i = .vr f) (hw : f.w ≠ 3) :
    s.CanLand f.dc.toNat f.vd.toNat (widthOf f.w) 1 := by
  refine ⟨widthOf_cases hw, fun hdc => pend_of_ready h.ready ?_, fun _ => s.slotsApart_one _ _⟩
  simp only [vRings, hf, dst_eq_one hdc, if_true]
  simp

/-- The generators that an operation of form VR draws from, where RM is its rounding mode or not. -/
def vrGens (rounds : Bool) (f : VR) : List Nat := if rounds then vGens f else []

/-- The inputs of the slot at issue (06 R173, R179). -/
def State.vInputs (s : State) (i : Instr) (f : VR) (rounds : Bool) : VIn :=
  vIn i f (if rounds then f.rm.toNat else 0)
    ((List.range (vDraws (isCplx f.et.toNat) (vCount f)).length).map (s.drawAt (vrGens rounds f))) (s.slotEnv i)

theorem decide_isCplx (et : Nat) : decide (et = 12 ∨ et = 13) = isCplx et := by
  simp [isCplx, Bool.beq_eq_decide_eq]

/-- The act of an operation of form VR: on its inputs, and on the state with its draws taken. -/
theorem vrWith_act {rounds : Bool} {act : Env → VIn → State → State} :
    (vrWith i f rounds act).act = (vDo i fun e u => let n := widthOf f.w / tyBits f.et.toNat
      let rm := if rounds then f.rm.toNat else 0
      let d := u.drawsOf e.k rm (vDraws (decide (f.et.toNat = 12 ∨ f.et.toNat = 13)) n)
      act e (vIn i f rm d.1 e) d.2).act := rfl

/-- An operation of form VR completes with what it does on its inputs, from the state in which its draws are taken. -/
theorem State.VReady.vrWith_ends {rounds : Bool} {act : Env → VIn → State → State} {m : SlotSem} (h : s.VReady i) (hsem : slotSem i = some m)
    (hm : m = vrWith i f rounds act)
    (ha : ∀ u, (∀ dc vd w, Wrote s u (vrGens rounds f) dc vd w []) → Acting s (act (s.slotEnv i) (s.vInputs i f rounds) u)) :
    ∃ u t, (∀ dc vd w, Wrote s u (vrGens rounds f) dc vd w []) ∧ exec i s = .next t ∧
      Ends s (act (s.slotEnv i) (s.vInputs i f rounds) u) t := by
  subst hm
  have hgens : srGens (if rounds then f.rm.toNat else 0) (vDraws (isCplx f.et.toNat) (vCount f)) = vrGens rounds f := by
    cases rounds <;> rfl
  have hdrawn := Wrote.drawn s i (if rounds then f.rm.toNat else 0) (vDraws (isCplx f.et.toNat) (vCount f))
  have hlist := (drawsOf_eq (if rounds then f.rm.toNat else 0) (vDraws (isCplx f.et.toNat) (vCount f)) (State.openedFor_ctx (s := s) (i := i)).1).1
  rw [hgens] at hdrawn hlist
  have hends := h.ends hsem rfl vrWith_act (by
    simp only [decide_isCplx]
    rw [show (s.slotEnv i).k = s.ck from rfl, show widthOf f.w / tyBits f.et.toNat = vCount f from rfl, hlist]
    exact ha _ hdrawn)
  obtain ⟨t, ht, hend⟩ := hends
  refine ⟨_, t, hdrawn, ht, ?_⟩
  simp only [decide_isCplx] at hend
  rw [show (s.slotEnv i).k = s.ck from rfl, show widthOf f.w / tyBits f.et.toNat = vCount f from rfl, hlist] at hend
  exact hend

end Sys2Proof.Machine
end

section
/-!
SUPPORT. The inputs of an operation of form VR as functions of the element, and what an operation that computes a list of results
from them completes with: it writes every element, or the enabled ones (06 R173, R174, R179).
-/

namespace Sys2Proof.Machine

variable {s v t : State} {i : Instr} {f : VR} {rounds : Bool}

/-! ### Inputs -/

theorem vInputs_a (hf : formOf i = .vr f) (hno : noVa i = false) (h3 : f.ac ≠ 3) :
    (s.vInputs i f rounds).a = (List.range (vCount f)).map (s.va f) := by
  simp only [State.vInputs, vIn, hno, Bool.false_eq_true, if_false]
  exact src_slotEnv (ringA_vr hf h3)

theorem vInputs_b (hf : formOf i = .vr f) (hno : noVb i = false) (h3 : f.bc ≠ 3) :
    (s.vInputs i f rounds).b' = (List.range (vCount f)).map (s.vb f) := by
  simp only [State.vInputs, vIn, hno, Bool.false_eq_true, if_false]
  exact src_slotEnv (ringB_vr hf h3)

theorem vInputs_d (hf : formOf i = .vr f) (hno : noVd i = false) :
    (s.vInputs i f rounds).d = (List.range (vCount f)).map (s.vd f) := by
  simp only [State.vInputs, vIn, hno, Bool.false_eq_true, if_false]
  rw [part_slotEnv (ringD_vr hf), elems_eq]
  rfl

@[simp] theorem vInputs_n : (s.vInputs i f rounds).n = vCount f := rfl
@[simp] theorem vInputs_bits : (s.vInputs i f rounds).b = tyBits f.et.toNat := rfl
@[simp] theorem vInputs_mask : (s.vInputs i f rounds).mask = s.me.r.rm f.mask.toNat := rfl
@[simp] theorem vInputs_r : (s.vInputs i f rounds).r = s.me.r := rfl
@[simp] theorem vInputs_rm : (s.vInputs i f true).rm = Rnd.get f.rm.toNat := rfl

theorem enabled_eq_lit (s : State) (f : VR) (j : Nat) : enabled (s.me.r.rm f.mask.toNat) (tyBits f.et.toNat) j = s.lit f j := rfl

/-! ### Draws -/

theorem vDraws_length (cplx : Bool) (n : Nat) : (vDraws cplx n).length = if cplx then 2 * n else n := by
  unfold vDraws upto
  cases cplx
  · simp
  · simp [Nat.mul_comm]

/-- Each position of a real type has one draw (06 R179). -/
theorem vInputs_draws (hreal : isCplx f.et.toNat = false) :
    (s.vInputs i f true).draws.zip (s.vInputs i f true).draws2 = (List.range (vCount f)).map (fun j => (s.vDraw f j, s.vDraw f j)) := by
  have hnot : ¬(f.et.toNat = 12 ∨ f.et.toNat = 13) := by
    intro h
    rw [← decide_isCplx, decide_eq_true h] at hreal
    cases hreal
  simp only [State.vInputs, vIn, vrGens, if_true, hnot, if_false, vDraws_length, hreal, Bool.false_eq_true]
  exact zip_range _ _ _

/-- Each position of a complex type has two draws, for its parts (06 R179). -/
theorem vInputs_draws_cplx (hcplx : isCplx f.et.toNat = true) :
    (s.vInputs i f true).draws.zip (s.vInputs i f true).draws2 =
      (List.range (vCount f)).map (fun j => (s.vDraw f (2 * j), s.vDraw f (2 * j + 1))) := by
  have hyes : f.et.toNat = 12 ∨ f.et.toNat = 13 := by
    rw [← decide_isCplx] at hcplx
    exact of_decide_eq_true hcplx
  simp only [State.vInputs, vIn, vrGens, if_true, hyes, vDraws_length, hcplx]
  rw [evens_range, evens_drop_range]
  exact zip_range _ _ _

/-! ### Results of one, two and three operands -/

section
variable (hf : formOf i = .vr f)
include hf

theorem vInputs_map1 (g : Nat → Nat) (ha : noVa i = false) (ha3 : f.ac ≠ 3) :
    (s.vInputs i f rounds).map1 g = (List.range (vCount f)).map (fun j => g (s.va f j)) := by
  rw [VIn.map1, vInputs_a hf ha ha3, List.map_map]
  rfl

theorem vInputs_map2 (g : Nat → Nat → Nat) (ha : noVa i = false) (hb : noVb i = false) (ha3 : f.ac ≠ 3) (hb3 : f.bc ≠ 3) :
    (s.vInputs i f rounds).map2 g = (List.range (vCount f)).map (fun j => g (s.va f j) (s.vb f j)) := by
  rw [VIn.map2, vInputs_a hf ha ha3, vInputs_b hf hb hb3, zipWith_range]

theorem vInputs_map3 (g : Nat → Nat → Nat → Nat) (ha : noVa i = false) (hb : noVb i = false) (hd : noVd i = false) (ha3 : f.ac ≠ 3)
    (hb3 : f.bc ≠ 3) :
    (s.vInputs i f rounds).map3 g = (List.range (vCount f)).map (fun j => g (s.va f j) (s.vb f j) (s.vd f j)) := by
  rw [VIn.map3, vInputs_a hf ha ha3, vInputs_b hf hb hb3, vInputs_d hf hd, zip_range, zipWith_range]

end

/-! ### Completion -/

/-- An operation whose act writes one destination completes with the destination written. -/
theorem State.VReady.vrLands {m : SlotSem} {act : Env → VIn → State → State} {dc vd o x : Nat} (h : s.VReady i) (hsem : slotSem i = some m)
    (hm : m = vrWith i f rounds act) (hland : s.CanLand dc vd (widthOf f.w) 1) (ho : dc ≠ 0 → o = vd % 128)
    (hact : ∀ u, act (s.slotEnv i) (s.vInputs i f rounds) u = u.wrPart (s.slotEnv i) dc vd o (widthOf f.w) 0 x) :
    ∃ t, exec i s = .next t ∧ VKept s t dc vd (widthOf f.w) (vrGens rounds f) ∧
      t.vBits dc vd 0 (widthOf f.w) true = x % 2 ^ widthOf f.w := by
  have hput (u : State) (hu : ∀ dc vd w, Wrote s u (vrGens rounds f) dc vd w []) :
      Wrote s (act (s.slotEnv i) (s.vInputs i f rounds) u) (vrGens rounds f) dc vd (widthOf f.w) [x] :=
    hact u ▸ (hu dc vd (widthOf f.w)).part hland (Nat.lt_succ_self 0) ho
  obtain ⟨u, t, hu, ht, hend⟩ := h.vrWith_ends hsem hm fun u hu => (hput u hu).acting
  obtain ⟨hrest, hregs, hgoes, hgens, hlands, hvalue⟩ := (hput u hu).ends hend
  exact ⟨t, ht, ⟨hrest, hregs, hgoes, hgens, hlands⟩, hvalue 0 (by simp)⟩

/-- A destination that holds a packed list holds its elements. -/
theorem FillsV.of_packEl {gens : List Nat} {p : Nat → Nat} (h : VKept s t f.dc.toNat f.vd.toNat (widthOf f.w) gens)
    (hx : t.vBits f.dc.toNat f.vd.toNat 0 (widthOf f.w) true =
      packEl (tyBits f.et.toNat) ((List.range (vCount f)).map p) % 2 ^ widthOf f.w) : FillsV s t f gens p := by
  refine ⟨h, fun j hj => ?_⟩
  have hle : tyBits f.et.toNat * (j + 1) ≤ widthOf f.w := tyBits_mul_vCount f ▸ Nat.mul_le_mul_left _ hj
  rw [State.vd, hx, lane_mod _ hle, lane_packEl_range p hj]

/-- The act of an operation that computes the list of its results. -/
def vrPut (f : VR) (g : VIn → List Nat) (e : Env) (x : VIn) (u : State) : State :=
  u.wrPart e f.dc.toNat f.vd.toNat e.o.ringD (widthOf f.w) 0 (packEl x.b (g x))

/-- An operation that computes a result for every element completes with the elements written. -/
theorem State.VReady.fills {m : SlotSem} {g : VIn → List Nat} {p : Nat → Nat} (h : s.VReady i) (hsem : slotSem i = some m)
    (hm : m = vrWith i f rounds (vrPut f g)) (hf : formOf i = .vr f) (hw : f.w ≠ 3)
    (hg : g (s.vInputs i f rounds) = (List.range (vCount f)).map p) :
    ∃ t, exec i s = .next t ∧ FillsV s t f (vrGens rounds f) p := by
  obtain ⟨t, ht, hkept, hvalue⟩ := h.vrLands hsem hm (h.canLand hf hw) (ringD_vr hf) fun u => rfl
  exact ⟨t, ht, FillsV.of_packEl hkept (by rw [hvalue, hg]; rfl)⟩

/-- Results under a mask: those of enabled elements, and the old bits or zero elsewhere (06 R173). -/
theorem FillsV.writes {gens : List Nat} {p q : Nat → Nat}
    (h : FillsV s t f gens (fun j => if s.lit f j then p j else if f.mrg == 1 then s.vd f j else 0))
    (hp : ∀ j, j < vCount f → p j % 2 ^ tyBits f.et.toNat = q j % 2 ^ tyBits f.et.toNat) : WritesV s t f gens q := by
  refine ⟨h.1, fun j hj => (h.2 j hj).trans ?_⟩
  simp only [beq_iff_eq]
  split
  · exact hp j hj
  · split
    · exact Nat.mod_eq_of_lt (s.vd_lt f j)
    · exact Nat.zero_mod _

/-- An elementwise operation completes with its enabled elements written. -/
theorem State.VReady.writes {m : SlotSem} {g : VIn → List Nat} {p q : Nat → Nat} (h : s.VReady i) (hsem : slotSem i = some m)
    (hm : m = vrOp i f rounds g) (hf : formOf i = .vr f) (hw : f.w ≠ 3) (hd : noVd i = false)
    (hg : g (s.vInputs i f rounds) = (List.range (vCount f)).map p)
    (hp : ∀ j, j < vCount f → p j % 2 ^ tyBits f.et.toNat = q j % 2 ^ tyBits f.et.toNat) :
    ∃ t, exec i s = .next t ∧ WritesV s t f (vrGens rounds f) q := by
  obtain ⟨t, ht, hfills⟩ := h.fills (g := fun x => maskMerge x.mask x.b (f.mrg == 1) 0 (g x) x.d) hsem hm hf hw (by
    rw [hg, vInputs_d hf hd, maskMerge_range])
  simp only [vInputs_mask, vInputs_bits, Nat.zero_add, enabled_eq_lit] at hfills
  exact ⟨t, ht, hfills.writes hp⟩

/-! ### Families of operations -/

/-- A family of operations of form VR, one for each setting of the fields, with the entry that 04 R129 checks them against. -/
structure OfForm (mk : VR → Instr) (e : VEntry) : Prop where
  form : ∀ f, formOf (mk f) = .vr f := by intro _; rfl
  passes : ∀ f, slotViol (mk f) = [] → e.Passes f := by intro _ h; exact VEntry.passes h

section
variable {mk : VR → Instr} {e : VEntry}

/-- A family that writes every element. -/
theorem OfForm.fills {op : VR → VIn → List Nat} {p : VR → State → Nat → Nat} (ho : OfForm mk e)
    (hsem : ∀ f, slotSem (mk f) = some (vrWith (mk f) f rounds (vrPut f (op f))))
    (hop : ∀ f s, e.Passes f → op f (s.vInputs (mk f) f rounds) = (List.range (vCount f)).map (p f s)) (f : VR) :
    CompletesV (mk f) fun s t => FillsV s t f (vrGens rounds f) (p f s) :=
  completesV_of fun s h => by
    have hpass := ho.passes f h.legal
    exact h.fills (hsem f) rfl (ho.form f) hpass.w (hop f s hpass)

/-- A family that writes every element whatever the mask. -/
theorem OfForm.fillsAll {op : VR → VIn → List Nat} {p : VR → State → Nat → Nat} (ho : OfForm mk e)
    (hsem : ∀ f, slotSem (mk f) = some (vrAll (mk f) f false (op f)))
    (hop : ∀ f s, e.Passes f → op f (s.vInputs (mk f) f false) = (List.range (vCount f)).map (p f s)) (f : VR) :
    CompletesV (mk f) fun s t => FillsV s t f [] (p f s) := ho.fills hsem hop f

/-- A family that writes the enabled elements. -/
theorem OfForm.writes {op : VR → VIn → List Nat} {p v : VR → State → Nat → Nat} (ho : OfForm mk e)
    (hsem : ∀ f, slotSem (mk f) = some (vrOp (mk f) f rounds (op f))) (hd : ∀ f, noVd (mk f) = false)
    (hop : ∀ f s, e.Passes f → op f (s.vInputs (mk f) f rounds) = (List.range (vCount f)).map (p f s))
    (hp : ∀ f s j, e.Passes f → j < vCount f → p f s j % 2 ^ tyBits f.et.toNat = v f s j % 2 ^ tyBits f.et.toNat) (f : VR) :
    CompletesV (mk f) fun s t => WritesV s t f (vrGens rounds f) (v f s) :=
  completesV_of fun s h => by
    have hpass := ho.passes f h.legal
    exact h.writes (hsem f) rfl (ho.form f) hpass.w (hd f) (hop f s hpass) fun j => hp f s j hpass

/-- Elementwise operations on one source. -/
theorem OfForm.lanes1 {g : VR → VIn → Nat → Nat} {v : VR → State → Nat → Nat} (ho : OfForm mk e)
    (hsem : ∀ f, slotSem (mk f) = some (vrOp (mk f) f false fun x => x.map1 (g f x)))
    (hno : ∀ f, noVa (mk f) = false ∧ noVd (mk f) = false)
    (hg : ∀ f s j, e.Passes f → g f (s.vInputs (mk f) f false) (s.va f j) % 2 ^ tyBits f.et.toNat = v f s j % 2 ^ tyBits f.et.toNat) :
    Lanes mk v :=
  ho.writes hsem (fun f => (hno f).2)
    (fun f _ hpass => vInputs_map1 (ho.form f) _ (hno f).1 (class_ne_three hpass.va)) fun f s j hpass _ => hg f s j hpass

/-- Elementwise operations on two sources. -/
theorem OfForm.lanes2 {g : VR → Nat → Nat → Nat} {v : VR → State → Nat → Nat} (ho : OfForm mk e)
    (hsem : ∀ f, slotSem (mk f) = some (vrOp (mk f) f false fun x => x.map2 (g f)))
    (hno : ∀ f, noVa (mk f) = false ∧ noVb (mk f) = false ∧ noVd (mk f) = false)
    (hg : ∀ f s j, e.Passes f → g f (s.va f j) (s.vb f j) % 2 ^ tyBits f.et.toNat = v f s j % 2 ^ tyBits f.et.toNat) : Lanes mk v :=
  ho.writes hsem (fun f => (hno f).2.2)
    (fun f _ hpass => vInputs_map2 (ho.form f) (g f) (hno f).1 (hno f).2.1 (class_ne_three hpass.va) (class_ne_three hpass.vb))
    fun f s j hpass _ => hg f s j hpass

/-- Elementwise operations on two sources and the destination. -/
theorem OfForm.lanes3 {g : VR → Nat → Nat → Nat → Nat} {v : VR → State → Nat → Nat} (ho : OfForm mk e)
    (hsem : ∀ f, slotSem (mk f) = some (vrOp (mk f) f false fun x => x.map3 (g f)))
    (hno : ∀ f, noVa (mk f) = false ∧ noVb (mk f) = false ∧ noVd (mk f) = false)
    (hg : ∀ f s j, e.Passes f → g f (s.va f j) (s.vb f j) (s.vd f j) % 2 ^ tyBits f.et.toNat = v f s j % 2 ^ tyBits f.et.toNat) :
    Lanes mk v :=
  ho.writes hsem (fun f => (hno f).2.2)
    (fun f _ hpass => vInputs_map3 (ho.form f) (g f) (hno f).1 (hno f).2.1 (hno f).2.2 (class_ne_three hpass.va) (class_ne_three hpass.vb))
    fun f s j hpass _ => hg f s j hpass

end

end Sys2Proof.Machine
end

section
/-!
SUPPORT. The integers of vector elements (03 R78, R81) as the statements read them, and counts of bits.
-/

namespace Sys2Proof.Machine

variable {f : VR} {s : State}

theorem intOf_bits (f : VR) : (intOf f).bits = tyBits f.et.toNat := rfl
theorem intOf_signed (f : VR) : (intOf f).signed = (f.et.toNat % 2 == 0) := rfl

theorem toNat_ofInt_eq (n : Nat) (z : Int) : (BitVec.ofInt n z).toNat = (z % (2 ^ n : Nat)).toNat := by
  rw [BitVec.toNat_ofInt]

/-- A signed code is its two's complement value. -/
theorem decode_signed {b : Nat} (x : Nat) (hb : 0 < b) : IFmt.decode ⟨b, true⟩ x = (BitVec.ofNat b x).toInt := by
  have hpow : 2 ^ b = 2 * 2 ^ (b - 1) := by rw [← Nat.pow_succ', Nat.succ_eq_add_one, Nat.sub_add_cancel hb]
  rw [BitVec.toInt_eq_toNat_cond, BitVec.toNat_ofNat, IFmt.decode]
  simp only [true_and]
  split <;> split
  · omega
  · rfl
  · rfl
  · omega

theorem decode_intOf {x : Nat} (hx : x < 2 ^ tyBits f.et.toNat) : (intOf f).decode x = vInt f x := by
  unfold vInt
  split
  · next heven =>
    have hsigned : intOf f = ⟨tyBits f.et.toNat, true⟩ := by
      rw [intOf, tyInt, heven]; rfl
    rw [hsigned, decode_signed x (tyBits_pos _)]
  · next hodd =>
    have hunsigned : (intOf f).signed = false := by
      rw [intOf_signed, beq_eq_false_iff_ne]; exact hodd
    simp only [IFmt.decode, hunsigned, Bool.false_eq_true, false_and, if_false, intOf_bits]
    rw [Nat.mod_eq_of_lt hx]

theorem wrap_intOf (z : Int) : (intOf f).wrap z = vNat f z := (toNat_ofInt_eq _ z).symm

/-- A code is that of its value. -/
theorem vNat_vInt {x : Nat} (hx : x < 2 ^ tyBits f.et.toNat) : vNat f (vInt f x) = x := by
  unfold vNat vInt
  split
  · rw [BitVec.ofInt_toInt, BitVec.toNat_ofNat, Nat.mod_eq_of_lt hx]
  · rw [BitVec.ofInt_natCast, BitVec.toNat_ofNat, Nat.mod_eq_of_lt hx]

theorem intOf_lo (f : VR) : (intOf f).lo = vLeast f := by
  simp only [IFmt.lo, intOf_bits, intOf_signed, vLeast, beq_iff_eq]
  split <;> simp

theorem intOf_hi (f : VR) : (intOf f).hi = vGreatest f := by
  simp only [IFmt.hi, intOf_bits, intOf_signed, vGreatest, beq_iff_eq]
  split <;> simp

theorem sat_intOf (z : Int) : (intOf f).sat z = vNat f (max (vLeast f) (min (vGreatest f) z)) := by
  rw [IFmt.sat, wrap_intOf, intOf_lo, intOf_hi]

/-- The lesser or greater of two codes is that of the lesser or greater value. -/
theorem minMaxInt_intOf {a b : Nat} (ha : a < 2 ^ tyBits f.et.toNat) (hb : b < 2 ^ tyBits f.et.toNat) :
    minMaxInt (intOf f).bits (intOf f).signed false a b = vNat f (min (vInt f a) (vInt f b)) ∧
      minMaxInt (intOf f).bits (intOf f).signed true a b = vNat f (max (vInt f a) (vInt f b)) := by
  have hfmt : (⟨(intOf f).bits, (intOf f).signed⟩ : IFmt) = intOf f := rfl
  simp only [minMaxInt, hfmt, decode_intOf ha, decode_intOf hb]
  by_cases hlt : vInt f a < vInt f b
  · simp [hlt, min_eq_left (Int.le_of_lt hlt), max_eq_right (Int.le_of_lt hlt), vNat_vInt ha, vNat_vInt hb]
  · have hle := Int.not_lt.mp hlt
    simp [hlt, min_eq_right hle, max_eq_left hle, vNat_vInt ha, vNat_vInt hb]

/-! ### Counts of bits -/

theorem leadingZeros_spec {w x : Nat} (hx : x < 2 ^ w) : leadingZeros w x ≤ w ∧ x < 2 ^ (w - leadingZeros w x) ∧
    (leadingZeros w x < w → x.testBit (w - 1 - leadingZeros w x) = true) := by
  unfold leadingZeros
  by_cases h : x = 0
  · simp [h]
  · have hlog : Nat.log2 x < w := (Nat.log2_lt h).mpr hx
    simp only [h, if_false]
    refine ⟨by omega, ?_, fun _ => ?_⟩
    · rw [show w - (w - 1 - x.log2) = x.log2 + 1 by omega]
      exact Nat.lt_log2_self
    · rw [show w - 1 - (w - 1 - x.log2) = x.log2 by omega]
      exact Nat.testBit_log2 h

theorem setBits_eq (w x : Nat) : setBits w x = (List.range w).countP (fun i => x.testBit i) := by
  induction w generalizing x with
  | zero => rfl
  | succ w ih =>
    rw [setBits, ih, List.range_succ_eq_map, List.countP_cons, List.countP_map, Nat.add_comm]
    congr 1
    · exact List.countP_congr fun i _ => by simp [Nat.testBit_succ]
    · rw [Nat.testBit_zero]
      rcases Nat.mod_two_eq_zero_or_one x with h | h <;> simp [h]

end Sys2Proof.Machine
end

section
open Sys2Proof Sys2Proof.Machine

/-- Settles O22: each operation is elementwise, and on the integers of its elements it is what 06 R182 says. -/
theorem vectorIntegersAndBits : Obligations.VectorIntegersAndBits := by
  unfold Obligations.VectorIntegersAndBits
  refine ⟨⟨?_, ?_, ?_, ?_, ?_, ?_, ?_, ?_, ?_, ?_, ?_, ?_, ?_, ?_⟩, ?_, ?_, ?_, ?_, ?_, ?_⟩
  · exact OfForm.lanes2 {} (fun _ => rfl) (fun _ => ⟨rfl, rfl, rfl⟩) fun f s j _ => by
      rw [wrap_intOf, decode_intOf (s.va_lt f j), decode_intOf (s.vb_lt f j)]
  · exact OfForm.lanes2 {} (fun _ => rfl) (fun _ => ⟨rfl, rfl, rfl⟩) fun f s j _ => by
      rw [wrap_intOf, decode_intOf (s.va_lt f j), decode_intOf (s.vb_lt f j)]
  · exact OfForm.lanes2 {} (fun _ => rfl) (fun _ => ⟨rfl, rfl, rfl⟩) fun f s j _ => by
      rw [wrap_intOf, decode_intOf (s.va_lt f j), decode_intOf (s.vb_lt f j)]
  · exact OfForm.lanes2 {} (fun _ => rfl) (fun _ => ⟨rfl, rfl, rfl⟩) fun f s j _ => by
      rw [wrap_intOf, decode_intOf (s.va_lt f j), decode_intOf (s.vb_lt f j), intOf_bits, Int.natCast_pow, Int.cast_ofNat_Int]
  · exact OfForm.lanes3 {} (fun _ => rfl) (fun _ => ⟨rfl, rfl, rfl⟩) fun f s j _ => by
      rw [wrap_intOf, decode_intOf (s.va_lt f j), decode_intOf (s.vb_lt f j), decode_intOf (s.vd_lt f j)]
  · exact OfForm.lanes1 {} (fun _ => rfl) (fun _ => ⟨rfl, rfl⟩) fun f s j _ => by
      rw [wrap_intOf, decode_intOf (s.va_lt f j), Int.natCast_natAbs]
  · exact OfForm.lanes1 {} (fun _ => rfl) (fun _ => ⟨rfl, rfl⟩) fun f s j _ => by
      rw [wrap_intOf, decode_intOf (s.va_lt f j)]
  · exact OfForm.lanes2 {} (fun _ => rfl) (fun _ => ⟨rfl, rfl, rfl⟩) fun f s j _ => by
      rw [(minMaxInt_intOf (s.va_lt f j) (s.vb_lt f j)).1]
  · exact OfForm.lanes2 {} (fun _ => rfl) (fun _ => ⟨rfl, rfl, rfl⟩) fun f s j _ => by
      rw [(minMaxInt_intOf (s.va_lt f j) (s.vb_lt f j)).2]
  · exact OfForm.lanes2 {} (fun _ => rfl) (fun _ => ⟨rfl, rfl, rfl⟩) fun f s j _ => by
      rw [sat_intOf, decode_intOf (s.va_lt f j), decode_intOf (s.vb_lt f j)]
  · exact OfForm.lanes2 {} (fun _ => rfl) (fun _ => ⟨rfl, rfl, rfl⟩) fun f s j _ => by
      rw [sat_intOf, decode_intOf (s.va_lt f j), decode_intOf (s.vb_lt f j)]
  · exact OfForm.lanes2 {} (fun _ => rfl) (fun _ => ⟨rfl, rfl, rfl⟩) fun f s j _ => rfl
  · exact OfForm.lanes2 {} (fun _ => rfl) (fun _ => ⟨rfl, rfl, rfl⟩) fun f s j _ => rfl
  · refine OfForm.lanes2 {} (fun _ => rfl) (fun _ => ⟨rfl, rfl, rfl⟩) fun f s j _ => ?_
    simp only [intOf_bits, decode_signed _ (tyBits_pos _), Int.natCast_pow, Int.cast_ofNat_Int]
    rw [IFmt.wrap, ← toNat_ofInt_eq]; rfl
  · exact OfForm.lanes2 {} (fun _ => rfl) (fun _ => ⟨rfl, rfl, rfl⟩) fun f s j _ => rfl
  · exact OfForm.lanes2 {} (fun _ => rfl) (fun _ => ⟨rfl, rfl, rfl⟩) fun f s j _ => rfl
  · exact OfForm.lanes2 {} (fun _ => rfl) (fun _ => ⟨rfl, rfl, rfl⟩) fun f s j _ => rfl
  · exact OfForm.lanes1 {} (fun _ => rfl) (fun _ => ⟨rfl, rfl⟩) fun f s j _ => rfl
  · intro f s ready free clean plain
    obtain ⟨t, ht, hw⟩ := OfForm.lanes1 (g := fun _ x => leadingZeros x.b) (v := fun f s j => leadingZeros (tyBits f.et.toNat) (s.va f j))
      (mk := .vclz) {} (fun _ => rfl) (fun _ => ⟨rfl, rfl⟩) (fun f s j _ => rfl) f s ready free clean plain
    exact ⟨t, ht, _, hw, fun j _ => leadingZeros_spec (s.va_lt f j)⟩
  · exact OfForm.lanes1 {} (fun _ => rfl) (fun _ => ⟨rfl, rfl⟩) fun f s j _ => by
      rw [vInputs_bits, setBits_eq]

end

section
/-!
SUPPORT. The order of exact values (03 R71, 05 R146) as that of rationals, and the bound on a rounded code (03 R91, R92).
-/

namespace Sys2Proof.Machine

/-! ### The order of exact values -/

/-- A finite value as a rational. -/
def Num.ratio : Num → ℚ
  | .fin s n e => (if s then -(n : ℚ) else n) * 2 ^ e
  | _ => 0

/-- Where a value stands in the order; a NaN stands nowhere. -/
def Num.place : Num → WithBot (WithTop ℚ)
  | .inf true => ⊥
  | .inf false => ((⊤ : WithTop ℚ) : WithBot (WithTop ℚ))
  | x => ((x.ratio : WithTop ℚ) : WithBot (WithTop ℚ))

theorem Num.scaled_ratio {e0 e : Int} (s : Bool) (n : Nat) (h : e0 ≤ e) :
    ((Num.scaled e0 (.fin s n e) : Int) : ℚ) * 2 ^ e0 = (Num.fin s n e).ratio := by
  have hpow : (2 : ℚ) ^ (e - e0).toNat * 2 ^ e0 = 2 ^ e := by
    rw [← zpow_natCast, ← zpow_add₀ two_ne_zero, Int.toNat_of_nonneg (Int.sub_nonneg.mpr h), Int.sub_add_cancel]
  cases s <;> simp only [Num.scaled, Num.ratio, Bool.false_eq_true, if_false, if_true] <;> push_cast <;> rw [← hpow] <;> ring

theorem Num.lt_fin_iff {a b : Bool} {n m : Nat} {e f : Int} :
    Num.lt (.fin a n e) (.fin b m f) = true ↔ (Num.fin a n e).ratio < (Num.fin b m f).ratio := by
  rw [← Num.scaled_ratio a n (min_le_left e f), ← Num.scaled_ratio b m (min_le_right e f),
    mul_lt_mul_iff_of_pos_right (zpow_pos two_pos _), Int.cast_lt]
  exact decide_eq_true_iff

/-- Two values that are not NaNs stand in the order as their places do. -/
theorem Num.lt_iff {x y : Num} (hx : x ≠ .nan) (hy : y ≠ .nan) : Num.lt x y = true ↔ x.place < y.place := by
  match x, y, hx, hy with
  | .inf true, .inf true, _, _ => simp [Num.lt, Num.place]
  | .inf true, .inf false, _, _ => simp [Num.lt, Num.place]
  | .inf false, .inf true, _, _ => simp [Num.lt, Num.place]
  | .inf false, .inf false, _, _ => simp [Num.lt, Num.place]
  | .inf true, .fin .., _, _ => simp [Num.lt, Num.place]
  | .inf false, .fin .., _, _ => simp [Num.lt, Num.place]
  | .fin .., .inf true, _, _ => simp [Num.lt, Num.place]
  | .fin .., .inf false, _, _ => exact iff_of_true rfl (WithBot.coe_lt_coe.mpr (WithTop.coe_lt_top _))
  | .fin .., .fin .., _, _ =>
    rw [Num.lt_fin_iff]
    simp [Num.place]

theorem Num.lt_false_iff {x y : Num} (hx : x ≠ .nan) (hy : y ≠ .nan) : Num.lt x y = false ↔ y.place ≤ x.place := by
  rw [← Bool.not_eq_true, Num.lt_iff hx hy, not_lt]

theorem Num.isZero_iff {x : Num} : x.isZero = true ↔ ∃ s e, x = .fin s 0 e := by
  cases x <;> simp [Num.isZero]

theorem Num.place_of_isZero {x : Num} (h : x.isZero = true) : x ≠ .nan ∧ x.place = ((0 : ℚ) : WithTop ℚ) := by
  obtain ⟨s, e, rfl⟩ := Num.isZero_iff.mp h
  simp [Num.place, Num.ratio]

theorem Num.eqv_eq {x y : Num} (hx : x ≠ .nan) (hy : y ≠ .nan) : Num.eqv x y = (!Num.lt x y && !Num.lt y x) := by
  match x, y, hx, hy with
  | .inf _, .inf _, _, _ => rfl
  | .inf _, .fin .., _, _ => rfl
  | .fin .., .inf _, _, _ => rfl
  | .fin .., .fin .., _, _ => rfl

/-- A number below zero is −∞ or a finite number with its sign set. -/
theorem Num.neg_of_lt_zero {x : Num} (h : Num.lt x (.fin false 0 0) = true) : x = .inf true ∨ ∃ n e, n ≠ 0 ∧ x = .fin true n e := by
  match x, h with
  | .inf true, _ => exact Or.inl rfl
  | .fin s n e, h =>
    rw [Num.lt_fin_iff] at h
    have hpow : (0 : ℚ) < 2 ^ e := zpow_pos two_pos _
    cases s with
    | false =>
      have hnonneg : (0 : ℚ) ≤ n * 2 ^ e := by positivity
      simp only [Num.ratio, Bool.false_eq_true, if_false] at h
      norm_num at h
      linarith
    | true =>
      refine Or.inr ⟨n, e, ?_, rfl⟩
      rintro rfl
      simp [Num.ratio] at h

/-! ### Minimum and maximum (05 R146) -/

theorem Fl.minmax_nan {t : Fl} {up : Bool} {a b : Nat} :
    (t.decode a = .nan → t.decode b = .nan → t.minmax up a b = t.nanCode) ∧
      (t.decode a = .nan → t.decode b ≠ .nan → t.minmax up a b = b) ∧ (t.decode a ≠ .nan → t.decode b = .nan → t.minmax up a b = a) :=
  ⟨fun ha hb => by simp [Fl.minmax, ha, hb], fun ha hb => by simp [Fl.minmax, ha, hb], fun ha hb => by simp [Fl.minmax, ha, hb]⟩

/-- Of two numbers, the first is taken where it lies below, or is the −0 of two zeros, and the minimum is wanted; or neither. -/
theorem Fl.minmax_number {t : Fl} {up : Bool} {a b : Nat} (ha : t.decode a ≠ .nan) (hb : t.decode b ≠ .nan) :
    t.minmax up a b = if (Num.lt (t.decode a) (t.decode b) ||
      (!Num.lt (t.decode a) (t.decode b) && !Num.lt (t.decode b) (t.decode a)) && (t.decode a).isZero && (t.decode a).isNeg) != up
      then a else b := by
  simp only [Fl.minmax, ha, hb, decide_false, Num.eqv_eq ha hb]

theorem Fl.minmax_picks (t : Fl) (up : Bool) (a b : Nat) : t.Picks up a b (t.minmax up a b) := by
  refine ⟨Fl.minmax_nan.1, Fl.minmax_nan.2.1, Fl.minmax_nan.2.2, fun ha hb => ?_⟩
  rw [Fl.minmax_number ha hb]
  have hself {x : Num} (hx : x ≠ .nan) : Num.lt x x = false := (Num.lt_false_iff hx hx).mpr le_rfl
  have hzeros (hza : (t.decode a).isZero = true) (hzb : (t.decode b).isZero = true) :
      Num.lt (t.decode a) (t.decode b) = false ∧ Num.lt (t.decode b) (t.decode a) = false := by
    rw [Num.lt_false_iff ha hb, Num.lt_false_iff hb ha, (Num.place_of_isZero hza).2, (Num.place_of_isZero hzb).2]
    exact ⟨le_rfl, le_rfl⟩
  by_cases hlt : Num.lt (t.decode a) (t.decode b) = true
  · have hgt : Num.lt (t.decode b) (t.decode a) = false :=
      (Num.lt_false_iff hb ha).mpr (le_of_lt ((Num.lt_iff ha hb).mp hlt))
    cases up <;> simp only [hlt, Bool.true_or, bne_self_eq_false, Bool.true_bne, Bool.not_false, Bool.false_eq_true, if_true, if_false]
    · exact ⟨Or.inl trivial, by simp [hself ha, hgt], fun hza hzb => by rw [(hzeros hza hzb).1] at hlt; cases hlt⟩
    · exact ⟨Or.inr trivial, by simp [hself hb, hgt], fun hza hzb => by rw [(hzeros hza hzb).1] at hlt; cases hlt⟩
  · rw [Bool.not_eq_true] at hlt
    split
    · next hpick =>
      refine ⟨Or.inl rfl, ?_, fun hza hzb => ?_⟩
      · cases up
        · rw [hlt] at hpick
          simp at hpick
          simp [hself ha, hpick.1.1]
        · simp [hself ha, hlt]
      · rw [hlt, (hzeros hza hzb).2, hza] at hpick
        cases up <;> cases hneg : (t.decode a).isNeg <;> simp_all
    · next hpick =>
      refine ⟨Or.inr rfl, ?_, fun hza hzb => ?_⟩
      · cases up
        · simp [hself hb, hlt]
        · rw [hlt] at hpick
          simp at hpick
          simp [hself hb, hpick.1.1]
      · rw [hlt, (hzeros hza hzb).2, hza] at hpick
        cases up <;> cases hneg : (t.decode a).isNeg <;> simp_all

/-! ### Rounded codes -/

theorem Fl.infCode_lt (t : Fl) : t.infCode < t.signBit ∨ t.ieee = false := by cases t <;> decide
theorem Fl.maxCode_lt (t : Fl) : t.maxCode < t.signBit := by cases t <;> decide
theorem Fl.nanCode_lt (t : Fl) : t.nanCode < t.signBit := by cases t <;> decide
theorem Fl.two_mul_signBit (t : Fl) : 2 * t.signBit = 2 ^ t.width := by cases t <;> decide

theorem Fl.withSign_lt {t : Fl} {neg : Bool} {mag : Nat} (h : mag < t.signBit) : t.withSign neg mag < 2 ^ t.width := by
  have hwidth := t.two_mul_signBit
  unfold Fl.withSign
  split <;> omega

theorem Fl.overflow_lt (t : Fl) (rm : Rnd) (neg : Bool) : t.overflow rm neg < t.signBit := by
  have hmax := t.maxCode_lt
  rcases t.infCode_lt with hinf | hnone
  · unfold Fl.overflow
    cases rm <;> cases neg <;> cases t.ieee <;> simp [hmax, hinf]
  · simp [Fl.overflow, hnone, hmax]

theorem Fl.roundFrac_lt (t : Fl) (rm : Rnd) (d : BitVec 32) (neg : Bool) (num den : Nat) : t.roundFrac rm d neg num den < 2 ^ t.width := by
  unfold Fl.roundFrac
  split
  · exact Fl.withSign_lt (Nat.two_pow_pos _)
  · dsimp only
    refine Fl.withSign_lt ?_
    split
    · exact t.overflow_lt rm neg
    · next hle => exact Nat.lt_of_le_of_lt (Nat.not_lt.mp hle) t.maxCode_lt

theorem Fl.round_lt (t : Fl) (rm : Rnd) (d : BitVec 32) (x : Num) : t.round rm d x < 2 ^ t.width := by
  cases x with
  | nan => exact Nat.lt_trans t.nanCode_lt (by have := t.two_mul_signBit; have := t.maxCode_lt; omega)
  | inf neg =>
    refine Fl.withSign_lt ?_
    rcases t.infCode_lt with hinf | hnone
    · split
      · exact hinf
      · exact t.maxCode_lt
    · simp [hnone, t.maxCode_lt]
  | fin neg n e => exact t.roundFrac_lt rm d neg _ _

theorem Fl.addr_lt (t : Fl) (rm : Rnd) (d : BitVec 32) (xs : List Num) : t.addr rm d xs < 2 ^ t.width := t.round_lt rm d _

/-- A complex element of two rounded parts. -/
theorem joinParts_of_lt {t : Fl} {re : Nat} (im : Nat) (h : re < 2 ^ t.width) : joinParts t re im = re + 2 ^ t.width * im := by
  rw [joinParts, Nat.mod_eq_of_lt h]

end Sys2Proof.Machine
end

section
/-!
SUPPORT. Operations of form VR that round in the mode of RM: the draws of a position, and the families of one, two and three
operands (06 R179, R183).
-/

namespace Sys2Proof.Machine

variable {s : State} {i : Instr} {f : VR}

/-- The two draws that a position has: one for both uses in a real type, one for each part in a complex one (06 R179). -/
def State.vDrawPair (s : State) (f : VR) (j : Nat) : BitVec 32 × BitVec 32 :=
  if isCplx f.et.toNat then (s.vDraw f (2 * j), s.vDraw f (2 * j + 1)) else (s.vDraw f j, s.vDraw f j)

theorem State.vDrawPair_real (s : State) {f : VR} (h : isCplx f.et.toNat = false) (j : Nat) :
    s.vDrawPair f j = (s.vDraw f j, s.vDraw f j) := by
  simp [State.vDrawPair, h]

theorem State.vDrawPair_cplx (s : State) {f : VR} (h : isCplx f.et.toNat = true) (j : Nat) :
    s.vDrawPair f j = (s.vDraw f (2 * j), s.vDraw f (2 * j + 1)) := by
  simp [State.vDrawPair, h]

theorem vInputs_drawPairs : (s.vInputs i f true).draws.zip (s.vInputs i f true).draws2 = (List.range (vCount f)).map (s.vDrawPair f) := by
  cases h : isCplx f.et.toNat
  · rw [vInputs_draws h]
    exact List.map_congr_left fun j _ => (s.vDrawPair_real h j).symm
  · rw [vInputs_draws_cplx h]
    exact List.map_congr_left fun j _ => (s.vDrawPair_cplx h j).symm

/-! ### Results of one, two and three operands with draws -/

section
variable (hf : formOf i = .vr f)
include hf

theorem vInputs_rmap1 (g : BitVec 32 → BitVec 32 → Nat → Nat) (ha : noVa i = false) (ha3 : f.ac ≠ 3) :
    (s.vInputs i f true).rmap1 g =
      (List.range (vCount f)).map (fun j => g (s.vDrawPair f j).1 (s.vDrawPair f j).2 (s.va f j)) := by
  rw [VIn.rmap1, vInputs_drawPairs, vInputs_a hf ha ha3, zipWith_range]

theorem vInputs_rmap2 (g : BitVec 32 → BitVec 32 → Nat → Nat → Nat) (ha : noVa i = false) (hb : noVb i = false) (ha3 : f.ac ≠ 3)
    (hb3 : f.bc ≠ 3) : (s.vInputs i f true).rmap2 g =
      (List.range (vCount f)).map (fun j => g (s.vDrawPair f j).1 (s.vDrawPair f j).2 (s.va f j) (s.vb f j)) := by
  rw [VIn.rmap2, vInputs_drawPairs, vInputs_a hf ha ha3, vInputs_b hf hb hb3, zip_range, zipWith_range]

theorem vInputs_rmap3 (g : BitVec 32 → BitVec 32 → Nat → Nat → Nat → Nat) (ha : noVa i = false) (hb : noVb i = false)
    (hd : noVd i = false) (ha3 : f.ac ≠ 3) (hb3 : f.bc ≠ 3) : (s.vInputs i f true).rmap3 g =
      (List.range (vCount f)).map (fun j => g (s.vDrawPair f j).1 (s.vDrawPair f j).2 (s.va f j) (s.vb f j) (s.vd f j)) := by
  rw [VIn.rmap3, vInputs_drawPairs, vInputs_a hf ha ha3, vInputs_b hf hb hb3, vInputs_d hf hd, zip_range, zip_range, zipWith_range]

end

/-! ### Families -/

section
variable {mk : VR → Instr} {e : VEntry}

/-- Rounding operations on one source. -/
theorem OfForm.rounds1 {g : VR → VIn → BitVec 32 → BitVec 32 → Nat → Nat} {v : VR → State → Nat → Nat} (ho : OfForm mk e)
    (hsem : ∀ f, slotSem (mk f) = some (vrOp (mk f) f true fun x => x.rmap1 (g f x)))
    (hno : ∀ f, noVa (mk f) = false ∧ noVd (mk f) = false)
    (hg : ∀ f s j, e.Passes f → g f (s.vInputs (mk f) f true) (s.vDrawPair f j).1 (s.vDrawPair f j).2 (s.va f j) = v f s j) :
    RoundLanes mk v :=
  ho.writes hsem (fun f => (hno f).2)
    (fun f _ hpass => vInputs_rmap1 (ho.form f) _ (hno f).1 (class_ne_three hpass.va)) fun f s j hpass _ => by rw [hg f s j hpass]

/-- Rounding operations on two sources. -/
theorem OfForm.rounds2 {g : VR → VIn → BitVec 32 → BitVec 32 → Nat → Nat → Nat} {v : VR → State → Nat → Nat} (ho : OfForm mk e)
    (hsem : ∀ f, slotSem (mk f) = some (vrOp (mk f) f true fun x => x.rmap2 (g f x)))
    (hno : ∀ f, noVa (mk f) = false ∧ noVb (mk f) = false ∧ noVd (mk f) = false)
    (hg : ∀ f s j, e.Passes f →
      g f (s.vInputs (mk f) f true) (s.vDrawPair f j).1 (s.vDrawPair f j).2 (s.va f j) (s.vb f j) = v f s j) : RoundLanes mk v :=
  ho.writes hsem (fun f => (hno f).2.2)
    (fun f _ hpass => vInputs_rmap2 (ho.form f) _ (hno f).1 (hno f).2.1 (class_ne_three hpass.va) (class_ne_three hpass.vb))
    fun f s j hpass _ => by rw [hg f s j hpass]

/-- Rounding operations on two sources and the destination. -/
theorem OfForm.rounds3 {g : VR → VIn → BitVec 32 → BitVec 32 → Nat → Nat → Nat → Nat} {v : VR → State → Nat → Nat} (ho : OfForm mk e)
    (hsem : ∀ f, slotSem (mk f) = some (vrOp (mk f) f true fun x => x.rmap3 (g f x)))
    (hno : ∀ f, noVa (mk f) = false ∧ noVb (mk f) = false ∧ noVd (mk f) = false)
    (hg : ∀ f s j, e.Passes f →
      g f (s.vInputs (mk f) f true) (s.vDrawPair f j).1 (s.vDrawPair f j).2 (s.va f j) (s.vb f j) (s.vd f j) = v f s j) :
    RoundLanes mk v :=
  ho.writes hsem (fun f => (hno f).2.2)
    (fun f _ hpass => vInputs_rmap3 (ho.form f) _ (hno f).1 (hno f).2.1 (hno f).2.2 (class_ne_three hpass.va) (class_ne_three hpass.vb))
    fun f s j hpass _ => by rw [hg f s j hpass]

end

/-! ### Element types (03 R81) -/

theorem isCplx_of_tFloat {et : Nat} (h : tFloat et = true) : isCplx et = false := by
  simp only [tFloat, Bool.and_eq_true, decide_eq_true_eq] at h
  simp only [isCplx, Bool.or_eq_false_iff, beq_eq_false_iff_ne]
  omega

theorem isCplx_of_tCplx {et : Nat} (h : tCplx et = true) : isCplx et = true := h

/-- An element of a real float type is one code. -/
theorem width_of_tFloat {et : Nat} (h : tFloat et = true) : (tyFl et).width = tyBits et := by
  simp only [tFloat, Bool.and_eq_true, decide_eq_true_eq] at h
  obtain ⟨hlo, hhi⟩ := h
  interval_cases et <;> rfl

/-- An element of a complex type is two codes. -/
theorem width_of_cplx {et : Nat} (h : isCplx et = true) : 2 * (tyFl et).width = tyBits et := by
  simp only [isCplx, Bool.or_eq_true, beq_iff_eq] at h
  rcases h with rfl | rfl <;> rfl

end Sys2Proof.Machine
end

section
/-!
SUPPORT. Sign operations on vector floats (06 R183) and the table of the special functions (06 R186).
-/

namespace Sys2Proof.Machine

theorem tFloat_or_isCplx {et : Nat} (h : tFloatC et = true) : isCplx et = true ∨ isCplx et = false ∧ tFloat et = true := by
  simp only [tFloatC, Bool.and_eq_true, decide_eq_true_eq] at h
  obtain ⟨hlo, hhi⟩ := h
  interval_cases et <;> decide

theorem signBit_eq {f : VR} (h : tFloat f.et.toNat = true) : (flOf f).signBit = 2 ^ (tyBits f.et.toNat - 1) := by
  rw [Fl.signBit, flOf, width_of_tFloat h]

/-- The sign bits of both parts of a complex element. -/
theorem joinParts_signBit {f : VR} (h : isCplx f.et.toNat = true) : joinParts (flOf f) (flOf f).signBit (flOf f).signBit =
    2 ^ (tyBits f.et.toNat / 2 - 1) + 2 ^ (tyBits f.et.toNat - 1) := by
  have hwidth := width_of_cplx h
  have hpos : 0 < (tyFl f.et.toNat).width := by cases tyFl f.et.toNat <;> decide
  rw [joinParts_of_lt _ (Nat.lt_of_lt_of_eq (by have := Nat.two_pow_pos ((flOf f).width - 1); rw [Fl.signBit]; omega) (flOf f).two_mul_signBit),
    Fl.signBit, flOf, ← hwidth, ← Nat.pow_add]
  congr 2 <;> omega

/-- The sum or difference of two elements, part by part. -/
def addPart (f : VR) (neg : Bool) (x : VIn) (d d2 : BitVec 32) (a b : Nat) : Nat :=
  let t := flOf f
  let add1 (d : BitVec 32) (a b : Nat) : Nat := t.addr x.rm d [t.decode a, if neg then (t.decode b).neg else t.decode b]
  if isCplx f.et.toNat then joinParts t (add1 d (rePart t a) (rePart t b)) (add1 d2 (imPart t a) (imPart t b)) else add1 d a b

/-! ### Special functions -/

/-- The four formats of vector floats. -/
theorem special_nan {t : Fl} (ht : t = .fp64 ∨ t = .fp32 ∨ t = .fp16 ∨ t = .bf16) (op : SpecialFn) {c : Nat} (h : t.decode c = .nan) :
    special t op c = t.nanCode := by
  unfold special
  rw [h]
  rcases ht with rfl | rfl | rfl | rfl <;> rfl

/-- Neither a reciprocal root nor a logarithm of a number below zero is a number. -/
theorem special_neg {t : Fl} (ht : t = .fp64 ∨ t = .fp32 ∨ t = .fp16 ∨ t = .bf16) {op : SpecialFn} (hop : op = .rsqrt ∨ op = .log2) {c : Nat}
    (h : Num.lt (t.decode c) (.fin false 0 0) = true) : special t op c = t.nanCode := by
  have hwide (u : Fl) : specialWide u op (t.decode c) c = u.nanCode := by
    rcases Num.neg_of_lt_zero h with hinf | ⟨n, e, hn, hfin⟩
    · rw [hinf]
      rcases hop with rfl | rfl <;> rfl
    · rw [hfin]
      rcases hop with rfl | rfl <;> simp [specialWide, hn]
  unfold special
  simp only [hwide]
  rcases ht with rfl | rfl | rfl | rfl <;> rfl

end Sys2Proof.Machine
end

section
open Sys2Proof Sys2Proof.Machine

/-- Settles O23: each operation is elementwise with its draws, and the table holds format by format. -/
theorem vectorFloatsAndFunctions : Obligations.VectorFloatsAndFunctions := by
  unfold Obligations.VectorFloatsAndFunctions
  refine ⟨⟨?_, ?_, ?_, ?_, ?_, ?_, ?_, ?_, ?_, ?_, ?_⟩, ?_, ?_, ?_, ?_, ?_, ?_, ?_, ?_⟩
  · refine OfForm.rounds2 (g := fun f => addPart f false) {} (fun _ => rfl) (fun _ => ⟨rfl, rfl, rfl⟩) fun f s j _ => ?_
    unfold addPart
    cases h : isCplx f.et.toNat
    · rw [s.vDrawPair_real h]; rfl
    · simp only [s.vDrawPair_cplx h, if_true]
      exact joinParts_of_lt _ (Fl.addr_lt _ _ _ _)
  · refine OfForm.rounds2 (g := fun f => addPart f true) {} (fun _ => rfl) (fun _ => ⟨rfl, rfl, rfl⟩) fun f s j _ => ?_
    unfold addPart
    cases h : isCplx f.et.toNat
    · rw [s.vDrawPair_real h]; rfl
    · simp only [s.vDrawPair_cplx h, if_true]
      exact joinParts_of_lt _ (Fl.addr_lt _ _ _ _)
  · exact OfForm.rounds2 {} (fun _ => rfl) (fun _ => ⟨rfl, rfl, rfl⟩) fun f s j hpass => by
      rw [s.vDrawPair_real (isCplx_of_tFloat hpass.types)]; rfl
  · exact OfForm.rounds3 {} (fun _ => rfl) (fun _ => ⟨rfl, rfl, rfl⟩) fun f s j hpass => by
      rw [s.vDrawPair_real (isCplx_of_tFloat hpass.types)]; rfl
  · exact OfForm.rounds3 {} (fun _ => rfl) (fun _ => ⟨rfl, rfl, rfl⟩) fun f s j hpass => by
      rw [s.vDrawPair_real (isCplx_of_tFloat hpass.types)]; rfl
  · exact OfForm.rounds1 {} (fun _ => rfl) (fun _ => ⟨rfl, rfl⟩) fun f s j hpass => by
      rw [s.vDrawPair_real (isCplx_of_tFloat hpass.types)]; rfl
  · exact OfForm.rounds1 {} (fun _ => rfl) (fun _ => ⟨rfl, rfl⟩) fun f s j hpass => by
      rw [s.vDrawPair_real (isCplx_of_tFloat hpass.types)]; rfl
  · intro f s ready free clean plain
    obtain ⟨t, ht, hw⟩ := OfForm.lanes2 (mk := .vfmin) (g := fun f => (flOf f).minmax false)
      (v := fun f s j => (flOf f).minmax false (s.va f j) (s.vb f j)) {} (fun _ => rfl) (fun _ => ⟨rfl, rfl, rfl⟩)
      (fun f s j _ => rfl) f s ready free clean plain
    exact ⟨t, ht, _, hw, fun j _ => (flOf f).minmax_picks false _ _⟩
  · intro f s ready free clean plain
    obtain ⟨t, ht, hw⟩ := OfForm.lanes2 (mk := .vfmax) (g := fun f => (flOf f).minmax true)
      (v := fun f s j => (flOf f).minmax true (s.va f j) (s.vb f j)) {} (fun _ => rfl) (fun _ => ⟨rfl, rfl, rfl⟩)
      (fun f s j _ => rfl) f s ready free clean plain
    exact ⟨t, ht, _, hw, fun j _ => (flOf f).minmax_picks true _ _⟩
  · exact OfForm.lanes1 {} (fun _ => rfl) (fun _ => ⟨rfl, rfl⟩) fun f s j hpass => by
      rw [signBit_eq hpass.types]
  · refine OfForm.lanes1 {} (fun _ => rfl) (fun _ => ⟨rfl, rfl⟩) fun f s j hpass => ?_
    rcases tFloat_or_isCplx hpass.types with h | ⟨h, hreal⟩
    · simp only [h, if_true, joinParts_signBit h]
    · simp only [h, Bool.false_eq_true, if_false, signBit_eq hreal]
  · exact OfForm.lanes1 {} (fun _ => rfl) (fun _ => ⟨rfl, rfl⟩) fun f s j _ => rfl
  · exact OfForm.lanes1 {} (fun _ => rfl) (fun _ => ⟨rfl, rfl⟩) fun f s j _ => rfl
  · exact OfForm.lanes1 {} (fun _ => rfl) (fun _ => ⟨rfl, rfl⟩) fun f s j _ => rfl
  · exact OfForm.lanes1 {} (fun _ => rfl) (fun _ => ⟨rfl, rfl⟩) fun f s j _ => rfl
  · exact OfForm.lanes1 {} (fun _ => rfl) (fun _ => ⟨rfl, rfl⟩) fun f s j _ => rfl
  · exact OfForm.lanes1 {} (fun _ => rfl) (fun _ => ⟨rfl, rfl⟩) fun f s j _ => rfl
  · exact OfForm.lanes1 {} (fun _ => rfl) (fun _ => ⟨rfl, rfl⟩) fun f s j _ => rfl
  · intro fl hfl
    refine ⟨fun op c h => special_nan hfl op h, fun c h => ⟨special_neg hfl (Or.inl rfl) h, special_neg hfl (Or.inr rfl) h⟩, ?_⟩
    rcases hfl with rfl | rfl | rfl | rfl <;> decide +kernel

end

section
open Sys2Proof Sys2Proof.Machine

/-- Settles O24: the parts of an element draw apart, and each is its exact expression rounded once. -/
theorem vectorComplexProducts : Obligations.VectorComplexProducts := by
  unfold Obligations.VectorComplexProducts
  refine ⟨?_, ?_⟩
  · exact OfForm.rounds2 {} (fun _ => rfl) (fun _ => ⟨rfl, rfl, rfl⟩) fun f s j hpass => by
      rw [s.vDrawPair_cplx (isCplx_of_tCplx hpass.types)]
      exact joinParts_of_lt _ (Fl.addr_lt _ _ _ _)
  · exact OfForm.rounds3 {} (fun _ => rfl) (fun _ => ⟨rfl, rfl, rfl⟩) fun f s j hpass => by
      rw [s.vDrawPair_cplx (isCplx_of_tCplx hpass.types)]
      exact joinParts_of_lt _ (Fl.addr_lt _ _ _ _)

end

section
/-!
SUPPORT. V slots that write a mask or a scalar (06 R188 to R190, R204, R206): they change one register, and draw nothing.
-/

namespace Sys2Proof.Machine

variable {s u : State} {i : Instr} {f : VR} {m : SlotSem}

/-- An operation without a rounding mode draws nothing. -/
theorem drawsOf_zero (u : State) (k : Nat) (js : List Nat) :
    u.drawsOf k 0 js = ((List.range js.length).map (s.drawAt []), u) := by
  have hzero : (List.range js.length).map (s.drawAt []) = (List.range js.length).map (fun _ => (0 : BitVec 32)) := rfl
  rw [hzero, List.map_const', List.length_range, ← List.map_const']
  rfl

/-- The act of an operation that does not round is on its inputs and on the state as it stands. -/
theorem State.VReady.plain_act {act : Env → VIn → State → State} (h : s.VReady i) (hm : m = vrWith i f false act) (u : State) :
    m.act (s.slotEnv i) u = (act (s.slotEnv i) (s.vInputs i f false) u, none) := by
  subst hm
  rw [vrWith_act]
  simp only [vDo, Option.isNone_iff_eq_none.mp h.clean, decide_isCplx, Bool.false_eq_true, if_false, drawsOf_zero (s := s)]
  rfl

/-- The checks of a slot that is free have passed, and it waits for nothing. -/
theorem State.VReady.free_of (h : s.VReady i) (hsem : slotSem i = some m) (hwait : m.wait = vWait i) :
    m.check s.fresh (s.slotEnv i) = none ∧ m.stall (s.slotEnv i) s.fresh = false ∧
      m.wait (s.slotEnv i) s.fresh = (s.fresh, none) := by
  have hfree := h.free
  simp only [State.slotFree, hsem, Bool.and_eq_true, Bool.not_eq_true', Option.isNone_iff_eq_none] at hfree
  obtain ⟨⟨hcheck, hstall⟩, hnone⟩ := hfree
  exact ⟨hcheck, hstall, Prod.ext (by rw [hwait]; rfl) hnone⟩

/-! ### Scalars -/

/-- An operation whose one effect is a scalar completes with the scalar written. -/
theorem State.VReady.writesScalar {g : VIn → W64} (h : s.VReady i) (hsem : slotSem i = some m) (hm : m = vrScalar i f false g)
    (hname : f.vd.toNat ∈ sNames i) (hvd : f.vd.toNat < 64) :
    ∃ t, exec i s = .next t ∧ WritesS s t f.vd.toNat (g (s.vInputs i f false)) := by
  obtain ⟨hcheck, hstall, hwait⟩ := h.free_of hsem (by rw [hm]; rfl)
  rw [exec_of_slotSem hsem]
  refine scalar_slot i m s _ _ h.ready h.plain hcheck hstall hwait hname fun u _ _ _ _ => ?_
  rw [h.plain_act hm, show bf f.vd 0 6 = f.vd.toNat from (Nat.mod_eq_of_lt (Nat.div_one _ ▸ hvd)).trans (Nat.div_one _)]
  rfl

/-- A family of operations whose one effect is a scalar. -/
theorem OfForm.scalars {mk : VR → Instr} {e : VEntry} {g : VR → VIn → W64} (ho : OfForm mk e)
    (hsem : ∀ f, slotSem (mk f) = some (vrScalar (mk f) f false (g f))) (hvd : e.vd = .scalar) (hnames : ∀ f, sVd (mk f) = true) (f : VR) :
    CompletesV (mk f) fun s t => WritesS s t f.vd.toNat (g f (s.vInputs (mk f) f false)) :=
  completesV_of fun s h => by
    have hdest := (ho.passes f h.legal).vd
    rw [hvd] at hdest
    have hlt : f.vd.toNat < 64 := by
      simp only [vdViol, List.append_eq_nil_iff, viol_eq_nil, decide_eq_false_iff_not, Nat.not_le] at hdest
      exact hdest.1
    refine h.writesScalar (hsem f) rfl ?_ hlt
    simp only [sNames, ho.form f, hnames f, if_true, Nat.mod_eq_of_lt hlt]
    simp

/-! ### Masks -/

theorem bit_setf_low {n w : Nat} (x : BitVec n) (v : Nat) (h : w ≤ n) (l : Nat) :
    bit (setf x 0 w v) l = if l < w then v.testBit l else bit x l := by
  obtain ⟨hlow, hhigh⟩ := setf_low x v h
  simp only [bit, ← BitVec.testBit_toNat]
  split
  · next hl =>
    have hbit := congrArg (fun y => y.testBit l) hlow
    simpa only [Nat.testBit_mod_two_pow, hl, decide_true, Bool.true_and] using hbit
  · next hl =>
    have hbit := congrArg (fun y => y.testBit (l - w)) hhigh
    simpa only [Nat.testBit_div_two_pow, Nat.sub_add_cancel (Nat.not_lt.mp hl)] using hbit

theorem Regs.rm_wm_same (r : Regs) (n w v : Nat) (h : n ≠ 0) : (r.wm n w v).rm n = setf (r.rm n) 0 w v := by
  simp [Regs.wm, Regs.rm, h]

/-- A write of a mask leaves every other register. -/
theorem Regs.noM_wm (r : Regs) (n w v : Nat) : (r.wm n w v).noM = r.noM := by
  unfold Regs.wm
  split <;> rfl

/-- An operation whose one effect is on a mask completes with the low bits of the mask written. -/
theorem State.VReady.writesMask {g : VIn → Nat} {v : Nat → Bool} (h : s.VReady i) (hsem : slotSem i = some m) (hm : m = vrMask i f g)
    (hw : f.w ≠ 3) (hvd : f.vd.toNat < 16) (hv : ∀ l, l < widthOf f.w / 8 → (g (s.vInputs i f false)).testBit l = v l) :
    ∃ t, exec i s = .next t ∧ WritesM s t f.vd.toNat (widthOf f.w / 8) v := by
  obtain ⟨hcheck, hstall, hwait⟩ := h.free_of hsem (by rw [hm]; rfl)
  rw [exec_of_slotSem hsem]
  obtain ⟨t, pc, ht, hkept, hgoes, hregs⟩ := regs_slot i m s
    (fun r => r.wm f.vd.toNat (widthOf f.w / 8) (g (s.vInputs i f false))) h.ready h.plain hcheck hstall hwait
    (fun u _ _ _ _ _ => by
      rw [h.plain_act hm, show bf f.vd 0 4 = f.vd.toNat from (Nat.mod_eq_of_lt (Nat.div_one _ ▸ hvd)).trans (Nat.div_one _)]
      rfl)
    (fun r => by unfold Regs.wm; split <;> exact ⟨rfl, rfl, rfl⟩)
  have hrm (j : Nat) : (t.ctxAt s.ck).r.rm j = (s.me.r.wm f.vd.toNat (widthOf f.w / 8) (g (s.vInputs i f false))).rm j := by
    rw [hregs]; rfl
  refine ⟨t, ht, hkept, hgoes, ?_, fun j hj => ?_, fun l hl => ?_⟩
  · rw [hregs, ← s.me.r.noM_wm f.vd.toNat (widthOf f.w / 8) (g (s.vInputs i f false))]
    rfl
  · rw [hrm, Regs.rm_wm_ne _ _ _ _ _ hj]
  · rw [hrm]
    by_cases h0 : f.vd.toNat = 0
    · rw [if_pos h0, h0]
      exact (BitVec.getLsbD_allOnes (i := l)).trans (decide_eq_true hl)
    · have hbits : widthOf f.w / 8 ≤ 128 := by rcases widthOf_cases hw with hw' | hw' | hw' <;> rw [hw'] <;> decide
      rw [if_neg h0, Regs.rm_wm_same _ _ _ _ h0, bit_setf_low _ _ hbits]
      split
      · next hlow => exact hv l hlow
      · rfl

/-- A family of operations whose one effect is on a mask. -/
theorem OfForm.masks {mk : VR → Instr} {e : VEntry} {g : VR → VIn → Nat} {v : VR → State → Nat → Bool} (ho : OfForm mk e)
    (hsem : ∀ f, slotSem (mk f) = some (vrMask (mk f) f (g f))) (hvd : e.vd = .mask)
    (hv : ∀ f s l, e.Passes f → l < widthOf f.w / 8 → (g f (s.vInputs (mk f) f false)).testBit l = v f s l) (f : VR) :
    CompletesV (mk f) fun s t => WritesM s t f.vd.toNat (widthOf f.w / 8) (v f s) :=
  completesV_of fun s h => by
    have hpass := ho.passes f h.legal
    have hdest := hpass.vd
    rw [hvd] at hdest
    simp only [vdViol, List.append_eq_nil_iff, viol_eq_nil, decide_eq_false_iff_not, Nat.not_le] at hdest
    exact h.writesMask (hsem f) rfl hpass.w hdest.1 fun l => hv f s l hpass

end Sys2Proof.Machine
end

section
/-!
SUPPORT. The lanes that a vector compare writes, its relations, and the elements that a mask counts (06 R188 to R190).
-/

namespace Sys2Proof.Machine

variable {s : State} {f : VR}

/-! ### Lanes -/

/-- The lanes of elements whose width is `c` bytes. -/
theorem laneMask_range (m : MaskReg) (c : Nat) (p : Nat → Bool) (n i : Nat) :
    laneMask m (8 * c) i ((List.range n).map p) =
      2 ^ (c * i) * packEl c ((List.range n).map (fun j => if enabled m (8 * c) (i + j) && p j then 2 ^ c - 1 else 0)) := by
  induction n generalizing i p with
  | zero => rfl
  | succ n ih =>
    have hlt : (if enabled m (8 * c) i && p 0 then 2 ^ c - 1 else 0) < 2 ^ c := by
      have := Nat.two_pow_pos c
      split <;> omega
    have hshift : i * (8 * c) / 8 = c * i := by rw [Nat.mul_left_comm, Nat.mul_div_cancel_left _ (by decide), Nat.mul_comm]
    simp only [List.range_succ_eq_map, List.map_cons, List.map_map, laneMask, packEl, Nat.add_zero, Nat.mod_eq_of_lt hlt,
      Nat.mul_div_cancel_left c (show 0 < 8 by decide), hshift]
    rw [ih, Nat.mul_succ, Nat.pow_add, Nat.mul_add, Nat.mul_assoc]
    refine congrArg₂ _ ?_ ?_
    · split
      · exact Nat.mul_comm _ _
      · rfl
    · refine congrArg (fun l => 2 ^ (c * i) * (2 ^ c * packEl c l)) (List.map_congr_left fun j _ => ?_)
      simp only [Function.comp_apply, Nat.succ_eq_add_one, Nat.add_assoc, Nat.add_comm 1]

theorem testBit_lane {c : Nat} (x l : Nat) (hc : 0 < c) : x.testBit l = (lane c x (l / c)).testBit (l % c) := by
  rw [lane, Nat.testBit_mod_two_pow, Nat.testBit_div_two_pow, decide_eq_true (Nat.mod_lt l hc), Bool.true_and, Nat.add_comm,
    Nat.div_add_mod]

/-- A lane is set where its element is enabled and the relation holds of it (06 R188). -/
theorem testBit_laneMask {m : MaskReg} {b n l : Nat} (p : Nat → Bool) (hb : 8 ∣ b) (hpos : 0 < b) (hl : l < b * n / 8) :
    (laneMask m b 0 ((List.range n).map p)).testBit l = (enabled m b (8 * l / b) && p (8 * l / b)) := by
  obtain ⟨c, rfl⟩ := hb
  have hc : 0 < c := by omega
  have hj : l / c < n := by
    rw [Nat.mul_assoc, Nat.mul_div_cancel_left _ (by decide), Nat.mul_comm] at hl
    exact (Nat.div_lt_iff_lt_mul hc).mpr hl
  rw [laneMask_range, Nat.mul_zero, Nat.pow_zero, Nat.one_mul, testBit_lane _ _ hc, lane_packEl_range _ hj,
    Nat.mul_div_mul_left _ _ (by decide), Nat.zero_add]
  split
  · next hset => rw [hset, Nat.testBit_mod_two_pow, Nat.testBit_two_pow_sub_one, decide_eq_true (Nat.mod_lt l hc)]; rfl
  · next hclear => rw [Bool.not_eq_true] at hclear; rw [hclear, Nat.zero_mod, Nat.zero_testBit]

/-- The lanes of a compare of the two sources of an operation. -/
theorem testBit_compare {i : Instr} {l : Nat} (rel : Nat → Nat → Bool) (hf : formOf i = .vr f) (ha : noVa i = false) (hb : noVb i = false)
    (ha3 : f.ac ≠ 3) (hb3 : f.bc ≠ 3) (hl : l < widthOf f.w / 8) :
    (laneMask (s.vInputs i f false).mask (s.vInputs i f false).b 0
        (List.zipWith rel (s.vInputs i f false).a (s.vInputs i f false).b')).testBit l =
      (s.lit f (8 * l / tyBits f.et.toNat) &&
        rel (s.va f (8 * l / tyBits f.et.toNat)) (s.vb f (8 * l / tyBits f.et.toNat))) := by
  rw [vInputs_a hf ha ha3, vInputs_b hf hb hb3, zipWith_range, vInputs_mask, vInputs_bits,
    testBit_laneMask (fun j => rel (s.va f j) (s.vb f j)) (eight_dvd_tyBits _) (tyBits_pos _) (by rwa [tyBits_mul_vCount]), enabled_eq_lit]

/-! ### Relations -/

theorem vRelation_eq {rm : BitVec 3} (h : rm.toNat ≤ 5) (a b : Int) : vRelation rm.toNat a b =
    decide ((rm = 0 ∧ a = b) ∨ (rm = 1 ∧ a ≠ b) ∨ (rm = 2 ∧ a < b) ∨ (rm = 3 ∧ a ≤ b) ∨ (rm = 4 ∧ b < a) ∨ (rm = 5 ∧ b ≤ a)) := by
  have hcases : rm = 0 ∨ rm = 1 ∨ rm = 2 ∨ rm = 3 ∨ rm = 4 ∨ rm = 5 := by revert rm; decide
  rcases hcases with rfl | rfl | rfl | rfl | rfl | rfl <;> simp [vRelation]

/-- The float relations by the order of the values (05 R147). -/
theorem vfRelation_eq {rm : BitVec 3} (h : rm.toNat ≤ 6) (a b : Num) : vfRelation rm.toNat a b =
    (let un := decide (a = .nan ∨ b = .nan)
    if rm = 1 then un || Num.lt a b || Num.lt b a else if rm = 4 then un
      else !un && (if rm = 0 then !Num.lt a b && !Num.lt b a else if rm = 2 then Num.lt a b
        else if rm = 3 then !Num.lt b a else if rm = 5 then Num.lt b a else !Num.lt a b)) := by
  have hcases : rm = 0 ∨ rm = 1 ∨ rm = 2 ∨ rm = 3 ∨ rm = 4 ∨ rm = 5 ∨ rm = 6 := by revert rm; decide
  by_cases ha : a = .nan
  · subst ha
    rcases hcases with rfl | rfl | rfl | rfl | rfl | rfl | rfl <;> cases b <;> rfl
  by_cases hb : b = .nan
  · subst hb
    rcases hcases with rfl | rfl | rfl | rfl | rfl | rfl | rfl <;> cases a <;> rfl
  have hasymm (h : Num.lt a b = true) : Num.lt b a = false :=
    (Num.lt_false_iff hb ha).mpr (le_of_lt ((Num.lt_iff ha hb).mp h))
  cases hab : Num.lt a b
  · cases hba : Num.lt b a <;> rcases hcases with rfl | rfl | rfl | rfl | rfl | rfl | rfl <;>
      simp [vfRelation, fRelation, Num.eqv_eq ha hb, Num.eqv_eq hb ha, ha, hb, hab, hba]
  · have hba := hasymm hab
    rcases hcases with rfl | rfl | rfl | rfl | rfl | rfl | rfl <;>
      simp [vfRelation, fRelation, Num.eqv_eq ha hb, Num.eqv_eq hb ha, ha, hb, hab, hba]

theorem rel_of_rmViol {top : Nat} {rm : BitVec 3} (h : rmViol (.rel top) rm = []) : rm.toNat ≤ top := by
  simpa [rmViol, viol_eq_nil] using h

theorem mask_of_vsViol {wide : Bool} {x : BitVec 11} {c : BitVec 2} (h : vsViol .mask wide x c = []) : bf x 0 4 = x.toNat := by
  simp only [vsViol, List.append_eq_nil_iff, viol_eq_nil, decide_eq_false_iff_not, Nat.not_le] at h
  obtain ⟨⟨hlt, -⟩, -⟩ := h
  exact (Nat.mod_eq_of_lt (Nat.div_one _ ▸ hlt)).trans (Nat.div_one _)

/-! ### Counts -/

theorem counted_eq {i : Instr} (h : bf f.va 0 4 = f.va.toNat) : counted f (s.vInputs i f false) =
    (List.range (vCount f)).filter (fun j => bit (s.me.r.rm f.va.toNat) (j * tyBits f.et.toNat / 8) && s.lit f j) := by
  rw [counted, h]
  rfl

/-- The first number below `n` with a property, or `n`. -/
theorem headD_filter_range (n : Nat) (p : Nat → Bool) :
    ((List.range n).filter p).headD n ≤ n ∧ (∀ j, j < ((List.range n).filter p).headD n → p j = false) ∧
      (((List.range n).filter p).headD n < n → p (((List.range n).filter p).headD n) = true) := by
  rw [List.headD_eq_head?_getD, List.head?_filter]
  cases h : (List.range n).find? p with
  | none =>
    rw [List.find?_range_eq_none] at h
    exact ⟨Nat.le_refl n, fun j hj => Bool.not_eq_true' _ ▸ h j hj, fun hn => absurd hn (Nat.lt_irrefl n)⟩
  | some k =>
    rw [List.find?_range_eq_some] at h
    obtain ⟨hk, hmem, hfirst⟩ := h
    exact ⟨Nat.le_of_lt (List.mem_range.mp hmem), fun j hj => by simpa using hfirst j hj, fun _ => hk⟩

end Sys2Proof.Machine
end

section
open Sys2Proof Sys2Proof.Machine

/-- Settles O25: a compare sets the lanes of the elements for which its relation holds, and the counts are over a filtered range. -/
theorem vectorMasks : Obligations.VectorMasks := by
  unfold Obligations.VectorMasks
  have hpass {e : VEntry} {f : VR} {l : List Nat} (h : l ++ vrViol e f = []) : e.Passes f :=
    VEntry.passes (List.append_eq_nil_iff.mp h).2
  refine ⟨?_, ?_, ?_, ?_, ?_, ?_, ?_, ?_⟩
  · exact OfForm.masks {} (fun _ => rfl) rfl fun f s l hpass hl => by
      rw [testBit_compare _ rfl rfl rfl (class_ne_three hpass.va) (class_ne_three hpass.vb) hl, vRelation_eq (rel_of_rmViol hpass.rm),
        decode_intOf (s.va_lt f _), decode_intOf (s.vb_lt f _)]
  · exact OfForm.masks {} (fun _ => rfl) rfl fun f s l hpass hl => by
      rw [testBit_compare _ rfl rfl rfl (class_ne_three hpass.va) (class_ne_three hpass.vb) hl, vfRelation_eq (rel_of_rmViol hpass.rm)]
      rfl
  · exact OfForm.masks ⟨fun _ => rfl, fun _ => hpass⟩ (fun _ => rfl) rfl fun f s l hpass _ => by
      rw [mask_of_vsViol hpass.va, mask_of_vsViol hpass.vb, BitVec.testBit_toNat, BitVec.getLsbD_and, BitVec.getLsbD_and]
      rfl
  · exact OfForm.masks ⟨fun _ => rfl, fun _ => hpass⟩ (fun _ => rfl) rfl fun f s l hpass _ => by
      rw [mask_of_vsViol hpass.va, mask_of_vsViol hpass.vb, BitVec.testBit_toNat, BitVec.getLsbD_and, BitVec.getLsbD_or]
      rfl
  · exact OfForm.masks ⟨fun _ => rfl, fun _ => hpass⟩ (fun _ => rfl) rfl fun f s l hpass _ => by
      rw [mask_of_vsViol hpass.va, mask_of_vsViol hpass.vb, BitVec.testBit_toNat, BitVec.getLsbD_and, BitVec.getLsbD_xor]
      rfl
  · exact OfForm.masks ⟨fun _ => rfl, fun _ => hpass⟩ (fun _ => rfl) rfl fun f s l hpass hl => by
      have hlt : l < 128 := by rcases widthOf_cases hpass.w with hw | hw | hw <;> rw [hw] at hl <;> omega
      rw [mask_of_vsViol hpass.va, BitVec.testBit_toNat, BitVec.getLsbD_and, BitVec.getLsbD_not, decide_eq_true hlt, Bool.true_and]
      rfl
  · intro f s ready free clean plain
    obtain ⟨t, ht, hwrites⟩ := OfForm.scalars (mk := .mpopc) {} (fun _ => rfl) rfl (fun _ => rfl) f s ready free clean plain
    have hva := (VEntry.passes (slotViol_of_ready ready)).va
    rw [counted_eq (mask_of_vsViol hva), ← List.countP_eq_length_filter] at hwrites
    exact ⟨t, ht, hwrites⟩
  · intro f s ready free clean plain
    obtain ⟨t, ht, hwrites⟩ := OfForm.scalars (mk := .mffs) {} (fun _ => rfl) rfl (fun _ => rfl) f s ready free clean plain
    have hva := (VEntry.passes (slotViol_of_ready ready)).va
    rw [counted_eq (mask_of_vsViol hva), vInputs_n] at hwrites
    exact ⟨t, ht, _, hwrites, headD_filter_range _ _⟩

end

section
/-!
SUPPORT. Packed codes in a register (03 R69), the sides of a conversion (06 R192), and a slot that draws and then writes one
destination.
-/

namespace Sys2Proof.Machine

variable {s : State} {i : Instr} {f : VR} {m : SlotSem}

theorem zipWith_upto {α β : Type} (n : Nat) (g : Nat → α → β) (q : Nat → α) :
    List.zipWith g (upto n) ((List.range n).map q) = (List.range n).map (fun j => g j (q j)) := by
  have hzip := zipWith_range n g id q
  rwa [List.map_id] at hzip

/-! ### Packed codes -/

/-- A field of the low `n` bits is that of the whole. -/
theorem fld_mod {o w n : Nat} (x : Nat) (h : o + w ≤ n) : x % 2 ^ n / 2 ^ o % 2 ^ w = x / 2 ^ o % 2 ^ w := by
  rw [show n = o + (n - o) by omega, Nat.pow_add, Nat.mod_mul_right_div_self, Nat.mod_mod_of_dvd]
  exact Nat.pow_dvd_pow 2 (by omega)

/-- Codes of a packed type do not overlap. -/
theorem pkOff_step {w i j : Nat} (h : i < j) : pkOff w i + w ≤ pkOff w j := by
  unfold pkOff
  split
  · omega
  · rw [← Nat.mul_succ]
    exact Nat.mul_le_mul_left w h

/-- The codes that a register holds lie within it. -/
theorem pkOff_le {w n i : Nat} (h : i < pkCap w n) : pkOff w i + w ≤ n := by
  unfold pkCap at h
  unfold pkOff
  split at h
  · next h6 => rw [if_pos h6]; omega
  · next h6 =>
    rw [if_neg h6, ← Nat.mul_succ]
    exact Nat.le_trans (Nat.mul_le_mul_left w h) (Nat.mul_div_le n w)

theorem pkPlace_append (w c : Nat) (l : List Nat) : pkPlace w (l ++ [c]) = pkPlace w l + c % 2 ^ w * 2 ^ pkOff w l.length := by
  simp [pkPlace, List.zipIdx_append]

theorem pkPlace_lt (w : Nat) {l : List Nat} {j : Nat} (h : l.length ≤ j) : pkPlace w l < 2 ^ pkOff w j := by
  induction l using List.reverseRecOn generalizing j with
  | nil => exact Nat.two_pow_pos _
  | append_singleton l c ih =>
    rw [List.length_append, List.length_singleton] at h
    have hlow := ih (Nat.le_refl _)
    have hc := Nat.mod_lt c (Nat.two_pow_pos w)
    have hstep : 2 ^ w * 2 ^ pkOff w l.length ≤ 2 ^ pkOff w j := by
      rw [← Nat.pow_add, Nat.add_comm]
      exact Nat.pow_le_pow_right (by decide) (pkOff_step (by omega))
    have hmul := Nat.mul_le_mul_right (2 ^ pkOff w l.length) (Nat.succ_le_of_lt hc)
    rw [Nat.succ_mul] at hmul
    rw [pkPlace_append]
    omega

/-- A code placed is found in its place. -/
theorem fld_pkPlace {w i : Nat} {l : List Nat} (h : i < l.length) : pkPlace w l / 2 ^ pkOff w i % 2 ^ w = l.getD i 0 % 2 ^ w := by
  induction l using List.reverseRecOn with
  | nil => exact absurd h (Nat.not_lt_zero i)
  | append_singleton l c ih =>
    rw [List.length_append, List.length_singleton] at h
    rw [pkPlace_append]
    by_cases hlast : i = l.length
    · subst hlast
      rw [List.getD_append_right _ _ _ _ (Nat.le_refl _), Nat.sub_self, List.getD_cons_zero, Nat.add_mul_div_right _ _ (Nat.two_pow_pos _),
        Nat.div_eq_of_lt (pkPlace_lt w (Nat.le_refl _)), Nat.zero_add, Nat.mod_mod]
    · have hstep := pkOff_step (w := w) (show i < l.length by omega)
      have hsplit : 2 ^ pkOff w l.length = 2 ^ pkOff w i * 2 ^ w * 2 ^ (pkOff w l.length - pkOff w i - w) := by
        rw [← Nat.pow_add, ← Nat.pow_add]
        congr 1
        omega
      rw [List.getD_append _ _ _ _ (by omega), ← ih (by omega), hsplit, Nat.mul_comm, Nat.mul_assoc, Nat.mul_assoc,
        Nat.add_mul_div_left _ _ (Nat.two_pow_pos _), Nat.add_mul_mod_self_left]

/-! ### Sides of a conversion -/

theorem VSide.at_lt (d : VSide) (x i : Nat) : d.at x i < 2 ^ d.bits := by
  unfold VSide.at
  split
  · exact Nat.mod_lt _ (Nat.two_pow_pos _)
  · exact lane_lt _ _ _

theorem VSide.read_eq (d : VSide) (n x : Nat) : d.read n x = (List.range n).map (d.at x) := by
  unfold VSide.read VSide.at
  split
  · rfl
  · exact elems_eq _ _ _

theorem VSide.at_place (d : VSide) {l : List Nat} {i : Nat} (h : i < l.length) : d.at (d.place l) i = l.getD i 0 % 2 ^ d.bits := by
  unfold VSide.at VSide.place
  split
  · exact fld_pkPlace h
  · exact lane_packEl _ _ _

/-- The elements of a side lie within its register. -/
theorem VSide.at_mod {et pk w i : Nat} (x : Nat) (h : i < (VSide.of et pk w).cap) :
    (VSide.of et pk w).at (x % 2 ^ w) i = (VSide.of et pk w).at x i := by
  unfold VSide.of at h ⊢
  split at h
  · next het =>
    rw [if_pos het]
    exact fld_mod x (pkOff_le h)
  · next het =>
    rw [if_neg het]
    exact lane_mod x (Nat.le_trans (Nat.mul_le_mul_left _ h) (Nat.mul_div_le _ _))

/-! ### Draws of a list of positions -/

/-- The two draws of a position among the draws of an operation (06 R179). -/
theorem drawPairs {α : Type} (cplx : Bool) (n : Nat) (d : Nat → α) :
    (if cplx then evens ((List.range (vDraws cplx n).length).map d) else (List.range (vDraws cplx n).length).map d).zip
        (if cplx then evens (((List.range (vDraws cplx n).length).map d).drop 1) else (List.range (vDraws cplx n).length).map d) =
      (List.range n).map (fun j => if cplx then (d (2 * j), d (2 * j + 1)) else (d j, d j)) := by
  rw [vDraws_length]
  cases cplx
  · simp only [Bool.false_eq_true, if_false]
    exact zip_range _ _ _
  · simp only [if_true]
    rw [evens_range, evens_drop_range]
    exact zip_range _ _ _

/-- A slot that draws and then writes one destination completes with the destination written. -/
theorem State.VReady.drawsAndLands {rm : Nat} {js : List Nat} {dc vd : Nat} {w : BitVec 2} {x : Env → List (BitVec 32) → Nat} (h : s.VReady i)
    (hsem : slotSem i = some m) (hm : m = vDo i fun e u =>
      (u.drawsOf e.k rm js).2.wrPart e dc vd e.o.ringD (widthOf w) 0 (x e (u.drawsOf e.k rm js).1))
    (hland : s.CanLand dc vd (widthOf w) 1) (hring : dc ≠ 0 → (s.slotEnv i).o.ringD = vd % 128) :
    ∃ t, exec i s = .next t ∧ VKept s t dc vd (widthOf w) (srGens rm js) ∧ t.vBits dc vd 0 (widthOf w) true =
      x (s.slotEnv i) ((List.range js.length).map (s.drawAt (srGens rm js))) % 2 ^ widthOf w := by
  have hwrote := (Wrote.drawn s i rm js dc vd (widthOf w)).part (i := i)
    (x := x (s.slotEnv i) ((List.range js.length).map (s.drawAt (srGens rm js)))) hland (Nat.lt_succ_self 0) hring
  rw [← (drawsOf_eq rm js (State.openedFor_ctx (s := s) (i := i)).1).1] at hwrote ⊢
  obtain ⟨t, ht, hend⟩ := h.ends hsem (by rw [hm]; rfl) (by rw [hm]) hwrote.acting
  obtain ⟨hrest, hregs, hgoes, hgens, hlands, hvalue⟩ := hwrote.ends hend
  exact ⟨t, ht, ⟨hrest, hregs, hgoes, hgens, hlands⟩, hvalue 0 (by simp)⟩

end Sys2Proof.Machine
end

section
/-!
SUPPORT. A conversion position by position (06 R192).
-/

namespace Sys2Proof.Machine

variable {s : State} {f : VR}

/-- The result of position `i` of a conversion. -/
def State.converted (s : State) (f : VR) (i : Nat) : Nat :=
  let w := widthOf f.w
  let src := VSide.of (f.vb.toNat % 16) (f.vb.toNat / 16 % 32) w
  let dst := VSide.of f.et.toNat (f.vb.toNat / 16 % 32) w
  let gens := srGens f.rm.toNat (vDraws dst.cplx (min src.cap dst.cap))
  let d := if dst.cplx then (s.drawAt gens (2 * i), s.drawAt gens (2 * i + 1)) else (s.drawAt gens i, s.drawAt gens i)
  cvtElem src dst (Rnd.get f.rm.toNat) d.1 d.2
    (if f.ac = 2 then (s.me.r.rs f.va.toNat).toNat % 2 ^ src.bits else src.at (s.vBits f.ac.toNat f.va.toNat 0 w false) i)

/-- The codes that a conversion writes, from its environment and its draws. -/
def cvtCodes (f : VR) (e : Env) (ds : List (BitVec 32)) : List Nat :=
  let w := widthOf f.w
  let src := VSide.of (bf f.vb 0 4) (bf f.vb 4 5) w
  let dst := VSide.of f.et.toNat (bf f.vb 4 5) w
  let n := min src.cap dst.cap
  let a := if f.ac = 2 then List.replicate n ((e.c.r.rs (f.va.toNat % 64)).toNat % 2 ^ src.bits)
    else src.read n (e.part f.ac.toNat f.va.toNat e.o.ringA w 0 false)
  let res := List.zipWith (fun d a => cvtElem src dst (Rnd.get f.rm.toNat) d.1 d.2 a)
    ((if dst.cplx then evens ds else ds).zip (if dst.cplx then evens (ds.drop 1) else ds)) a
  (upto dst.cap).map (fun i => if decide (i < n) && enabled (e.mask f.mask) (max src.bits dst.bits) i then res.getD i 0
    else if f.mrg = 1 then (dst.read dst.cap (e.part f.dc.toNat f.vd.toNat e.o.ringD w 0 true)).getD i 0 else 0)

theorem semVcvt_eq (f : VR) : semVcvt f = vDo (.vcvt f) fun e u =>
    let dst := VSide.of f.et.toNat (bf f.vb 4 5) (widthOf f.w)
    let d := u.drawsOf e.k f.rm.toNat (vDraws dst.cplx (min (VSide.of (bf f.vb 0 4) (bf f.vb 4 5) (widthOf f.w)).cap dst.cap))
    d.2.wrPart e f.dc.toNat f.vd.toNat e.o.ringD (widthOf f.w) 0 (dst.place (cvtCodes f e d.1)) := rfl

/-- What 04 R129 lets pass of a conversion. -/
theorem vcvtViol_eq_nil (h : vcvtViol f = []) : f.w ≠ 3 ∧ f.ac ≠ 3 ∧ (f.ac = 2 → f.va.toNat < 64) := by
  simp only [vcvtViol, List.append_eq_nil_iff] at h
  obtain ⟨⟨⟨⟨⟨⟨⟨⟨⟨hentry, hscalar⟩, -⟩, -⟩, -⟩, -⟩, -⟩, -⟩, -⟩, -⟩ := h
  have hpass := VEntry.passes hentry
  have hclass := class_ne_three hpass.va
  refine ⟨hpass.w, ?_, fun h2 => ?_⟩
  · rintro h3
    simp [h3] at hclass
  · simpa [h2, viol_eq_nil] using hscalar

/-- Position by position: converted where both sides hold it and the mask enables it, else kept or zero. -/
theorem cvtCodes_eq {i : Instr} (hf : formOf i = .vr f) (h3 : f.ac ≠ 3) (hscalar : f.ac = 2 → f.va.toNat < 64) :
    let w := widthOf f.w
    let src := VSide.of (f.vb.toNat % 16) (f.vb.toNat / 16 % 32) w
    let dst := VSide.of f.et.toNat (f.vb.toNat / 16 % 32) w
    let n := min src.cap dst.cap
    cvtCodes f (s.slotEnv i) ((List.range (vDraws dst.cplx n).length).map (s.drawAt (srGens f.rm.toNat (vDraws dst.cplx n)))) =
      (List.range dst.cap).map (fun i => if i < n ∧ bit (s.me.r.rm f.mask.toNat) (i * max src.bits dst.bits / 8) = true then s.converted f i
        else if f.mrg = 1 then dst.at (s.vBits f.dc.toNat f.vd.toNat 0 w true) i else 0) := by
  intro w src dst n
  have hfields : bf f.vb 0 4 = f.vb.toNat % 16 ∧ bf f.vb 4 5 = f.vb.toNat / 16 % 32 := by simp [bf, fld]
  have ha : (if f.ac = 2 then List.replicate n (((s.slotEnv i).c.r.rs (f.va.toNat % 64)).toNat % 2 ^ src.bits)
      else src.read n ((s.slotEnv i).part f.ac.toNat f.va.toNat (s.slotEnv i).o.ringA w 0 false)) =
      (List.range n).map (fun i => if f.ac = 2 then (s.me.r.rs f.va.toNat).toNat % 2 ^ src.bits
        else src.at (s.vBits f.ac.toNat f.va.toNat 0 w false) i) := by
    by_cases h2 : f.ac = 2
    · simp only [h2, if_true, List.map_const', List.length_range, Nat.mod_eq_of_lt (hscalar h2)]
      rfl
    · have hne : f.ac.toNat ≠ 2 := fun h => h2 (BitVec.eq_of_toNat_eq h)
      simp only [h2, if_false]
      rw [part_slotEnv (fun h0 => ringA_vr hf h3 h0 hne), VSide.read_eq]
  unfold cvtCodes
  simp only [hfields.1, hfields.2]
  rw [ha, drawPairs, zipWith_range, part_slotEnv (ringD_vr hf), VSide.read_eq]
  refine List.map_congr_left fun j hj => ?_
  simp only [Bool.and_eq_true, decide_eq_true_eq]
  split
  · next hon => exact (getD_map_range _ hon.1).trans (if_pos hon).symm
  · next hoff => exact (congrArg (fun x => if f.mrg = 1 then x else 0) (getD_map_range _ (List.mem_range.mp hj))).trans (if_neg hoff).symm

end Sys2Proof.Machine
end

section
open Sys2Proof Sys2Proof.Machine

/-- Settles O26: `vsel` is elementwise, and a conversion's positions lie apart in its destination. -/
theorem vectorSelectAndConvert : Obligations.VectorSelectAndConvert := by
  unfold Obligations.VectorSelectAndConvert
  refine ⟨?_, fun f => completesV_of fun s h => ?_⟩
  · exact OfForm.fillsAll (e := { types := tAll, mrg := false }) {} (fun _ => rfl) fun f s hpass => by
      rw [vInputs_a rfl rfl (class_ne_three hpass.va), vInputs_b rfl rfl (class_ne_three hpass.vb), zip_range]
      exact zipWith_upto _ _ _
  · obtain ⟨hw, h3, hscalar⟩ := vcvtViol_eq_nil (f := f) h.legal
    obtain ⟨t, ht, hkept, hvalue⟩ := h.drawsAndLands (i := .vcvt f) (x := fun e ds => (VSide.of f.et.toNat (bf f.vb 4 5) (widthOf f.w)).place (cvtCodes f e ds))
      rfl (semVcvt_eq f) (h.canLand rfl hw) (ringD_vr rfl)
    have hfields : bf f.vb 0 4 = f.vb.toNat % 16 ∧ bf f.vb 4 5 = f.vb.toNat / 16 % 32 := by simp [bf, fld]
    rw [hfields.1, hfields.2] at hkept hvalue
    refine ⟨t, ht, hkept, fun i hi => ?_⟩
    rw [hvalue, cvtCodes_eq rfl h3 hscalar, VSide.at_mod _ hi, VSide.at_place _ (by simpa using hi), getD_map_range _ hi]
    split
    · simp only [State.converted, cvtElem]
      split <;> rfl
    · split
      · exact Nat.mod_eq_of_lt (VSide.at_lt _ _ _)
      · exact Nat.zero_mod _

end

section
/-!
SUPPORT. Lists of elements as the movement and reduction operations of 06 R199 to R209 build them: elements by index, the elements
that a mask enables in their order, and interleaving.
-/

namespace Sys2Proof.Machine

variable {s : State} {f : VR}

/-! ### Elements by index -/

/-- An element of a list of `n`, or zero past the last. -/
theorem getD_range (n k : Nat) (p : Nat → Nat) : ((List.range n).map p).getD k 0 = if k < n then p k else 0 := by
  split
  · next h => exact getD_map_range p h
  · next h => exact getD_map_range_ge p (Nat.not_lt.mp h)

theorem getD_drop (l : List Nat) (h k : Nat) : (l.drop h).getD k 0 = l.getD (h + k) 0 := by
  simp [List.getD_eq_getElem?_getD, List.getElem?_drop]

theorem getD_take {l : List Nat} {n k : Nat} (h : k < n) : (l.take n).getD k 0 = l.getD k 0 := by
  simp [List.getD_eq_getElem?_getD, h]

theorem bf_low {n w : Nat} {x : BitVec n} (h : x.toNat < 2 ^ w) : bf x 0 w = x.toNat := by
  rw [bf, fld, Nat.pow_zero, Nat.div_one, Nat.mod_eq_of_lt h]

/-! ### Enabled elements in their order -/

theorem pickEnabled_range (m : MaskReg) (b : Nat) (p : Nat → Nat) (n i : Nat) :
    pickEnabled m b i ((List.range n).map p) = ((List.range n).filter (fun j => enabled m b (i + j))).map p := by
  induction n generalizing i p with
  | zero => rfl
  | succ n ih =>
    have hnext (j : Nat) : i + 1 + j = i + (j + 1) := by omega
    simp only [List.range_succ_eq_map, List.map_cons, List.map_map, pickEnabled, List.filter_cons, Nat.add_zero, List.filter_map, ih, hnext]
    split <;> simp only [List.map_cons, List.map_map, Function.comp_def, Nat.succ_eq_add_one]

/-- The enabled elements of the first source of an operation. -/
theorem pickEnabled_va (s : State) (f : VR) (p : Nat → Nat) :
    pickEnabled (s.me.r.rm f.mask.toNat) (tyBits f.et.toNat) 0 ((List.range (vCount f)).map p) =
      ((List.range (vCount f)).filter (s.lit f)).map p := by
  rw [pickEnabled_range]
  simp only [Nat.zero_add, enabled_eq_lit]

theorem rank_eq_length (s : State) (f : VR) (n : Nat) : s.rank f n = ((List.range n).filter (s.lit f)).length :=
  List.countP_eq_length_filter

theorem rank_succ (s : State) (f : VR) (n : Nat) : s.rank f (n + 1) = s.rank f n + if s.lit f n then 1 else 0 := by
  rw [State.rank, List.range_succ, List.countP_append, List.countP_singleton]
  rfl

theorem rank_le (s : State) (f : VR) (n : Nat) : s.rank f n ≤ n := by
  have h := List.countP_le_length (p := s.lit f) (l := List.range n)
  rwa [List.length_range] at h

/-- An enabled number has as many enabled ones before it as its rank. -/
theorem getD_filter_range {n i : Nat} (hi : i < n) (hlit : s.lit f i = true) : ((List.range n).filter (s.lit f)).getD (s.rank f i) 0 = i ∧
    s.rank f i < s.rank f n := by
  induction n with
  | zero => exact absurd hi (Nat.not_lt_zero i)
  | succ n ih =>
    rw [List.range_succ, List.filter_append, rank_succ]
    by_cases hlast : i = n
    · subst hlast
      rw [rank_eq_length, List.getD_append_right _ _ _ _ (Nat.le_refl _), Nat.sub_self]
      simp [hlit]
    · obtain ⟨hget, hlt⟩ := ih (by omega)
      rw [List.getD_append _ _ _ _ (by rwa [← rank_eq_length]), hget]
      exact ⟨rfl, by omega⟩

/-- The enabled positions take the elements of a list in order. -/
theorem spreadEnabled_eq (m : MaskReg) (b n i : Nat) (l : List Nat) : spreadEnabled m b n i l =
    (List.range n).map (fun j => if enabled m b (i + j) then l.getD ((List.range j).countP (fun k => enabled m b (i + k))) 0 else 0) := by
  induction n generalizing i l with
  | zero => rfl
  | succ n ih =>
    have hnext (j : Nat) : i + 1 + j = i + (j + 1) := by omega
    have hcount (j : Nat) : (List.range (j + 1)).countP (fun k => enabled m b (i + k)) =
        (List.range j).countP (fun k => enabled m b (i + (k + 1))) + if enabled m b i then 1 else 0 := by
      rw [List.range_succ_eq_map, List.countP_cons, List.countP_map]
      rfl
    rw [spreadEnabled, List.range_succ_eq_map, List.map_cons, List.map_map]
    simp only [ih, hnext, Function.comp_def, Nat.succ_eq_add_one, hcount]
    split
    · next hon =>
      refine congrArg₂ _ ?_ (List.map_congr_left fun j _ => ?_)
      · rw [Nat.add_zero, if_pos hon]
        cases l <;> rfl
      · rw [getD_drop, Nat.add_comm 1]
    · next hoff => simp [hoff]

/-! ### Interleaving -/

theorem interleave_length {a b : List Nat} (h : a.length = b.length) : (interleave a b).length = 2 * a.length := by
  induction a generalizing b with
  | nil => cases b <;> rfl
  | cons x a ih =>
    cases b with
    | nil => cases h
    | cons y b =>
      simp only [List.length_cons, Nat.add_right_cancel_iff] at h
      simp only [interleave, List.length_cons, ih h]
      omega

theorem getD_interleave {a b : List Nat} (h : a.length = b.length) (j : Nat) :
    (interleave a b).getD j 0 = if j % 2 = 0 then a.getD (j / 2) 0 else b.getD (j / 2) 0 := by
  induction a generalizing b j with
  | nil => cases b with
    | nil => simp [interleave]
    | cons y b => cases h
  | cons x a ih =>
    cases b with
    | nil => cases h
    | cons y b =>
      simp only [List.length_cons, Nat.add_right_cancel_iff] at h
      match j with
      | 0 => rfl
      | 1 => rfl
      | j + 2 =>
        rw [interleave, List.getD_cons_succ, List.getD_cons_succ, ih h, Nat.add_mod_right, Nat.add_div_right j (by decide)]
        rfl

/-! ### Counts of elements -/

theorem vCount_pow {f : VR} (h : f.w ≠ 3) : ∃ k, 1 ≤ k ∧ k ≤ 7 ∧ vCount f = 2 ^ k := by
  have hbits : ∃ b, 3 ≤ b ∧ b ≤ 7 ∧ tyBits f.et.toNat = 2 ^ b := by
    unfold tyBits
    repeat' split
    · exact ⟨3, by decide⟩
    · exact ⟨4, by decide⟩
    · exact ⟨5, by decide⟩
    · exact ⟨6, by decide⟩
    · exact ⟨4, by decide⟩
    · exact ⟨5, by decide⟩
    · exact ⟨6, by decide⟩
    · exact ⟨7, by decide⟩
  obtain ⟨b, hlo, hhi, hb⟩ := hbits
  have hw : ∃ k, 8 ≤ k ∧ k ≤ 10 ∧ widthOf f.w = 2 ^ k := by
    rcases widthOf_cases h with hw | hw | hw
    · exact ⟨8, by rw [hw]; decide⟩
    · exact ⟨9, by rw [hw]; decide⟩
    · exact ⟨10, by rw [hw]; decide⟩
  obtain ⟨k, hk8, hk10, hk⟩ := hw
  exact ⟨k - b, by omega, by omega, by rw [vCount, hb, hk, Nat.pow_div (by omega) (by decide)]⟩

theorem vCount_even {f : VR} (h : f.w ≠ 3) : vCount f = 2 * (vCount f / 2) := by
  obtain ⟨k, hk, -, hcount⟩ := vCount_pow h
  rw [hcount, show k = k - 1 + 1 by omega, Nat.pow_succ']
  omega

end Sys2Proof.Machine
end

section
/-!
SUPPORT. Movement operations that do more than fill a destination element by element: the seeding of the generators, the shuffle of
a table of two registers, and the compressions, which write a scalar beside their destination (03 R93; 06 R198, R200, R202).
-/

namespace Sys2Proof.Machine

variable {s v t : State} {i : Instr} {f : VR} {m : SlotSem}

theorem scalar_of_bcast {wide : Bool} {x : BitVec 11} {c : BitVec 2} (h : vsViol .bcast wide x c = []) : x.toNat < 64 ∧ c = 2 := by
  simp only [vsViol, List.append_eq_nil_iff, viol_eq_nil, decide_eq_false_iff_not, Nat.not_le, bne_eq_false_iff_eq] at h
  exact ⟨h.1.1, h.2⟩

/-! ### Seeding -/

theorem mfind_map_range {β : Type} (n j : Nat) (g : Nat → β) (h : j < n) : mfind ((List.range n).map (fun i => (i, g i))) j = some (g j) := by
  induction n with
  | zero => exact absurd h (Nat.not_lt_zero j)
  | succ n ih =>
    have happend (l l' : SMap β) : mfind (l ++ l') j = (mfind l j).orElse fun _ => mfind l' j := by
      induction l with
      | nil => rfl
      | cons p l ih =>
        rw [List.cons_append, mfind, mfind]
        split
        · rfl
        · exact ih
    have hnone (k : Nat) (hk : k ≤ j) : mfind ((List.range k).map (fun i => (i, g i))) j = none := by
      induction k with
      | zero => rfl
      | succ k ih =>
        rw [List.range_succ, List.map_append, happend, ih (by omega)]
        exact if_neg (by omega)
    rw [List.range_succ, List.map_append, happend]
    by_cases hlast : j = n
    · subst hlast
      rw [hnone j (Nat.le_refl j)]
      exact if_pos rfl
    · rw [ih (by omega)]
      rfl

/-- `vsrseed` gives every generator of the context its state. -/
theorem State.VReady.seeds (h : s.VReady (.vsrseed f)) : ∃ t, exec (.vsrseed f) s = .next t ∧ Kept s t ∧
    { (t.ctxAt s.ck).r.noPc with gens := [] } = { s.me.r.noPc with gens := [] } ∧
    ∀ j, j < 32 → (t.ctxAt s.ck).r.gen j = genSeed (s.me.r.rs f.va.toNat) j := by
  have hlegal := h.legal
  simp only [slotViol, List.append_eq_nil_iff] at hlegal
  obtain ⟨⟨⟨-, hva⟩, -⟩, -⟩ := hlegal
  have hsem : slotSem (.vsrseed f) = some (semVsrseed f) := rfl
  obtain ⟨hcheck, hstall, hwait⟩ := h.free_of hsem rfl
  have haddr : (s.slotEnv (.vsrseed f)).o.addrA = s.me.r.rs f.va.toNat :=
    congrArg s.me.r.rs (bf_low (w := 6) (scalar_of_bcast hva).1)
  rw [exec_of_slotSem hsem]
  obtain ⟨t, pc, ht, hkept, -, hregs⟩ := regs_slot (.vsrseed f) (semVsrseed f) s
    (fun r => { r with gens := (upto 32).map (fun j => (j, genSeed (s.me.r.rs f.va.toNat) j)) }) h.ready h.plain hcheck hstall hwait
    (fun u _ _ _ _ _ => by
      simp only [semVsrseed, vDo, Option.isNone_iff_eq_none.mp h.clean, haddr]
      rfl) fun r => ⟨rfl, rfl, rfl⟩
  refine ⟨t, ht, hkept, by rw [hregs]; rfl, fun j hj => ?_⟩
  rw [hregs, Regs.gen]
  exact congrArg (fun o => o.getD (genSeed 0 j)) (mfind_map_range 32 j _ hj)

/-! ### A table of two registers -/

/-- Elements of a table of two parts by number. -/
theorem getD_table (n k : Nat) (p q : Nat → Nat) : ((List.range n).map p ++ (List.range n).map q).getD k 0 =
    if k < n then p k else if k < 2 * n then q (k - n) else 0 := by
  by_cases hk : k < n
  · rw [List.getD_append _ _ _ _ (by simpa using hk), getD_map_range p hk, if_pos hk]
  · rw [List.getD_append_right _ _ _ _ (by simpa using hk), List.length_map, List.length_range, getD_range, if_neg hk]
    exact if_congr (by omega) rfl rfl

/-- `vshuf` takes elements of two registers by an index vector (06 R200). -/
theorem State.VReady.shuffles (h : s.VReady (.vshuf f)) : ∃ t, exec (.vshuf f) s = .next t ∧ WritesV s t f [] fun j =>
    let k := s.vb f j % 2 ^ 64
    let n := vCount f
    if k < n then s.va f k
    else if k < 2 * n then lane (tyBits f.et.toNat) (s.vBits f.ac.toNat f.va.toNat 1 (widthOf f.w) false) (k - n) else 0 := by
  have hpass : VEntry.Passes { types := tAll, va := .reg, mrg := false } f := VEntry.passes h.legal
  have hva3 := class_ne_three hpass.va
  have hva0 : f.ac.toNat = 0 := by
    have hva := hpass.va
    simp only [vsViol, List.append_eq_nil_iff, viol_eq_nil, nz_eq_false] at hva
    exact congrArg BitVec.toNat hva.2
  have htable : elems (tyBits f.et.toNat) (vCount f)
      ((s.slotEnv (.vshuf f)).part f.ac.toNat f.va.toNat (s.slotEnv (.vshuf f)).o.ringA (widthOf f.w) 1 false) =
      (List.range (vCount f)).map (lane (tyBits f.et.toNat) (s.vBits f.ac.toNat f.va.toNat 1 (widthOf f.w) false)) := by
    rw [part_slotEnv (fun h0 => absurd hva0 h0), elems_eq]
  obtain ⟨t, ht, hkept, hvalue⟩ := h.vrLands (i := .vshuf f) (rounds := false) rfl rfl (h.canLand rfl hpass.w) (ringD_vr rfl) fun u => rfl
  have hfills := FillsV.of_packEl (p := fun j => if s.lit f j then (
      let k := s.vb f j % 2 ^ 64
      if k < vCount f then s.va f k else if k < 2 * vCount f then
        lane (tyBits f.et.toNat) (s.vBits f.ac.toNat f.va.toNat 1 (widthOf f.w) false) (k - vCount f) else 0)
      else if f.mrg == 1 then s.vd f j else 0) hkept (by
    rw [hvalue, vInputs_bits, vInputs_n, vInputs_mask, htable, vInputs_a rfl rfl hva3, vInputs_b rfl rfl (class_ne_three hpass.vb),
      vInputs_d rfl rfl, List.map_map, maskMerge_range]
    simp only [Function.comp_apply, getD_table, indexOf, Nat.zero_add, enabled_eq_lit])
  exact ⟨t, ht, hfills.writes fun j _ => rfl⟩

/-! ### Interleaving -/

/-- The lower or upper halves of two lists, interleaved (06 R204). -/
theorem interleave_halves {n : Nat} (up : Bool) (p q : Nat → Nat) (hn : n = 2 * (n / 2)) :
    (interleave (((List.range n).map p).drop (if up then n / 2 else 0)) (((List.range n).map q).drop (if up then n / 2 else 0))).take n =
      (List.range n).map (fun j => if j % 2 = 0 then p ((if up then n / 2 else 0) + j / 2) else q ((if up then n / 2 else 0) + j / 2)) := by
  have hle : (if up then n / 2 else 0) ≤ n / 2 := by split <;> omega
  generalize (if up then n / 2 else 0) = h at hle
  have hlen (r : Nat → Nat) : (((List.range n).map r).drop h).length = n - h := by simp
  have hsame : (((List.range n).map p).drop h).length = (((List.range n).map q).drop h).length := by rw [hlen, hlen]
  refine eq_map_range ?_ fun j hj => ?_
  · rw [List.length_take, interleave_length hsame, hlen]
    omega
  · rw [getD_take hj, getD_interleave hsame, getD_drop, getD_drop, getD_map_range _ (by omega), getD_map_range _ (by omega)]

/-- The even or odd elements of two lists, one after the other (06 R204). -/
theorem unzip_halves {n : Nat} (odd : Bool) (p q : Nat → Nat) (hn : n = 2 * (n / 2)) :
    (upto (n / 2)).map (fun i => ((List.range n).map p).getD (2 * i + b2n odd) 0) ++
        (upto (n / 2)).map (fun i => ((List.range n).map q).getD (2 * i + b2n odd) 0) =
      (List.range n).map (fun j => if j < n / 2 then p (2 * j + if odd then 1 else 0) else q (2 * (j - n / 2) + if odd then 1 else 0)) := by
  have hb : b2n odd = if odd then 1 else 0 := rfl
  have hle : (if odd then 1 else 0) ≤ 1 := by split <;> omega
  rw [hb]
  generalize (if odd then 1 else 0) = o at hle
  refine eq_map_range (by simp [upto]; omega) fun j hj => ?_
  by_cases hlow : j < n / 2
  · rw [List.getD_append _ _ _ _ (by simpa [upto] using hlow), upto, getD_map_range _ hlow, getD_map_range _ (by omega), if_pos hlow]
  · rw [List.getD_append_right _ _ _ _ (by simpa [upto] using hlow), upto, List.length_map, List.length_range, getD_map_range _ (by omega),
      getD_map_range _ (by omega), if_neg hlow]

/-! ### Single elements -/

/-- An element of an integer type as a scalar is its value, of a float type its code (06 R205). -/
theorem elemScalar_eq {x : Nat} (hx : x < 2 ^ tyBits f.et.toNat) : elemScalar f.et.toNat x =
    if f.et.toNat ≤ 7 then BitVec.ofInt 64 (vInt f x) else BitVec.ofNat 64 x := by
  unfold elemScalar
  split
  · rw [← decode_intOf hx]; rfl
  · rfl

theorem elemScalar_zero (et : Nat) : elemScalar et 0 = 0 := by
  unfold elemScalar
  split
  · simp [IFmt.decode, tyInt]
  · rfl

theorem set_range (n k x : Nat) (p : Nat → Nat) :
    ((List.range n).map p).set k x = (List.range n).map (fun j => if j = k then x else p j) := by
  refine List.ext_getElem (by simp) fun j hj _ => ?_
  rw [List.getElem_set, List.getElem_map, List.getElem_map, List.getElem_range]
  exact if_congr eq_comm rfl rfl

/-! ### Compression -/

/-- A write of a scalar of the current mode leaves the others, and the copies of the other mode. -/
theorem Regs.ws_spec (r : Regs) (n : Nat) (x : W64) : (r.ws n x).rs n = (if n = 0 then 0 else x) ∧
    (∀ k, k ≠ n → (r.ws n x).rs k = r.rs k) ∧ ∀ k, 56 ≤ k → (r.ws n x).hidden k = r.hidden k := by
  refine ⟨?_, fun k hk => Regs.rs_ws_ne _ _ _ _ hk, fun k hk => ?_⟩
  · split
    · next h0 => rw [h0]; rfl
    · next h0 => exact Regs.rs_ws_same _ _ _ h0
  · unfold Regs.ws Regs.wsMode Regs.hidden
    by_cases h0 : n = 0
    · simp [h0]
    · cases r.sup with
      | false => simp [h0]
      | true =>
        by_cases hn : 56 ≤ n
        · simp [h0, hn]
        · simp [h0, hn, mget_mset_ne _ _ _ _ _ _ (show k ≠ n by omega)]

theorem Regs.ws_kept (r : Regs) (n : Nat) (x : W64) : { (r.ws n x) with s := [], ss := [] } = ({ r with s := [], ss := [] } : Regs) := by
  unfold Regs.ws Regs.wsMode
  split
  · rfl
  · split <;> rfl

/-- With nothing in flight toward a scalar, a write of it changes the registers alone. -/
theorem State.wr_eq_onR {n : Nat} (x : W64) (h : ∀ a ∈ (v.ctxAt s.ck).mem.pend, a.dest ≠ .s ((v.ctxAt s.ck).r.sup && decide (56 ≤ n)) n) :
    v.wr s.ck n x = v.onCtx s.ck (fun c => c.onR fun r => r.ws n x) := by
  simp only [State.wr, State.onCtx, Ctx.overwrite_none _ _ _ h]

/-- The enabled elements, then the rest of the old destination or zeros. -/
def compressed (s : State) (f : VR) (keep : Bool) (j : Nat) : Nat :=
  if j < s.rank f (vCount f) then s.va f (((List.range (vCount f)).filter (s.lit f)).getD j 0) else if keep then s.vd f j else 0

theorem compressed_eq (s : State) (f : VR) (keep : Bool) :
    let p := ((List.range (vCount f)).filter (s.lit f)).map (s.va f)
    p ++ (if keep then ((List.range (vCount f)).map (s.vd f)).drop p.length else List.replicate (vCount f - p.length) 0) =
      (List.range (vCount f)).map (compressed s f keep) := by
  intro p
  have hlen : p.length = s.rank f (vCount f) := by rw [List.length_map, rank_eq_length]
  have hle := rank_le s f (vCount f)
  refine eq_map_range ?_ fun j hj => ?_
  · rw [List.length_append]
    cases keep <;> simp [hlen, hle]
  · unfold compressed
    by_cases hjr : j < s.rank f (vCount f)
    · rw [if_pos hjr, List.getD_append _ _ _ _ (by rwa [hlen])]
      have hj' : j < ((List.range (vCount f)).filter (s.lit f)).length := by rwa [← rank_eq_length]
      rw [List.getD_eq_getElem _ _ (by rwa [hlen]), List.getD_eq_getElem _ _ hj', List.getElem_map]
    · rw [if_neg hjr, List.getD_append_right _ _ _ _ (by rw [hlen]; omega), hlen]
      cases keep
      · simp
      · simp only [if_true]
        rw [getD_drop, show s.rank f (vCount f) + (j - s.rank f (vCount f)) = j by omega, getD_map_range _ hj]

/-- The act of a compression on its inputs. -/
def compressAct (f : VR) (keep : Bool) (e : Env) (x : VIn) (u : State) : State :=
  let p := pickEnabled x.mask x.b 0 x.a
  (u.wrPart e f.dc.toNat f.vd.toNat e.o.ringD (widthOf f.w) 0
    (packEl x.b (p ++ if keep then x.d.drop p.length else List.replicate (x.n - p.length) 0))).wr e.k (bf f.vb 0 6) (w64 p.length)

theorem compressTo_eq (i : Instr) (f : VR) (keep : Bool) : compressTo i f keep = vrWith i f false (compressAct f keep) := rfl

/-- What a packet leaves that has written a destination and then a scalar. -/
theorem Wrote.ends_scalar {gens : List Nat} {dc vd w n x : Nat} {z : W64} (h : Wrote s v gens dc vd w [x])
    (he : Ends s (v.onCtx s.ck fun c => c.onR fun r => r.ws n z) t) :
    ScalarIs s t n z ∧ (t.ctxAt s.ck).rest = s.me.rest ∧
      { (t.ctxAt s.ck).r.noVG with s := [], ss := [] } = { s.me.r.noVG with s := [], ss := [] } ∧
      (t.ctxAt s.ck).r.gens = (s.me.r.drawList gens).2.gens ∧ Lands s t dc vd w 1 ∧ t.vBits dc vd 0 w true = x % 2 ^ w := by
  obtain ⟨hbeyond, hmem, hdisp, hhub, hrest, hregs, -⟩ := he
  obtain ⟨hacting, hrest0, hregs0, hgens, hlands, hvalue⟩ := h
  rw [State.ctxAt_onCtx] at hrest hregs
  obtain ⟨hsame, hothers, hhidden⟩ := (v.ctxAt s.ck).r.ws_spec n z
  have hkept := (v.ctxAt s.ck).r.ws_kept n z
  simp only [Ctx.onR] at hregs
  generalize (v.ctxAt s.ck).r.ws n z = r at hregs hsame hothers hhidden hkept
  have hkept' : { (t.ctxAt s.ck).r with pc := 0, s := [], ss := [] } = ({ (v.ctxAt s.ck).r with pc := 0, s := [], ss := [] } : Regs) :=
    (congrArg (fun r : Regs => ({ r with s := [], ss := [] } : Regs)) hregs).trans (congrArg (fun r : Regs => ({ r with pc := 0 } : Regs)) hkept)
  have hrv (j : Nat) : (t.ctxAt s.ck).r.rv j = (v.ctxAt s.ck).r.rv j := by
    rw [Regs.rv, Regs.rv]
    exact (congrArg (fun r : Regs => mget 0 r.v j) hkept' :)
  have hhs : (t.ctxAt s.ck).r.hs = (v.ctxAt s.ck).r.hs := (congrArg (fun r : Regs => r.hs) hkept' :)
  have hres : (t.ctxAt s.ck).resv = (v.ctxAt s.ck).resv := (congrArg Ctx.resv hrest : (Ctx.rest _).resv = (Ctx.rest _).resv)
  have hrs (k : Nat) : (t.ctxAt s.ck).r.rs k = r.rs k := (congrArg (fun r : Regs => r.rs k) hregs :)
  have hrs0 (k : Nat) : (v.ctxAt s.ck).r.rs k = s.me.r.rs k := (congrArg (fun r : Regs => r.rs k) hregs0 :)
  have hhid (k : Nat) : (t.ctxAt s.ck).r.hidden k = r.hidden k := (congrArg (fun r : Regs => r.hidden k) hregs :)
  have hhid0 (k : Nat) : (v.ctxAt s.ck).r.hidden k = s.me.r.hidden k := (congrArg (fun r : Regs => r.hidden k) hregs0 :)
  refine ⟨⟨(hrs n).trans hsame, fun k hk => (hrs k).trans ((hothers k hk).trans (hrs0 k)),
    fun k hk => (hhid k).trans ((hhidden k hk).trans (hhid0 k))⟩, hrest.trans hrest0, ?_, ?_, ?_, ?_⟩
  · exact (congrArg (fun r : Regs => ({ r with v := [], gens := [] } : Regs)) hkept').trans
      (congrArg (fun r : Regs => ({ r with s := [], ss := [] } : Regs)) hregs0)
  · exact (congrArg (fun r : Regs => r.gens) hkept').trans hgens
  · exact hlands.ends hbeyond hmem hdisp hhub hrv
  · have hhs0 := hs_of_noVG hregs0
    exact (vBits_ends hacting.beyond hbeyond hdisp hrv hhs0 (hhs.trans hhs0) hres).trans (hvalue 0 (by simp))

/-- What a compression does to a state in which nothing is written yet. -/
theorem compressAct_eq {keep : Bool} {u : State} (h : s.VReady i) (hf : formOf i = .vr f) (hno : noVa i = false ∧ noVd i = false)
    (h3 : f.ac ≠ 3) (hvb : f.vb.toNat < 64) (hname : f.vb.toNat ∈ sNames i)
    (hrest : ((u.wrPart (s.slotEnv i) f.dc.toNat f.vd.toNat (s.slotEnv i).o.ringD (widthOf f.w) 0
      (packEl (tyBits f.et.toNat) ((List.range (vCount f)).map (compressed s f keep)))).ctxAt s.ck).rest = s.me.rest)
    (hregs : ((u.wrPart (s.slotEnv i) f.dc.toNat f.vd.toNat (s.slotEnv i).o.ringD (widthOf f.w) 0
      (packEl (tyBits f.et.toNat) ((List.range (vCount f)).map (compressed s f keep)))).ctxAt s.ck).r.noVG = s.me.r.noVG) :
    compressAct f keep (s.slotEnv i) (s.vInputs i f false) u =
      (u.wrPart (s.slotEnv i) f.dc.toNat f.vd.toNat (s.slotEnv i).o.ringD (widthOf f.w) 0
        (packEl (tyBits f.et.toNat) ((List.range (vCount f)).map (compressed s f keep)))).onCtx s.ck
        (fun c => c.onR fun r => r.ws f.vb.toNat (BitVec.ofNat 64 (s.rank f (vCount f)))) := by
  have hlist := compressed_eq s f keep
  have hlen : (((List.range (vCount f)).filter (s.lit f)).map (s.va f)).length = s.rank f (vCount f) := by
    rw [List.length_map, rank_eq_length]
  simp only [hlen] at hlist
  simp only [compressAct, vInputs_mask, vInputs_bits, vInputs_n, vInputs_a hf hno.1 h3, vInputs_d hf hno.2, pickEnabled_va, hlen, hlist,
    bf_low (w := 6) hvb]
  generalize u.wrPart (s.slotEnv i) f.dc.toNat f.vd.toNat (s.slotEnv i).o.ringD (widthOf f.w) 0
    (packEl (tyBits f.et.toNat) ((List.range (vCount f)).map (compressed s f keep))) = v at hrest hregs
  have hpend : (v.ctxAt s.ck).mem.pend = s.me.mem.pend := (congrArg (fun c : Ctx => c.mem.pend) hrest :)
  have hsup : (v.ctxAt s.ck).r.sup = s.me.r.sup := (congrArg Regs.sup hregs :)
  exact State.wr_eq_onR _ (by rw [hpend, hsup]; exact slotReady_pend s i _ h.ready hname)

/-- A compression packs the enabled elements and writes how many there are (06 R202). -/
theorem State.VReady.compresses {keep : Bool} (h : s.VReady i) (hsem : slotSem i = some (compressTo i f keep)) (hf : formOf i = .vr f)
    (hno : noVa i = false ∧ noVd i = false) (hpass : VEntry.Passes { types := tAll, vb := .sel 6, mrg := false } f)
    (hname : f.vb.toNat % 64 ∈ sNames i) : ∃ t, exec i s = .next t ∧
      ScalarIs s t f.vb.toNat (BitVec.ofNat 64 (s.rank f (vCount f))) ∧ (t.ctxAt s.ck).rest = s.me.rest ∧
      { (t.ctxAt s.ck).r.noVG with s := [], ss := [] } = { s.me.r.noVG with s := [], ss := [] } ∧ (t.ctxAt s.ck).r.gens = s.me.r.gens ∧
      Lands s t f.dc.toNat f.vd.toNat (widthOf f.w) 1 ∧
      (∀ j, s.rank f (vCount f) ≤ j → j < vCount f → t.vd f j = if keep then s.vd f j else 0) ∧
      ∀ i, i < vCount f → s.lit f i = true → t.vd f (s.rank f i) = s.va f i := by
  have hvb : f.vb.toNat < 64 := by
    have hsel := hpass.vb
    simp only [vsViol, viol_eq_nil, Bool.or_eq_false_iff, decide_eq_false_iff_not, Nat.not_le] at hsel
    exact hsel.1
  rw [Nat.mod_eq_of_lt hvb] at hname
  have hwrote (u : State) (hu : ∀ dc vd w, Wrote s u (vrGens false f) dc vd w []) :=
    (hu f.dc.toNat f.vd.toNat (widthOf f.w)).part (i := i) (o := (s.slotEnv i).o.ringD)
      (x := packEl (tyBits f.et.toNat) ((List.range (vCount f)).map (compressed s f keep)))
      (h.canLand hf hpass.w) (Nat.lt_succ_self 0) (ringD_vr hf)
  have hact (u : State) (hu : ∀ dc vd w, Wrote s u (vrGens false f) dc vd w []) :=
    compressAct_eq (keep := keep) h hf hno (class_ne_three hpass.va) hvb hname (hwrote u hu).rest (hwrote u hu).noVG
  obtain ⟨u, t, hu, ht, hend⟩ := h.vrWith_ends hsem (compressTo_eq i f keep) fun u hu => by
    rw [hact u hu]
    refine (hwrote u hu).acting.onR fun r => ?_
    unfold Regs.ws Regs.wsMode
    split
    · exact ⟨rfl, rfl, rfl⟩
    · split <;> exact ⟨rfl, rfl, rfl⟩
  rw [hact u hu] at hend
  obtain ⟨hscalar, hrest, hregs, hgens, hlands, hvalue⟩ := (hwrote u hu).ends_scalar hend
  have hvd (j : Nat) (hj : j < vCount f) : t.vd f j = compressed s f keep j % 2 ^ tyBits f.et.toNat := by
    rw [State.vd, hvalue, lane_mod _ (tyBits_mul_vCount f ▸ Nat.mul_le_mul_left _ hj), lane_packEl_range _ hj]
  refine ⟨t, ht, hscalar, hrest, hregs, hgens, hlands, fun j hlo hhi => ?_, fun k hk hlit => ?_⟩
  · rw [hvd j hhi, compressed, if_neg (Nat.not_lt.mpr hlo)]
    split
    · exact Nat.mod_eq_of_lt (s.vd_lt f j)
    · exact Nat.zero_mod _
  · obtain ⟨hget, hlt⟩ := getD_filter_range hk hlit
    rw [hvd _ (Nat.lt_of_lt_of_le hlt (rank_le s f _)), compressed, if_pos hlt, hget, Nat.mod_eq_of_lt (s.va_lt f k)]

end Sys2Proof.Machine
end

section
open Sys2Proof Sys2Proof.Machine

/-- Settles O28: each operation's list of results is its elements by number, and the count of a compression is a rank. -/
theorem vectorMovement : Obligations.VectorMovement := by
  unfold Obligations.VectorMovement
  refine ⟨?_, ?_, ?_, ?_, ?_, ?_, ?_, ?_, ?_, ?_, ?_, ?_, ?_⟩
  · exact fun f => completesV_of fun s h => h.seeds
  · exact OfForm.writes (rounds := false) (e := { types := tAll, vb := .none }) {} (fun _ => rfl) (fun _ => rfl)
      (fun f s hpass => vInputs_a rfl rfl (class_ne_three hpass.va)) fun f s j _ _ => rfl
  · exact OfForm.writes (rounds := false) (e := { types := tAll, vb := .bcast }) {} (fun _ => rfl) (fun _ => rfl)
      (fun f s hpass => by
        rw [vInputs_a rfl rfl (class_ne_three hpass.va), getD_range, vInputs_r, bf_low (w := 6) (scalar_of_bcast hpass.vb).1, vInputs_n,
          ← List.length_range (n := vCount f), ← List.map_const', List.length_range])
      fun f s j _ _ => rfl
  · exact OfForm.writes (rounds := false) (e := { types := tAll, mrg := false }) {} (fun _ => rfl) (fun _ => rfl)
      (fun f s hpass => by
        rw [vInputs_a rfl rfl (class_ne_three hpass.va), vInputs_b rfl rfl (class_ne_three hpass.vb), List.map_map]
        exact List.map_congr_left fun j _ => getD_range _ _ _)
      fun f s j _ _ => rfl
  · exact fun f => completesV_of fun s h => h.shuffles
  · refine OfForm.writes (rounds := false) (e := { types := tAll, vb := .bcast, mrg := false }) {} (fun _ => rfl) (fun _ => rfl)
      (fun f s hpass => by
        rw [vInputs_a rfl rfl (class_ne_three hpass.va), vInputs_r, bf_low (w := 6) (scalar_of_bcast hpass.vb).1]
        exact List.map_congr_left fun j _ => rfl)
      fun f s j _ _ => congrArg (· % 2 ^ tyBits f.et.toNat) ?_
    dsimp only
    rw [getD_range]
    by_cases hneg : 0 ≤ (j : Int) + (s.me.r.rs f.vb.toNat).toInt
    · simp only [hneg, true_and, if_true, Int.toNat_lt hneg]
    · simp only [hneg, false_and, if_false]
  · exact fun f => completesV_of fun s h => h.compresses (keep := false) rfl rfl ⟨rfl, rfl⟩ (VEntry.passes h.legal)
      (List.mem_append_right _ (List.mem_singleton_self _))
  · exact fun f => completesV_of fun s h => h.compresses (keep := true) rfl rfl ⟨rfl, rfl⟩ (VEntry.passes h.legal)
      (List.mem_append_right _ (List.mem_singleton_self _))
  · refine OfForm.fillsAll (e := { types := tAll, vb := .none, mrg := false }) {} (fun _ => rfl) fun f s hpass => ?_
    rw [vInputs_a rfl rfl (class_ne_three hpass.va), spreadEnabled_eq]
    simp only [vInputs_mask, vInputs_bits, vInputs_n, Nat.zero_add, enabled_eq_lit]
    refine List.map_congr_left fun j hj => ?_
    exact congrArg (fun x => if s.lit f j = true then x else 0)
      (getD_map_range (s.va f) (Nat.lt_of_le_of_lt (rank_le s f j) (List.mem_range.mp hj)))
  · exact OfForm.writes (rounds := false) (e := { types := tAll, rm := .low, mrg := false }) {} (fun _ => rfl) (fun _ => rfl)
      (fun f s hpass => by
        rw [vInputs_a rfl rfl (class_ne_three hpass.va), vInputs_b rfl rfl (class_ne_three hpass.vb)]
        exact interleave_halves (bit f.rm 0) _ _ (vCount_even hpass.w))
      fun f s j _ _ => rfl
  · exact OfForm.writes (rounds := false) (e := { types := tAll, rm := .low, mrg := false }) {} (fun _ => rfl) (fun _ => rfl)
      (fun f s hpass => by
        rw [vInputs_a rfl rfl (class_ne_three hpass.va), vInputs_b rfl rfl (class_ne_three hpass.vb)]
        exact unzip_halves (bit f.rm 0) _ _ (vCount_even hpass.w))
      fun f s j _ _ => rfl
  · intro f s ready free clean plain
    obtain ⟨t, ht, hwrites⟩ := OfForm.scalars (mk := .vext) {} (fun _ => rfl) rfl (fun _ => rfl) f s ready free clean plain
    have hpass := VEntry.passes (f := f) (slotViol_of_ready ready)
    rw [vInputs_a rfl rfl (class_ne_three hpass.va), vInputs_r, bf_low (w := 6) (scalar_of_bcast hpass.vb).1, getD_range] at hwrites
    refine ⟨t, ht, ?_⟩
    dsimp only
    split at hwrites
    · next hk => rwa [if_pos hk, ← elemScalar_eq (s.va_lt f _)]
    · next hk => rwa [if_neg hk, ← elemScalar_zero f.et.toNat]
  · exact OfForm.fillsAll (e := { types := tReal, va := .bcast, vb := .bcast, mrg := false, maskZero := true }) {} (fun _ => rfl)
      fun f s hpass => by
        rw [vInputs_d rfl rfl, vInputs_r, bf_low (w := 6) (scalar_of_bcast hpass.vb).1, bf_low (w := 6) (scalar_of_bcast hpass.va).1, set_range]
        rfl

end

section
/-!
SUPPORT. Reductions (06 R206, R207), scans (R208) and histograms (R209) over the elements by number.
-/

namespace Sys2Proof.Machine

variable {s : State} {i : Instr} {f : VR}

/-! ### Integer reductions -/

/-- A fold that keeps within a bound ends within it. -/
theorem foldl_lt {n a : Nat} {g : Nat → Nat → Nat} {l : List Nat} (hg : ∀ x y, x < n → y < n → g x y < n) (ha : a < n)
    (hl : ∀ x ∈ l, x < n) : l.foldl g a < n := by
  induction l generalizing a with
  | nil => exact ha
  | cons x l ih =>
    exact ih (hg a x ha (hl x (List.mem_cons_self ..))) fun y hy => hl y (List.mem_cons_of_mem _ hy)

/-- The enabled elements of the first source. -/
def State.vaOn (s : State) (f : VR) : List Nat := ((List.range (vCount f)).filter (s.lit f)).map (s.va f)

theorem vInputs_on {rounds : Bool} (hf : formOf i = .vr f) (ha : noVa i = false) (h3 : f.ac ≠ 3) :
    (s.vInputs i f rounds).on = s.vaOn f := by
  rw [VIn.on, vInputs_a hf ha h3]
  exact pickEnabled_va s f (s.va f)

theorem vaOn_lt (s : State) (f : VR) : ∀ x ∈ s.vaOn f, x < 2 ^ tyBits f.et.toNat := by
  intro x hx
  obtain ⟨j, -, rfl⟩ := List.mem_map.mp hx
  exact s.va_lt f j

/-- The reductions of a list of codes on the integers they stand for (06 R206). -/
theorem reduceInt_eq {l : List Nat} (hl : ∀ x ∈ l, x < 2 ^ tyBits f.et.toNat) :
    reduceInt (intOf f) 0 l = BitVec.ofInt 64 ((l.map (vInt f)).sum) ∧
    reduceInt (intOf f) 1 l = BitVec.ofInt 64 ((l.map (vInt f)).foldl min (vGreatest f)) ∧
    reduceInt (intOf f) 2 l = BitVec.ofInt 64 ((l.map (vInt f)).foldl max (vLeast f)) ∧
    reduceInt (intOf f) 3 l = BitVec.ofInt 64 (vInt f (l.foldl (· &&& ·) (2 ^ tyBits f.et.toNat - 1))) ∧
    reduceInt (intOf f) 4 l = BitVec.ofInt 64 (vInt f (l.foldl (· ||| ·) 0)) ∧
    reduceInt (intOf f) 5 l = BitVec.ofInt 64 (vInt f (l.foldl (· ^^^ ·) 0)) := by
  have hmap : l.map (intOf f).decode = l.map (vInt f) := List.map_congr_left fun x hx => decode_intOf (hl x hx)
  have hpos := Nat.two_pow_pos (tyBits f.et.toNat)
  have hand := foldl_lt (fun x y _ hy => Nat.and_lt_two_pow x hy) (Nat.sub_lt hpos Nat.one_pos) hl
  have hor := foldl_lt (fun _ _ hx hy => Nat.or_lt_two_pow hx hy) hpos hl
  have hxor := foldl_lt (fun _ _ hx hy => Nat.xor_lt_two_pow hx hy) hpos hl
  refine ⟨?_, ?_, ?_, ?_, ?_, ?_⟩
  · simp only [reduceInt, hmap, List.sum_eq_foldl]
  · simp only [reduceInt, hmap, intOf_hi]
  · simp only [reduceInt, hmap, intOf_lo]
  · exact congrArg (BitVec.ofInt 64) (decode_intOf hand)
  · exact congrArg (BitVec.ofInt 64) (decode_intOf hor)
  · exact congrArg (BitVec.ofInt 64) (decode_intOf hxor)

/-! ### The pairwise tree -/

/-- A node over two that may be absent (06 R207). -/
def pairNode (g : Nat → Nat → Nat) : Option Nat → Option Nat → Option Nat
  | some a, some b => some (g a b)
  | some a, none => some a
  | none, b => b

theorem treeAt_succ (g : Nat → Nat → Nat) (leaf : Nat → Option Nat) (k i : Nat) :
    treeAt g leaf (k + 1) i = pairNode g (treeAt g leaf k (2 * i)) (treeAt g leaf k (2 * i + 1)) := by
  rw [treeAt]
  cases treeAt g leaf k (2 * i) <;> cases treeAt g leaf k (2 * i + 1) <;> rfl

/-- A tree over leaves is one level less over their pairs. -/
theorem treeAt_pairs (g : Nat → Nat → Nat) (leaf : Nat → Option Nat) (k i : Nat) :
    treeAt g leaf (k + 1) i = treeAt g (fun j => pairNode g (leaf (2 * j)) (leaf (2 * j + 1))) k i := by
  induction k generalizing i with
  | zero => exact treeAt_succ g leaf 0 i
  | succ k ih => rw [treeAt_succ, ih, ih, ← treeAt_succ]

theorem pairLevel_range (g : Nat → Nat → Nat) (n : Nat) (leaf : Nat → Option Nat) :
    pairLevel g ((List.range (2 * n)).map leaf) = (List.range n).map (fun j => pairNode g (leaf (2 * j)) (leaf (2 * j + 1))) := by
  induction n generalizing leaf with
  | zero => rfl
  | succ n ih =>
    have hrest := ih fun j => leaf (j + 2)
    have hstep (a b : Option Nat) (l : List (Option Nat)) : pairLevel g (a :: b :: l) = pairNode g a b :: pairLevel g l := by
      cases a <;> cases b <;> rfl
    simp only [Nat.mul_succ, List.range_succ_eq_map, List.map_cons, List.map_map, hstep, Function.comp_def, Nat.succ_eq_add_one,
      Nat.add_assoc, Nat.reduceAdd] at hrest ⊢
    rw [hrest]

/-- A tree of enough levels over a power of two of leaves ends at its root. -/
theorem pairTree_range (g : Nat → Nat → Nat) {k n : Nat} (h : k ≤ n) (leaf : Nat → Option Nat) :
    pairTree g n ((List.range (2 ^ k)).map leaf) = treeAt g leaf k 0 := by
  induction n generalizing k leaf with
  | zero =>
    obtain rfl := Nat.le_zero.mp h
    rfl
  | succ n ih =>
    cases k with
    | zero => rfl
    | succ k =>
      have hmany : pairTree g (n + 1) ((List.range (2 ^ (k + 1))).map leaf) =
          pairTree g n (pairLevel g ((List.range (2 ^ (k + 1))).map leaf)) := by
        have hlen : ((List.range (2 ^ (k + 1))).map leaf).length ≠ 1 := by
          rw [List.length_map, List.length_range, Nat.pow_succ]
          have := Nat.two_pow_pos k
          omega
        generalize (List.range (2 ^ (k + 1))).map leaf = l at hlen
        match l, hlen with
        | [], _ => rfl
        | [x], h1 => exact absurd rfl h1
        | _ :: _ :: _, _ => rfl
      rw [hmany, Nat.pow_succ', pairLevel_range, ih (by omega), treeAt_pairs]

/-! ### Prefix sums -/

/-- The accumulator of a scan after one more element. -/
def scanStep (add : Nat → Nat → Nat) (on : Bool) (x : Nat) (acc : Option Nat) : Option Nat :=
  if on then some (acc.elim x fun a => add a x) else acc

theorem scanAt_succ (add : Nat → Nat → Nat) (on : Nat → Bool) (x : Nat → Nat) (j : Nat) :
    scanAt add (fun i => if on i then some (x i) else none) (j + 1) =
      scanStep add (on j) (x j) (scanAt add (fun i => if on i then some (x i) else none) j) := by
  rw [scanAt, scanStep]
  cases on j <;> cases scanAt add (fun i => if on i then some (x i) else none) j <;> rfl

theorem scanFrom_cons (ex : Bool) (add : Nat → Nat → Nat) (on : Bool) (x : Nat) (l : List (Bool × Nat)) (acc : Option Nat) :
    scanFrom ex add ((on, x) :: l) acc =
      (if ex then acc.getD 0 else (scanStep add on x acc).getD 0) :: scanFrom ex add l (scanStep add on x acc) := by
  cases acc <;> rfl

theorem scanFrom_range (ex : Bool) (add : Nat → Nat → Nat) (on : Nat → Bool) (x : Nat → Nat) (n k : Nat) :
    scanFrom ex add ((List.range n).map fun j => (on (k + j), x (k + j))) (scanAt add (fun i => if on i then some (x i) else none) k) =
      (List.range n).map fun j =>
        (scanAt add (fun i => if on i then some (x i) else none) (if ex then k + j else k + j + 1)).getD 0 := by
  induction n generalizing k with
  | zero => rfl
  | succ n ih =>
    have hrest := ih (k + 1)
    have hnext (j : Nat) : k + 1 + j = k + (j + 1) := by omega
    simp only [hnext] at hrest
    simp only [List.range_succ_eq_map, List.map_cons, List.map_map, scanFrom_cons, Function.comp_def, Nat.succ_eq_add_one, Nat.add_zero,
      ← scanAt_succ, hrest]
    cases ex <;> rfl

/-! ### Histograms -/

theorem zipIdx_range {α : Type} (n : Nat) (p : Nat → α) : ((List.range n).map p).zipIdx = (List.range n).map fun j => (p j, j) :=
  List.ext_getElem (by simp) fun j hj _ => by simp

/-- `vhist` counts the enabled elements of each value into its counter (06 R209). -/
theorem State.VReady.counts (h : s.VReady (.vhist f)) : ∃ t, exec (.vhist f) s = .next t ∧ VKept s t 0 f.vd.toNat (widthOf f.w) [] ∧
    ∀ k, k < widthOf f.w / 32 → lane 32 (t.vBits 0 f.vd.toNat 0 (widthOf f.w) true) k =
      (lane 32 (s.vBits 0 f.vd.toNat 0 (widthOf f.w) true) k +
        (List.range (vCount f)).countP (fun i => s.lit f i && s.va f i == k)) % 2 ^ 32 := by
  have hpass : VEntry.Passes { types := tInt, vd := .reg, vb := .none, mrg := false } f := VEntry.passes h.legal
  have hland : s.CanLand 0 f.vd.toNat (widthOf f.w) 1 :=
    ⟨widthOf_cases hpass.w, fun h0 => absurd rfl h0, fun h0 => absurd rfl h0⟩
  have hcount (k : Nat) : ((s.vaOn f).filter (fun x => x = k)).length =
      (List.range (vCount f)).countP (fun i => s.lit f i && s.va f i == k) := by
    rw [State.vaOn, ← List.countP_eq_length_filter, List.countP_map, List.countP_filter]
    exact List.countP_congr fun j _ => by simp [and_comm]
  obtain ⟨t, ht, hkept, hvalue⟩ := h.vrLands (i := .vhist f) (rounds := false) rfl rfl hland (fun h0 => absurd rfl h0) fun u => rfl
  refine ⟨t, ht, hkept, fun k hk => ?_⟩
  rw [hvalue, lane_mod _ (by omega), part_slotEnv (fun h0 => absurd rfl h0), elems_eq, vInputs_on rfl rfl (class_ne_three hpass.va), zipIdx_range, List.map_map,
    lane_packEl_range _ hk, Function.comp_apply, hcount]

end Sys2Proof.Machine
end

section
open Sys2Proof Sys2Proof.Machine

/-- Settles O29: reductions fold the enabled elements, the levels of the tree are those of the pairs below them, and a scan and a
histogram go element by element. -/
theorem vectorReductions : Obligations.VectorReductions := by
  unfold Obligations.VectorReductions
  refine ⟨?_, ?_, ?_, ?_⟩
  · intro f s ready free clean plain
    obtain ⟨t, ht, hwrites⟩ := OfForm.scalars (mk := .vred) {} (fun _ => rfl) rfl (fun _ => rfl) f s ready free clean plain
    have hpass := VEntry.passes (f := f) (slotViol_of_ready ready)
    rw [vInputs_on rfl rfl (class_ne_three hpass.va)] at hwrites
    obtain ⟨hsum, hmin, hmax, hand, hor, hxor⟩ := reduceInt_eq (vaOn_lt s f)
    refine ⟨t, ht, _, hwrites, fun h => ?_, fun h => ?_, fun h => ?_, fun h => ?_, fun h => ?_, fun h => ?_⟩ <;> rw [h]
    · exact hsum
    · exact hmin
    · exact hmax
    · exact hand
    · exact hor
    · exact hxor
  · intro f s ready free clean plain
    obtain ⟨t, ht, hwrites⟩ := OfForm.scalars (mk := .vfred) ⟨fun _ => rfl, fun _ h => VEntry.passes (List.append_eq_nil_iff.mp h).1⟩
      (fun _ => rfl) rfl (fun _ => rfl) f s ready free clean plain
    have hpass := VEntry.passes (f := f) (List.append_eq_nil_iff.mp (slotViol_of_ready ready)).1
    have hvb : f.vb.toNat < 4 := by
      have hsel := hpass.vb
      simp only [vsViol, viol_eq_nil, Bool.or_eq_false_iff, decide_eq_false_iff_not, Nat.not_le] at hsel
      exact hsel.1
    obtain ⟨k, -, hk, hcount⟩ := vCount_pow hpass.w
    rw [vInputs_a rfl rfl (class_ne_three hpass.va), bf_low (w := 2) hvb, vInputs_n, zipWith_upto] at hwrites
    simp only [vInputs_mask, vInputs_bits, enabled_eq_lit, reduceFloat, hcount, pairTree_range _ (show k ≤ 8 by omega)] at hwrites
    refine ⟨t, ht, _, hwrites, fun h => ?_, fun h => ?_, fun h => ?_⟩ <;> simp only [h, hcount, Nat.log2_two_pow] <;> rfl
  · refine OfForm.fillsAll (mk := .vscan) ⟨fun _ => rfl, fun _ h => VEntry.passes (List.append_eq_nil_iff.mp h).1⟩ (fun _ => rfl) fun f s hpass => ?_
    rw [vInputs_a rfl rfl (class_ne_three hpass.va), vInputs_n, zipWith_upto]
    have hscan := scanFrom_range (bit f.vb 0) (fun a b => if f.et.toNat ≤ 7 then (a + b) % 2 ^ tyBits f.et.toNat
      else (flOf f).addr (Rnd.get f.rm.toNat) 0 [(flOf f).decode a, (flOf f).decode b]) (s.lit f) (s.va f) (vCount f) 0
    simp only [Nat.zero_add] at hscan
    exact hscan
  · exact fun f => completesV_of fun s h => h.counts

end

section
/-!
SUPPORT. Finite exact values as rationals (03 R71), the largest magnitude of a list, and the scale and the codes of an S9 block
(03 R85).
-/

namespace Sys2Proof.Machine

/-! ### Finite values -/

theorem Num.isFin_iff {x : Num} : x.isFin = true ↔ ∃ s n e, x = .fin s n e := by
  cases x <;> simp [Num.isFin]

theorem Num.lt_ratio {x y : Num} (hx : x.isFin = true) (hy : y.isFin = true) : Num.lt x y = true ↔ x.ratio < y.ratio := by
  obtain ⟨a, n, e, rfl⟩ := Num.isFin_iff.mp hx
  obtain ⟨b, m, f, rfl⟩ := Num.isFin_iff.mp hy
  exact Num.lt_fin_iff

theorem Num.lt_false_ratio {x y : Num} (hx : x.isFin = true) (hy : y.isFin = true) : Num.lt x y = false ↔ y.ratio ≤ x.ratio := by
  rw [← Bool.not_eq_true, Num.lt_ratio hx hy, not_lt]

theorem Num.eqv_ratio {x y : Num} (hx : x.isFin = true) (hy : y.isFin = true) : Num.eqv x y = true ↔ x.ratio = y.ratio := by
  obtain ⟨a, n, e, rfl⟩ := Num.isFin_iff.mp hx
  obtain ⟨b, m, f, rfl⟩ := Num.isFin_iff.mp hy
  rw [Num.eqv_eq (by simp) (by simp), Bool.and_eq_true, Bool.not_eq_true', Bool.not_eq_true', Num.lt_false_ratio rfl rfl,
    Num.lt_false_ratio rfl rfl, and_comm, le_antisymm_iff]

theorem Num.isFin_abs {x : Num} (h : x.isFin = true) : x.abs.isFin = true := by
  obtain ⟨a, n, e, rfl⟩ := Num.isFin_iff.mp h
  rfl

theorem Num.ratio_abs {x : Num} (h : x.isFin = true) : x.abs.ratio = |x.ratio| := by
  obtain ⟨a, n, e, rfl⟩ := Num.isFin_iff.mp h
  have hpow : (0 : ℚ) ≤ n * 2 ^ e := by positivity
  cases a
  · simp [Num.abs, Num.ratio, abs_of_nonneg hpow]
  · simp [Num.abs, Num.ratio, abs_of_nonneg hpow]

theorem Num.isFin_neg {x : Num} (h : x.isFin = true) : x.neg.isFin = true := by
  obtain ⟨a, n, e, rfl⟩ := Num.isFin_iff.mp h
  rfl

theorem Num.ratio_neg (x : Num) : x.neg.ratio = -x.ratio := by
  cases x with
  | nan => simp [Num.neg, Num.ratio]
  | inf s => simp [Num.neg, Num.ratio]
  | fin s n e => cases s <;> simp [Num.neg, Num.ratio]

theorem Num.isFin_mul {x y : Num} (hx : x.isFin = true) (hy : y.isFin = true) : (x.mul y).isFin = true := by
  obtain ⟨a, n, e, rfl⟩ := Num.isFin_iff.mp hx
  obtain ⟨b, m, f, rfl⟩ := Num.isFin_iff.mp hy
  rfl

theorem Num.ratio_mul {x y : Num} (hx : x.isFin = true) (hy : y.isFin = true) : (x.mul y).ratio = x.ratio * y.ratio := by
  obtain ⟨a, n, e, rfl⟩ := Num.isFin_iff.mp hx
  obtain ⟨b, m, f, rfl⟩ := Num.isFin_iff.mp hy
  simp only [Num.mul, Num.ratio, zpow_add₀ (two_ne_zero (α := ℚ)), Nat.cast_mul]
  cases a <;> cases b <;> simp <;> ring

theorem Num.isZero_ratio {x : Num} (h : x.isFin = true) : x.isZero = true ↔ x.ratio = 0 := by
  obtain ⟨a, n, e, rfl⟩ := Num.isFin_iff.mp h
  have hpow : (2 : ℚ) ^ e ≠ 0 := zpow_ne_zero _ two_ne_zero
  cases a <;> simp [Num.isZero, Num.ratio, hpow]

theorem Num.isFin_of_isZero {x : Num} (h : x.isZero = true) : x.isFin = true := by
  obtain ⟨s, e, rfl⟩ := Num.isZero_iff.mp h
  rfl

/-- A magnitude as a fraction. -/
theorem dyadic_ratio (n : Nat) (e : Int) : 0 < (dyadic n e).2 ∧ ((dyadic n e).1 : ℚ) / (dyadic n e).2 = (Num.fin false n e).ratio := by
  have hpow : (2 : ℚ) ≠ 0 := two_ne_zero
  unfold dyadic
  simp only [Num.ratio, Bool.false_eq_true, if_false]
  split
  · next h =>
    refine ⟨Nat.one_pos, ?_⟩
    obtain ⟨k, rfl⟩ := Int.eq_ofNat_of_zero_le h
    simp
  · next h =>
    refine ⟨Nat.two_pow_pos _, ?_⟩
    obtain ⟨k, hk⟩ := Int.eq_ofNat_of_zero_le (show 0 ≤ -e by omega)
    obtain rfl : e = -(k : Int) := by omega
    simp [div_eq_mul_inv]

/-- The exact sum of two finite values. -/
theorem sumExact_two {x y : Num} (rdn : Bool) (hx : x.isFin = true) (hy : y.isFin = true) :
    (sumExact rdn [x, y]).isFin = true ∧ (sumExact rdn [x, y]).ratio = x.ratio + y.ratio := by
  obtain ⟨a, n, e, rfl⟩ := Num.isFin_iff.mp hx
  obtain ⟨b, m, f, rfl⟩ := Num.isFin_iff.mp hy
  have hsum : ((Num.scaled (min (min 0 e) f) (.fin a n e) + Num.scaled (min (min 0 e) f) (.fin b m f) : Int) : ℚ) * 2 ^ (min (min 0 e) f) =
      (Num.fin a n e).ratio + (Num.fin b m f).ratio := by
    rw [Int.cast_add, add_mul, Num.scaled_ratio a n (by omega), Num.scaled_ratio b m (by omega)]
  have hexp : minExp [.fin a n e, .fin b m f] = min (min 0 e) f := rfl
  unfold sumExact
  simp only [List.any_cons, List.any_nil, reduceCtorEq, decide_false, Bool.or_self, Bool.and_self, Bool.false_eq_true, if_false,
    List.foldl_cons, List.foldl_nil, zero_add, hexp]
  rw [← hsum]
  generalize Num.scaled (min (min 0 e) f) (.fin a n e) + Num.scaled (min (min 0 e) f) (.fin b m f) = z
  by_cases hz : z = 0
  · rw [if_pos hz, hz]
    split
    · exact ⟨rfl, by simp [Num.ratio]⟩
    · split
      · exact ⟨rfl, by simp [Num.ratio]⟩
      · exact ⟨rfl, by cases rdn <;> simp [Num.ratio]⟩
  · rw [if_neg hz]
    refine ⟨rfl, ?_⟩
    have habs : (z.natAbs : ℚ) = |(z : ℚ)| := by rw [← Int.cast_abs, Int.abs_eq_natAbs, Int.cast_natCast]
    rcases lt_or_gt_of_ne hz with hneg | hpos
    · have hq : (z : ℚ) < 0 := by exact_mod_cast hneg
      simp [Num.ratio, hneg, habs, abs_of_neg hq]
    · have hq : (0 : ℚ) < z := by exact_mod_cast hpos
      simp [Num.ratio, not_lt.mpr (le_of_lt hpos), habs, abs_of_pos hq]

/-! ### The largest magnitude -/

/-- What a fold over the magnitudes of a list holds. -/
theorem maxAbs_fold {xs : List Num} {a : Num} (ha : a.isFin = true) (h : ∀ x ∈ xs, x.isFin = true) :
    let r := xs.foldl (fun acc x => if Num.lt acc x.abs then x.abs else acc) a
    r.isFin = true ∧ a.ratio ≤ r.ratio ∧ (∀ x ∈ xs, |x.ratio| ≤ r.ratio) ∧ (r = a ∨ ∃ x ∈ xs, r = x.abs) := by
  induction xs generalizing a with
  | nil => exact ⟨ha, le_rfl, fun x hx => absurd hx (List.not_mem_nil), Or.inl rfl⟩
  | cons x xs ih =>
    have hx := h x (List.mem_cons_self ..)
    have hxs : ∀ y ∈ xs, y.isFin = true := fun y hy => h y (List.mem_cons_of_mem _ hy)
    have hratio := Num.ratio_abs hx
    simp only [List.foldl_cons]
    split
    · next hlt =>
      rw [Num.lt_ratio ha (Num.isFin_abs hx)] at hlt
      obtain ⟨hfin, hle, hall, hfrom⟩ := ih (Num.isFin_abs hx) hxs
      refine ⟨hfin, by linarith, fun y hy => ?_, Or.inr ?_⟩
      · rcases List.mem_cons.mp hy with rfl | hy
        · linarith
        · exact hall y hy
      · rcases hfrom with hfrom | ⟨y, hy, hfrom⟩
        · exact ⟨x, List.mem_cons_self .., hfrom⟩
        · exact ⟨y, List.mem_cons_of_mem _ hy, hfrom⟩
    · next hge =>
      rw [Bool.not_eq_true, Num.lt_false_ratio ha (Num.isFin_abs hx)] at hge
      obtain ⟨hfin, hle, hall, hfrom⟩ := ih ha hxs
      refine ⟨hfin, hle, fun y hy => ?_, hfrom.imp id fun ⟨y, hy, hfrom⟩ => ⟨y, List.mem_cons_of_mem _ hy, hfrom⟩⟩
      rcases List.mem_cons.mp hy with rfl | hy
      · linarith
      · exact hall y hy

/-- The largest magnitude of finite values. -/
theorem maxAbs_spec {xs : List Num} (h : ∀ x ∈ xs, x.isFin = true) : (Num.maxAbs xs).isFin = true ∧ 0 ≤ (Num.maxAbs xs).ratio ∧
    (∀ x ∈ xs, |x.ratio| ≤ (Num.maxAbs xs).ratio) ∧ (Num.maxAbs xs = .fin false 0 0 ∨ ∃ x ∈ xs, Num.maxAbs xs = x.abs) := by
  obtain ⟨hfin, hle, hall, hfrom⟩ := maxAbs_fold (a := .fin false 0 0) rfl h
  exact ⟨hfin, le_of_eq_of_le (by simp [Num.ratio]) hle, hall, hfrom⟩

/-- It is a zero just if all are. -/
theorem maxAbs_isZero {xs : List Num} (h : ∀ x ∈ xs, x.isFin = true) : (Num.maxAbs xs).isZero = true ↔ ∀ x ∈ xs, x.isZero = true := by
  obtain ⟨hfin, -, hall, hfrom⟩ := maxAbs_spec h
  rw [Num.isZero_ratio hfin]
  constructor
  · intro h0 x hx
    rw [Num.isZero_ratio (h x hx), ← abs_nonpos_iff, ← h0]
    exact hall x hx
  · intro hzero
    rcases hfrom with hfrom | ⟨x, hx, hfrom⟩
    · rw [hfrom]
      simp [Num.ratio]
    · rw [hfrom, Num.ratio_abs (h x hx), abs_eq_zero, ← Num.isZero_ratio (h x hx)]
      exact hzero x hx

/-- A nonzero largest magnitude is that of an element. -/
theorem maxAbs_mem {xs : List Num} (h : ∀ x ∈ xs, x.isFin = true) (h0 : (Num.maxAbs xs).isZero = false) :
    ∃ x ∈ xs, Num.maxAbs xs = x.abs := by
  obtain ⟨-, -, -, hfrom⟩ := maxAbs_spec h
  refine hfrom.resolve_left fun hzero => ?_
  rw [hzero] at h0
  cases h0

/-! ### S9 blocks -/

theorem s9Val_isFin {c : Nat} (h : c < 0x1FC) : (s9Val c).isFin = true := by
  unfold s9Val
  rw [Nat.mod_eq_of_lt (by omega)]
  simp only [show c / 4 ≠ 127 by omega, if_false]
  split <;> rfl

theorem fmtTy_max_isFin (fmt : Nat) : (fmtTy fmt).max.isFin = true := by
  unfold fmtTy
  split <;> decide

theorem any_notFin {xs : List Num} : xs.any (fun x => !x.isFin) = true ↔ ∃ x ∈ xs, x.isFin = false := by
  simp

theorem s9Scale_spec (t : CvtTy) (a : Num) : 1 ≤ s9Scale t a ∧ s9Scale t a ≤ 0x1FB ∧
    (s9Scale t a = 0x1FB ∨ Num.lt ((s9Val (s9Scale t a)).mul t.max) a = false) ∧
    ∀ b, 1 ≤ b → b < s9Scale t a → Num.lt ((s9Val b).mul t.max) a = true := by
  have hrange : (upto 0x1FC).drop 1 = (List.range 0x1FB).map (· + 1) := by
    rw [upto, List.range_succ_eq_map, List.drop_succ_cons, List.drop_zero]
  unfold s9Scale
  rw [hrange, List.find?_map]
  cases h : (List.range 0x1FB).find? ((fun c => !Num.lt ((s9Val c).mul t.max) a) ∘ (· + 1)) with
  | none =>
    rw [List.find?_range_eq_none] at h
    refine ⟨by decide, by decide, Or.inl rfl, fun b h1 hb => ?_⟩
    have hnot := h (b - 1) (Nat.lt_of_lt_of_le (Nat.sub_lt_self Nat.one_pos h1) (Nat.le_of_lt hb))
    rw [Function.comp_apply, Nat.sub_add_cancel h1] at hnot
    simpa using hnot
  | some k =>
    rw [List.find?_range_eq_some] at h
    obtain ⟨hk, hmem, hfirst⟩ := h
    rw [List.mem_range] at hmem
    refine ⟨Nat.succ_pos k, hmem, Or.inr (by simpa using hk), fun b h1 hb => ?_⟩
    have hnot := hfirst (b - 1) (Nat.lt_of_lt_of_le (Nat.sub_lt_self Nat.one_pos h1) (Nat.le_of_lt_succ hb))
    rw [Function.comp_apply, Nat.sub_add_cancel h1] at hnot
    simpa using hnot

/-- One block of S9 (03 R85): its scale is the least whose range holds the largest magnitude. -/
theorem s9Encode_is (fmt : Nat) (rm : Rnd) (ds : List (BitVec 32)) (xs : List Num) :
    S9Is (fmtTy fmt) rm ds xs (s9Encode (fmtTy fmt) rm ds xs).1 (s9Encode (fmtTy fmt) rm ds xs).2 := by
  refine ⟨fun hbad => ?_, fun hzero => ?_, fun hfin hsome => ?_⟩
  · rw [s9Encode, if_pos (any_notFin.mpr hbad)]
    refine ⟨rfl, fun e he => ?_⟩
    obtain ⟨x, -, rfl⟩ := List.mem_map.mp he
    rfl
  · have hfin : ∀ x ∈ xs, x.isFin = true := fun x hx => Num.isFin_of_isZero (hzero x hx)
    have hgood : ¬xs.any (fun x => !x.isFin) = true := by
      rw [any_notFin]
      rintro ⟨x, hx, hbad⟩
      rw [hfin x hx] at hbad
      cases hbad
    simp only [s9Encode, if_neg hgood, (maxAbs_isZero hfin).mpr hzero, if_true]
    exact ⟨trivial, fun i x hx => by rw [List.getElem?_map, hx]; rfl⟩
  · have hgood : ¬xs.any (fun x => !x.isFin) = true := by
      rw [any_notFin]
      rintro ⟨x, hx, hbad⟩
      rw [hfin x hx] at hbad
      cases hbad
    have hnz : (Num.maxAbs xs).isZero = false := by
      rw [← Bool.not_eq_true, maxAbs_isZero hfin]
      obtain ⟨x, hx, h0⟩ := hsome
      exact fun hall => by rw [hall x hx] at h0; cases h0
    simp only [s9Encode, if_neg hgood, hnz, Bool.false_eq_true, if_false]
    obtain ⟨hpos, hle, hfits, hfirst⟩ := s9Scale_spec (fmtTy fmt) (Num.maxAbs xs)
    obtain ⟨y, hy, hmax⟩ := maxAbs_mem hfin hnz
    obtain ⟨hmaxFin, -, hall, -⟩ := maxAbs_spec hfin
    have hprod := Num.isFin_mul (s9Val_isFin (Nat.lt_succ_of_le hle)) (fmtTy_max_isFin fmt)
    refine ⟨hpos, hle, hfits.imp id fun hfits x hx => ?_, fun b h1 hb => ⟨y, hy, hmax ▸ hfirst b h1 hb⟩, fun i x d hx hd => ?_⟩
    · rw [Num.lt_false_ratio hprod hmaxFin] at hfits
      rw [Num.lt_false_ratio hprod (Num.isFin_abs (hfin x hx)), Num.ratio_abs (hfin x hx)]
      exact le_trans (hall x hx) hfits
    · rw [List.getElem?_zipWith, hd, hx]

end Sys2Proof.Machine
end

section
/-!
SUPPORT. The codes of a QC4 group (03 R86 to R89): the nearest code and the two neighbours of a value, on the integers that the
codebook's weights and the value come to over one denominator.
-/

namespace Sys2Proof.Machine

/-! ### The codebook -/

theorem qcW_mono : ∀ a, a < 16 → ∀ b, b < 16 → a ≤ b → qcW a ≤ qcW b := by decide

theorem qcW_step : ∀ a, a < 15 → qcW a < qcW (a + 1) := by decide

/-- The weight of a code is that of its place among the magnitudes, with its sign. -/
theorem qcW_of_mag {j : Nat} (h : j < 8) (neg : Bool) :
    qcW (if neg then 7 - j else 8 + j) = if neg then -((qcMags.getD j 0 : Nat) : Int) else ((qcMags.getD j 0 : Nat) : Int) := by
  interval_cases j <;> cases neg <;> rfl

/-- Every code has a place among the magnitudes. -/
theorem exists_mag {b : Nat} (h : b < 16) : ∃ (k : Nat) (neg : Bool), k < 8 ∧ b = if neg then 7 - k else 8 + k := by
  by_cases hb : b < 8
  · exact ⟨7 - b, true, by omega, by simp; omega⟩
  · exact ⟨b - 8, false, by omega, by simp; omega⟩

theorem qcMags_mono : ∀ j, j < 8 → ∀ k, k < 8 → j ≤ k → qcMags.getD j 0 ≤ qcMags.getD k 0 := by decide

theorem five_le_mag : ∀ k, k < 8 → 5 ≤ qcMags.getD k 0 := by decide

/-! ### The nearest code -/

/-- A fold that keeps the first of the least: nothing of the list lies below its result, and what ties with it does not come
before. -/
theorem foldl_least (dist : Nat → Nat) (l : List (Nat × Nat)) (d0 i0 : Nat) (hsort : l.Pairwise (fun p q => p.2 ≤ q.2))
    (hstart : ∀ e ∈ l, i0 ≤ e.2) :
    let r := l.foldl (fun (best : Nat × Nat) (e : Nat × Nat) => if dist e.1 < best.1 then (dist e.1, e.2) else best) (d0, i0)
    (r = (d0, i0) ∨ ∃ e ∈ l, r = (dist e.1, e.2)) ∧ r.1 ≤ d0 ∧ (r.1 = d0 → r.2 = i0) ∧
      ∀ e ∈ l, r.1 ≤ dist e.1 ∧ (r.1 = dist e.1 → r.2 ≤ e.2) := by
  induction l generalizing d0 i0 with
  | nil => exact ⟨Or.inl rfl, Nat.le_refl _, fun _ => rfl, fun e he => absurd he (List.not_mem_nil)⟩
  | cons p l ih =>
    rw [List.pairwise_cons] at hsort
    obtain ⟨hp, hl⟩ := hsort
    have hi0 := hstart p (List.mem_cons_self ..)
    simp only [List.foldl_cons]
    split
    · next hlt =>
      obtain ⟨hfrom, hle, htie, hall⟩ := ih (dist p.1) p.2 hl hp
      refine ⟨Or.inr ?_, by omega, fun h => by omega, fun e he => ?_⟩
      · rcases hfrom with hfrom | ⟨e, he, hfrom⟩
        · exact ⟨p, List.mem_cons_self .., hfrom⟩
        · exact ⟨e, List.mem_cons_of_mem _ he, hfrom⟩
      · rcases List.mem_cons.mp he with rfl | he
        · exact ⟨hle, fun h => Nat.le_of_eq (htie h)⟩
        · exact hall e he
    · next hge =>
      obtain ⟨hfrom, hle, htie, hall⟩ := ih d0 i0 hl fun e he => hstart e (List.mem_cons_of_mem _ he)
      refine ⟨hfrom.imp id fun ⟨e, he, hfrom⟩ => ⟨e, List.mem_cons_of_mem _ he, hfrom⟩, hle, htie, fun e he => ?_⟩
      rcases List.mem_cons.mp he with rfl | he
      · exact ⟨by omega, fun h => by rw [htie (by omega)]; exact hi0⟩
      · exact hall e he

/-- How far a magnitude of the codebook lies from a value of 128 `num / den`, times `den`. -/
def magDist (num den w : Nat) : Nat := if w * den ≤ 128 * num then 128 * num - w * den else w * den - 128 * num

/-- The place of the nearest magnitude, the smaller of two as near. -/
theorem qcNearest_mag (neg : Bool) (num den : Nat) : ∃ j, j < 8 ∧ qcNearest neg num den = (if neg then 7 - j else 8 + j) ∧
    ∀ k, k < 8 → magDist num den (qcMags.getD j 0) ≤ magDist num den (qcMags.getD k 0) ∧
      (magDist num den (qcMags.getD j 0) = magDist num den (qcMags.getD k 0) → j ≤ k) := by
  obtain ⟨hfrom, -, -, hall⟩ := foldl_least (magDist num den) qcMags.zipIdx (magDist num den 5) 0 (by decide) fun e _ => Nat.zero_le _
  have hmem (k : Nat) (hk : k < 8) : (qcMags.getD k 0, k) ∈ qcMags.zipIdx := by
    interval_cases k <;> decide
  have hshape : ∀ e ∈ qcMags.zipIdx, e.2 < 8 ∧ e.1 = qcMags.getD e.2 0 := by decide
  have hcode : qcNearest neg num den = (if neg then 7 - (qcMags.zipIdx.foldl (fun (best : Nat × Nat) (e : Nat × Nat) =>
      if magDist num den e.1 < best.1 then (magDist num den e.1, e.2) else best) (magDist num den 5, 0)).2
      else 8 + (qcMags.zipIdx.foldl (fun (best : Nat × Nat) (e : Nat × Nat) =>
      if magDist num den e.1 < best.1 then (magDist num den e.1, e.2) else best) (magDist num den 5, 0)).2) := rfl
  rw [hcode]
  generalize qcMags.zipIdx.foldl (fun (best : Nat × Nat) (e : Nat × Nat) =>
    if magDist num den e.1 < best.1 then (magDist num den e.1, e.2) else best) (magDist num den 5, 0) = r at hfrom hall
  have hr : r.2 < 8 ∧ r.1 = magDist num den (qcMags.getD r.2 0) := by
    rcases hfrom with rfl | ⟨e, he, rfl⟩
    · exact ⟨show 0 < 8 by decide, rfl⟩
    · exact ⟨(hshape e he).1, by rw [← (hshape e he).2]⟩
  refine ⟨r.2, hr.1, rfl, fun k hk => ?_⟩
  rw [← hr.2]
  exact hall _ (hmem k hk)

/-- 128 times a value of sign `neg` and magnitude `num / den`, times `den`. -/
def qcTarget (neg : Bool) (num : Nat) : Int := if neg then -((128 * num : Nat) : Int) else ((128 * num : Nat) : Int)

theorem abs_same_sign (neg : Bool) (num den w : Nat) :
    |(if neg then -(w : Int) else (w : Int)) * den - qcTarget neg num| = magDist num den w := by
  have hcast : ((w * den : Nat) : Int) = w * den := Nat.cast_mul _ _
  rw [Int.abs_eq_natAbs]
  cases neg <;> simp only [qcTarget, magDist, Bool.false_eq_true, if_true, if_false, neg_mul, ← hcast] <;> split <;> omega

theorem abs_other_sign (neg : Bool) (num den w : Nat) :
    |(if neg then (w : Int) else -(w : Int)) * den - qcTarget neg num| = ((w * den + 128 * num : Nat) : Int) := by
  have hcast : ((w * den : Nat) : Int) = w * den := Nat.cast_mul _ _
  rw [Int.abs_eq_natAbs]
  cases neg <;> simp only [qcTarget, Bool.false_eq_true, if_true, if_false, neg_mul, ← hcast] <;> omega

/-- No code lies nearer than the nearest, and of those as near none is smaller. -/
theorem qcNearest_spec (neg : Bool) {num den : Nat} (hden : 0 < den) : qcNearest neg num den < 16 ∧
    (num = 0 → qcNearest neg num den = if neg then 7 else 8) ∧
    ∀ b, b < 16 → |qcW (qcNearest neg num den) * den - qcTarget neg num| ≤ |qcW b * den - qcTarget neg num| ∧
      (|qcW (qcNearest neg num den) * den - qcTarget neg num| = |qcW b * den - qcTarget neg num| →
        (qcW (qcNearest neg num den)).natAbs ≤ (qcW b).natAbs) := by
  obtain ⟨j, hj, hcode, hleast⟩ := qcNearest_mag neg num den
  have hfive := (hleast 0 (by decide)).1
  rw [hcode]
  refine ⟨by split <;> omega, fun h0 => ?_, fun b hb => ?_⟩
  · have hj0 : j = 0 := by
      by_contra hne
      have hlt : 5 < qcMags.getD j 0 := by
        have : ∀ j, j < 8 → j ≠ 0 → 5 < qcMags.getD j 0 := by decide
        exact this j hj hne
      have hmul := (Nat.mul_lt_mul_right hden).mpr hlt
      have hfive' : magDist num den 5 = 5 * den := by unfold magDist; split <;> omega
      have hself : magDist num den (qcMags.getD j 0) = qcMags.getD j 0 * den := by unfold magDist; split <;> omega
      rw [hself] at hfive
      have : qcMags.getD 0 0 = 5 := rfl
      rw [this, hfive'] at hfive
      omega
    rw [hj0]
  · obtain ⟨k, sign, hk, rfl⟩ := exists_mag hb
    rw [qcW_of_mag hj, qcW_of_mag hk, abs_same_sign]
    obtain ⟨hle, htie⟩ := hleast k hk
    by_cases hsign : sign = neg
    · subst hsign
      rw [abs_same_sign]
      refine ⟨by exact_mod_cast hle, fun h => ?_⟩
      have hjk := qcMags_mono j hj k hk (htie (by exact_mod_cast h))
      cases sign <;> simpa using hjk
    · have hother : (if sign then -((qcMags.getD k 0 : Nat) : Int) else ((qcMags.getD k 0 : Nat) : Int)) =
          if neg then ((qcMags.getD k 0 : Nat) : Int) else -((qcMags.getD k 0 : Nat) : Int) := by
        cases sign <;> cases neg <;> simp at hsign ⊢
      rw [hother, abs_other_sign]
      have hbound : magDist num den (qcMags.getD 0 0) + min num 1 ≤ 5 * den + 128 * num := by
        show magDist num den 5 + _ ≤ _
        unfold magDist
        split <;> omega
      have hmul := Nat.mul_le_mul_right den (five_le_mag k hk)
      refine ⟨by exact_mod_cast (by omega : magDist num den (qcMags.getD j 0) ≤ qcMags.getD k 0 * den + 128 * num), fun h => ?_⟩
      have heq : magDist num den (qcMags.getD j 0) = qcMags.getD k 0 * den + 128 * num := by exact_mod_cast h
      have hmag : qcMags.getD j 0 ≤ qcMags.getD k 0 := by
        by_contra hgt
        have hmore := Nat.mul_le_mul_right den (Nat.succ_le_of_lt (Nat.not_le.mp hgt))
        rw [Nat.succ_mul] at hmore
        unfold magDist at heq
        split at heq <;> omega
      cases neg <;> cases sign <;> simpa using hmag

/-! ### The neighbours of a value -/

/-- The greatest number of a range with a property that holds up to it. -/
theorem getLast_filter_range {n lo : Nat} {p : Nat → Bool} (hlo : lo < n) (hp : ∀ c, c < n → (p c = true ↔ c ≤ lo)) :
    ((List.range n).filter p).getLast? = some lo := by
  induction n with
  | zero => exact absurd hlo (Nat.not_lt_zero lo)
  | succ n ih =>
    rw [List.range_succ, List.filter_append]
    by_cases hlast : lo = n
    · subst hlast
      simp [(hp lo hlo).mpr (Nat.le_refl lo)]
    · have hout : ¬p n = true := by rw [hp n (Nat.lt_succ_self n)]; omega
      rw [List.filter_cons_of_neg hout, List.filter_nil, List.append_nil]
      exact ih (by omega) fun c hc => hp c (by omega)

theorem qcStochastic_none {d : BitVec 32} {neg : Bool} {num den : Nat} (h : qcTarget neg num < qcW 0 * den) :
    qcStochastic d neg num den = 0 := by
  have hnone : (upto 16).filter (fun c => decide (qcW c * (den : Int) ≤ qcTarget neg num)) = [] := by
    rw [List.filter_eq_nil_iff]
    intro c hc
    have hmono := mul_le_mul_of_nonneg_right (qcW_mono 0 (by decide) c (List.mem_range.mp hc) (Nat.zero_le c)) (Int.natCast_nonneg den)
    rw [decide_eq_true_eq]
    omega
  unfold qcStochastic
  rw [show (if neg then -((128 * num : Nat) : Int) else ((128 * num : Nat) : Int)) = qcTarget neg num from rfl]
  simp only [hnone, List.getLast?_nil]

theorem qcStochastic_some {d : BitVec 32} {neg : Bool} {num den lo : Nat} (hlo : lo < 16)
    (hle : qcW lo * den ≤ qcTarget neg num) (hlt : lo < 15 → qcTarget neg num < qcW (lo + 1) * den) :
    qcStochastic d neg num den = if lo = 15 ∨ qcW lo * (den : Int) = qcTarget neg num then lo
      else if d.toNat < 2 ^ 32 * (qcTarget neg num - qcW lo * (den : Int)).toNat / ((qcW (lo + 1) - qcW lo).toNat * den) then lo + 1 else lo := by
  have hlast : ((upto 16).filter (fun c => decide (qcW c * (den : Int) ≤ qcTarget neg num))).getLast? = some lo := by
    refine getLast_filter_range hlo fun c hc => ?_
    rw [decide_eq_true_eq]
    constructor
    · intro h
      by_contra hgt
      have hmono := mul_le_mul_of_nonneg_right (qcW_mono (lo + 1) (by omega) c hc (by omega)) (Int.natCast_nonneg den)
      have := hlt (by omega)
      omega
    · intro h
      have hmono := mul_le_mul_of_nonneg_right (qcW_mono c hc lo hlo h) (Int.natCast_nonneg den)
      omega
  unfold qcStochastic
  rw [show (if neg then -((128 * num : Nat) : Int) else ((128 * num : Nat) : Int)) = qcTarget neg num from rfl]
  simp only [hlast]

/-- In SR mode a value between two neighbours takes the upper one if the draw lies below its fraction. -/
theorem qcStochastic_spec (d : BitVec 32) (neg : Bool) {num den : Nat} (hden : 0 < den) :
    (qcTarget neg num < qcW 0 * den → qcStochastic d neg num den = 0) ∧
    (qcW 15 * den ≤ qcTarget neg num → qcStochastic d neg num den = 15) ∧
    ∀ lo, lo < 15 → qcW lo * den ≤ qcTarget neg num → qcTarget neg num < qcW (lo + 1) * den →
      qcStochastic d neg num den = if (qcTarget neg num - qcW lo * den) * 2 ^ 32 < ((d.toNat + 1) * (qcW (lo + 1) - qcW lo).natAbs : Nat) * den
        then lo else lo + 1 := by
  refine ⟨qcStochastic_none, fun h => ?_, fun lo hlo hle hlt => ?_⟩
  · rw [qcStochastic_some (by decide) h fun h15 => absurd h15 (by decide)]
    rfl
  · rw [qcStochastic_some (by omega) hle fun _ => hlt]
    have hgap : 0 < qcW (lo + 1) - qcW lo := by have := qcW_step lo hlo; omega
    obtain ⟨gap, hgapEq⟩ := Int.eq_ofNat_of_zero_le (le_of_lt hgap)
    obtain ⟨r, hr⟩ := Int.eq_ofNat_of_zero_le (show 0 ≤ qcTarget neg num - qcW lo * den by omega)
    have hgd : 0 < gap * den := Nat.mul_pos (by omega) hden
    have hcond : ((qcTarget neg num - qcW lo * den) * 2 ^ 32 < ((d.toNat + 1) * (qcW (lo + 1) - qcW lo).natAbs : Nat) * (den : Int)) ↔
        ¬d.toNat < 2 ^ 32 * r / (gap * den) := by
      rw [hr, hgapEq, Int.natAbs_natCast, not_lt, ← Nat.lt_succ_iff, Nat.div_lt_iff_lt_mul hgd, Nat.succ_eq_add_one, ← Nat.mul_assoc,
        Nat.mul_comm (2 ^ 32) r]
      exact_mod_cast Iff.rfl
    simp only [hcond, show ¬lo = 15 by omega, false_or]
    simp only [hr, hgapEq, Int.toNat_natCast]
    by_cases hzero : qcW lo * (den : Int) = qcTarget neg num
    · have hr0 : r = 0 := by omega
      rw [if_pos hzero, hr0, Nat.mul_zero, Nat.zero_div, if_pos (Nat.not_lt_zero _)]
    · rw [if_neg hzero]
      by_cases hdraw : d.toNat < 2 ^ 32 * r / (gap * den)
      · rw [if_pos hdraw, if_neg (not_not.mpr hdraw)]
      · rw [if_neg hdraw, if_pos hdraw]

end Sys2Proof.Machine
end

section
/-!
SUPPORT. QC4 groups (03 R89): the group scale rounded up, the block codes under it, the code of each element, and the group as a
whole.
-/

namespace Sys2Proof.Machine

/-! ### The group scale -/

theorem roundGrid_up_pos {prec : Nat} {emin : Int} {d : BitVec 32} {num den : Nat} (hnum : num ≠ 0) :
    1 ≤ (roundGrid prec emin .rup d false num den).1 := by
  have hquot {a b : Nat} (ha : a ≠ 0) (h : a % b = 0) : 1 ≤ a / b := by
    have := Nat.div_add_mod a b
    rw [h, Nat.add_zero] at this
    refine Nat.one_le_iff_ne_zero.mpr fun h0 => ha ?_
    rw [← this, h0, Nat.mul_zero]
  simp only [roundGrid, roundUpMag, Bool.not_false, if_true]
  split
  · split
    · next h => exact hquot hnum h
    · exact Nat.le_add_left 1 _
  · split
    · next h => exact hquot (Nat.mul_ne_zero hnum (Nat.two_pow_pos _).ne') h
    · exact Nat.le_add_left 1 _

/-- A magnitude rounded up is at most +∞, and zero just if it is a zero. -/
theorem round_up_magnitude (n : Nat) (e : Int) : Fl.fp32.round .rup 0 (.fin false n e) ≤ Fl.fp32.infCode ∧
    (Fl.fp32.round .rup 0 (.fin false n e) = 0 ↔ n = 0) := by
  obtain ⟨hden, -⟩ := dyadic_ratio n e
  have hnum : (dyadic n e).1 = 0 ↔ n = 0 := by
    unfold dyadic
    split <;> simp
  show Fl.fp32.roundFrac .rup 0 false (dyadic n e).1 (dyadic n e).2 ≤ _ ∧ (Fl.fp32.roundFrac .rup 0 false (dyadic n e).1 (dyadic n e).2 = 0 ↔ _)
  rw [← hnum]
  generalize dyadic n e = q at hden
  unfold Fl.roundFrac
  by_cases h0 : q.1 = 0
  · simp [h0, Fl.withSign]
  · have hpos := roundGrid_up_pos (prec := Fl.fp32.prec) (emin := Fl.fp32.emin) (d := 0) (den := q.2) h0
    simp only [Fl.withSign, Bool.false_eq_true, if_false, h0, iff_false]
    split
    · exact ⟨Nat.le_refl _, by decide⟩
    · next hle =>
      refine ⟨Nat.le_succ_of_le (Nat.not_lt.mp hle), ?_⟩
      unfold Fl.gridCode
      omega

/-- The group scale of a largest magnitude (03 R89). -/
def qcGroup (a : Num) : Nat := if Fl.fp32.round .rup 0 a = 0x7F800000 then 0x7F7FFFFF else Fl.fp32.round .rup 0 a

theorem qcGroup_spec (n : Nat) (e : Int) : qcGroup (.fin false n e) ≤ Fl.fp32.maxCode ∧ (qcGroup (.fin false n e) = 0 ↔ n = 0) := by
  obtain ⟨hle, hzero⟩ := round_up_magnitude n e
  have hinf : Fl.fp32.infCode = 0x7F800000 := rfl
  have hmax : Fl.fp32.maxCode = 0x7F7FFFFF := rfl
  unfold qcGroup
  split
  · next h =>
    rw [h] at hzero
    exact ⟨Nat.le_refl _, by rw [← hzero]; decide⟩
  · exact ⟨by omega, hzero⟩

/-- A group scale is a magnitude. -/
theorem decode_qcGroup {g : Nat} (h : g ≤ Fl.fp32.maxCode) : ∃ m f, Fl.fp32.decode g = .fin false m f ∧ (m = 0 ↔ g = 0) := by
  have hmax : Fl.fp32.maxCode = 0x7F7FFFFF := rfl
  have hinf : Fl.fp32.infCode = 0x7F800000 := rfl
  have hsign : Fl.fp32.signBit = 0x80000000 := rfl
  have hwidth : (2 : Nat) ^ Fl.fp32.width = 0x100000000 := rfl
  have hprec : (2 : Nat) ^ (Fl.fp32.prec - 1) = 0x800000 := rfl
  have hmag : g % 0x80000000 = g := Nat.mod_eq_of_lt (by omega)
  have hcode : g % 0x100000000 = g := Nat.mod_eq_of_lt (by omega)
  simp only [Fl.decode, hinf, hsign, hwidth, hprec, hmag, hcode]
  have hpos : decide (0x80000000 ≤ g) = false := by simp; omega
  rw [hpos, if_neg (by omega), if_neg (by simp; omega)]
  split
  · exact ⟨_, _, rfl, Iff.rfl⟩
  · exact ⟨_, _, rfl, by omega⟩

/-! ### Scales of blocks -/

theorem qcScale_spec {g m : Nat} {f : Int} (h : Fl.fp32.decode g = .fin false m f) (b : Nat) :
    qcScale g b = .fin false (m * (b + 1)) (f + -8) ∧ (qcScale g b).ratio = (Fl.fp32.decode g).ratio * (b + 1) / 256 := by
  have hscale : qcScale g b = .fin false (m * (b + 1)) (f + -8) := by rw [qcScale, h]; rfl
  refine ⟨hscale, ?_⟩
  rw [hscale, h]
  simp only [Num.ratio, Bool.false_eq_true, if_false, Nat.cast_mul, Nat.cast_add, Nat.cast_one, zpow_add₀ (two_ne_zero (α := ℚ))]
  norm_num
  ring

/-- The scale of a block code holds a magnitude, in integers. -/
theorem le_qcScale {g m : Nat} {f : Int} (hg : Fl.fp32.decode g = .fin false m f) (n : Nat) (e : Int) (b : Nat) :
    (Num.fin false n e).ratio ≤ (qcScale g b).ratio ↔
      256 * (dyadic n e).1 * (dyadic m f).2 ≤ (b + 1) * ((dyadic n e).2 * (dyadic m f).1) := by
  obtain ⟨hq, hvalue⟩ := dyadic_ratio n e
  obtain ⟨hu, hgroup⟩ := dyadic_ratio m f
  have hqQ : (0 : ℚ) < (dyadic n e).2 := by exact_mod_cast hq
  have huQ : (0 : ℚ) < (dyadic m f).2 := by exact_mod_cast hu
  rw [(qcScale_spec hg b).2, hg, ← hvalue, ← hgroup, div_mul_eq_mul_div, div_div, div_le_div_iff₀ hqQ (by positivity),
    ← Nat.cast_le (α := ℚ)]
  push_cast
  constructor <;> intro h <;> linarith

/-- The least `b` below 256 with `a` at most `b + 1` times `d`, or 255. -/
theorem min_cdiv_least (a : Nat) {d b : Nat} (hd : 0 < d) (hb : b = min 255 (cdiv a d - 1)) :
    b ≤ 255 ∧ (b = 255 ∨ a ≤ (b + 1) * d) ∧ (b = 0 ∨ b * d < a) := by
  have hdiv := Nat.div_add_mod (a + d - 1) d
  have hmod := Nat.mod_lt (a + d - 1) hd
  rw [cdiv] at hb
  generalize (a + d - 1) / d = c at hb hdiv
  rw [Nat.mul_comm] at hdiv
  refine ⟨by omega, or_iff_not_imp_left.mpr fun h255 => ?_, or_iff_not_imp_left.mpr fun h0 => ?_⟩
  · have := Nat.mul_le_mul_right d (show c ≤ b + 1 by omega)
    omega
  · have := Nat.mul_le_mul_right d (show b + 1 ≤ c by omega)
    rw [Nat.succ_mul] at this
    omega

/-- The block code is the least whose scale holds the largest magnitude, if one does. -/
theorem qcBlock_spec {g m n : Nat} {f e : Int} (hg : Fl.fp32.decode g = .fin false m f) (hm : m ≠ 0) :
    let b := qcBlock g (.fin false n e)
    b ≤ 255 ∧ (b = 255 ∨ (Num.fin false n e).ratio ≤ (qcScale g b).ratio) ∧
      (b = 0 ∨ (qcScale g (b - 1)).ratio < (Num.fin false n e).ratio) := by
  have hq := (dyadic_ratio n e).1
  have hr : (dyadic m f).1 ≠ 0 := by unfold dyadic; split <;> simp [hm]
  have hb : qcBlock g (.fin false n e) =
      min 255 (cdiv (256 * (dyadic n e).1 * (dyadic m f).2) ((dyadic n e).2 * (dyadic m f).1) - 1) := by
    simp only [qcBlock, hg, if_neg hm]
  obtain ⟨h255, hholds, hleast⟩ := min_cdiv_least _ (Nat.mul_pos hq (Nat.pos_of_ne_zero hr)) hb
  refine ⟨h255, hholds.imp_right (le_qcScale hg n e _).mpr, or_iff_not_imp_left.mpr fun h0 => ?_⟩
  rw [← not_le, le_qcScale hg, Nat.sub_add_cancel (Nat.one_le_iff_ne_zero.mpr h0), not_le]
  exact hleast.resolve_left h0

/-! ### Codes of elements -/

theorem Num.ratio_nat (n : Nat) : (Num.fin false n 0).ratio = n := by simp [Num.ratio]

theorem Num.ratio_two_pow (k : Nat) : (Num.fin false 1 k).ratio = 2 ^ k := by simp [Num.ratio]

/-- An element by its scale: its sign, and its magnitude over the scale as a fraction. -/
structure OverScale (x t : Num) (neg : Bool) (num den : Nat) : Prop where
  fin : x.isFin = true
  scale : ∃ m f, t = .fin false m f
  pos : 0 < t.ratio
  denPos : 0 < den
  value : x.ratio * 128 * (den : ℚ) = t.ratio * (qcTarget neg num : ℚ)
  sign : x.isNeg = neg
  zero : x.isZero = true → num = 0

section
variable {x t : Num} {neg : Bool} {num den : Nat}

/-- A codebook value under a scale. -/
theorem qcAt_ratio (h : OverScale x t neg num den) (b : Nat) :
    ((Num.fin (decide (b < 8)) (qcW b).natAbs 0).mul t).isFin = true ∧
      (b < 16 → ((Num.fin (decide (b < 8)) (qcW b).natAbs 0).mul t).ratio = qcW b * t.ratio) := by
  obtain ⟨m, f, ht⟩ := h.scale
  have hfin : t.isFin = true := by rw [ht]; rfl
  refine ⟨Num.isFin_mul rfl hfin, fun hb => ?_⟩
  rw [Num.ratio_mul rfl hfin]
  congr 1
  interval_cases b <;> simp [Num.ratio, qcW, qcMags]

/-- The target of the codes of an element: 128 times its value. -/
theorem qcTarget_ratio (h : OverScale x t neg num den) :
    (x.mul (.fin false 1 7)).isFin = true ∧ (x.mul (.fin false 1 7)).ratio = t.ratio / den * qcTarget neg num := by
  have hden : (den : ℚ) ≠ 0 := by exact_mod_cast h.denPos.ne'
  refine ⟨Num.isFin_mul h.fin rfl, ?_⟩
  rw [Num.ratio_mul h.fin rfl, div_mul_eq_mul_div, ← h.value]
  simp only [Num.ratio, Bool.false_eq_true, if_false]
  field_simp
  norm_num

/-- How far a code lies from the element. -/
theorem qcDist_ratio (h : OverScale x t neg num den) {b : Nat} (hb : b < 16) : (qcDist x t b).isFin = true ∧
    (qcDist x t b).ratio = t.ratio / den * (|qcW b * den - qcTarget neg num| : Int) := by
  have hden : (0 : ℚ) < den := by exact_mod_cast h.denPos
  obtain ⟨hyfin, hy⟩ := qcTarget_ratio h
  obtain ⟨hafin, ha⟩ := qcAt_ratio h b
  obtain ⟨hsfin, hs⟩ := sumExact_two false hafin (Num.isFin_neg hyfin)
  refine ⟨Num.isFin_abs hsfin, ?_⟩
  have hpos : 0 < t.ratio / den := div_pos h.pos hden
  rw [qcDist, Num.ratio_abs hsfin, hs, Num.ratio_neg, hy, ha hb, Int.cast_abs, ← abs_of_pos hpos, ← abs_mul, abs_of_pos hpos]
  congr 1
  push_cast
  field_simp
  ring

/-- A code lies above the element's value as its weight lies above the target. -/
theorem qcLt_at (h : OverScale x t neg num den) {b : Nat} (hb : b < 16) :
    Num.lt (x.mul (.fin false 1 7)) ((Num.fin (decide (b < 8)) (qcW b).natAbs 0).mul t) = true ↔ qcTarget neg num < qcW b * den := by
  have hden : (0 : ℚ) < den := by exact_mod_cast h.denPos
  obtain ⟨hyfin, hy⟩ := qcTarget_ratio h
  obtain ⟨hafin, ha⟩ := qcAt_ratio h b
  rw [Num.lt_ratio hyfin hafin, hy, ha hb, div_mul_eq_mul_div, div_lt_iff₀ hden, mul_comm (qcW b : ℚ), mul_assoc,
    mul_lt_mul_iff_of_pos_left h.pos]
  exact_mod_cast Iff.rfl

/-- The stochastic code is one of the two neighbours. -/
theorem qcStochastic_picks (d : BitVec 32) (h : OverScale x t neg num den) : QcPicks .sr d x t (qcStochastic d neg num den) := by
  have hden : (0 : ℚ) < den := by exact_mod_cast h.denPos
  have hunit : 0 < t.ratio / den := div_pos h.pos hden
  obtain ⟨hyfin, hy⟩ := qcTarget_ratio h
  obtain ⟨hlow, hhigh, hmid⟩ := qcStochastic_spec d neg (num := num) h.denPos
  have hlt (b : Nat) (hb : b < 16) := qcLt_at h hb
  have hge (b : Nat) (hb : b < 16) : Num.lt (x.mul (.fin false 1 7)) ((Num.fin (decide (b < 8)) (qcW b).natAbs 0).mul t) = false ↔
      qcW b * den ≤ qcTarget neg num := by rw [← Bool.not_eq_true, hlt b hb, not_lt]
  refine ⟨?_, fun hne => absurd rfl hne, fun _ => ⟨fun h0 => hlow ((hlt 0 (by decide)).mp h0),
    fun h15 => hhigh ((hge 15 (by decide)).mp h15), fun lo hlo hle hgt => ?_⟩⟩
  · by_cases h0 : qcTarget neg num < qcW 0 * den
    · rw [hlow h0]
      decide
    · by_cases h15 : qcW 15 * den ≤ qcTarget neg num
      · rw [hhigh h15]
        decide
      · obtain ⟨lo, hlo, hle, hgt⟩ : ∃ lo, lo < 15 ∧ qcW lo * den ≤ qcTarget neg num ∧ qcTarget neg num < qcW (lo + 1) * den := by
          by_contra hno
          have hall (k : Nat) (hk : k ≤ 15) : qcW k * den ≤ qcTarget neg num := by
            induction k with
            | zero => exact not_lt.mp h0
            | succ k ih => exact not_lt.mp fun hlt => hno ⟨k, by omega, ih (by omega), hlt⟩
          exact h15 (hall 15 (Nat.le_refl _))
        rw [hmid lo hlo hle hgt]
        split <;> omega
  · rw [hmid lo hlo ((hge lo (by omega)).mp hle) ((hlt (lo + 1) (by omega)).mp hgt)]
    refine if_congr ?_ rfl rfl
    obtain ⟨hafin, ha⟩ := qcAt_ratio h lo
    obtain ⟨hsfin, hs⟩ := sumExact_two false hyfin (Num.isFin_neg hafin)
    obtain ⟨m, f, ht⟩ := h.scale
    have htfin : t.isFin = true := by rw [ht]; rfl
    rw [Num.lt_ratio (Num.isFin_mul hsfin rfl) (Num.isFin_mul rfl htfin), Num.ratio_mul hsfin rfl, Num.ratio_mul rfl htfin, hs,
      Num.ratio_neg, hy, ha (by omega), Num.ratio_nat, show (Num.fin false 1 32).ratio = 2 ^ 32 from Num.ratio_two_pow 32]
    have hleft : (t.ratio / den * qcTarget neg num + -(qcW lo * t.ratio)) * 2 ^ 32 =
        t.ratio / den * (((qcTarget neg num - qcW lo * den) * 2 ^ 32 : Int) : ℚ) := by
      push_cast
      field_simp
      ring
    have hright : (((d.toNat + 1) * (qcW (lo + 1) - qcW lo).natAbs : Nat) : ℚ) * t.ratio =
        t.ratio / den * (((((d.toNat + 1) * (qcW (lo + 1) - qcW lo).natAbs : Nat) : Int) * den : Int) : ℚ) := by
      rw [Int.cast_mul, Int.cast_natCast, Int.cast_natCast]
      field_simp
    rw [hleft, hright, mul_lt_mul_iff_of_pos_left hunit, Int.cast_lt]

/-- The nearest code in the other modes. -/
theorem qcNearest_picks {rm : Rnd} (hrm : rm ≠ .sr) (d : BitVec 32) (h : OverScale x t neg num den) :
    QcPicks rm d x t (qcNearest neg num den) := by
  have hden : (0 : ℚ) < den := by exact_mod_cast h.denPos
  have hunit : 0 < t.ratio / den := div_pos h.pos hden
  obtain ⟨hlt, hzero, hnear⟩ := qcNearest_spec neg (num := num) h.denPos
  refine ⟨hlt, fun _ => ⟨fun h0 => by rw [h.sign]; exact hzero (h.zero h0), fun b hb => ?_⟩, fun hsr => absurd hsr hrm⟩
  obtain ⟨hle, htie⟩ := hnear b hb
  obtain ⟨hbfin, hbr⟩ := qcDist_ratio h hb
  obtain ⟨hcfin, hcr⟩ := qcDist_ratio h hlt
  refine ⟨?_, fun heq => htie ?_⟩
  · rw [Num.lt_false_ratio hbfin hcfin, hbr, hcr, mul_le_mul_iff_of_pos_left hunit, Int.cast_le]
    exact hle
  · rw [Num.eqv_ratio hbfin hcfin, hbr, hcr] at heq
    exact_mod_cast (mul_left_cancel₀ hunit.ne' heq).symm

/-- The nearest code, or in SR mode one of the two neighbours. -/
def qcSelect (rm : Rnd) (d : BitVec 32) (neg : Bool) (num den : Nat) : Nat :=
  if rm = .sr then qcStochastic d neg num den else qcNearest neg num den

theorem qcSelect_picks (rm : Rnd) (d : BitVec 32) (h : OverScale x t neg num den) : QcPicks rm d x t (qcSelect rm d neg num den) := by
  unfold qcSelect
  split
  · next hrm =>
    rw [hrm]
    exact qcStochastic_picks d h
  · next hrm => exact qcNearest_picks hrm d h

end

/-- The code of an element under its block's scale, or under one where the group is zero (03 R89). -/
theorem qcCode_picks (rm : Rnd) (d : BitVec 32) {x : Num} {m : Nat} {f : Int} (hx : x.isFin = true) :
    QcPicks rm d x (if m = 0 then .fin false 1 0 else .fin false m f) (qcCode rm d x (.fin false m f)) := by
  obtain ⟨neg, n, e, rfl⟩ := Num.isFin_iff.mp hx
  obtain ⟨hq, hvalue⟩ := dyadic_ratio n e
  obtain ⟨hu, hscale⟩ := dyadic_ratio m f
  have hqQ : ((dyadic n e).2 : ℚ) ≠ 0 := by exact_mod_cast hq.ne'
  have huQ : ((dyadic m f).2 : ℚ) ≠ 0 := by exact_mod_cast hu.ne'
  have hzero : (Num.fin neg n e).isZero = true → (dyadic n e).1 = 0 := by
    intro h
    have hn : n = 0 := by simpa [Num.isZero] using h
    rw [hn]
    unfold dyadic
    split <;> simp
  have hratio : (Num.fin neg n e).ratio = if neg then -(((dyadic n e).1 : ℚ) / (dyadic n e).2) else ((dyadic n e).1 : ℚ) / (dyadic n e).2 := by
    rw [hvalue]
    cases neg <;> simp [Num.ratio]
  by_cases hm : m = 0
  · have hcode : qcCode rm d (.fin neg n e) (.fin false m f) = qcSelect rm d neg (dyadic n e).1 (dyadic n e).2 := by
      simp only [qcCode, hm, if_true]
      rfl
    rw [if_pos hm, hcode]
    refine qcSelect_picks rm d ⟨rfl, ⟨_, _, rfl⟩, by simp [Num.ratio], hq, ?_, rfl, hzero⟩
    rw [hratio]
    cases neg <;> simp [Num.ratio, qcTarget] <;> field_simp
  · have hcode : qcCode rm d (.fin neg n e) (.fin false m f) =
        qcSelect rm d neg ((dyadic n e).1 * (dyadic m f).2) ((dyadic n e).2 * (dyadic m f).1) := by
      simp only [qcCode, if_neg hm]
      rfl
    have hr : 0 < (dyadic m f).1 := by
      have : (dyadic m f).1 ≠ 0 := by unfold dyadic; split <;> simp [hm]
      omega
    have hrQ : ((dyadic m f).1 : ℚ) ≠ 0 := by exact_mod_cast hr.ne'
    rw [if_neg hm, hcode]
    refine qcSelect_picks rm d ⟨rfl, ⟨_, _, rfl⟩, ?_, Nat.mul_pos hq hr, ?_, rfl, fun h => by rw [hzero h, Nat.zero_mul]⟩
    · rw [← hscale]
      positivity
    · rw [hratio, ← hscale]
      cases neg <;> simp [qcTarget] <;> field_simp

end Sys2Proof.Machine
end

section
/-!
SUPPORT. Lists cut into blocks, and a whole QC4 group (03 R89).
-/

namespace Sys2Proof.Machine

/-! ### Blocks of a list -/

section
variable {α β : Type} {l : Nat}

/-- Block `j` of a list holds its elements from `l * j` on. -/
theorem blocksOf_getElem? (hl : 0 < l) {fuel : Nat} {xs : List α} (h : xs.length ≤ fuel) (j : Nat) :
    (blocksOf l fuel xs)[j]? = if l * j < xs.length then some ((xs.drop (l * j)).take l) else none := by
  induction fuel generalizing xs j with
  | zero => simp [blocksOf, List.length_eq_zero_iff.mp (Nat.le_zero.mp h)]
  | succ fuel ih =>
    unfold blocksOf
    by_cases hx : xs = []
    · simp [hx]
    · have hpos : 0 < xs.length := List.length_pos_iff.mpr hx
      rw [if_neg (by simpa using hx)]
      cases j with
      | zero => simp [hpos]
      | succ j =>
        rw [List.getElem?_cons_succ, ih (by rw [List.length_drop]; omega), List.length_drop, List.drop_drop, Nat.mul_succ,
          Nat.add_comm l]
        exact if_congr (by omega) rfl rfl

/-- Element `i` of blocks each replaced by one of its length. -/
theorem blocksOf_flatten (hl : 0 < l) {G : List α → List β} (hG : ∀ b, (G b).length = b.length) {fuel i : Nat} {xs : List α}
    (h : xs.length ≤ fuel) (hi : i < xs.length) :
    ((blocksOf l fuel xs).map G).flatten[i]? = (G ((xs.drop (l * (i / l))).take l))[i % l]? := by
  induction fuel generalizing xs i with
  | zero => omega
  | succ fuel ih =>
    have hx : xs ≠ [] := List.length_pos_iff.mp (by omega)
    rw [blocksOf, if_neg (by simpa using hx), List.map_cons, List.flatten_cons]
    by_cases hil : i < l
    · rw [List.getElem?_append_left (by rw [hG, List.length_take]; omega), Nat.div_eq_of_lt hil, Nat.mod_eq_of_lt hil, Nat.mul_zero,
        List.drop_zero]
    · have hlen : (G (xs.take l)).length = l := by rw [hG, List.length_take]; omega
      have hdiv : i / l = (i - l) / l + 1 := Nat.div_eq_sub_div hl (by omega)
      rw [List.getElem?_append_right (by omega), hlen, ih (by rw [List.length_drop]; omega) (by rw [List.length_drop]; omega),
        List.drop_drop, hdiv, Nat.mul_succ, Nat.add_comm l, Nat.mod_eq_sub_mod (by omega : l ≤ i)]

/-- They have as many elements together. -/
theorem length_blocksOf_flatten (hl : 0 < l) {G : List α → List β} (hG : ∀ b, (G b).length = b.length) {fuel : Nat} {xs : List α}
    (h : xs.length ≤ fuel) : ((blocksOf l fuel xs).map G).flatten.length = xs.length := by
  induction fuel generalizing xs with
  | zero => simp [blocksOf, List.length_eq_zero_iff.mp (Nat.le_zero.mp h)]
  | succ fuel ih =>
    by_cases hx : xs = []
    · simp [blocksOf, hx]
    · have hpos : 0 < xs.length := List.length_pos_iff.mpr hx
      rw [blocksOf, if_neg (by simpa using hx), List.map_cons, List.flatten_cons, List.length_append, hG, List.length_take,
        ih (by rw [List.length_drop]; omega), List.length_drop]
      omega

end

/-! ### The largest magnitude -/

/-- The largest magnitude is a finite magnitude. -/
theorem maxAbs_magnitude {xs : List Num} (h : ∀ x ∈ xs, x.isFin = true) : ∃ n e, Num.maxAbs xs = .fin false n e := by
  obtain ⟨-, -, -, hzero | ⟨x, hx, hmax⟩⟩ := maxAbs_spec h
  · exact ⟨0, 0, hzero⟩
  · obtain ⟨s, n, e, rfl⟩ := Num.isFin_iff.mp (h x hx)
    exact ⟨n, e, hmax⟩

/-- The group scale is that of an element of the largest magnitude. -/
theorem qcGroup_maxAbs {xs : List Num} (h : ∀ x ∈ xs, x.isFin = true) (hne : xs ≠ []) :
    ∃ a ∈ xs, (∀ x ∈ xs, Num.lt a.abs x.abs = false) ∧ qcGroup (Num.maxAbs xs) = qcGroup a.abs := by
  obtain ⟨hfin, -, hall, -⟩ := maxAbs_spec h
  cases hz : (Num.maxAbs xs).isZero with
  | false =>
    obtain ⟨a, ha, hmax⟩ := maxAbs_mem h hz
    refine ⟨a, ha, fun x hx => ?_, by rw [hmax]⟩
    rw [← hmax, Num.lt_false_ratio hfin (Num.isFin_abs (h x hx)), Num.ratio_abs (h x hx)]
    exact hall x hx
  | true =>
    have hzero := (maxAbs_isZero h).mp hz
    obtain ⟨a, ha⟩ := List.exists_mem_of_ne_nil xs hne
    refine ⟨a, ha, fun x hx => ?_, ?_⟩
    · rw [Num.lt_false_ratio (Num.isFin_abs (h a ha)) (Num.isFin_abs (h x hx)), Num.ratio_abs (h x hx),
        (Num.isZero_ratio (h x hx)).mp (hzero x hx), Num.ratio_abs (h a ha), abs_zero]
      exact abs_nonneg _
    · have hgroup (n : Nat) (e : Int) (hn : n = 0) : qcGroup (.fin false n e) = 0 := (qcGroup_spec n e).2.mpr hn
      obtain ⟨n, e, hmax⟩ := maxAbs_magnitude h
      obtain ⟨s, k, f, rfl⟩ := Num.isFin_iff.mp (h a ha)
      rw [hmax] at hz ⊢
      have hk := hzero _ ha
      simp only [Num.isZero, decide_eq_true_eq] at hz hk
      rw [hgroup n e hz, Num.abs, hgroup k f hk]

/-! ### A group -/

/-- The block code of a block under its group's scale. -/
theorem qcBlock_maxAbs {g : Nat} {xs : List Num} (hg : g ≤ Fl.fp32.maxCode) (h : ∀ x ∈ xs, x.isFin = true)
    (hzero : g = 0 → ∀ x ∈ xs, x.isZero = true) :
    let b := qcBlock g (Num.maxAbs xs)
    b ≤ 255 ∧ (b = 255 ∨ ∀ x ∈ xs, Num.lt (qcScale g b) x.abs = false) ∧
      (b = 0 ∨ ∃ x ∈ xs, Num.lt (qcScale g (b - 1)) x.abs = true) := by
  obtain ⟨m, f, hdec, hm⟩ := decode_qcGroup hg
  obtain ⟨n, e, hmax⟩ := maxAbs_magnitude h
  obtain ⟨hfin, -, hall, hfrom⟩ := maxAbs_spec h
  have hscaleFin (b : Nat) : (qcScale g b).isFin = true := by rw [(qcScale_spec hdec b).1]; rfl
  have hscale (b : Nat) : 0 ≤ (qcScale g b).ratio := by
    rw [(qcScale_spec hdec b).1]
    simp only [Num.ratio, Bool.false_eq_true, if_false]
    positivity
  have hle {x : Num} (hx : x ∈ xs) {b : Nat} : Num.lt (qcScale g b) x.abs = false ↔ |x.ratio| ≤ (qcScale g b).ratio := by
    rw [Num.lt_false_ratio (hscaleFin b) (Num.isFin_abs (h x hx)), Num.ratio_abs (h x hx)]
  by_cases hg0 : g = 0
  · have hb : qcBlock g (Num.maxAbs xs) = 0 := by simp only [qcBlock, hmax, hdec, if_pos (hm.mpr hg0)]
    rw [hb]
    refine ⟨by decide, Or.inr fun x hx => ?_, Or.inl rfl⟩
    rw [hle hx, (Num.isZero_ratio (h x hx)).mp (hzero hg0 x hx), abs_zero]
    exact hscale 0
  · obtain ⟨h255, hholds, hleast⟩ := qcBlock_spec (n := n) (e := e) hdec (mt hm.mp hg0)
    rw [hmax] at hall hfrom ⊢
    refine ⟨h255, hholds.imp_right fun hhold x hx => (hle hx).mpr ((hall x hx).trans hhold), hleast.imp_right fun hlt => ?_⟩
    rcases hfrom with h0 | ⟨x, hx, hfrom⟩
    · rw [h0] at hlt
      exact absurd (hscale _) (not_le.mpr (lt_of_lt_of_eq hlt (by simp [Num.ratio])))
    · refine ⟨x, hx, ?_⟩
      rw [Num.lt_ratio (hscaleFin _) (Num.isFin_abs (h x hx)), ← hfrom]
      exact hlt

/-- The code of an element under the scale of its block. -/
theorem qcCode_group {g : Nat} (hg : g ≤ Fl.fp32.maxCode) (rm : Rnd) (d : BitVec 32) {x : Num} (hx : x.isFin = true) (b : Nat) :
    QcPicks rm d x (if g = 0 then .fin false 1 0 else qcScale g b) (qcCode rm d x (qcScale g b)) := by
  obtain ⟨m, f, hdec, hm⟩ := decode_qcGroup hg
  rw [(qcScale_spec hdec b).1]
  have hiff : g = 0 ↔ m * (b + 1) = 0 := by rw [← hm]; simp
  simp only [hiff]
  exact qcCode_picks rm d hx

/-- The codes of a group without its checks for non-finite values. -/
theorem qcEncode_finite {rm : Rnd} {ds : List (BitVec 32)} {xs : List Num} (h : ∀ x ∈ xs, x.isFin = true) :
    qcEncode rm ds xs = (qcGroup (Num.maxAbs xs), (blocksOf 64 xs.length xs).map (fun b => qcBlock (qcGroup (Num.maxAbs xs)) (Num.maxAbs b)),
      List.zipWith (fun d p => qcCode rm d p.1 p.2) ds
        (xs.zip ((blocksOf 64 xs.length xs).map (fun b =>
          b.map (fun _ => qcScale (qcGroup (Num.maxAbs xs)) (qcBlock (qcGroup (Num.maxAbs xs)) (Num.maxAbs b))))).flatten)) := by
  have hno : ¬ xs.any (fun x => !x.isFin) = true := by
    rw [any_notFin]
    rintro ⟨x, hx, hbad⟩
    rw [h x hx] at hbad
    cases hbad
  unfold qcEncode
  simp only [if_neg hno, List.zipWith_map_left, List.zipWith_self]
  rfl

theorem qcEncode_is (rm : Rnd) (ds : List (BitVec 32)) (xs : List Num) :
    QcIs rm ds xs (qcEncode rm ds xs).1 (qcEncode rm ds xs).2.1 (qcEncode rm ds xs).2.2 := by
  refine ⟨fun hbad => ?_, fun hfin hne => ?_⟩
  · simp only [qcEncode, if_pos (any_notFin.mpr hbad)]
    refine ⟨rfl, fun b hb => ?_, fun c hc => ?_⟩
    · obtain ⟨-, -, rfl⟩ := List.mem_map.mp hb
      rfl
    · obtain ⟨-, -, rfl⟩ := List.mem_map.mp hc
      rfl
  · obtain ⟨n, e, hmax⟩ := maxAbs_magnitude hfin
    obtain ⟨hg, hg0⟩ := qcGroup_spec n e
    rw [← hmax] at hg hg0
    have hblock {j : Nat} : ∀ x ∈ (xs.drop (64 * j)).take 64, x ∈ xs := fun x hx => List.mem_of_mem_drop (List.mem_of_mem_take hx)
    have hzero (h0 : qcGroup (Num.maxAbs xs) = 0) : ∀ x ∈ xs, x.isZero = true :=
      (maxAbs_isZero hfin).mp (by rw [hmax, Num.isZero, hg0.mp h0]; rfl)
    rw [qcEncode_finite hfin]
    refine ⟨qcGroup_maxAbs hfin hne, fun j b hb => ?_, fun i x d hx hd => ?_⟩
    · rw [List.getElem?_map, blocksOf_getElem? (by decide) (Nat.le_refl _)] at hb
      split at hb
      · obtain rfl := Option.some.inj hb
        exact qcBlock_maxAbs hg (fun x hx => hfin x (hblock x hx)) (fun h0 x hx => hzero h0 x (hblock x hx))
      · cases hb
    · obtain ⟨hi, hxi⟩ := List.getElem?_eq_some_iff.mp hx
      have hmod : i % 64 < ((xs.drop (64 * (i / 64))).take 64).length := by
        rw [List.length_take, List.length_drop]
        omega
      have hblocks : ((blocksOf 64 xs.length xs).map (fun b => qcBlock (qcGroup (Num.maxAbs xs)) (Num.maxAbs b)))[i / 64]? =
          some (qcBlock (qcGroup (Num.maxAbs xs)) (Num.maxAbs ((xs.drop (64 * (i / 64))).take 64))) := by
        rw [List.getElem?_map, blocksOf_getElem? (by decide) (Nat.le_refl _), if_pos (by omega)]
        rfl
      have hscales := blocksOf_flatten (l := 64) (G := fun b => b.map (fun _ =>
        qcScale (qcGroup (Num.maxAbs xs)) (qcBlock (qcGroup (Num.maxAbs xs)) (Num.maxAbs b)))) (by decide) (fun b => List.length_map _)
        (Nat.le_refl _) hi
      rw [List.getElem?_map, List.getElem?_eq_getElem hmod] at hscales
      exact ⟨_, _, hblocks, List.getElem?_zipWith_eq_some.mpr ⟨d, (x, _), hd, List.getElem?_zip_eq_some.mpr ⟨hx, hscales⟩, rfl⟩,
        qcCode_group hg rm d (hfin x (List.mem_of_getElem? hx)) _⟩

end Sys2Proof.Machine
end

section
/-!
SUPPORT. Operations of form VQ (06 R193 to R197): their fields, their operands as functions of the element, the destinations they
write in turn, and the record of one that feeds a Calender entry.
-/

namespace Sys2Proof.Machine

variable {s u v t : State} {i : Instr} {f : VQ}

/-! ### Lists of equal blocks -/

section
variable {α : Type} {l : Nat}

theorem flatMap_range (l m : Nat) (p : Nat → Nat → α) :
    (List.range m).flatMap (fun k => (List.range l).map (p k)) = (List.range (m * l)).map (fun j => p (j / l) (j % l)) := by
  induction m with
  | zero => simp
  | succ m ih =>
    rw [List.range_succ, List.flatMap_append, List.flatMap_singleton, ih, Nat.succ_mul, List.range_add, List.map_append, List.map_map]
    refine congrArg _ (List.map_congr_left fun j hj => ?_)
    have hlt : j < l := List.mem_range.mp hj
    rw [Function.comp_apply, Nat.mul_comm m, Nat.mul_add_div (by omega), Nat.mul_add_mod, Nat.div_eq_of_lt hlt, Nat.mod_eq_of_lt hlt,
      Nat.add_zero]

/-- Lists of one length in a row: entry `i` of the list `k`. -/
theorem getD_flatMap {m k i : Nat} {p : Nat → List Nat} (hp : ∀ k, (p k).length = l) (hk : k < m) (hi : i < l) :
    ((List.range m).flatMap p).getD (k * l + i) 0 = (p k).getD i 0 := by
  have hrow : p = fun k => (List.range l).map (fun i => (p k).getD i 0) := funext fun k => eq_map_range (hp k) fun _ _ => rfl
  have hin : k * l + i < m * l := by
    have := Nat.mul_le_mul_right l (Nat.succ_le_of_lt hk)
    rw [Nat.succ_mul] at this
    omega
  rw [hrow, flatMap_range, getD_map_range _ hin, Nat.mul_comm k, Nat.mul_add_div (by omega), Nat.mul_add_mod, Nat.div_eq_of_lt hi,
    Nat.mod_eq_of_lt hi, Nat.add_zero, getD_map_range _ hi]

theorem length_flatMap {β : Type} {m : Nat} {p : Nat → List β} (hp : ∀ k, (p k).length = l) : ((List.range m).flatMap p).length = m * l := by
  simp [List.length_flatMap, hp]

theorem blocksOf_range (hl : 0 < l) {m fuel : Nat} (h : m * l ≤ fuel) (p : Nat → α) :
    blocksOf l fuel ((List.range (m * l)).map p) = (List.range m).map (fun k => (List.range l).map (fun i => p (k * l + i))) := by
  induction m generalizing fuel p with
  | zero => cases fuel <;> simp [blocksOf]
  | succ m ih =>
    rw [Nat.succ_mul] at h
    obtain ⟨fuel, rfl⟩ : ∃ n, fuel = n + 1 := ⟨fuel - 1, by omega⟩
    have hsplit : (List.range ((m + 1) * l)).map p = (List.range l).map p ++ (List.range (m * l)).map (fun j => p (l + j)) := by
      rw [Nat.succ_mul, Nat.add_comm, List.range_add, List.map_append, List.map_map]
      rfl
    have hlen : ((List.range l).map p).length = l := by simp
    have hne : ¬((List.range l).map p ++ (List.range (m * l)).map (fun j => p (l + j))).isEmpty = true := by simp; omega
    rw [blocksOf, hsplit, if_neg hne, List.take_left' hlen, List.drop_left' hlen, ih (by omega), List.range_succ_eq_map (n := m), List.map_cons,
      List.map_map]
    refine congrArg₂ _ (List.map_congr_left fun j _ => by rw [Nat.zero_mul, Nat.zero_add]) (List.map_congr_left fun k _ => ?_)
    refine List.map_congr_left fun j _ => ?_
    exact congrArg p (by rw [Nat.succ_mul]; omega)

end

/-! ### Fields that 04 R129 lets pass -/

/-- The fields of a VQ slot that 04 R129 lets pass. -/
theorem vqViol_eq_nil {qc4 rmU calU : Bool} (h : vqViol qc4 rmU calU f = []) : f.w ≠ 3 ∧ (calU = false → f.ce = 0) ∧
    (qc4 = false → s9Fmt f.fmt.toNat = true ∧ f.blk ≠ 0 ∧ f.blk.toNat < 5 ∧ blkLen f.blk.toNat ≤ widthOf f.w / 8) := by
  simp only [vqViol, List.append_eq_nil_iff, viol_eq_nil] at h
  obtain ⟨⟨⟨⟨⟨⟨hused, hw⟩, -⟩, hblk⟩, -⟩, -⟩, hfmt⟩ := h
  simp only [Bool.or_eq_false_iff, Bool.and_eq_false_iff, Bool.not_eq_false', nz_eq_false] at hused
  refine ⟨by simpa using hw, fun hcal => ?_, fun hqc => ?_⟩
  · rcases hused.2 with hyes | hno
    · rw [hcal] at hyes
      cases hyes
    · exact hno.1
  · rw [hqc] at hfmt
    simp only [Bool.false_eq_true, if_false, viol_eq_nil, Bool.or_eq_false_iff, Bool.not_eq_false', beq_eq_false_iff_ne,
      decide_eq_false_iff_not, Nat.not_lt] at hfmt
    obtain ⟨⟨hs9, hne⟩, hlen⟩ := hfmt
    refine ⟨hs9, hne, by simpa using hblk, ?_⟩
    rwa [show widthOf f.w / 8 = 32 * 2 ^ f.w.toNat by unfold widthOf; omega]

/-- A register of FP32 codes holds whole blocks of codes. -/
theorem blkLen_dvd (hw : f.w ≠ 3) (h0 : f.blk ≠ 0) (h5 : f.blk.toNat < 5) (hle : blkLen f.blk.toNat ≤ widthOf f.w / 8) :
    16 ≤ blkLen f.blk.toNat ∧ widthOf f.w / 8 / blkLen f.blk.toNat * blkLen f.blk.toNat = widthOf f.w / 8 := by
  have hpos : 0 < f.blk.toNat := Nat.pos_of_ne_zero fun h => h0 (BitVec.eq_of_toNat_eq h)
  clear h0
  generalize f.blk.toNat = b at *
  rcases widthOf_cases hw with hw | hw | hw <;> rw [hw] at hle ⊢ <;> interval_cases b <;> revert hle <;> decide

/-! ### Operands -/

theorem ringD_vq (hf : formOf i = .vq f) (h : f.dc.toNat ≠ 0) : (s.slotEnv i).o.ringD = f.vd.toNat % 128 := by
  have hone := dst_eq_one h
  simp only [State.slotEnv, freshLatch, hf, hone, if_true, bf, fld, Nat.pow_zero, Nat.div_one, Nat.reducePow]

theorem ringA_vq (hf : formOf i = .vq f) (h : f.ac.toNat ≠ 0) : (s.slotEnv i).o.ringA = f.va.toNat % 128 := by
  have hone := dst_eq_one h
  simp only [State.slotEnv, freshLatch, hf, hone, if_true, bf, fld, Nat.pow_zero, Nat.div_one, Nat.reducePow]

/-- A register or ring slot of the source. -/
theorem part_vq (hf : formOf i = .vq f) (j : Nat) (dst : Bool) :
    (s.slotEnv i).part f.ac.toNat f.va.toNat (s.slotEnv i).o.ringA (widthOf f.w) j dst = s.vBits f.ac.toNat f.va.toNat j (widthOf f.w) dst :=
  part_slotEnv (ringA_vq hf)

/-- The FP32 codes of the source, by element. -/
theorem fp32s_eq (hf : formOf i = .vq f) (r : Nat) : (s.slotEnv i).fp32s f r =
    (List.range (r * (widthOf f.w / 32))).map (s.vqAt f.ac.toNat f.va.toNat (widthOf f.w) 32 false) := by
  unfold Env.fp32s
  simp only [part_vq hf, elems_eq]
  exact flatMap_range _ _ _

/-- Its exact values. -/
theorem decode_fp32s (hf : formOf i = .vq f) (r : Nat) :
    ((s.slotEnv i).fp32s f r).map Fl.fp32.decode = (List.range (r * (widthOf f.w / 32))).map (s.vqIn f) := by
  rw [fp32s_eq hf, List.map_map]
  rfl

/-- The destinations of a free slot can take the results (06 R176). -/
theorem State.VReady.canLand_vq {m : SlotSem} {act : Env → State → State} (h : s.VReady i) (hsem : slotSem i = some m) (hm : m = vqDo i f act)
    (hf : formOf i = .vq f) (hw : f.w ≠ 3) : s.CanLand f.dc.toNat f.vd.toNat (widthOf f.w) (vRegs i).1 := by
  have hring (hdc : f.dc.toNat ≠ 0) : (⟨f.vd.toNat / 128 % 16, f.vd.toNat % 128, (vRegs i).1, widthOf f.w / 8, true⟩ : RingRef) ∈
      vRings i (freshLatch s.me i) := by
    have hbytes : widthOf f.w / 8 = 32 * 2 ^ f.w.toNat := by unfold widthOf; omega
    simp only [vRings, hf, freshLatch, dst_eq_one hdc, if_true, hbytes, bf, fld, Nat.pow_zero, Nat.div_one, Nat.reducePow]
    exact List.mem_append_left _ (List.mem_singleton_self _)
  obtain ⟨hcheck, -, -⟩ := h.free_of hsem (by rw [hm]; rfl)
  rw [hm] at hcheck
  obtain ⟨hoperands, -⟩ := (Option.orElse_eq_none (vCheck i (s.slotEnv i)) _).mp hcheck
  obtain ⟨-, hrings⟩ := (Option.orElse_eq_none (regCheck (s.slotEnv i).c (vRegNames i)) _).mp hoperands
  exact ⟨widthOf_cases hw, fun hdc => pend_of_ready h.ready (List.ne_nil_of_mem (hring hdc)),
    fun hdc => slotsApart_of_check rfl (List.findSome?_eq_none_iff.mp hrings _ (hring hdc))⟩

end Sys2Proof.Machine
end

section
/-!
SUPPORT. What an operation of form VQ completes with: its destinations written, and, where it feeds a Calender entry, its record sent
(06 R193, R197).
-/

namespace Sys2Proof.Machine

variable {s v t : State} {i : Instr} {f : VQ} {gens l : List Nat} {dc vd w n : Nat}

/-! ### Destinations -/

/-- Codes and scales fill two destinations. -/
theorem Wrote.codes {codes scales : Nat} (h : Wrote s v gens f.dc.toNat f.vd.toNat (widthOf f.w) [])
    (hland : s.CanLand f.dc.toNat f.vd.toNat (widthOf f.w) 2) (hf : formOf i = .vq f) :
    Wrote s (v.putCodes (s.slotEnv i) f codes scales) gens f.dc.toNat f.vd.toNat (widthOf f.w) [codes, scales] :=
  (h.part (i := i) (x := codes) hland (by simp) (ringD_vq hf)).part hland (by simp) (ringD_vq hf)

/-- Register `k` of `q` FP32 codes each. -/
def packFp32 (q : Nat) (p : Nat → Nat) (k : Nat) : Nat := packEl 32 ((List.range q).map (fun j => p (k * q + j)))

theorem blocks_packFp32 {q : Nat} (hq : 0 < q) (m : Nat) (p : Nat → Nat) :
    (blocksOf q (m * q) ((List.range (m * q)).map p)).map (packEl 32) = (List.range m).map (packFp32 q p) := by
  rw [blocksOf_range hq (Nat.le_refl _), List.map_map]
  rfl

/-- FP32 codes fill whole destinations. -/
theorem Wrote.fp32s {m : Nat} {p : Nat → Nat} (h : Wrote s v gens f.dc.toNat f.vd.toNat (widthOf f.w) [])
    (hland : s.CanLand f.dc.toNat f.vd.toNat (widthOf f.w) m) (hf : formOf i = .vq f) :
    Wrote s (v.putFp32s (s.slotEnv i) f ((List.range (m * (widthOf f.w / 32))).map p)) gens f.dc.toNat f.vd.toNat (widthOf f.w)
      ((List.range m).map (packFp32 (widthOf f.w / 32) p)) := by
  have hq : 0 < widthOf f.w / 32 := by
    obtain hw | hw | hw := hland.width <;> rw [hw] <;> decide
  have hparts := h.parts (i := i) hland (ringD_vq (s := s) hf) ((List.range m).map (packFp32 (widthOf f.w / 32) p)) (by simp)
  rw [List.nil_append, ← blocks_packFp32 hq, List.zipIdx_map, List.foldl_map] at hparts
  rw [State.putFp32s, List.length_map, List.length_range, ← blocks_packFp32 hq]
  exact hparts

/-- An element of destinations that hold packed FP32 codes. -/
theorem vqAt_packed {m j : Nat} {p : Nat → Nat} (hw : f.w ≠ 3) (hj : j < m * (widthOf f.w / 32))
    (h : ∀ k, k < m → t.vBits f.dc.toNat f.vd.toNat k (widthOf f.w) true = packFp32 (widthOf f.w / 32) p k % 2 ^ widthOf f.w) :
    t.vqAt f.dc.toNat f.vd.toNat (widthOf f.w) 32 true j = p j % 2 ^ 32 := by
  have hq : 0 < widthOf f.w / 32 ∧ 32 * (widthOf f.w / 32) = widthOf f.w := by
    obtain hw | hw | hw := widthOf_cases hw <;> rw [hw] <;> decide
  have hin := Nat.mod_lt j hq.1
  have hle : 32 * (j % (widthOf f.w / 32) + 1) ≤ widthOf f.w := (Nat.mul_le_mul_left 32 hin).trans hq.2.le
  rw [State.vqAt, h _ (Nat.div_lt_of_lt_mul (Nat.mul_comm m _ ▸ hj)), lane_mod _ hle, packFp32, lane_packEl_range _ hin, Nat.mul_comm,
    Nat.div_add_mod]

/-! ### Records -/

theorem Lands.hub_tasks (h : Lands s v dc vd w n) : v.hub = s.hub ∧ v.disp.tasks = s.disp.tasks := by
  unfold Lands at h
  split at h
  · obtain ⟨⟨⟨hhub, -⟩, -, hdisp⟩, -⟩ := h
    exact ⟨hhub, by rw [hdisp]⟩
  · obtain ⟨⟨hhub, -⟩, -, hdisp, -⟩ := h
    exact ⟨hhub, (congrArg Disp.tasks hdisp :)⟩

/-- The writes of destinations do not end or begin a guess. -/
theorem Wrote.guessOf (h : Wrote s v gens dc vd w l) : v.guessOf (v.ctxAt s.ck) = s.guessOf s.me := by
  have htask : (v.ctxAt s.ck).task = s.me.task := (congrArg Ctx.task h.rest : (Ctx.rest _).task = (Ctx.rest _).task)
  rw [State.guessOf, State.taskAt, htask, h.lands.hub_tasks.2]
  rfl

theorem Acting.onHub (h : Acting s v) (hub : Hub) : Acting s { v with hub := hub } := by
  obtain ⟨hbeyond, hissue, hsup, hloops, hpc, hsstep, hafter⟩ := h
  exact ⟨hbeyond.of_ctx rfl rfl rfl rfl rfl rfl rfl rfl (fun _ _ => rfl) rfl, hissue, hsup, hloops, hpc, hsstep, hafter⟩

/-- A record that leaves the context does not touch what the end of the packet looks at. -/
theorem Acting.sendRecord (h : Acting s v) (entry : Nat) (ws : List W64) : Acting s (v.sendRecord s.ck entry ws) := by
  unfold State.sendRecord
  split
  · obtain ⟨hbeyond, hissue, hsup, hloops, hpc, hsstep, hafter⟩ := h
    exact ⟨hbeyond.of_ctx rfl rfl rfl rfl rfl rfl rfl rfl (fun _ _ => rfl) rfl, hissue, hsup, hloops, hpc, hsstep, hafter⟩
  · exact (h.onHub _).onCtx (fun _ => ⟨rfl, rfl, rfl⟩) (fun _ => rfl) fun _ => rfl

/-- Once the packet has ended, the record of an operation outside a guess is on its way. -/
theorem Wrote.sends {entry : Nat} {ws : List W64} (h : Wrote s v gens dc vd w l) (hguess : s.guessOf s.me = none)
    (he : Ends s (v.sendRecord s.ck entry ws) t) :
    (t.ctxAt s.ck).r.noVG = s.me.r.noVG ∧ GoesOn s t ∧ (t.ctxAt s.ck).r.gens = (s.me.r.drawList gens).2.gens ∧
      (∃ u, Sends s t u ⟨s.ck, entry, ws⟩ ∧ Lands s u dc vd w l.length) ∧
      ∀ j, j < l.length → t.vBits dc vd j w true = l.getD j 0 % 2 ^ w := by
  have hsend : v.sendRecord s.ck entry ws =
      ({ v with hub := { v.hub with recs := v.hub.recs ++ [⟨s.ck, entry, ws⟩] } } : State).onCtx s.ck
        (fun c => { c with mem := { c.mem with recs := c.mem.recs + 1 } }) := by
    rw [State.sendRecord, h.guessOf, hguess]
  have hctx : (v.sendRecord s.ck entry ws).ctxAt s.ck =
      { v.ctxAt s.ck with mem := { (v.ctxAt s.ck).mem with recs := (v.ctxAt s.ck).mem.recs + 1 } } := by
    rw [hsend, State.ctxAt_onCtx]
    rfl
  obtain ⟨hbeyond, hmem, hdisp, hhub, hrest, hregs, hgoes⟩ := he
  rw [hctx] at hrest hregs
  have hv : (t.ctxAt s.ck).r.v = (v.ctxAt s.ck).r.v := (congrArg Regs.v hregs : (Regs.noPc _).v = (Regs.noPc _).v)
  have hrv (j : Nat) : (t.ctxAt s.ck).r.rv j = (v.ctxAt s.ck).r.rv j := by rw [Regs.rv, hv]; rfl
  have hnoVG : (t.ctxAt s.ck).r.noVG = (v.ctxAt s.ck).r.noVG := (congrArg (fun r : Regs => { r with v := [], gens := [] }) hregs : _)
  have hres : (t.ctxAt s.ck).resv = (v.ctxAt s.ck).resv := (congrArg Ctx.resv hrest : (Ctx.rest _).resv = (Ctx.rest _).resv)
  have hdisp' : t.disp = v.disp := by rw [hdisp, hsend]; rfl
  have hmem' : t.mem = v.mem := by rw [hmem, hsend]; rfl
  have hhub' : t.hub = { s.hub with recs := s.hub.recs ++ [⟨s.ck, entry, ws⟩] } := by
    rw [hhub, hsend, ← h.lands.hub_tasks.1]
    rfl
  have hrecs : (v.ctxAt s.ck).mem.recs = s.me.mem.recs := (congrArg (fun c => c.mem.recs) h.rest : (Ctx.rest _).mem.recs = (Ctx.rest _).mem.recs)
  refine ⟨hnoVG.trans h.noVG, hgoes, (congrArg Regs.gens hregs : (Regs.noPc _).gens = (Regs.noPc _).gens).trans h.gens,
    ⟨{ t with hub := { t.hub with recs := s.hub.recs } }, ?_, ?_⟩,
    fun j hj => (vBits_ends h.acting.beyond hbeyond hdisp' hrv (hs_of_noVG h.noVG) (hs_of_noVG (hnoVG.trans h.noVG)) hres).trans (h.value j hj)⟩
  · rw [Sends, hguess]
    refine ⟨by rw [hhub'], ?_, ?_, rfl⟩
    · rw [← hrecs]
      exact (congrArg (fun c => c.mem.recs) hrest : (Ctx.rest _).mem.recs = (Ctx.rest _).mem.recs)
    · rw [hrest, ← h.rest]
      rfl
  · exact h.lands.ends (hbeyond.of_ctx rfl rfl rfl rfl rfl rfl rfl rfl (fun _ _ => rfl) rfl) hmem' hdisp'
      (by rw [hhub', h.lands.hub_tasks.1]) hrv

/-! ### Completion -/

/-- An operation that writes its destinations and feeds no Calender entry completes with them written. -/
theorem State.VReady.vqLands {m : SlotSem} {act : Env → State → State} (h : s.VReady i) (hsem : slotSem i = some m) (hm : m = vqDo i f act)
    (hwrote : Wrote s (act (s.slotEnv i) (s.openedFor i)) gens f.dc.toNat f.vd.toNat (widthOf f.w) l) (hce : f.ce = 0) (n : Nat) :
    ∃ t, exec i s = .next t ∧ VQKept s t f l.length n gens ∧
      ∀ j, j < l.length → t.vBits f.dc.toNat f.vd.toNat j (widthOf f.w) true = l.getD j 0 % 2 ^ widthOf f.w := by
  obtain ⟨t, ht, hend⟩ := h.ends hsem (by rw [hm]; rfl) (by rw [hm]; rfl) hwrote.acting
  obtain ⟨hrest, hregs, hgoes, hgens, hlands, hvalue⟩ := hwrote.ends hend
  exact ⟨t, ht, ⟨hregs, hgoes, hgens, by rw [if_pos hce]; exact ⟨hrest, hlands⟩⟩, hvalue⟩

/-- One that may feed a Calender entry completes also with its record sent. -/
theorem State.VReady.vqFeeds {m : SlotSem} {act : Env → State → State} {ws : List W64} (h : s.VReady i) (hsem : slotSem i = some m)
    (hm : m = vqDo i f act) (hact : act (s.slotEnv i) (s.openedFor i) = if f.ce = 1 then v.sendRecord s.ck f.cal.toNat ws else v)
    (hwrote : Wrote s v gens f.dc.toNat f.vd.toNat (widthOf f.w) l) (hcount : ws.head? = some (BitVec.ofNat 64 n)) :
    ∃ t, exec i s = .next t ∧ (f.ce = 0 ∨ s.guessOf s.me = none → VQKept s t f l.length n gens ∧
      ∀ j, j < l.length → t.vBits f.dc.toNat f.vd.toNat j (widthOf f.w) true = l.getD j 0 % 2 ^ widthOf f.w) := by
  by_cases hce : f.ce = 0
  · have hplain : act (s.slotEnv i) (s.openedFor i) = v := by
      rw [hact, hce]
      rfl
    obtain ⟨t, ht, hpost⟩ := h.vqLands hsem hm (hplain ▸ hwrote) hce n
    exact ⟨t, ht, fun _ => hpost⟩
  · have hone : f.ce = 1 := by
      revert hce
      generalize f.ce = c
      revert c
      decide
    rw [if_pos hone] at hact
    obtain ⟨t, ht, hend⟩ := h.ends hsem (by rw [hm]; rfl) (by rw [hm]; rfl) (hact ▸ hwrote.acting.sendRecord f.cal.toNat ws)
    refine ⟨t, ht, fun hguess => ?_⟩
    obtain ⟨hregs, hgoes, hgens, ⟨u, hsends, hlands⟩, hvalue⟩ := hwrote.sends (hguess.resolve_left hce) (hact ▸ hend)
    exact ⟨⟨hregs, hgoes, hgens, by rw [if_neg hce]; exact ⟨ws, u, hcount, hsends, hlands⟩⟩, hvalue⟩

end Sys2Proof.Machine
end

section
/-!
SUPPORT. Quantisation and dequantisation by element (06 R193 to R197).
-/

namespace Sys2Proof.Machine

variable {s : State} {i : Instr} {f : VQ}

theorem draws_length (n : Nat) : (vDraws false n).length = n := by
  rw [vDraws_length]
  rfl

/-- The draws of `n` real positions. -/
theorem opened_draws (s : State) (i : Instr) (rm n : Nat) : ((s.openedFor i).drawsOf (s.slotEnv i).k rm (vDraws false n)).1 =
    (List.range n).map (s.drawAt (srGens rm (vDraws false n))) := by
  have hdraws := (drawsOf_eq rm (vDraws false n) (State.openedFor_ctx (s := s) (i := i)).1).1
  rwa [draws_length] at hdraws

/-! ### Widths -/

theorem fp32_count (hw : f.w ≠ 3) : 4 * (widthOf f.w / 32) = widthOf f.w / 8 ∧ 8 * (widthOf f.w / 32) = widthOf f.w / 4 := by
  rcases widthOf_cases hw with hw | hw | hw <;> rw [hw] <;> decide

/-- A register holds the codes of a block-scaled run of W / 8 elements. -/
theorem s9_fits (hw : f.w ≠ 3) (h : s9Fmt f.fmt.toNat = true) : widthOf f.w / 8 ≤ pkCap (fmtBits f.fmt.toNat) (widthOf f.w) := by
  generalize f.fmt.toNat = fmt at h ⊢
  have hlt : fmt < 18 := by
    simp only [s9Fmt, Bool.or_eq_true, Bool.and_eq_true, decide_eq_true_eq] at h
    omega
  rcases widthOf_cases hw with hw | hw | hw <;> rw [hw] <;> interval_cases fmt <;> revert h <;> decide

/-! ### Blocks -/

theorem s9Encode_bounds (t : CvtTy) (rm : Rnd) (ds : List (BitVec 32)) (xs : List Num) :
    (s9Encode t rm ds xs).1 < 2 ^ 16 ∧ (ds.length = xs.length → (s9Encode t rm ds xs).2.length = xs.length) := by
  unfold s9Encode
  split
  · exact ⟨show _ < 65536 by omega, fun _ => List.length_map _⟩
  · simp only
    split
    · exact ⟨show _ < 65536 by omega, fun _ => List.length_map _⟩
    · obtain ⟨-, hle, -⟩ := s9Scale_spec t (Num.maxAbs xs)
      exact ⟨show _ < 65536 by omega, fun hlen => by simp [hlen]⟩

/-- Block `k` of a quantisation. -/
def State.vqBlock (s : State) (f : VQ) (k : Nat) : Nat × List Nat :=
  let l := blkLen f.blk.toNat
  let gens := srGens f.rm.toNat (vDraws false (widthOf f.w / 8))
  s9Encode (fmtTy f.fmt.toNat) (Rnd.get f.rm.toNat) ((List.range l).map (fun i => s.drawAt gens (k * l + i)))
    ((List.range l).map (fun i => s.vqIn f (k * l + i)))

theorem vqBlock_bounds (k : Nat) : (s.vqBlock f k).1 < 2 ^ 16 ∧ (s.vqBlock f k).2.length = blkLen f.blk.toNat := by
  obtain ⟨hscale, hlen⟩ := s9Encode_bounds (fmtTy f.fmt.toNat) (Rnd.get f.rm.toNat)
    ((List.range (blkLen f.blk.toNat)).map (fun i =>
      s.drawAt (srGens f.rm.toNat (vDraws false (widthOf f.w / 8))) (k * blkLen f.blk.toNat + i)))
    ((List.range (blkLen f.blk.toNat)).map (fun i => s.vqIn f (k * blkLen f.blk.toNat + i)))
  exact ⟨hscale, (hlen (by simp)).trans (by simp)⟩

theorem s9Run_range {l m n : Nat} (hl : 0 < l) (hn : m * l = n) (t : CvtTy) (rm : Rnd) (d : Nat → BitVec 32) (x : Nat → Num) :
    s9Run t l rm ((List.range n).map d) ((List.range n).map x) = (List.range m).map (fun k =>
      s9Encode t rm ((List.range l).map (fun i => d (k * l + i))) ((List.range l).map (fun i => x (k * l + i)))) := by
  subst hn
  rw [s9Run, blocksOf_range hl (by simp), blocksOf_range hl (by simp), zipWith_range]

/-! ### Acts -/

/-- The act of an operation that quantises `n` FP32 values of `r` registers: its draws, its codes and scales, its record. -/
def quantAct (f : VQ) (r n : Nat) (codes scales : List (BitVec 32) → List Num → Nat) (record : List (BitVec 32) → List Num → List W64)
    (e : Env) (u : State) : State :=
  let xs := (e.fp32s f r).map Fl.fp32.decode
  let d := u.drawsOf e.k f.rm.toNat (vDraws false n)
  let v := d.2.putCodes e f (codes d.1 xs) (scales d.1 xs)
  if f.ce = 1 then v.sendRecord e.k f.cal.toNat (record d.1 xs) else v

/-- It completes with its codes and scales written. -/
theorem State.VReady.quantises {m : SlotSem} {r n : Nat} {codes scales : List (BitVec 32) → List Num → Nat}
    {record : List (BitVec 32) → List Num → List W64} {ds : List (BitVec 32)} {xs : List Num} (h : s.VReady i) (hsem : slotSem i = some m)
    (hm : m = vqDo i f (quantAct f r n codes scales record)) (hf : formOf i = .vq f) (hw : f.w ≠ 3) (hregs : (vRegs i).1 = 2)
    (hr : r * (widthOf f.w / 32) = n) (hds : ds = (List.range n).map (s.drawAt (srGens f.rm.toNat (vDraws false n))))
    (hxs : xs = (List.range n).map (s.vqIn f)) (hcount : (record ds xs).head? = some (BitVec.ofNat 64 n)) :
    ∃ t, exec i s = .next t ∧ (f.ce = 0 ∨ s.guessOf s.me = none → VQKept s t f 2 n (srGens f.rm.toNat (vDraws false n)) ∧
      t.vBits f.dc.toNat f.vd.toNat 0 (widthOf f.w) true = codes ds xs % 2 ^ widthOf f.w ∧
      t.vBits f.dc.toNat f.vd.toNat 1 (widthOf f.w) true = scales ds xs % 2 ^ widthOf f.w) := by
  have hland := h.canLand_vq hsem hm hf hw
  rw [hregs] at hland
  have hwrote := (Wrote.drawn s i f.rm.toNat (vDraws false n) f.dc.toNat f.vd.toNat (widthOf f.w)).codes (i := i)
    (codes := codes ds xs) (scales := scales ds xs) hland hf
  obtain ⟨t, ht, hpost⟩ := h.vqFeeds hsem hm (by
    rw [quantAct, opened_draws, decode_fp32s hf, hr, ← hds, ← hxs]
    rfl) hwrote hcount
  refine ⟨t, ht, fun hguess => ?_⟩
  obtain ⟨hkept, hvalue⟩ := hpost hguess
  exact ⟨hkept, hvalue 0 (by simp), hvalue 1 (by simp)⟩

theorem recordOf_head (xs : List (Num × Num)) (c : Nat) : (recordOf xs c).head? = some (BitVec.ofNat 64 xs.length) := rfl

/-! ### Block-scaled quantisation -/

/-- The blocks of a quantisation. -/
def vqntRun (f : VQ) (ds : List (BitVec 32)) (xs : List Num) : List (Nat × List Nat) :=
  s9Run (fmtTy f.fmt.toNat) (blkLen f.blk.toNat) (Rnd.get f.rm.toNat) ds xs

/-- Its record. -/
def vqntRecord (f : VQ) (ds : List (BitVec 32)) (xs : List Num) : List W64 :=
  let t := fmtTy f.fmt.toNat
  let bl := vqntRun f ds xs
  let qs := bl.flatMap (fun x => x.2.map (fun c => scaled t c x.1))
  let lim := bl.flatMap (fun x => x.2.map (fun _ => (s9Val x.1).mul t.max))
  recordOf (xs.zip qs) ((xs.zip lim).filter (fun p => p.1.isFin && p.2.isFin && !p.2.isZero && Num.lt p.2 p.1.abs)).length

theorem semVqnt_eq (f : VQ) : semVqnt f = vqDo (.vqnt f) f (quantAct f 4 (widthOf f.w / 8)
    (fun ds xs => pkPlace (fmtBits f.fmt.toNat) ((vqntRun f ds xs).flatMap (fun x => x.2)))
    (fun ds xs => packEl 16 ((vqntRun f ds xs).map (fun x => x.1))) (vqntRecord f)) := rfl

theorem vqnt_completes (f : VQ) : CompletesV (.vqnt f) fun s t => f.ce = 0 ∨ s.guessOf s.me = none →
    let w := widthOf f.w
    let l := blkLen f.blk.toNat
    let b := fmtBits f.fmt.toNat
    VQKept s t f 2 (w / 8) (srGens f.rm.toNat (vDraws false (w / 8))) ∧ ∀ k, k < w / 8 / l →
      lane 16 (t.vBits f.dc.toNat f.vd.toNat 1 w true) k = (s.vqBlock f k).1 ∧
        ∀ i, i < l → t.vBits f.dc.toNat f.vd.toNat 0 w true / 2 ^ pkOff b (k * l + i) % 2 ^ b = (s.vqBlock f k).2.getD i 0 % 2 ^ b :=
  completesV_of fun s h => by
    obtain ⟨hw, -, hfmt⟩ := vqViol_eq_nil (f := f) h.legal
    obtain ⟨hs9, hblk0, hblk5, hblkle⟩ := hfmt rfl
    obtain ⟨hl, hdvd⟩ := blkLen_dvd hw hblk0 hblk5 hblkle
    have hfits := s9_fits hw hs9
    have hlen (k : Nat) : (s.vqBlock f k).2.length = blkLen f.blk.toNat := (vqBlock_bounds k).2
    have hrun : vqntRun f ((List.range (widthOf f.w / 8)).map (s.drawAt (srGens f.rm.toNat (vDraws false (widthOf f.w / 8)))))
        ((List.range (widthOf f.w / 8)).map (s.vqIn f)) = (List.range (widthOf f.w / 8 / blkLen f.blk.toNat)).map (s.vqBlock f) :=
      s9Run_range (by omega) hdvd _ _ _ _
    obtain ⟨t, ht, hpost⟩ := h.quantises rfl (semVqnt_eq f) rfl hw rfl (fp32_count hw).1 rfl rfl (by
      rw [vqntRecord, recordOf_head, hrun, List.length_zip, List.flatMap_map, length_flatMap (l := blkLen f.blk.toNat) (fun k => by simp [hlen]), hdvd]
      simp)
    refine ⟨t, ht, fun hguess => ?_⟩
    obtain ⟨hkept, hcodes, hscales⟩ := hpost hguess
    rw [hrun, List.flatMap_map] at hcodes
    rw [hrun, List.map_map] at hscales
    refine ⟨hkept, fun k hk => ⟨?_, fun i hi => ?_⟩⟩
    · have hle : 16 * (k + 1) ≤ widthOf f.w := by
        have hcols : blkLen f.blk.toNat * (k + 1) ≤ widthOf f.w / 8 := by
          rw [Nat.mul_comm]
          exact (Nat.mul_le_mul_right _ hk).trans hdvd.le
        have hrows := Nat.mul_le_mul_right (k + 1) hl
        have := Nat.div_le_self (widthOf f.w) 8
        omega
      rw [hscales, lane_mod _ hle, lane_packEl_range _ hk]
      exact Nat.mod_eq_of_lt (vqBlock_bounds k).1
    · have hin : k * blkLen f.blk.toNat + i < widthOf f.w / 8 := by
        have := Nat.mul_le_mul_right (blkLen f.blk.toNat) (Nat.succ_le_of_lt hk)
        rw [hdvd, Nat.succ_mul] at this
        omega
      rw [hcodes, fld_mod _ (pkOff_le (Nat.lt_of_lt_of_le hin hfits)),
        fld_pkPlace (by rw [length_flatMap hlen, hdvd]; exact hin), getD_flatMap hlen hk hi]

/-! ### QC4 quantisation -/

/-- The record of a QC4 quantisation. -/
def vqc4Record (f : VQ) (ds : List (BitVec 32)) (xs : List Num) : List W64 :=
  let y := qcEncode (Rnd.get f.rm.toNat) ds xs
  let qs := y.2.2.zipIdx.map (fun c => qcVal c.1 (y.2.1.getD (c.2 / 64) 0) y.1)
  let ts := (upto (widthOf f.w / 4)).map (fun i => qcScale y.1 (y.2.1.getD (i / 64) 0))
  recordOf (xs.zip qs) ((xs.zip ts).filter (fun p => p.1.isFin && p.2.isFin && !p.2.isZero && Num.lt p.2 p.1.abs)).length

theorem semVqc4_eq (f : VQ) : semVqc4 f = vqDo (.vqc4 f) f (quantAct f 8 (widthOf f.w / 4)
    (fun ds xs => packEl 4 (qcEncode (Rnd.get f.rm.toNat) ds xs).2.2)
    (fun ds xs => packEl 8 (qcEncode (Rnd.get f.rm.toNat) ds xs).2.1 + (qcEncode (Rnd.get f.rm.toNat) ds xs).1 * 2 ^ 32) (vqc4Record f)) := rfl

/-- A group has a code for every element, a block code for every block, and an FP32 scale. -/
theorem qcEncode_bounds (rm : Rnd) {ds : List (BitVec 32)} {xs : List Num} (hlen : ds.length = xs.length) :
    (qcEncode rm ds xs).2.2.length = xs.length ∧ (qcEncode rm ds xs).2.1.length = (blocksOf 64 xs.length xs).length ∧
      (qcEncode rm ds xs).1 < 2 ^ 32 := by
  by_cases hfin : ∀ x ∈ xs, x.isFin = true
  · obtain ⟨n, e, hmax⟩ := maxAbs_magnitude hfin
    obtain ⟨hg, -⟩ := qcGroup_spec n e
    rw [qcEncode_finite hfin, hmax]
    refine ⟨?_, List.length_map _, Nat.lt_of_le_of_lt hg (by decide)⟩
    simp only [List.length_zipWith, List.length_zip, hlen,
      length_blocksOf_flatten (by decide : 0 < 64) (fun b => List.length_map _) (Nat.le_refl xs.length), Nat.min_self]
  · have hbad : ∃ x ∈ xs, x.isFin = false := by simpa using hfin
    simp only [qcEncode, if_pos (any_notFin.mpr hbad)]
    exact ⟨List.length_map _, List.length_map _, by decide⟩

theorem qc4_blocks (hw : f.w ≠ 3) : ∃ m, m ≤ 4 ∧ widthOf f.w / 4 = m * 64 := by
  rcases widthOf_cases hw with hw | hw | hw <;> rw [hw]
  · exact ⟨1, by decide⟩
  · exact ⟨2, by decide⟩
  · exact ⟨4, by decide⟩

/-- The block codes and the group scale are apart in their register. -/
theorem lane_scales {bs : List Nat} {g w k : Nat} (hw : 256 ≤ w) (hbs : bs.length ≤ 4) (hg : g < 2 ^ 32) :
    (k < 4 → lane 8 ((packEl 8 bs + g * 2 ^ 32) % 2 ^ w) k = bs.getD k 0 % 2 ^ 8) ∧
      lane 32 ((packEl 8 bs + g * 2 ^ 32) % 2 ^ w) 1 = g := by
  have hlow : packEl 8 bs < 2 ^ 32 :=
    Nat.lt_of_lt_of_le (packEl_lt 8 bs) (Nat.pow_le_pow_right (by decide) (Nat.mul_le_mul_left 8 hbs))
  refine ⟨fun hk => ?_, ?_⟩
  · rw [lane_mod _ (by omega), ← lane_mod (w := 32) _ (by omega), Nat.add_mul_mod_self_right, Nat.mod_eq_of_lt hlow, lane_packEl]
  · rw [lane_mod _ (by omega), lane, Nat.mul_one, Nat.add_mul_div_right _ _ (Nat.two_pow_pos 32), Nat.div_eq_of_lt hlow, Nat.zero_add,
      Nat.mod_eq_of_lt hg]

/-- The group of a QC4 quantisation. -/
def State.vqGroup (s : State) (f : VQ) : Nat × List Nat × List Nat :=
  let n := widthOf f.w / 4
  qcEncode (Rnd.get f.rm.toNat) ((List.range n).map (s.drawAt (srGens f.rm.toNat (vDraws false n)))) ((List.range n).map (s.vqIn f))

theorem vqc4_completes (f : VQ) : CompletesV (.vqc4 f) fun s t => f.ce = 0 ∨ s.guessOf s.me = none →
    let w := widthOf f.w
    let n := w / 4
    VQKept s t f 2 n (srGens f.rm.toNat (vDraws false n)) ∧
      (∀ i, i < n → lane 4 (t.vBits f.dc.toNat f.vd.toNat 0 w true) i = (s.vqGroup f).2.2.getD i 0 % 16) ∧
      (∀ k, k < n / 64 → lane 8 (t.vBits f.dc.toNat f.vd.toNat 1 w true) k = (s.vqGroup f).2.1.getD k 0 % 256) ∧
      lane 32 (t.vBits f.dc.toNat f.vd.toNat 1 w true) 1 = (s.vqGroup f).1 :=
  completesV_of fun s h => by
    obtain ⟨hw, -, -⟩ := vqViol_eq_nil (f := f) h.legal
    obtain ⟨m, hm, hn⟩ := qc4_blocks hw
    obtain ⟨hcodes, hblocks, hg⟩ : (s.vqGroup f).2.2.length = widthOf f.w / 4 ∧ (s.vqGroup f).2.1.length = m ∧ (s.vqGroup f).1 < 2 ^ 32 := by
      obtain ⟨hcodes, hblocks, hg⟩ := qcEncode_bounds (Rnd.get f.rm.toNat)
        (ds := (List.range (widthOf f.w / 4)).map (s.drawAt (srGens f.rm.toNat (vDraws false (widthOf f.w / 4)))))
        (xs := (List.range (widthOf f.w / 4)).map (s.vqIn f)) (by simp)
      refine ⟨hcodes.trans (by simp), hblocks.trans ?_, hg⟩
      rw [hn, blocksOf_range (by decide) (by simp)]
      simp
    obtain ⟨t, ht, hpost⟩ := h.quantises rfl (semVqc4_eq f) rfl hw rfl (fp32_count hw).2 rfl rfl (by
      rw [vqc4Record, recordOf_head, List.length_zip, List.length_map, List.length_map, List.length_zipIdx, List.length_range]
      exact congrArg (fun k => some (BitVec.ofNat 64 k)) (by rw [show (qcEncode _ _ _).2.2.length = _ from hcodes, Nat.min_self]))
    refine ⟨t, ht, fun hguess => ?_⟩
    obtain ⟨hkept, hcode, hscale⟩ := hpost hguess
    have hwide : 256 ≤ widthOf f.w := by
      rcases widthOf_cases hw with hw | hw | hw <;> rw [hw] <;> decide
    have hlanes (k : Nat) := lane_scales (k := k) hwide (hblocks.le.trans hm) hg
    refine ⟨hkept, fun i hi => ?_, fun k hk => ?_, ?_⟩
    · rw [hcode, lane_mod _ (by omega), lane_packEl]
      rfl
    · rw [hscale]
      exact (hlanes k).1 (by omega)
    · rw [hscale]
      exact (hlanes 0).2

/-! ### Dequantisation -/

section
variable {m : SlotSem} {rm n : Nat} {js : List Nat} {x : Env → List (BitVec 32) → List Nat} {p : Nat → Nat}

/-- An operation that draws and then writes FP32 codes to its destinations completes with them written. -/
theorem State.VReady.dequantises (h : s.VReady i) (hsem : slotSem i = some m)
    (hm : m = vqDo i f fun e u => (u.drawsOf e.k rm js).2.putFp32s e f (x e (u.drawsOf e.k rm js).1)) (hf : formOf i = .vq f) (hw : f.w ≠ 3)
    (hce : f.ce = 0) (hr : (vRegs i).1 * (widthOf f.w / 32) = n)
    (hx : x (s.slotEnv i) ((List.range js.length).map (s.drawAt (srGens rm js))) = (List.range n).map p) (hp : ∀ j, p j < 2 ^ 32) :
    ∃ t, exec i s = .next t ∧ VQKept s t f (vRegs i).1 0 (srGens rm js) ∧
      ∀ j, j < n → t.vqAt f.dc.toNat f.vd.toNat (widthOf f.w) 32 true j = p j := by
  subst hr
  have hwrote := (Wrote.drawn s i rm js f.dc.toNat f.vd.toNat (widthOf f.w)).fp32s (p := p) (h.canLand_vq hsem hm hf hw) hf
  rw [← hx, ← (drawsOf_eq rm js (State.openedFor_ctx (s := s) (i := i)).1).1] at hwrote
  obtain ⟨t, ht, hkept, hvalue⟩ := h.vqLands hsem hm hwrote hce 0
  rw [List.length_map, List.length_range] at hkept hvalue
  refine ⟨t, ht, hkept, fun j hj => ?_⟩
  rw [vqAt_packed hw hj fun k hk => by rw [hvalue k hk, getD_map_range _ hk], Nat.mod_eq_of_lt (hp j)]

end

/-- The FP32 codes of a block-scaled dequantisation, from its environment. -/
def vdqCodes (f : VQ) (e : Env) : List Nat :=
  let w := widthOf f.w
  let codes := pkRead (fmtBits f.fmt.toNat) (w / 8) (e.part f.ac.toNat f.va.toNat e.o.ringA w 0 false)
  let scales := elems 16 (w / 8 / blkLen f.blk.toNat) (e.part f.ac.toNat f.va.toNat e.o.ringA w 1 false)
  codes.zipIdx.map (fun c => Fl.fp32.rne (scaled (fmtTy f.fmt.toNat) c.1 (scales.getD (c.2 / blkLen f.blk.toNat) 0)))

/-- It draws nothing. -/
theorem semVdq_eq (f : VQ) : semVdq f = vqDo (.vdq f) f fun e u => (u.drawsOf e.k 0 []).2.putFp32s e f (vdqCodes f e) := rfl

/-- Element `i` of a block-scaled dequantisation. -/
def State.vdqAt (s : State) (f : VQ) (i : Nat) : Nat :=
  let w := widthOf f.w
  Fl.fp32.round .rne 0 (((fmtTy f.fmt.toNat).dec (s.vBits f.ac.toNat f.va.toNat 0 w false / 2 ^ pkOff (fmtBits f.fmt.toNat) i %
    2 ^ fmtBits f.fmt.toNat)).mul (s9Val (lane 16 (s.vBits f.ac.toNat f.va.toNat 1 w false) (i / blkLen f.blk.toNat))))

theorem vdq_completes (f : VQ) : CompletesV (.vdq f) fun s t => VQKept s t f 4 0 [] ∧
    ∀ i, i < widthOf f.w / 8 → t.vqAt f.dc.toNat f.vd.toNat (widthOf f.w) 32 true i = s.vdqAt f i :=
  completesV_of fun s h => by
    obtain ⟨hw, hce, hfmt⟩ := vqViol_eq_nil (f := f) h.legal
    obtain ⟨-, hblk0, hblk5, hblkle⟩ := hfmt rfl
    obtain ⟨hl, hdvd⟩ := blkLen_dvd hw hblk0 hblk5 hblkle
    refine h.dequantises (x := fun e _ => vdqCodes f e) rfl (semVdq_eq f) rfl hw (hce rfl) (fp32_count hw).1 ?_
      fun j => Fl.round_lt Fl.fp32 _ _ _
    simp only [vdqCodes, part_vq (s := s) (i := .vdq f) rfl, elems_eq, pkRead]
    rw [show upto (widthOf f.w / 8) = List.range _ from rfl, zipIdx_range, List.map_map]
    refine List.map_congr_left fun i hi => ?_
    have hlt : i / blkLen f.blk.toNat < widthOf f.w / 8 / blkLen f.blk.toNat :=
      Nat.div_lt_of_lt_mul (by rw [Nat.mul_comm, hdvd]; exact List.mem_range.mp hi)
    rw [Function.comp_apply, getD_map_range _ hlt]
    rfl

/-- The FP32 codes of a QC4 dequantisation, from its environment and its draws. -/
def vdqc4Codes (f : VQ) (e : Env) (ds : List (BitVec 32)) : List Nat :=
  let w := widthOf f.w
  let codes := elems 4 (w / 4) (e.part f.ac.toNat f.va.toNat e.o.ringA w 0 false)
  let sc := e.part f.ac.toNat f.va.toNat e.o.ringA w 1 false
  List.zipWith (fun d c => Fl.fp32.round (Rnd.get f.rm.toNat) d (qcVal c.1 (fld sc (8 * (c.2 / 64)) 8) (fld sc 32 32))) ds codes.zipIdx

theorem semVdqc4_eq (f : VQ) : semVdqc4 f = vqDo (.vdqc4 f) f fun e u =>
    (u.drawsOf e.k f.rm.toNat (vDraws false (widthOf f.w / 4))).2.putFp32s e f
      (vdqc4Codes f e (u.drawsOf e.k f.rm.toNat (vDraws false (widthOf f.w / 4))).1) := rfl

/-- Element `i` of a QC4 dequantisation. -/
def State.vdqc4At (s : State) (f : VQ) (i : Nat) : Nat :=
  let w := widthOf f.w
  let sc := s.vBits f.ac.toNat f.va.toNat 1 w false
  Fl.fp32.round (Rnd.get f.rm.toNat) (s.drawAt (srGens f.rm.toNat (vDraws false (w / 4))) i)
    (qcVal (lane 4 (s.vBits f.ac.toNat f.va.toNat 0 w false) i) (lane 8 sc (i / 64)) (lane 32 sc 1))

theorem vdqc4_completes (f : VQ) : CompletesV (.vdqc4 f) fun s t =>
    VQKept s t f 8 0 (srGens f.rm.toNat (vDraws false (widthOf f.w / 4))) ∧
      ∀ i, i < widthOf f.w / 4 → t.vqAt f.dc.toNat f.vd.toNat (widthOf f.w) 32 true i = s.vdqc4At f i :=
  completesV_of fun s h => by
    obtain ⟨hw, hce, -⟩ := vqViol_eq_nil (f := f) h.legal
    refine h.dequantises rfl (semVdqc4_eq f) rfl hw (hce rfl) (fp32_count hw).2 ?_ fun j => Fl.round_lt Fl.fp32 _ _ _
    simp only [vdqc4Codes, part_vq (s := s) (i := .vdqc4 f) rfl, elems_eq, draws_length]
    rw [zipIdx_range, zipWith_range]
    rfl

end Sys2Proof.Machine
end

section
open Sys2Proof Sys2Proof.Machine

/-- Settles O27: the encoders of blocks and groups against what 03 R85 and R89 say of them; a quantisation writes the blocks and groups
that they make of its elements, and a dequantisation the values of its codes. -/
theorem vectorQuantisation : Obligations.VectorQuantisation := by
  unfold Obligations.VectorQuantisation
  exact ⟨fun fmt rm ds xs _ => s9Encode_is fmt rm ds xs, fun rm ds xs _ => qcEncode_is rm ds xs, vqnt_completes, vdq_completes,
    vqc4_completes, vdqc4_completes⟩

end

section
/-!
SUPPORT. A tile whose format code names no format (03 R90 gives five): the check of 06 R210 takes it for FP64 complex, whose
elements are 128 bits, and the tile holds 64 bits of each.
-/

namespace Sys2Proof.Machine

/-- A live context with tile 3 clean and of format code 5, and in v1 an element of 128 bits that needs its upper half. -/
def State.tileOfNoFormat : State :=
  { (State.reset.withContext [] {} (.issue 0)).onMe (fun c =>
      { c with r := { c.r with v := [(1, 0x10000000000000000)] }
               mx := { c.mx with nTiles := 32, nBanks := 4, tiles := [(3, { st := .c, fmt := 5 })] } }) with
    agenda := [], issue := { pc := 0x1000000000000, next := 0x100000000000C, starts := [0x1000000000000] } }

/-- `awrow` of v1 to v4 into row 0 of tile 3, as FP64 complex. -/
def rowOfPairs : VR := { mrg := 0, w := 2, et := 13, vd := 3, va := 1, vb := 0, dc := 0, ac := 0, bc := 2, rm := 0, mask := 0, g := 0 }

theorem State.tileOfNoFormat_ready :
    State.tileOfNoFormat.slotReady (.awrow rowOfPairs) = true ∧ State.tileOfNoFormat.slotFree (.awrow rowOfPairs) = true ∧
      (vPoison (.awrow rowOfPairs) (State.tileOfNoFormat.slotEnv (.awrow rowOfPairs))).isNone = true ∧
      State.tileOfNoFormat.endsPlain = true := by decide

/-- Where a tile is no CF64 pair, each of its elements has 64 bits. -/
theorem Ctx.tileEl_lt {c : Ctx} {n : Nat} (i : Nat) (h : (c.tile n).fmt ≠ 4) : c.tileEl n i < 2 ^ 64 := by
  have hword : ((c.tile n).get i).toNat < 2 ^ 64 := ((c.tile n).get i).isLt
  unfold Ctx.tileEl
  split
  · contradiction
  · split <;> omega

end Sys2Proof.Machine
end

section
open Sys2Proof Sys2Proof.Machine

/-- Refutes O30: the clause on `awrow` has no premise that the tile's format is one of the five of 03 R90.  Where the format code
is 5, which no operation sets, the checks take the row for FP64 complex, and the tile keeps the low 64 bits of each element of 128. -/
theorem not_tileRowsAndColumns : ¬ Obligations.TileRowsAndColumns := by
  unfold Obligations.TileRowsAndColumns
  rintro ⟨-, -, awrow_writes, -⟩
  obtain ⟨hready, hfree, hclean, hplain⟩ := State.tileOfNoFormat_ready
  obtain ⟨t, -, hpost⟩ := awrow_writes rowOfPairs _ hready hfree hclean hplain
  obtain ⟨-, -, -, -, -, -, htile, -, hrow⟩ := hpost (by decide) (show State.tileOfNoFormat.me.wholeTile 3 by unfold Ctx.wholeTile; decide)
  have hfmt : ((t.ctxAt State.tileOfNoFormat.ck).tile 3).fmt = 5 := (htile 3 (by decide)).2.trans (by decide)
  have hbound := Ctx.tileEl_lt (c := t.ctxAt State.tileOfNoFormat.ck) (n := 3) 0 (by rw [hfmt]; decide)
  have hvalue : (t.ctxAt State.tileOfNoFormat.ck).tileEl 3 0 = 2 ^ 64 := (hrow 0 (by decide)).trans (by decide +kernel)
  exact absurd hvalue (Nat.ne_of_lt hbound)

end
